-- ==== Sys2Proof/Word.lean ====
section
/-!
DEFINITION. The plain data every other file is written in: the byte, the sparse table and the identifiers of the
units (R17, R389).
-/
namespace Sys2Proof

/-- One byte (R9: the byte at the lowest address holds bits [7:0]). -/
abbrev Byte := BitVec 8

/-- A hardware context (R389), 0 to 4,095. -/
abbrev CtxId := Fin 4096

/-- A Pavilion (R17), 0 to 15. -/
abbrev PavId := Fin 16

/-- A unit path of six 8-bit levels (R329). -/
abbrev UPath := BitVec 48

/-- A sparse table: keys strictly rising; a key that is not listed reads as the table's own default. -/
abbrev Tbl (α : Type) := List (Nat × α)

end Sys2Proof
end

