-- ==== Sys2Proof/Syntax.lean ====
section
/-!
DEFINITION. The commands: one constructor per row of spec/opcode_table.json, with the operands that the row's rule
names. A message row names the ring it is taken from: the message itself stands in host memory (R348, R351). A
tile-program row names the Pavilion and the program register whose queue head it is: the command itself stands in the
Terrace (R200). A port row carries the word, flit, header or beat that the port delivers.
-/
namespace Sys2Proof

/-- A mailbox: the management mailbox or that of a context (R348). -/
inductive Mbox where
  | mgmt
  | ctx (c : CtxId)
  deriving DecidableEq, Repr

/-- The two program registers of a Pavilion, PROGA and PROGB (R487, R488). -/
inductive PSlot where
  | a
  | b
  deriving DecidableEq, Repr

/-- A link port: path 0 to 3 of the Promenade or G-port 0 to 3 (R262, R452). -/
inductive LinkPort where
  | path (p : Fin 4)
  | gport (g : Fin 4)
  deriving DecidableEq, Repr

/-- The commands of spec/opcode_table.json, in the table's order. -/
inductive Instr where
  -- messages on a context's ring (R354)
  | jobSubmit (c : CtxId)
  | ctxResume (c : CtxId)
  | logRead (c : CtxId)
  | regionSet (c : CtxId)
  | winOpen (c : CtxId)
  | winClose (c : CtxId)
  | windowCloseComplete (w : Fin 4096)
  | angleSet (c : CtxId)
  | roleLoad (c : CtxId)
  | landSet (c : CtxId)
  | altQuota (c : CtxId)
  | terGroupMode (c : CtxId)
  | seqCreate (c : CtxId)
  | seqAppend (c : CtxId)
  | copyOnWriteSwap (c : CtxId)
  | seqFork (c : CtxId)
  | seqTruncate (c : CtxId)
  | seqFree (c : CtxId)
  | plotPin (c : CtxId)
  | plotUnpin (c : CtxId)
  | collLaunch (c : CtxId)
  | bandDigest (c : CtxId)
  -- messages on the management ring (R355)
  | attach
  | detach
  | ctxCreate
  | ctxDestroy
  | ctxReattach
  | altConfig
  | bandConfig
  | commCreate
  | commDestroy
  | groveSetPath
  | groveForm
  | groveDissolve
  | seqAdopt
  | seqRelease
  | modeSet
  | coreRestart
  | mregRead
  | mregWrite
  | spdm
  -- accesses of the control window (R443, R471)
  | doorbellWrite (m : Mbox) (hi : Bool) (v : BitVec 64) (be : BitVec 8)
  | mhb (v : BitVec 64)
  | mcfgWrite (v : BitVec 64) (be : BitVec 8)
  | coreRst (v : BitVec 64) (be : BitVec 8)
  | pathEnable (p : Fin 4) (v : BitVec 64) (be : BitVec 8)
  | pathDisable (p : Fin 4) (v : BitVec 64) (be : BitVec 8)
  | pathRstoreWrite (p : Fin 4) (v : BitVec 64) (be : BitVec 8)
  | ctxswCfgWrite (hi : Bool) (v : BitVec 64) (be : BitVec 8)
  | errMaskWrite (v : BitVec 64) (be : BitVec 8)
  | traceCfgWrite (v : BitVec 64) (be : BitVec 8)
  | perfSelWrite (p : PavId) (k : Fin 8) (v : BitVec 64) (be : BitVec 8)
  | dbgTdataRead
  | registerWrite (word : Fin 524288) (v : BitVec 64) (be : BitVec 8)
  -- a Pavilion's programs (R178)
  | programStart (p : PavId)
  | commandDispatch (p : PavId)
  | load (p : PavId) (q : PSlot)
  | mma (p : PavId) (q : PSlot) (arr : Fin 2)
  | drain (p : PavId) (q : PSlot)
  | epi (p : PavId) (q : PSlot)
  | accw (p : PavId) (q : PSlot)
  | part (p : PavId) (q : PSlot)
  | comb (p : PavId) (q : PSlot)
  | maxc (p : PavId) (q : PSlot)
  | fin (p : PavId) (q : PSlot)
  | setq (p : PavId) (q : PSlot)
  | dpro (p : PavId) (q : PSlot)
  | rowp (p : PavId) (q : PSlot)
  | pref (p : PavId) (q : PSlot)
  | zacc (p : PavId) (q : PSlot) (arr : Fin 2)
  | flagclr (p : PavId) (q : PSlot)
  | tokadd (p : PavId) (q : PSlot)
  | wait (p : PavId) (q : PSlot)
  | loop (p : PavId) (q : PSlot)
  | epoch (p : PavId) (q : PSlot)
  | leave (p : PavId) (q : PSlot)
  | end_ (p : PavId) (q : PSlot)
  | commandRetire (p : PavId) (q : PSlot) (num : Nat)
  | remoteTokenArrival (c : CtxId) (role : Fin 4096) (repoch : BitVec 32) (tok : Fin 64) (inc : Fin 256)
      (srole : Fin 4096) (supath : UPath)
  | waitTimeout (p : PavId) (q : PSlot) (queue : Fin 5)
  | jobComplete (c : CtxId) (jobseq : BitVec 32)
  | completionRecordWrite (m : Mbox)
  | irqVectorSend
  | suspend (p : PavId) (q : PSlot)
  | resume (p : PavId)
  | passCheck (p : PavId) (q : PSlot) (arr : Fin 2) (good : Bool)
  -- X-ports, error correction, prefetch (R221, R229, R255)
  | xNarrowRead (port : Fin 4) (c : CtxId) (word : Fin 67108864) (tag : Fin 64)
  | xNarrowWrite (port : Fin 4) (c : CtxId) (word : Fin 67108864) (tag : Fin 64) (widx : Fin 4096)
      (gen : BitVec 32) (data : BitVec 64) (be : BitVec 8)
  | xBlockRead (port : Fin 4) (c : CtxId) (line : Fin 2097152) (lines : Fin 16) (tag : Fin 64)
  | xBlockWrite (port : Fin 4) (c : CtxId) (line : Fin 2097152) (tag : Fin 64) (widx : Fin 4096)
      (gen : BitVec 32) (data : List (BitVec 2048)) (be : List (BitVec 256))
  | patrolScrub (slice : Fin 16) (bank : Fin 64)
  | secdedWriteback (slice : Fin 16) (bank : Fin 64)
  | plotPrefetch (p : PavId) (q : PSlot)
  -- Promenade (R261 to R296)
  | chunkSend (stag : Fin 16384)
  | linkFlitReceive (port : LinkPort) (flit : BitVec 2048)
  | chunkArrival (port : LinkPort) (hdr : BitVec 512)
  | chunkRetire (port : LinkPort) (hdr : BitVec 512) (stream : List Byte)
  | credit (port : LinkPort) (supath : UPath) (rec : BitVec 128)
  | cack (rec : BitVec 128)
  | bounceReceive (hdr : BitVec 512) (rxEpoch : BitVec 32)
  | chunkTimeout (stag : Fin 16384)
  | laneLockGain (p : Fin 4) (lanes : BitVec 16)
  | laneLockLoss (lane : Fin 16)
  | trainTimeout (p : Fin 4) (skew : Bool)
  | helloResend (port : LinkPort)
  | hello (port : LinkPort) (body : BitVec 256)
  | helloAck (port : LinkPort) (body : BitVec 256)
  | helloTimeout (port : LinkPort)
  | secureTimeout (p : Fin 4)
  | retrainTimeout (port : LinkPort)
  | gUpRise (g : Fin 4)
  | gUpFall (g : Fin 4)
  -- groves (R335 to R347): source path of the routing block, grove header, the message's own fields
  | ghello (src : UPath) (hdr : BitVec 128) (crc : BitVec 64) (ninst : BitVec 16) (kind : Bool)
  | gchal (src : UPath) (hdr : BitVec 128) (nonce : BitVec 256)
  | gconf (src : UPath) (hdr : BitVec 128) (chain : List (List Byte)) (sig : BitVec 768)
  | gformed (src : UPath) (hdr : BitVec 128) (ninst : BitVec 16) (cert : List Byte)
  | gfail (src : UPath) (hdr : BitVec 128) (status : BitVec 16) (member : BitVec 16)
  | ghb (src : UPath) (hdr : BitVec 128)
  | ghbSend
  | gfwd (src : UPath) (hdr : BitVec 128) (member : BitVec 16) (kind : BitVec 4) (c : CtxId) (msg : BitVec 512)
      (rest : List Byte)
  | greport (src : UPath) (hdr : BitVec 128) (member : BitVec 16) (kind : BitVec 4) (c : CtxId) (body : List Byte)
  | gack (src : UPath) (hdr : BitVec 128) (gseq : BitVec 32)
  | gackSend (peer : UPath)
  | memberLost (peer : UPath)
  | groveIncomplete
  -- path keys (R411 to R415)
  | kx1 (src : UPath) (body : BitVec 1088)
  | kx2 (src : UPath) (body : BitVec 1088) (chain : List (List Byte)) (sig : BitVec 768)
  | kx3 (src : UPath) (chain : List (List Byte)) (sig : BitVec 768)
  | kdone (src : UPath) (body : BitVec 32)
  | kretire (src : UPath) (body : BitVec 32)
  | kfail (src : UPath) (body : BitVec 32)
  | handshakeTimeout (peer : UPath)
  -- Bandstand (R305 to R324): arrival port, source path of the routing block, header
  | bandJoin (port : LinkPort) (src : UPath) (hdr : BitVec 512)
  | bandData (port : LinkPort) (src : UPath) (hdr : BitVec 512) (stream : List Byte)
  | bandResult (port : LinkPort) (src : UPath) (hdr : BitVec 512) (stream : List Byte)
  | bandReady (port : LinkPort) (src : UPath) (hdr : BitVec 512)
  | bandDecide (port : LinkPort) (src : UPath) (hdr : BitVec 512)
  | bandAbort (port : LinkPort) (src : UPath) (hdr : BitVec 512)
  | bandBusy (port : LinkPort) (src : UPath) (hdr : BitVec 512)
  | bandMap (port : LinkPort) (src : UPath) (hdr : BitVec 512) (stream : List Byte)
  | joinRetry (slot : Fin 64) (rank : Fin 32768)
  | pendingExpiry (cid : Fin 1024) (seq : BitVec 32) (rank : Fin 32768)
  | bandSourceRead (slot : Fin 64) (k : Nat)
  | bandNodeEvaluate (slot : Fin 64) (stage : Fin 5)
  | deadlineExpiry (slot : Fin 64) (stage : Fin 5)
  | collTimeout (slot : Fin 64)
  | outputChunkRetire (slot : Fin 64) (k : Nat)
  | digestFold (cid : Fin 1024)
  -- power (R417 to R434, R457, R458)
  | budget (w : BitVec 64)
  | meas (w : BitVec 64)
  | aclkf (w : BitVec 64)
  | aclkReqRise
  | aclkReqFall
  | leaveGrant
  | powerLoop
  | thermalLoop
  | fcst
  | temp (n : Fin 24)
  | status
  | sensorRead (n : Fin 24) (reading : BitVec 12) (invalid : Bool)
  -- firmware cores and the host (R379 to R387)
  | watchdogExpiry (core : Fin 19)
  | coreRestartComplete (core : Fin 19)
  | heartbeatDeadline
  | graceExpiry (c : CtxId)
  -- M-ports (R445 to R449)
  | mRequestIssue (port : Fin 12)
  | mReadData (port : Fin 12) (tag : Fin 1024) (beat : Fin 4) (data : BitVec 2048) (pois : BitVec 32) (stat : Fin 4)
  | mWriteCompletion (port : Fin 12) (tag : Fin 1024) (stat : Fin 4)
  | mCreditReturn (port : Fin 12) (q : Fin 5) (w : Fin 5)
  -- reset and start-up (R435 to R440)
  | rstNRise (mode : Fin 4) (fwBase : BitVec 28)
  | startUpReady
  | rstNAssert
  | trstN
  -- test access (R465, R466, R507)
  | bypass
  | samplePreload (cells : List Bool)
  | extest
  | idcode
  | ijtagSel
  | mbistTer (fails : Nat)
  | mbistAcc (fails : Nat)
  | mbistFw (fails : Nat)
  | lbist (sigGood : Bool)
  | loopL (group : Fin 4) (fails : Nat)
  | loopG (g : Fin 4) (fails : Nat)
  | powerRemoval
  | pathIdentityKeyConfirm (p : Fin 4)
  deriving DecidableEq, Repr

end Sys2Proof
end

