-- ==== Sys2Proof/Machine/Bits.lean ====
section
/-!
DEFINITION. Bit fields, byte order, checksums and the integer roundings that every unit shares (R9, R39, R268, R275).
-/
namespace Sys2Proof.Machine

/-- Bits [lo + w − 1 : lo] of x (R9). -/
def bits (x lo w : Nat) : Nat := (x >>> lo) % 2 ^ w

/-- Bit lo of x. -/
def bit (x lo : Nat) : Bool := x.testBit lo

/-- x with bits [lo + w − 1 : lo] replaced by v. -/
def setBits (x lo w v : Nat) : Nat := x - (bits x lo w) <<< lo + (v % 2 ^ w) <<< lo

/-- A field of w bits read as two's complement. -/
def sext (w x : Nat) : Int :=
  if x % 2 ^ w < 2 ^ (w - 1) then (x % 2 ^ w : Nat) else ((x % 2 ^ w : Nat) : Int) - (2 ^ w : Nat)

/-- A signed field: bits [lo + w − 1 : lo] of x in two's complement. -/
def sbits (x lo w : Nat) : Int := sext w (bits x lo w)

/-- The w-bit two's complement code of i. -/
def toField (w : Nat) (i : Int) : Nat := (i % ((2 ^ w : Nat) : Int)).toNat

/-- x put into a list before the first element that does not come before it. -/
def insertBy {α : Type} (le : α → α → Bool) (x : α) : List α → List α
  | [] => [x]
  | y :: ys => if le x y then x :: y :: ys else y :: insertBy le x ys

/-- A list in ascending order, equals in the order they stood in. -/
def sortBy {α : Type} (le : α → α → Bool) (xs : List α) : List α := xs.foldr (insertBy le) []

/-- Little-endian bytes as a number (R9). -/
def leNat : List Byte → Nat
  | [] => 0
  | b :: bs => b.toNat + 256 * leNat bs

/-- The low n bytes of x, little-endian (R9). -/
def leBytes : Nat → Nat → List Byte
  | 0, _ => []
  | n + 1, x => BitVec.ofNat 8 x :: leBytes n (x / 256)

/-- Little-endian words of w bytes. -/
def leWords (w : Nat) : Nat → List Byte → List Nat
  | 0, _ => []
  | n + 1, bs => leNat (bs.take w) :: leWords w n (bs.drop w)

/-- A list cut into pieces of k elements, at most `fuel` of them. -/
def cut {α : Type} (k : Nat) : Nat → List α → List (List α)
  | 0, _ => []
  | fuel + 1, xs => if xs.isEmpty then [] else xs.take k :: cut k fuel (xs.drop k)

/-- A reflected CRC of width w over bytes, least significant bit first. -/
def crcReflected (poly : Nat) (crc : Nat) (bs : List Byte) : Nat :=
  bs.foldl (fun c b =>
    (List.range 8).foldl (fun c _ => if c % 2 = 1 then (c / 2) ^^^ poly else c / 2) (c ^^^ b.toNat)) crc

/-- CRC-32C (R268): polynomial 1EDC_6F41h, reflected, initial value and final exclusive OR all ones. -/
def crc32c (bs : List Byte) : Nat := crcReflected 0x82F63B78 0xFFFFFFFF bs ^^^ 0xFFFFFFFF

/-- CRC-64 without reflection, one byte at a time. -/
def crc64Step (crc : Nat) (b : Byte) : Nat :=
  (List.range 8).foldl (fun c _ =>
    if c.testBit 63 then ((c * 2) % 2 ^ 64) ^^^ 0x42F0E1EBA9EA3693 else c * 2) (crc ^^^ (b.toNat <<< 56))

/-- CRC-64 (R275): polynomial 42F0_E1EB_A9EA_3693h, initial value 0, no reflection, no final exclusive OR. -/
def crc64 (bs : List Byte) : Nat := bs.foldl crc64Step 0

/-- n/d rounded to an integer, ties to even. -/
def rneDiv (n d : Nat) : Nat :=
  let q := n / d
  let r := n % d
  if 2 * r > d ∨ (2 * r = d ∧ q % 2 = 1) then q + 1 else q

/-- n/d rounded to an integer, ties to even, for a signed n. -/
def rneInt (n : Int) (d : Nat) : Int :=
  if n < 0 then -((rneDiv n.natAbs d : Nat) : Int) else ((rneDiv n.natAbs d : Nat) : Int)

/-- n/d·2^e rounded to an integer, ties to even. -/
def rneScaled (n : Int) (d : Nat) (e : Int) : Int :=
  if e < 0 then rneInt n (d * 2 ^ e.natAbs) else rneInt (n * (2 ^ e.natAbs : Nat)) d

/-- floor of n/d·2^e. -/
def floorScaled (n : Int) (d : Nat) (e : Int) : Int :=
  if e < 0 then n / ((d * 2 ^ e.natAbs : Nat) : Int) else (n * (2 ^ e.natAbs : Nat)) / (d : Int)

/-- floor(log2(n/d)) for positive n and d. -/
def floorLog2 (n d : Nat) : Int :=
  let k : Int := (n.log2 : Int) - (d.log2 : Int)
  let below : Bool := if k < 0 then decide (n * 2 ^ k.natAbs < d) else decide (n < d * 2 ^ k.natAbs)
  if below then k - 1 else k

/-- ceil(log2 n) for n ≥ 1 (R41). -/
def ceilLog2 (n : Nat) : Nat := if n ≤ 1 then 0 else (n - 1).log2 + 1

/-- The integer square root by bits from bit k down. -/
def sqrtGo (n : Nat) : Nat → Nat → Nat
  | 0, r => r
  | k + 1, r => let c := r + 2 ^ k; sqrtGo n k (if c * c ≤ n then c else r)

/-- floor(sqrt n). -/
def isqrt (n : Nat) : Nat := sqrtGo n (n.log2 / 2 + 1) 0

/-- n/d rounded up. -/
def ceilDiv (n d : Nat) : Nat := (n + d - 1) / d

/-- Cuts n bytes from offset a at every multiple of lim (R273, R292, R446): (offset, length) pairs. -/
def cutAt (lim : Nat) : Nat → Nat → Nat → List (Nat × Nat)
  | 0, _, _ => []
  | fuel + 1, a, n =>
    if n = 0 then []
    else
      let m := Nat.min n (lim - a % lim)
      (a, m) :: cutAt lim fuel (a + m) (n - m)

end Sys2Proof.Machine
end

