-- ==== Sys2Proof/Machine/JobData.lean ====
section
/-!
DEFINITION. The plain data that a job message, its descriptor blocks and its program headers give (R168 to R176,
R352), as admission keeps them, and the completion records they end in (R360 to R368).
-/
namespace Sys2Proof.Machine

/-- A message taken from a ring (R352): generation, member, tag, opcode and the message's 512 bits, the bits beyond
its generation read as 0 (R353). -/
structure Msg where
  gen : Nat
  opc : Nat
  member : Nat
  tag : BitVec 32
  bits : BitVec 512
  deriving DecidableEq, Repr

/-- ATT block (R170). -/
structure Att where
  shape : Nat
  hdim : Nat
  mode : Nat
  splitRound : Nat
  pfeed : Nat
  dsfeed : Nat
  dump : Nat
  dumpFmt : Nat
  combine : Nat
  chainDir : Nat
  dMode : Nat
  dqFmt : Nat
  dkFmt : Nat
  dvFmt : Nat
  dqRopeInv : Nat
  dkRopeInv : Nat
  stight : Nat
  sTightH : Int
  nsplit : Nat
  splitRank : Nat
  chainStart : Nat
  sigma : BitVec 32
  dscale : BitVec 32
  kqDecl : Nat
  deriving DecidableEq, Repr

/-- POS block (R171). -/
structure Pos where
  mask : Nat
  rope : Nat
  ropeSrc : Nat
  ropeSegrel : Nat
  ropeDim : Nat
  qpos0 : Nat
  kpos0 : Nat
  diagOff : Int
  winLeft : Nat
  winRight : Nat
  qvalid : Nat
  kvalid : Nat
  qpad : Nat
  kpad : Nat
  ropeLb : BitVec 32
  ropeFs : BitVec 32
  deriving DecidableEq, Repr

/-- PRO block (R172). -/
structure Pro where
  qual : Nat
  norm : Nat
  affine : Nat
  act : Nat
  ropeOn : Nat
  normLen : Nat
  headCol : Nat
  normEps : BitVec 32
  pscale : BitVec 32
  deriving DecidableEq, Repr

/-- EPI block (R173). -/
structure EpiBlk where
  gmode : Nat
  eact : Nat
  res : Nat
  enorm : Nat
  outFmt : Nat
  rowlen : Nat
  oscale : BitVec 32
  deriving DecidableEq, Repr

/-- STREAM block (R174). -/
structure Stream where
  sid : Nat
  use : Nat
  qual : Nat
  fmt : Nat
  xbnd : Int
  erule : Nat
  tightH : Int
  space : Nat
  base : Nat
  length : Nat
  rstride : Nat
  layer : Nat
  kvg : Nat
  deriving DecidableEq, Repr

/-- One bucket entry (R175). -/
structure BucketEnt where
  kpad : Nat
  ptoff : Nat
  deriving DecidableEq, Repr

/-- A job descriptor (R168, R169). -/
structure Desc where
  jtype : Nat
  nblk : Nat
  sfuset : Nat
  nprog : Nat
  waitDl : Nat
  epoch0 : Nat
  progBase : Nat
  sfuImage : Nat
  att : Option Att
  pos : Option Pos
  pros : List Pro
  epi : Option EpiBlk
  streams : List Stream
  buckets : List BucketEnt
  deriving DecidableEq, Repr

/-- A program table entry with the program's header (R176). -/
structure ProgHdr where
  addr : Nat
  member : Nat
  acc0 : BitVec 16
  acc1 : BitVec 16
  feed : BitVec 16
  pav : Nat
  role : Nat
  ncmd : Nat
  tokExt : BitVec 64
  deriving DecidableEq, Repr

/-- The admission snapshot of one SPACE 2 stream (R250). -/
structure Snap where
  sid : Nat
  seq : Nat
  seqEpoch : BitVec 32
  vlen : Nat
  deriving DecidableEq, Repr

/-- The key of an exception event (R53): JOB, MEMBER, PAV, TPC, ROW, COL, KIND, and the UNIT of R52 beside it. -/
structure EvKey where
  job : Nat
  member : Nat
  pav : Nat
  tpc : Nat
  row : Nat
  col : Nat
  kind : Nat
  unit : Nat
  deriving DecidableEq, Repr

/-- The fault of a halted job (R363, R364). -/
structure JFault where
  status : Nat
  fmember : Nat
  fpav : Nat
  fsid : Nat
  ftpc : Nat
  fdet0 : Nat
  fdet1 : Nat
  deriving DecidableEq, Repr

/-- The parameter store of a job, read once before its first tile (R141): normalisation vectors per (USE, QUAL), the
angle table, the segment table and the SFU image. -/
structure Params where
  vecs : List (Nat × Nat × List (BitVec 32))
  angles : List (BitVec 32)
  seg : List Nat
  image : List Byte
  deriving DecidableEq, Repr

/-- An admitted job (R199, R250): what admission fixed, the counters of its completion record (R51, R363), the token
counters of its programs that have not started (R183), the query rows that MASKED_ROWS counts (R77, R78, R112), the
leader that forwarded it, and at the leader the members that have not reported it and those that have not taken it yet
(R343, R344); whether its halt came from the leader, and whether the leader has passed its halt on. -/
structure Job where
  ctx : Nat
  jobseq : BitVec 32
  tag : BitVec 32
  gen : Nat
  member : Nat
  desc : Desc
  bucket : Nat
  progs : List ProgHdr
  snaps : List Snap
  holds : List Nat
  windows : List Nat
  params : Params
  paramsRead : Bool
  started : List Nat
  ended : List Nat
  fault : Option JFault
  invalid : Nat
  accSat : Nat
  ovfConv : Nat
  repeats : Nat
  maskedRows : Nat
  invFirst : Option EvKey
  oxb : Tbl Int
  preTok : Tbl (Tbl Nat)
  maskedSeen : List Nat
  via : Option (Nat × UPath)
  peers : List Nat
  untaken : List Nat
  halted : Bool
  haltSent : Bool
  deriving DecidableEq, Repr

/-- A completion record waiting to be written, or written (R352, R361): its generation (R362), KIND, STATUS, TAG and
the bits of the MB3 layout from bit 64 on; the slot of the collective that it ends, which its writing frees (R304);
and the mode that its writing sets in force (R377). -/
structure CRec where
  gen : Nat
  kind : Nat
  status : Nat
  tag : BitVec 32
  units : Nat
  body : Nat
  slot : Option Nat
  mode : Option Nat
  deriving DecidableEq, Repr

/-- A message whose effect goes on after it was taken, and whose record comes later: the ring it came from and what the
record needs; `via` names the member and the leader when a grove's leader forwarded the message (R343). -/
structure Waiter where
  mgmt : Bool
  ctx : Nat
  gen : Nat
  opc : Nat
  tag : BitVec 32
  via : Option (Nat × UPath)
  deriving DecidableEq, Repr

end Sys2Proof.Machine
end

