-- ==== Sys2Proof/Machine/UnitState.lean ====
section
/-!
DEFINITION. The plain data of the units: mailboxes, contexts, Terrace, Pavilions, Allotment, Promenade, Bandstand,
groves, power and test. Each structure's docstring names the rules that give the machine that state.
-/
namespace Sys2Proof.Machine

/-- The rings and doorbell of one mailbox (R348 to R351): bases, sizes, the four positions, IEN, the records held for
want of completion-ring space (R361), and the position of the Allotment operation that has passed its checks and waits
(R248). -/
structure Ring where
  sqBase : Nat
  cqBase : Nat
  sqLog2 : Nat
  cqLog2 : Nat
  sqTail : Nat
  sqHead : Nat
  cqHead : Nat
  cqTail : Nat
  ien : Bool
  held : List CRec
  began : Option Nat
  deriving DecidableEq, Repr

/-- Context states of R350. -/
inductive CtxState where
  | free
  | active
  | halted
  | orphan
  | quiescing
  deriving DecidableEq, Repr

/-- A region-table entry (R205); LEN_4K = 0 marks it absent. -/
structure Region where
  base4k : Nat
  len4k : Nat
  fillchk : Bool
  xrd : Bool
  xwr : Bool
  rwin : Bool
  deriving DecidableEq, Repr

/-- A landing entry (R276). -/
structure Landing where
  owner : Nat
  sender : Nat
  place : Nat
  nbufCode : Nat
  acc : Bool
  fillset : Bool
  valid : Bool
  len4k : Nat
  loc4k : Nat
  flag0 : Nat
  flagnM1 : Nat
  epcred : Nat
  deriving DecidableEq, Repr

/-- A role-table entry (R196). -/
structure Role where
  upath : UPath
  pav : Nat
  valid : Bool
  repoch : BitVec 32
  deriving DecidableEq, Repr

/-- An entry of the context exception log (R52), by its key and UNIT. -/
abbrev LogEnt := EvKey

/-- The error status of a context (R484). -/
structure CtxCounts where
  flagRepeat : Nat
  unfilledRead : Nat
  windowClosed : Nat
  windowClass : Nat
  windowRange : Nat
  windowNocredit : Nat
  misroutedIn : Nat
  sqOvf : Nat
  badToken : Nat
  accSat : Nat
  lastHalt : Nat
  halts : Nat
  deriving DecidableEq, Repr

/-- An append that waits for HOLDS to be 0 before it swaps its copies in (R245): the message, the level-2 entry
addresses with their new and old plots, and what the commit then writes. -/
structure AltWait where
  waiter : Waiter
  seq : Nat
  swaps : List (Nat × Nat × Nat)
  newLen : Nat
  newPlen : Nat
  newPlayers : Nat
  deriving DecidableEq, Repr

/-- What a context owns (R389, R390). `haltNow` holds the TIME of the latest halt and the keys of R53 of the halts of
that TCLK (R502). -/
structure Ctx where
  state : CtxState
  ring : Ring
  ivec : Nat
  token : BitVec 64
  grove : Bool
  hifMaj : Nat
  bound : Nat
  haltPending : Bool
  haltNow : BitVec 64 × List (List Nat)
  regions : Tbl Region
  landing : Tbl Landing
  plotLids : List Nat
  flags : BitVec 4096
  roles0 : Tbl Role
  roles1 : Tbl Role
  angles : Tbl (BitVec 32)
  seqLo : Nat
  seqN : Nat
  quota : Nat × Nat × Nat
  use : Nat × Nat × Nat
  pfDepth : Nat
  log : List LogEnt
  logTotal : Nat
  counts : CtxCounts
  jobCount : BitVec 32
  altWait : Option AltWait
  resumeWait : List Waiter
  destroyWait : Option Waiter
  deriving DecidableEq, Repr

/-- The management mailbox and attachment (R349, R375, R384): MDB.STATE, the number of the attachment in force, the
heartbeat limits and the negotiated version and features. -/
structure Mgmt where
  ring : Ring
  en : Bool
  ready : Bool
  mdbState : Nat
  attachNo : Nat
  hbMs : Nat
  graceS : Nat
  hbAt : BitVec 64
  hostId : BitVec 64
  major : Nat
  minor : Nat
  fmask : BitVec 32
  deriving DecidableEq, Repr

/-- A window (R217), with the writes that passed R219 and have not committed, the close that is being completed
(R220), the landing entry it belongs to, and the credits per buffer of a landing (R279). -/
structure Window where
  ctx : Nat
  isOpen : Bool
  fillset : Bool
  wclass : BitVec 4
  gen : BitVec 32
  off4k : Nat
  len4k : Nat
  credits : Nat
  inflight : Nat
  closing : Option Waiter
  landing : Option (Nat × Nat)
  bufCred : Tbl Nat
  retired : Bool
  deriving DecidableEq, Repr

/-- A line held by the cache-mode groups (R225, R226): space 0 stack memory or 1 host memory, line address, 256 bytes,
dirty, and the byte offsets' poison words. -/
structure CacheLine where
  space : Nat
  addr : Nat
  data : List Byte
  dirty : Bool
  deriving DecidableEq, Repr

/-- An access in flight in a slice's access table (R212): requester kind, kind of access and its lines. -/
structure Access where
  who : Nat
  write : Bool
  acc : Bool
  line0 : Nat
  lines : Nat
  deriving DecidableEq, Repr

/-- An X-port request that waits at its mesh entry, because its check of R213 failed or an access table was full: what
its response names, its context-view range, and for a write the window, generation, bytes and byte enables. -/
structure XReq where
  port : Nat
  tag : Nat
  ctx : Nat
  off : Nat
  len : Nat
  write : Option (Nat × BitVec 32 × List Byte × List Bool)
  deriving DecidableEq, Repr

/-- The Terrace (R202 to R230): bytes, tags of the sideband by 8 B word (R204), poisoned words and words with flipped
bits (R229; the sideband word of line l is numbered 2^26 + l), unfilled granules by physical number (R215), windows,
groups in cache mode and their lines in order of use, the access tables, the X-port requests that wait, the corrected
words awaiting their write-back, the patrol scrubber's next line per bank, and the debug latch of R494. -/
structure Terrace where
  mem : List Host.Cell
  tags : Tbl (BitVec 2)
  poison : List Nat
  flips : Tbl Nat
  unfilled : List Nat
  windows : Tbl Window
  cached : BitVec 128
  lines : List CacheLine
  access : List Access
  xwait : List XReq
  wback : List Nat
  scrub : Tbl Nat
  dbgAddr : Nat
  dbgData : BitVec 64
  dbgSide : BitVec 64
  dbgPoison : Bool
  dbgCorr : Bool
  deriving DecidableEq, Repr

/-- The memories of the surroundings behind the M-ports, as Ixdon sees them (R2, R445): stack memory (M_QSPACE 0) and
host memory (M_QSPACE 1), their poisoned 8 B words (R449), and the requests that the surroundings deny (R393):
context, space, first byte, length. -/
structure Outside where
  stack : List Host.Cell
  host : List Host.Cell
  stackPoison : List Nat
  hostPoison : List Nat
  deny : List (Nat × Nat × Nat × Nat)
  fuses : Tbl (BitVec 64)
  certs : List (List Byte)
  deriving DecidableEq, Repr

/-- An A64 element (R38). -/
structure AEl where
  v : BitVec 64
  tag : BitVec 2
  deriving DecidableEq, Repr

/-- A contribution before it is stored: an integer on its grid, an infinity, or NaN with its cause (R38, R47, R309). -/
inductive AV where
  | fin (t : Int)
  | inf (neg : Bool)
  | nan (cause : Nat)
  deriving DecidableEq, Repr

/-- One accumulator row: its row exponent, the repeat count of R45, and 64 elements. -/
structure AccRow where
  e : Int
  reps : Nat
  els : List AEl
  deriving DecidableEq, Repr

/-- A decoded operand value (R33): m·2^e, an infinity or NaN. -/
inductive DV where
  | fin (m : Int) (e : Int)
  | inf (neg : Bool)
  | nan
  deriving DecidableEq, Repr

/-- A feed-buffer element (R54, R106): its code in the feed format, and whether its position is masked, so that no
product is formed for it (R58, R111). -/
structure FeedEl where
  code : BitVec 32
  masked : Bool
  deriving DecidableEq, Repr

/-- A feed entry: the tile columns and rows that a DRAIN wrote, with the format of its codes (0 BF16, 1 FP16, 2 E5M2,
3 E4M3). -/
structure FeedEnt where
  fmt : Nat
  isDs : Bool
  kt : Nat
  row0 : Nat
  col0 : Nat
  rows : List (List FeedEl)
  deriving DecidableEq, Repr

/-- An operand tile in an array's operand buffer (R191): the dispatch number of its LOAD, the stream it came from, its
tile, and its decoded rows. -/
structure OpTile where
  by_ : Nat
  sid : Nat
  use : Nat
  tile : Nat
  xbnd : Int
  rows : List (List DV)
  deriving DecidableEq, Repr

/-- The RSU state of a query row (R58, R59, R61): m, l and the last correction factor, and in two-pass mode the A64 sum
l, and whether the row has had an unmasked position (R77). -/
structure RowState where
  m : BitVec 32
  l : BitVec 32
  c : BitVec 32
  lsum : AEl
  lexp : Int
  seen : Bool
  deriving DecidableEq, Repr

/-- A command in a unit queue (R181): its number in dispatch order, TPC, text, the query tile that SETQ has set in
program order, and the loop registers at dispatch. -/
structure QCmd where
  num : Nat
  qt : Nat
  tpc : Nat
  word : BitVec 128
  regs : List Nat
  deriving DecidableEq, Repr

/-- A command that has issued and not retired (R184, R212): the Terrace lines it reads, writes and accumulates to, as
(first line, lines), the scoreboard entries that it takes, and the send-table entries of its chunks that hold no CACK.
-/
structure Issued where
  cmd : QCmd
  reads : List (Nat × Nat)
  writes : List (Nat × Nat)
  accs : List (Nat × Nat)
  entries : Nat
  chunks : List Nat
  deriving DecidableEq, Repr

/-- An active loop (R180, R401). -/
structure LoopEnt where
  tpc : Nat
  lreg : Nat
  iter : Nat
  count : Nat
  body : Nat
  deriving DecidableEq, Repr

/-- A tile program that a Pavilion holds (R176, R180 to R188, R400, R401), with everything that a suspension saves:
the next TPC to dispatch and the last dispatched, the queue that consumes each counter (R185), loops, counters,
queues, accumulator tiles by 16·array + tile and row with the GRID each was formed on, feed entries, resident regions,
stream FIFOs, the query tile of SETQ at dispatch and in force, RSU row state, and the p_f tiles of a backward job by
(key tile, query tile) (R514). -/
structure Prog where
  ctx : Nat
  jobseq : BitVec 32
  idx : Nat
  jtype : Nat
  hdr : ProgHdr
  tpc : Nat
  lastTpc : Nat
  users : Tbl Nat
  epoch : Nat
  nextNum : Nat
  slotStop : Bool
  halted : Bool
  done : Bool
  loops : List LoopEnt
  tok : Tbl Nat
  queues : Tbl (List QCmd)
  issued : List Issued
  acc : Tbl (Tbl AccRow)
  feed : Tbl FeedEnt
  resident : Tbl (List OpTile)
  fifo : Tbl (List OpTile)
  accG : Tbl Nat
  accN : Tbl Nat
  qdisp : Nat
  qtile : Nat
  rsu : Tbl RowState
  pf : List FeedEnt
  cseq : Tbl Nat
  leaveWant : Nat
  startedAt : BitVec 64
  deriving DecidableEq, Repr

/-- A suspended program in its save slot and counter-table entry (R397, R399 to R401). -/
structure Saved where
  slot : Nat
  pav : Nat
  prog : Prog
  deriving DecidableEq, Repr

/-- A tile pass whose check is pending (R499): the program register and array it runs in, its command, the checks it has
failed, and the program's tiles before and after it. -/
structure Pass where
  q : PSlot
  arr : Nat
  num : Nat
  fails : Nat
  before : Tbl (Tbl AccRow)
  after : Tbl (Tbl AccRow)
  deriving DecidableEq, Repr

/-- A Pavilion (R17, R487 to R489): the two programs held, which of them dispatches (R188), the waiting programs as
(context, job, program index) in admission order (R398), the leave class held and requested (R187, R417), passes under
check, performance selectors and counts, the hardware fault queue while its Kiosk restarts (R381), and the words of
its own storage that hold flipped bits (R497): the resource of R182 that a word lies in, with (4, 0, 0) for the
parameter store and (5, 0, 0) for the SFU stores, and how many bits have flipped. -/
structure Pav where
  progA : Option Prog
  progB : Option Prog
  turnB : Bool
  waitq : List (Nat × BitVec 32 × Nat)
  leave : Nat
  leaveReq : Nat
  passes : List Pass
  saved : List Saved
  perfSel : Tbl (BitVec 64)
  perfCnt : Tbl (BitVec 48)
  kq : Nat
  flips : List ((Nat × Nat × Nat) × Nat)
  deriving DecidableEq, Repr

/-- The Allotment (R231 to R260, R490): the layout that ALT_CONFIG set, the plots out of their pools, each with the
context that it stays charged to under R515 (4,096 for none), the lost-plot count, adoption groups of orphaned
sequences and their charges (R388), the descriptor cache in order of use with its counts (R254), and the plot
transfers that have begun in the TIME named (R256). Descriptors, tables and counts stand in stack memory. -/
structure Allot where
  configured : Bool
  descBase : Nat
  poolBase : Nat × Nat × Nat
  rcBase : Nat × Nat × Nat
  poolN : Nat × Nat × Nat
  lostPlots : List (Nat × Nat)
  lost : Nat
  groupOf : Tbl Nat
  groupUse : Tbl (Nat × Nat × Nat)
  nextGroup : Nat
  dcache : List Nat
  xfers : BitVec 64 × Nat
  dcHits : BitVec 32
  dcMiss : BitVec 32
  picks : Nat
  deriving DecidableEq, Repr

/-- A link-control message being rebuilt (R272): its MID, the next segment, the length of its body and the bytes
received, and the port to which it is relayed (R266). -/
structure RxMsg where
  mid : Nat
  next : Nat
  mlen : Nat
  body : List Byte
  relayTo : Option LinkPort
  deriving DecidableEq, Repr

/-- A flit that has still to leave on a link: what its header says of it, and its payload (R267). -/
structure TxFlit where
  ftype : Nat
  pvb : Nat
  nak : Bool
  payload : List Byte
  deriving DecidableEq, Repr

/-- A link-control message on its way out: the port on which a relayed one arrives, the segments that have still to
leave, and whether all of them are here (R266, R272). -/
structure TxMsg where
  src : Option LinkPort
  segs : List TxFlit
  whole : Bool
  deriving DecidableEq, Repr

/-- A chunk on its way out: the port and slot on which a relayed one arrives, its own transmit slot once it has one, the
flits that have still to leave, and whether all of them are here (R266, R271). -/
structure TxChunk where
  src : Option (LinkPort × Nat)
  slot : Option Nat
  flits : List TxFlit
  whole : Bool
  deriving DecidableEq, Repr

/-- A path of the Promenade or a G-port (R263, R264, R268 to R272, R293, R453, R491). `txSeq` and `rxSeq` count the
flits numbered and accepted since entry to UP, of which a flit carries the low bits; `retry` holds every flit that the
partner has not acknowledged with its number; `held` (records and replay requests), `msgs` and `chunks` wait to leave,
the chunk of slot `turn` next; `rxOpen` holds, by arrival TSLOT, the way out of a relayed chunk, the length of its
stream and the bytes that have arrived; `rxLast` is the last message rebuilt, by its type and body. -/
structure Link where
  cfg : BitVec 64
  rstore : BitVec 64
  state : Nat
  awidth : Nat
  cause : Nat
  retrains : BitVec 16
  replays : BitVec 32
  hdrErr : Nat
  up : Bool
  lanesOk : BitVec 16
  rowRetrains : Nat
  gotHello : Bool
  gotHelloAck : Bool
  peer : UPath
  peerWidth : Nat
  txSeq : Nat
  rxSeq : Nat
  retry : List (Nat × BitVec 2048)
  replayRuns : Nat
  mid : Nat
  held : List TxFlit
  msgs : List TxMsg
  chunks : List TxChunk
  turn : Nat
  seg : Option RxMsg
  rxLast : Option (Nat × List Byte)
  rxOpen : Tbl (LinkPort × Nat × Nat)
  deriving DecidableEq, Repr

/-- An entry of the send table (R273, R280, R284): the port that its route named on entry (R265), the chunk's header
fields and its source bytes, its program, what it waits for, and whether it is in a transmit slot. -/
structure SendEnt where
  port : LinkPort
  ctx : Nat
  pav : Nat
  jobseq : BitVec 32
  num : Nat
  lid : Nat
  epoch : Nat
  loff : Nat
  cseq : Nat
  drole : Nat
  srole : Nat
  repoch : BitVec 32
  dupath : UPath
  acc : Bool
  plot : Bool
  poison : BitVec 256
  data : List Byte
  tags : List (BitVec 2)
  attempt : Nat
  nonce : Nat
  kslot : Option Nat
  credits : Nat
  widx : Nat
  wgen : BitVec 32
  sent : Bool
  deriving DecidableEq, Repr

/-- Credits that the sender's instance holds for one landing entry and buffer (R280). -/
structure SendCred where
  epoch : BitVec 32
  n : Nat
  widx : Nat
  wgen : BitVec 32
  deriving DecidableEq, Repr

/-- A chunk that passed checks 1 to 3 and whose writer has not retired (R282), with the Terrace lines that it holds in
the access tables. -/
structure LandWriter where
  hdr : BitVec 512
  ctx : Nat
  lid : Nat
  buf : Nat
  granules : Nat
  port : LinkPort
  lines : List (Nat × Nat)
  deriving DecidableEq, Repr

/-- A chunk that waits at its landing port for the access tables (R213), with its stream once that has arrived. -/
structure LandWait where
  port : LinkPort
  hdr : BitVec 512
  stream : Option (List Byte)
  deriving DecidableEq, Repr

/-- A key slot (R291, R413, R414): its peer, whether it is a send slot, the key, NONCE_CTR, the peer's slot for the same
key, and whether a newer key has replaced it. -/
structure KeySlot where
  peer : UPath
  send : Bool
  key : BitVec 256
  nonce : Nat
  peerSlot : Nat
  old : Bool
  deriving DecidableEq, Repr

/-- A handshake in progress with a peer (R411 to R413): its step (0 the peer's KX1 is awaited, 1 KX2, 2 KX3, 3 KDONE),
its purpose, the two slots it takes here, the peer's receive slot, the DRBG request of its own ephemeral key, the
peer's ephemeral key, the messages so far, the contexts that need the key, and the messages of the run that a restart
of Lodge superseded (R415). -/
structure Shake where
  step : Nat
  purpose : Nat
  sendSlot : Nat
  recvSlot : Nat
  peerSlot : Nat
  req : Nat
  peerPub : BitVec 768
  transcript : List Byte
  ctxs : List Nat
  before : List Byte
  deriving DecidableEq, Repr

/-- A message for Lodge that waits while Lodge restarts (R381): of a path key's handshake (R412), or the challenge of a
member's identity and its answer (R337, R347). -/
inductive LodgeMsg where
  | kx1 (body : BitVec 1088)
  | kx2 (body : BitVec 1088) (chain : List (List Byte)) (sig : BitVec 768)
  | kx3 (chain : List (List Byte)) (sig : BitVec 768)
  | kdone
  | kretire (body : BitVec 32)
  | kfail
  | gchal (hdr : BitVec 128) (nonce : BitVec 256)
  | gconf (hdr : BitVec 128) (chain : List (List Byte)) (sig : BitVec 768)
  deriving DecidableEq, Repr

/-- The Promenade (R261 to R296): links, the route table, the send table, sender credits by context, entry and buffer,
landing writers, the chunks that wait at their landing ports, role epochs' landing grants, key slots and handshakes,
and the grove messages that wait for a key toward their peer (R291, R336). -/
structure Prom where
  paths : Tbl Link
  gports : Tbl Link
  routes : Tbl (BitVec 64)
  sends : Tbl SendEnt
  creds : Tbl SendCred
  landing : List LandWriter
  landWait : List LandWait
  landEpoch : Tbl Nat
  keys : Tbl KeySlot
  shakes : Tbl Shake
  sealWait : List (UPath × BitVec 128 × List Byte)
  deriving DecidableEq, Repr

/-- A member table entry of a communicator (R298). -/
structure CMember where
  upath : UPath
  ctx : Nat
  grove : Nat
  tray : Nat
  rack : Nat
  site : Nat
  deriving DecidableEq, Repr

/-- A chunk CRC to fold into a digest (R324): peer rank, stage, chunk index, CRC-64. -/
structure DigEnt where
  rank : Nat
  stage : Nat
  chidx : Nat
  crc : BitVec 64
  deriving DecidableEq, Repr

/-- A communicator (R297, R298, R324). -/
structure Comm where
  cepoch : BitVec 32
  nmemb : Nat
  myrank : Nat
  ctx : Nat
  members : List CMember
  treeMax : Nat
  cdlMs : Nat
  lastSeq : Nat
  sent : BitVec 64
  recv : BitVec 64
  covered : Nat
  deriving DecidableEq, Repr

/-- Values in staging for the ranks lo to hi of a tree node, from element `first` on (R307 to R309, R322): integers on
the grid 2^−149, or INT32 values. -/
structure Staged where
  lo : Nat
  hi : Nat
  first : Nat
  vals : List AV
  deriving DecidableEq, Repr

/-- An element as it is written to a destination: its code, whether it counts INVALID, and its OVF_CONV events (R310).
-/
structure FinEl where
  code : Nat
  inv : Bool
  ovf : Nat
  deriving DecidableEq, Repr

/-- Finished elements in staging from element `first` on. -/
structure FinPiece where
  first : Nat
  els : List FinEl
  deriving DecidableEq, Repr

/-- A block of an all-to-all on its way through the tree: source and destination rank, the count of its elements, and
those from element `first` on (log entry 27). -/
structure Blk where
  src : Nat
  dst : Nat
  cnt : Nat
  first : Nat
  els : List Nat
  deriving DecidableEq, Repr

/-- Elements that go to a rank as chunks: KIND, STAGE, the first element and the first chunk's index, SIG, whether
they are X320 words, what stands before each chunk's elements, the elements, and the trailer bytes of the elements. -/
structure BandStream where
  kind : Nat
  stage : Nat
  dst : Nat
  elem0 : Nat
  base : Nat
  sig : Nat
  x320 : Bool
  pre : List Byte
  els : List (List Byte)
  trailer : List Byte
  deriving DecidableEq, Repr

/-- A collective slot (R301, R304 to R325): the descriptor and its launch; JOINs matched and credits; source chunks
read; values staged, nodes evaluated as (stage, work unit); the deadline state; all-to-all counts; chunks written;
events; chunks for the digests; chunks that failed their check; and how it ended. `owed` waits for a JOIN, `expiring`
and `due` are deadlines of this TCLK, `outOpen` the output chunks in the access tables, `endedAt` the TIME of the end,
and `folded` says that the record waits to be written. -/
structure Slot where
  cid : Nat
  ctx : Nat
  waiter : Waiter
  op : Nat
  dtype : Nat
  redop : Nat
  exact : Bool
  dlmode : Nat
  srcSpace : Nat
  dstSpace : Nat
  swait : Bool
  seq : Nat
  count : Nat
  root : Nat
  flag0 : Nat
  chunk : Nat
  nflag : Nat
  sflag0 : Nat
  dl4 : Nat
  dl3 : Nat
  src : Nat
  dst : Nat
  auxIn : Nat
  auxOut : Nat
  scap : Nat
  direct : Bool
  stageBytes : Nat
  stageTer : Nat
  joined : List Nat
  verified : List Nat
  busy : List Nat
  credits : Tbl Nat
  owed : List BandStream
  srcRead : List Nat
  staged : List Staged
  finals : List FinPiece
  blocks : List Blk
  evald : List (Nat × Nat)
  rootDone : Bool
  readySent : List Nat
  ready : List (Nat × Nat)
  expired : List Nat
  expiring : List Nat
  due : Bool
  maps : Tbl (BitVec 64)
  siteMaps : Tbl (BitVec 64)
  sendCounts : Option (List Int)
  rxCounts : Tbl Nat
  outOpen : Tbl (List (Nat × Nat))
  written : List Nat
  invalid : Nat
  invFirst : Option Nat
  ovf : Nat
  dropped : Nat
  dropFirst : Option Nat
  txDig : List DigEnt
  rxDig : List DigEnt
  fails : List (Nat × Nat × Nat)
  ended : Option Nat
  endedAt : BitVec 64
  folded : Bool
  deriving DecidableEq, Repr

/-- An entry of the pending table: a JOIN or an ABORT for a name that is not launched (R305). -/
structure BandPend where
  cid : Nat
  seq : Nat
  rank : Nat
  isAbort : Bool
  hdr : BitVec 512
  deriving DecidableEq, Repr

/-- A Bandstand chunk for a name that is not launched yet, which waits at its landing port: where it came from, its
header and its stream (log entry 28). -/
structure BandEarly where
  port : LinkPort
  src : UPath
  hdr : BitVec 512
  stream : List Byte
  deriving DecidableEq, Repr

/-- Bandstand (R297 to R328, R493). -/
structure Band where
  terBase4k : Nat
  terLen4k : Nat
  stkBase : Nat
  stkLen : Nat
  comms : Tbl Comm
  slots : Tbl Slot
  pend : List BandPend
  early : List BandEarly
  deriving DecidableEq, Repr

/-- A capability record (R371). -/
structure CapRec where
  id : Nat
  version : Nat
  flags : Nat
  value : Nat
  deriving DecidableEq, Repr

/-- A grove member table entry (R333), with the path from which the member's GHELLO came, and with what its resource
state gave (R337; log entry 40): the instances of a member grove in their order, its capability list and its
certificate. -/
structure GMember where
  upath : UPath
  isGrove : Bool
  eligible : Bool
  ninst : Nat
  lead : UPath
  insts : List UPath
  caps : Option (List CapRec)
  cert : Option (List Byte)
  deriving DecidableEq, Repr

/-- A grove that this instance forms or belongs to (R331 to R335, R345, R347, R477): GSTATE, the arguments of
GROVE_FORM, the leader, whether this instance's own table entry is a grove, its member index when a forwarded message
has named it, the instances in the grove, the CRC-64 of the table, the members whose GHELLO matched, the nonces of
GCHAL and the device certificates of the members that confirmed, the grove certificate, the members lost, the peers
heard since the last heartbeat tick, and the command that waits. -/
structure GroveSt where
  gstate : Nat
  glevel : Nat
  gprefix : UPath
  gepoch : BitVec 32
  members : List GMember
  table : List Byte
  formMs : Nat
  ghbMs : Nat
  leader : UPath
  myIndex : Option Nat
  ninst : Nat
  tableCrc : BitVec 64
  hellos : List UPath
  nonces : Tbl (BitVec 256)
  devs : Tbl (List Byte)
  cert : List Byte
  lost : List Nat
  heard : List UPath
  waiter : Option Waiter
  deriving DecidableEq, Repr

/-- A message that the leader has forwarded (R342, R343): what its record needs, the members that have not reported,
the failing member of lowest index with its status, the body of the record, that of the member of lowest index so far,
and the members where it succeeded. -/
structure Fwd where
  waiter : Waiter
  waiting : List Nat
  fail : Option (Nat × Nat)
  body : Option (Nat × Nat)
  good : List Nat
  deriving DecidableEq, Repr

/-- A context's tables at a member, as its last resource state gave them (R337, R343). -/
structure MemberTabs where
  regions : Tbl Region
  landing : Tbl Landing
  roles0 : Tbl Role
  roles1 : Tbl Role
  deriving DecidableEq, Repr

/-- Grove state of the instance (R330, R337, R340): its own path, the formation in progress, the formed groves from the
outermost in, the message numbers per peer, the messages forwarded, the tables and the communicators that members have
reported, and the GHELLO messages that wait for this instance's GROVE_FORM (R335). -/
structure Groves where
  upathSelf : UPath
  forming : Option GroveSt
  formed : List GroveSt
  txSeq : Tbl Nat
  rxSeq : Tbl Nat
  ackedSeq : Tbl Nat
  unacked : List (Nat × Nat)
  fwd : List Fwd
  reported : Tbl (Tbl MemberTabs)
  comms : Tbl Nat
  early : List (UPath × BitVec 128 × BitVec 64)
  deriving DecidableEq, Repr

/-- Power, thermal and clock state (R417 to R434, R486). Currents are in units of 10 mA; `nextBudget` holds a budget
and a RAMP that wait for Pumphouse (R381); `coefs` holds the base and the coefficients of L1, L2 and L3 at 4.0 GHz,
`fused` a bit for each in that order, `samples` up to 64 samples of each. The allowance is in units of 0.5 mA, which
RAMP A/µs raises by RAMP units in a TCLK (R419). `grants` holds the classes of the grants that began or ended since
the last MEAS word, 0 for another change, and `quiet` whether no grant has changed since the last run of the power
loop (R424). -/
structure Power where
  noBudget : Bool
  pBudget : Nat
  pCap : Nat
  pRamp : Nat
  lastBudget : BitVec 64
  nextBudget : Option (Nat × Nat)
  drvCap : Nat
  throttleC : Nat
  tripC : Nat
  working : Option Nat
  coefs : List Nat
  fused : BitVec 4
  samples : Tbl (List Nat)
  coefExc : Nat
  meas : BitVec 32
  measAt : Option (BitVec 64)
  grants : List Nat
  quiet : Bool
  allowance : Nat
  lastPav : Nat
  aclkMhz : Nat
  aclkNext : Nat
  aclkChg : Bool
  trip : Bool
  throttle : Bool
  fcstHi : Nat
  fcstExp : Nat
  fcstLo : Nat
  temps : Tbl (BitVec 13)
  badRun : Tbl Nat
  deriving DecidableEq, Repr

/-- A request (R445): write, context, private, space, line address, lines. -/
structure MReq where
  write : Bool
  ctx : Nat
  priv : Bool
  space : Nat
  addr : Nat
  lines : Nat
  deriving DecidableEq, Repr

/-- An M-port (R445 to R449): credits, the requests waiting to be issued, and those outstanding by tag with the beats
that have arrived. -/
structure MPort where
  qcred : Nat
  wcred : Nat
  waiting : List MReq
  outst : Tbl (MReq × List Nat)
  deriving DecidableEq, Repr

/-- Trace (R494, R504 to R506). -/
structure Trace where
  cfg : BitVec 64
  next : Nat
  wrapped : Bool
  stopped : Bool
  buf : Tbl (BitVec 512)
  deriving DecidableEq, Repr

/-- The test access port (R465, R466) and the last result of each instrument (R507). -/
structure Jtag where
  instrReg : Nat
  wrapperOn : Bool
  netOn : Bool
  cells : List Bool
  dr : Nat
  results : Tbl (Bool × Nat)
  deriving DecidableEq, Repr

/-- Where the instance stands between reset and READY (R435 to R440). -/
inductive Phase where
  | inReset
  | startUp
  | failed
  | up
  | destroyed
  deriving DecidableEq, Repr

/-- The counters that software may write, as they stood when the current TCLK began or as last written in it: what they
have risen since is the events of the TCLK (R14). -/
structure CountBase where
  wdog : Tbl Nat
  groveStale : Nat
  eccCorr : Tbl Nat
  eccPois : Tbl Nat
  ces : Tbl CtxCounts
  hdrErr : Tbl Nat
  coefExc : Nat
  perf : Tbl (Tbl (BitVec 48))
  altLost : Nat
  dcHits : Nat
  dcMiss : Nat
  deriving DecidableEq, Repr

/-- Instance-level registers (R472 to R485): phase, mode in force and start mode, straps, TIME, CAPV, error status and
counts, cores, interrupts, CTXSW_CFG, the tokens drawn and the SPDM requests answered. `coreWait` holds the restarts
that wait for Lodge, as core, cause and the command to complete (R383); `restartWaiter` the CORE_RESTART commands
whose core is restarting; `lodgeQ` the messages that wait for Lodge, with their senders (R381); `coreCause` why each
core restarts (R504). -/
structure Sys where
  phase : Phase
  mode : Nat
  startMode : Nat
  fwBase : Nat
  testKeyUsed : Bool
  time : BitVec 64
  capv : Bool
  errSts : BitVec 64
  errNow : BitVec 64
  base : CountBase
  errMask : BitVec 64
  fwFailDet : BitVec 64
  wdog : Tbl Nat
  groveStaleCnt : Nat
  eccCorr : Tbl Nat
  eccPois : Tbl Nat
  cesSel : Nat
  irqPend : BitVec 1024
  coreSts : Tbl Nat
  coreWait : List (Nat × Nat × Option Waiter)
  coreCause : Tbl Nat
  restartWaiter : List (Nat × Waiter)
  lodgeQ : List (UPath × LodgeMsg)
  fwver : Tbl (BitVec 32)
  imageHash : Tbl Nat
  certsOk : Bool
  ctxswLo : BitVec 64
  ctxswHi : BitVec 64
  thermTrip : Bool
  fLock : Bool
  tokens : List Nat
  spdm : List (List Byte)
  deriving DecidableEq, Repr

/-- What leaves the block on its ports, in the order in which it leaves. -/
inductive Out where
  | irq (vec : Nat)
  | pword (w : BitVec 64)
  | aclkAck (level : Bool)
  | xresp (port tag : Nat) (stat : Nat) (data : List Byte)
  | xcredit (close : Bool) (ctx widx gen n : Nat)
  | chunk (port : LinkPort) (hdr : BitVec 512) (stream : List Byte)
  | creditRec (dst : UPath) (rec : BitVec 128)
  | cackRec (dst : UPath) (rec : BitVec 128)
  | bounce (dst : UPath) (hdr : BitVec 512) (rxEpoch : BitVec 32)
  | token (dst : UPath) (ctx role tok inc : Nat) (repoch : BitVec 32) (srole : Nat)
  | tokenBounce (dst : UPath) (ctx role : Nat) (rxEpoch : BitVec 32)
  | nak (port : LinkPort) (ackseq : Nat)
  | replay (port : LinkPort) (flits : List (BitVec 2048))
  | lctl (dst : UPath) (ltype : Nat) (body : List Byte)
  | helloMsg (port : LinkPort) (ack : Bool) (flit : BitVec 2048)
  | grove (dst : UPath) (hdr : BitVec 128) (body : List Byte)
  | band (dst : UPath) (hdr : BitVec 512) (stream : List Byte)
  | mreq (port tag : Nat) (r : MReq)
  | tdo (bits : Nat)
  deriving DecidableEq, Repr

end Sys2Proof.Machine
end

