-- ==== Sys2Proof/Machine/Formats.lean ====
section
/-!
DEFINITION. Number formats: decoding (R32, R33), the exact values that chains carry (R119, R120), and the one rounding
of every conversion (R55 to R57).
-/
namespace Sys2Proof.Machine

/-- The floating formats of R32, R54 and R164. -/
inductive Fmt where
  | fp16
  | bf16
  | e4m3
  | e5m2
  | e3m2
  | e2m3
  | e2m1
  | e8m23
  | e8m16
  | e11m48
  deriving DecidableEq, Repr

/-- Exponent bits, stored fraction bits and bias (R32, R54, R164). -/
def Fmt.layout : Fmt → Nat × Nat × Nat
  | .fp16 => (5, 10, 15)
  | .bf16 => (8, 7, 127)
  | .e4m3 => (4, 3, 7)
  | .e5m2 => (5, 2, 15)
  | .e3m2 => (3, 2, 3)
  | .e2m3 => (2, 3, 1)
  | .e2m1 => (2, 1, 1)
  | .e8m23 => (8, 23, 127)
  | .e8m16 => (8, 16, 127)
  | .e11m48 => (11, 48, 1023)

/-- The fraction bits. -/
def Fmt.frac (f : Fmt) : Nat := f.layout.2.1

/-- The exponent of the format's least subnormal quantum. -/
def Fmt.qmin (f : Fmt) : Int := 1 - (f.layout.2.2 : Int) - (f.frac : Int)

/-- Whether the format has infinities. -/
def Fmt.hasInf : Fmt → Bool
  | .e4m3 | .e3m2 | .e2m3 | .e2m1 => false
  | _ => true

/-- The largest finite code without its sign (R32). -/
def Fmt.maxCode (f : Fmt) : Nat :=
  match f with
  | .e4m3 => 0x7E
  | .e3m2 | .e2m3 => 0x1F
  | .e2m1 => 0x7
  | _ => (2 ^ f.layout.1 - 1) * 2 ^ f.frac - 1

/-- Bits of a code without the sign bit. -/
def Fmt.signPos (f : Fmt) : Nat := f.layout.1 + f.frac

/-- An exact value of a chain (R119): n/d·2^e with d > 0, an infinity or NaN. Zero has no sign (R33). -/
inductive XV where
  | fin (n : Int) (d : Nat) (e : Int)
  | inf (neg : Bool)
  | nan
  deriving DecidableEq, Repr

/-- Decodes a code of a format whose E8M16 codes have had their seven low zeros removed (R33). -/
def Fmt.decBare (f : Fmt) (code : Nat) : DV :=
  let mag := code % 2 ^ f.signPos
  let neg := code.testBit f.signPos
  let ef := mag >>> f.frac
  let fr := mag % 2 ^ f.frac
  let special := if f.hasInf then decide (mag > f.maxCode) else (f == .e4m3 && mag == 0x7F)
  if special then (if f.hasInf && fr == 0 then .inf neg else .nan)
  else
    let m : Nat := if ef = 0 then fr else 2 ^ f.frac + fr
    let e : Int := f.qmin + (if ef = 0 then 0 else (ef : Int) - 1)
    if m = 0 then .fin 0 0 else .fin (if neg then -(m : Int) else (m : Int)) e

/-- Decodes a stored code (R33, R54: E8M16 is written in the binary32 layout). -/
def Fmt.dec (f : Fmt) (code : Nat) : DV :=
  match f with
  | .e8m16 => Fmt.decBare .e8m23 code
  | _ => f.decBare code

/-- The code of the rounded value before specials, without sign, unbounded above: precision by the exponent, or the
subnormal quantum (R55). -/
def Fmt.magCode (f : Fmt) (n d : Nat) (e : Int) : Nat :=
  if n = 0 then 0
  else if floorLog2 n d + e + 1 < f.qmin then 0
  else
    let q0 := floorLog2 n d + e - (f.frac : Int)
    let q := if q0 < f.qmin then f.qmin else q0
    let m := (rneScaled n d (e - q)).toNat
    (q - f.qmin).toNat * 2 ^ f.frac + m

/-- The stored width shift of E8M16 (R54). -/
def Fmt.place (f : Fmt) (c : Nat) : Nat :=
  match f with
  | .e8m16 => c <<< 7
  | _ => c

/-- The code of NaN (R55). -/
def Fmt.nanCode (f : Fmt) : Nat :=
  match f with
  | .fp16 => 0x7E00
  | .bf16 => 0x7FC0
  | .e5m2 => 0x7E
  | .e4m3 => 0x7F
  | .e11m48 => 0x7FF8 <<< 44
  | .e3m2 | .e2m3 | .e2m1 => 0
  | _ => 0x7FC00000

/-- The code of an infinity, and whether it counts OVF_CONV: E4M3 takes ±448 (R55), an MX element its largest finite
value (R56). -/
def Fmt.infCode (f : Fmt) (neg : Bool) : Nat × Bool :=
  let m := if f.hasInf then f.maxCode + 1 else f.maxCode
  (f.place ((if neg then 2 ^ f.signPos else 0) + m), !f.hasInf)

/-- The one rounding of R55: the code, and whether the conversion counts OVF_CONV. A zero result is +0. -/
def Fmt.enc (f : Fmt) (x : XV) : Nat × Bool :=
  match x with
  | .nan => (f.nanCode, false)
  | .inf neg => f.infCode neg
  | .fin n d e =>
    let c := f.magCode n.natAbs d e
    let neg : Bool := decide (n < 0)
    if c > f.maxCode then ((f.infCode neg).1, true)
    else if c = 0 then (0, false)
    else (f.place ((if neg then 2 ^ f.signPos else 0) + c), false)

/-- A decoded operand as a chain value. -/
def DV.x : DV → XV
  | .fin m e => .fin m 1 e
  | .inf neg => .inf neg
  | .nan => .nan

/-- The value of a code. -/
def Fmt.val (f : Fmt) (code : Nat) : XV := (f.dec code).x

/-- A finite value 2^e·n. -/
def XV.ofInt (n : Int) : XV := .fin n 1 0

def XV.one : XV := .fin 1 1 0

def XV.zero : XV := .fin 0 1 0

def XV.isNan : XV → Bool
  | .nan => true
  | _ => false

def XV.isInf : XV → Bool
  | .inf _ => true
  | _ => false

def XV.isFin : XV → Bool
  | .fin _ _ _ => true
  | _ => false

def XV.isZero : XV → Bool
  | .fin n _ _ => n == 0
  | _ => false

/-- Negative, and not zero. -/
def XV.isNeg : XV → Bool
  | .fin n _ _ => decide (n < 0)
  | .inf neg => neg
  | .nan => false

def XV.neg : XV → XV
  | .fin n d e => .fin (-n) d e
  | .inf s => .inf (!s)
  | .nan => .nan

def XV.abs (x : XV) : XV := if x.isNeg then x.neg else x

/-- n/d·2^e brought to the exponent e' ≤ e. -/
def alignTo (n : Int) (e e' : Int) : Int := n * (2 ^ (e - e').natAbs : Nat)

/-- The exact sum of two finite values. -/
def addFin (n1 : Int) (d1 : Nat) (e1 : Int) (n2 : Int) (d2 : Nat) (e2 : Int) : XV :=
  if n1 = 0 then .fin n2 d2 e2
  else if n2 = 0 then .fin n1 d1 e1
  else
    let e := if e1 < e2 then e1 else e2
    .fin (alignTo n1 e1 e * (d2 : Int) + alignTo n2 e2 e * (d1 : Int)) (d1 * d2) e

/-- Addition under IEEE 754 rules (R120): the sum, and whether the operation is invalid. -/
def XV.add (a b : XV) : XV × Bool :=
  match a, b with
  | .nan, _ => (.nan, false)
  | _, .nan => (.nan, false)
  | .inf s, .inf t => if s = t then (.inf s, false) else (.nan, true)
  | .inf s, _ => (.inf s, false)
  | _, .inf t => (.inf t, false)
  | .fin n1 d1 e1, .fin n2 d2 e2 => (addFin n1 d1 e1 n2 d2 e2, false)

def XV.sub (a b : XV) : XV × Bool := a.add b.neg

/-- Multiplication under IEEE 754 rules (R120): the product, and whether the operation is invalid. -/
def XV.mul (a b : XV) : XV × Bool :=
  match a, b with
  | .nan, _ => (.nan, false)
  | _, .nan => (.nan, false)
  | .inf s, y => if y.isZero then (.nan, true) else (.inf (s != y.isNeg), false)
  | x, .inf t => if x.isZero then (.nan, true) else (.inf (t != x.isNeg), false)
  | .fin n1 d1 e1, .fin n2 d2 e2 => (.fin (n1 * n2) (d1 * d2) (e1 + e2), false)

/-- The exact quotient by a positive finite divisor (R62). A divisor of zero gives the IEEE 754 result, an infinity
counts nothing and 0/0 is invalid. -/
def XV.div (a b : XV) : XV × Bool :=
  match a, b with
  | .nan, _ => (.nan, false)
  | _, .nan => (.nan, false)
  | .inf _, .inf _ => (.nan, true)
  | .inf s, y => (.inf (s != y.isNeg), false)
  | _, .inf _ => (.zero, false)
  | .fin n1 d1 e1, .fin n2 d2 e2 =>
    if n2 = 0 then (if n1 = 0 then (.nan, true) else (.inf (decide (n1 < 0)), false))
    else (.fin (n1 * (d2 : Int) * (if n2 < 0 then -1 else 1)) (d1 * n2.natAbs) (e1 - e2), false)

/-- Whether a ≤ b, for values that are not NaN. -/
def XV.le (a b : XV) : Bool :=
  match a, b with
  | .inf true, _ => true
  | _, .inf false => true
  | .inf false, _ => false
  | _, .inf true => false
  | x, y => match (x.sub y).1 with
    | .fin n _ _ => decide (n ≤ 0)
    | _ => false

/-- The larger of two values that are not NaN. -/
def XV.max (a b : XV) : XV := if a.le b then b else a

def XV.min (a b : XV) : XV := if a.le b then a else b

/-- Equality of values: NaN equals nothing. -/
def XV.same (a b : XV) : Bool := !a.isNan && !b.isNan && a.le b && b.le a

/-- floor of a finite value. -/
def XV.floorInt : XV → Int
  | .fin n d e => floorScaled n d e
  | _ => 0

/-- x·2^k. -/
def XV.scale (x : XV) (k : Int) : XV :=
  match x with
  | .fin n d e => .fin n d (e + k)
  | y => y

/-- floor(log2|x|) of a finite nonzero value. -/
def XV.log2Floor : XV → Int
  | .fin n d e => floorLog2 n.natAbs d + e
  | _ => 0

/-- Rounds to a format and reads the value back: the value and whether OVF_CONV counts. -/
def Fmt.rnd (f : Fmt) (x : XV) : XV × Bool :=
  let (c, o) := f.enc x
  (f.val c, o)

/-- Operand and output format codes: 0 E8M23, 1 BF16, 2 FP16, 3 E5M2, 4 E4M3, then the MX formats 5 to 9 (R131, R174).
-/
def fmtOf : Nat → Fmt
  | 1 => .bf16
  | 2 => .fp16
  | 3 => .e5m2
  | 4 => .e4m3
  | 5 => .e4m3
  | 6 => .e5m2
  | 7 => .e3m2
  | 8 => .e2m3
  | 9 => .e2m1
  | _ => .e8m23

/-- Whether a format code is an MX format. -/
def isMx (code : Nat) : Bool := 5 ≤ code && code ≤ 9

/-- Bits of one element of a format code. -/
def elemBits : Nat → Nat
  | 0 => 32
  | 1 => 16
  | 2 => 16
  | 3 => 8
  | 4 => 8
  | 5 => 8
  | 6 => 8
  | 7 => 6
  | 8 => 6
  | 9 => 4
  | _ => 32

/-- The largest exponent of an MX element format (R56). -/
def mxEmax : Nat → Int
  | 5 => 8
  | 6 => 15
  | 7 => 4
  | _ => 2

/-- The value of an MX element with scale code s (R32, R33). -/
def mxVal (code s el : Nat) : XV :=
  if s = 0xFF then .nan else ((fmtOf code).val el).scale ((s : Int) - 127)

/-- An MX element: a magnitude above the largest finite value takes that value, with the sign kept (R56). -/
def Fmt.encSat (f : Fmt) (x : XV) : Nat :=
  match x with
  | .fin n d e =>
    let c := f.magCode n.natAbs d e
    let m := if c > f.maxCode then f.maxCode else c
    if m = 0 then 0 else (if n < 0 then 2 ^ f.signPos else 0) + m
  | _ => 0

/-- An MX output block (R56): scale code, element codes, and whether it counts OVF_CONV. -/
def mxEncode (code : Nat) (xs : List XV) : Nat × List Nat × Bool :=
  if xs.any (fun x => !x.isFin) then (0xFF, xs.map (fun _ => 0), xs.any XV.isInf)
  else if xs.all XV.isZero then (0, xs.map (fun _ => 0), false)
  else
    let ms := (xs.filter (fun x => !x.isZero)).map XV.log2Floor
    let mx := ms.foldl (fun a b => if a < b then b else a) (ms.headD 0)
    let x0 := mx - mxEmax code
    let x1 : Int := if x0 < -127 then -127 else if 127 < x0 then 127 else x0
    ((x1 + 127).toNat, xs.map (fun x => (fmtOf code).encSat (x.scale (-x1))), false)

end Sys2Proof.Machine
end

