-- ==== Sys2Proof/Machine/A64.lean ====
section
/-!
DEFINITION. The A64 accumulator: products on the grid (R37, R39, R47), the combine (R48), tile passes with overflow
repeats (R45, R46), preloads (R40), the rescale (R60) and the read-out value (R50).
-/
namespace Sys2Proof.Machine

/-- A stored element (R38). -/
def AEl.av (x : AEl) : AV :=
  match x.tag.toNat with
  | 0 => .fin x.v.toInt
  | 1 => .inf false
  | 2 => .inf true
  | _ => .nan x.v.toNat

/-- The stored form (R38): v holds 0 under ±∞, the cause under NaN. -/
def AV.el : AV → AEl
  | .fin t => ⟨BitVec.ofInt 64 t, 0⟩
  | .inf neg => ⟨0, if neg then 2 else 1⟩
  | .nan c => ⟨BitVec.ofNat 64 c, 3⟩

/-- The combine of R48. -/
def AV.combine (a b : AV) : AV :=
  match a, b with
  | .fin x, .fin y => .fin (x + y)
  | .fin _, y => y
  | x, .fin _ => x
  | .nan c, .nan d => .nan (Nat.min c d)
  | .nan c, _ => .nan c
  | _, .nan d => .nan d
  | .inf s, .inf t => if s = t then .inf s else .nan 3

/-- One product a·b, rounded once onto the grid 2^unit (R37, R39, R47). -/
def gridProduct (unit : Int) (a b : DV) : AV :=
  match a, b with
  | .nan, _ => .nan 1
  | _, .nan => .nan 1
  | .inf s, .inf t => .inf (s != t)
  | .inf s, .fin m _ => if m = 0 then .nan 2 else .inf (s != decide (m < 0))
  | .fin m _, .inf t => if m = 0 then .nan 2 else .inf (t != decide (m < 0))
  | .fin m e, .fin n f => .fin (rneScaled (m * n) 1 (e + f - unit))

/-- A preload placed on the grid (R40). -/
def gridPreload (unit : Int) (x : XV) : AV :=
  match x with
  | .fin n d e => .fin (rneScaled n d (e - unit))
  | .inf neg => .inf neg
  | .nan => .nan 1

/-- The operands of one element of a pass: a row of A and a column of B; `none` at a position that forms no product
(R58, R111). -/
abbrev Terms := List (Option DV) × List (Option DV)

/-- The sum of a pass for one element at row exponent e, from what it holds (R39, R45). -/
def elemSum (e : Int) (s : AV) (t : Terms) : AV :=
  (t.1.zip t.2).foldl (fun acc p =>
    match p.1, p.2 with
    | some x, some y => acc.combine (gridProduct (e - 62) x y)
    | _, _ => acc) s

/-- The sums of a pass for one row. -/
def passSums (e : Int) (row : List AV) (terms : List Terms) : List AV := List.zipWith (elemSum e) row terms

/-- The largest magnitude that a stored finite element may have (R38). -/
def aMax : Int := 9223372036854775807

/-- Whether a pass sum overflows its element (R45). -/
def AV.overflows : AV → Bool
  | .fin t => decide (aMax < t) || decide (t < -aMax)
  | _ => false

/-- Saturation of R46. -/
def AV.clamp : AV → AV
  | .fin t => if aMax < t then .fin aMax else if t < -aMax then .fin (-aMax) else .fin t
  | x => x

/-- The shift by 8 of a repeat; tagged elements keep their tag and v (R45, R49). -/
def AV.shift8 : AV → AV
  | .fin t => .fin (rneInt t 256)
  | x => x

/-- The pass of one row with its repeats (R45): the row exponent, the repeat count, the stored row and the columns that
saturated. -/
def passGo : Nat → Int → Nat → List AV → List Terms → Int × Nat × List AV × List Nat
  | 0, e, reps, row, terms =>
    let t := passSums e row terms
    (e, reps, t.map AV.clamp, (List.range t.length).filter (fun c => (t.getD c (.fin 0)).overflows))
  | k + 1, e, reps, row, terms =>
    let t := passSums e row terms
    if t.any AV.overflows then passGo k (e + 8) (reps + 1) (row.map AV.shift8) terms else (e, reps, t, [])

/-- A tile pass over one accumulator row: the new row, the columns that count ACC_SAT and the repeats it took. -/
def AccRow.pass (r : AccRow) (terms : List Terms) : AccRow × List Nat × Nat :=
  let (e, reps, row, sat) := passGo (3 - r.reps) r.e r.reps (r.els.map AEl.av) terms
  (⟨e, reps, row.map AV.el⟩, sat, reps - r.reps)

/-- An A64 element's exact value at row exponent E (R38). -/
def AEl.x (e : Int) (a : AEl) : XV :=
  match a.av with
  | .fin t => .fin t 1 (e - 62)
  | .inf neg => .inf neg
  | .nan _ => .nan

/-- The kind of the INVALID event that finalising an element counts, if any (R50): 1 INV_MUL, 2 INV_ADD. -/
def AEl.event (a : AEl) : Option Nat :=
  match a.av with
  | .nan 2 => some 1
  | .nan 3 => some 2
  | _ => none

/-- The rescale of an element by the correction factor c = F·2^(k − 16) (R60, R49). -/
def AEl.rescale (c : DV) (a : AEl) : AEl :=
  match a.av, c with
  | .fin t, .fin f e => (AV.fin (rneScaled (t * f) 1 e)).el
  | _, _ => a

/-- An accumulation's row exponent under the bound rule (R41): declared length, the operand bounds, and the preload's
bound where there is one. -/
def boundE (k : Nat) (xa xb : Int) (xc : Option Int) : Int :=
  let p := xa + xb + 2 + (ceilLog2 k : Int)
  match xc with
  | none => p
  | some c => (if p < c + 1 then c + 1 else p) + 1

/-- Whether an operand element exceeds its declared bound (R35): |x| ≥ 2^(XBND + 1). -/
def DV.exceeds (xbnd : Int) : DV → Bool
  | .fin m e => m != 0 && decide (xbnd + 1 ≤ floorLog2 m.natAbs 1 + e)
  | _ => false

end Sys2Proof.Machine
end

