-- ==== Sys2Proof/Machine/Desc.lean ====
section
/-!
DEFINITION. Job descriptors: their blocks (R168 to R176), and what follows from their fields: head dimension, shape,
positions (R67), masks (R73 to R75) and row exponents (R41 to R43, R99, R100).
-/
namespace Sys2Proof.Machine

/-- Whether every field (start, width) of a list is 0: the reserved bits of a block (R15). -/
def zeroFields (w : Nat) (fs : List (Nat × Nat)) : Bool := fs.all (fun f => bits w f.1 f.2 == 0)

def parseAtt (w : Nat) : Att :=
  { shape := bits w 8 3, hdim := bits w 11 3, mode := bits w 14 1, splitRound := bits w 15 1, pfeed := bits w 16 1
    dsfeed := bits w 17 2, dump := bits w 19 2, dumpFmt := bits w 21 2, combine := bits w 23 2, chainDir := bits w 25 1
    dMode := bits w 26 1, dqFmt := bits w 27 2, dkFmt := bits w 29 2, dvFmt := bits w 31 2, dqRopeInv := bits w 33 1
    dkRopeInv := bits w 34 1, stight := bits w 35 1, sTightH := sbits w 36 12, nsplit := bits w 48 16
    splitRank := bits w 64 16, chainStart := bits w 80 16, sigma := BitVec.ofNat 32 (bits w 96 32)
    dscale := BitVec.ofNat 32 (bits w 128 32), kqDecl := bits w 160 32 }

def parsePos (w : Nat) : Pos :=
  { mask := bits w 8 4, rope := bits w 12 2, ropeSrc := bits w 14 1, ropeSegrel := bits w 15 1, ropeDim := bits w 16 9
    qpos0 := bits w 64 32, kpos0 := bits w 96 32, diagOff := sbits w 128 32, winLeft := bits w 160 32
    winRight := bits w 192 32, qvalid := bits w 224 32, kvalid := bits w 256 32, qpad := bits w 288 32
    kpad := bits w 320 32, ropeLb := BitVec.ofNat 32 (bits w 352 32), ropeFs := BitVec.ofNat 32 (bits w 384 32) }

def parsePro (w : Nat) : Pro :=
  { qual := bits w 8 2, norm := bits w 10 2, affine := bits w 12 2, act := bits w 14 4, ropeOn := bits w 18 1
    normLen := bits w 19 17, headCol := bits w 36 16, normEps := BitVec.ofNat 32 (bits w 64 32)
    pscale := BitVec.ofNat 32 (bits w 96 32) }

def parseEpi (w : Nat) : EpiBlk :=
  { gmode := bits w 8 2, eact := bits w 10 4, res := bits w 14 1, enorm := bits w 15 2, outFmt := bits w 17 4
    rowlen := bits w 21 17, oscale := BitVec.ofNat 32 (bits w 64 32) }

def parseStream (w : Nat) : Stream :=
  { sid := bits w 8 8, use := bits w 16 5, qual := bits w 21 2, fmt := bits w 24 4, xbnd := sbits w 28 12
    erule := bits w 40 1, tightH := sbits w 41 12, space := bits w 53 3, base := bits w 64 64, length := bits w 128 64
    rstride := bits w 192 32, layer := bits w 224 16, kvg := bits w 240 16 }

/-- NENT of a BUCKET block. Four bits hold 1 to 16. DESIGN CHOICE: R175 gives no code for 16, and 0 is taken for it (log
entry 102). -/
def bucketNent (w : Nat) : Nat := if bits w 8 4 = 0 then 16 else bits w 8 4

/-- The entries of a BUCKET block within NENT (R175). -/
def parseBucket (w : Nat) : List BucketEnt :=
  ((List.range 7).filter (fun e => bits w 12 4 + e < bucketNent w)).map
    (fun e => ⟨bits w (64 * e + 64) 32, bits w (64 * e + 96) 32⟩)

/-- The reserved fields of a block by BTYPE (R169 to R175). -/
def blockReserved (w : Nat) : Bool :=
  match bits w 0 8 with
  | 2 => zeroFields w [(192, 320)]
  | 3 => zeroFields w [(25, 39), (416, 96)]
  | 4 => zeroFields w [(52, 12), (128, 384)]
  | 5 => zeroFields w [(38, 26), (96, 416)]
  | 6 => zeroFields w [(23, 1), (56, 8), (256, 256)]
  | 7 => zeroFields w [(16, 48)]
  | _ => false

/-- The descriptor's blocks after HDR, and whether R168 to R175 hold of them as far as single blocks tell. -/
structure RawDesc where
  desc : Desc
  blocksOk : Bool
  deriving DecidableEq, Repr

/-- The HDR block with no further block yet (R169). -/
def hdrDesc (w : Nat) : Desc :=
  { jtype := bits w 8 4, nblk := bits w 12 8, sfuset := bits w 20 1, nprog := bits w 32 12, waitDl := bits w 64 32
    epoch0 := bits w 96 32, progBase := bits w 128 64, sfuImage := bits w 192 64, att := none, pos := none, pros := []
    epi := none, streams := [], buckets := [] }

/-- HDR's own conditions (R169). -/
def hdrOk (w : Nat) : Bool :=
  bits w 0 8 == 1 && zeroFields w [(21, 11), (44, 20), (256, 256)] && 1 ≤ bits w 8 4 && bits w 8 4 ≤ 3 &&
    1 ≤ bits w 12 8 && 1 ≤ bits w 32 12

/-- Adds a block (R168): its type allowed for the job type, once, and its reserved fields 0. -/
def addBlock (r : RawDesc) (w : Nat) : RawDesc :=
  let d := r.desc
  let ok := r.blocksOk && blockReserved w
  let attn := d.jtype == 1 || d.jtype == 2
  match bits w 0 8 with
  | 2 => ⟨{ d with att := some (parseAtt w) }, ok && attn && d.att.isNone⟩
  | 3 => ⟨{ d with pos := some (parsePos w) }, ok && attn && d.pos.isNone⟩
  | 4 =>
    let p := parsePro w
    ⟨{ d with pros := d.pros ++ [p] },
      ok && (p.qual == 3) == !attn && !d.pros.any (fun x => x.qual == p.qual)⟩
  | 5 => ⟨{ d with epi := some (parseEpi w) }, ok && d.jtype != 2 && d.epi.isNone⟩
  | 6 =>
    let x := parseStream w
    ⟨{ d with streams := d.streams ++ [x] }, ok && x.sid != 255 && !d.streams.any (fun y => y.sid == x.sid)⟩
  | 7 =>
    let nent := bucketNent w
    let first := bits w 12 4
    let spare := (List.range 7).all (fun e => first + e < nent || bits w (64 * e + 64) 64 == 0)
    ⟨{ d with buckets := d.buckets ++ parseBucket w },
      ok && attn && first == d.buckets.length && first < nent && first ≤ 14 && first % 7 == 0 && spare⟩
  | _ => ⟨d, false⟩

/-- The blocks after HDR with the BUCKET blocks last and by their FIRST, so that their entries follow each other:
blocks may stand in any order (R168, R175). -/
def bucketOrder (rest : List Nat) : List Nat :=
  let isB (w : Nat) : Bool := bits w 0 8 == 7
  rest.filter (fun w => !isB w) ++ (List.range 16).flatMap (fun f => rest.filter (fun w => isB w && bits w 12 4 == f))

/-- A descriptor from its 64 B blocks (R168). -/
def parseDesc (blocks : List Nat) : RawDesc :=
  match blocks with
  | [] => ⟨hdrDesc 0, false⟩
  | h :: rest =>
    let nents := (rest.filter (fun w => bits w 0 8 == 7)).map bucketNent
    let same := nents.all (fun n => n == nents.headD 0)
    let r := (bucketOrder rest).foldl addBlock ⟨hdrDesc h, hdrOk h && rest.length == bits h 12 8⟩
    let want := match nents with
      | [] => 0
      | n :: _ => n
    ⟨r.desc, r.blocksOk && same && r.desc.buckets.length == want⟩

/-! What the fields give. -/

/-- d by HDIM (R65). -/
def hdimOf : Nat → Nat
  | 0 => 64
  | 1 => 96
  | 2 => 128
  | 3 => 192
  | _ => 256

/-- Query rows and key columns by SHAPE (R190). -/
def shapeDims : Nat → Nat × Nat
  | 1 => (64, 64)
  | 2 => (128, 64)
  | 3 => (64, 128)
  | 4 => (128, 128)
  | 5 => (16, 256)
  | _ => (256, 32)

def zeroAtt : Att := parseAtt 0
def zeroPos : Pos := parsePos 0
def zeroEpi : EpiBlk := parseEpi 0

def Desc.a (d : Desc) : Att := d.att.getD zeroAtt
def Desc.p (d : Desc) : Pos := d.pos.getD zeroPos
def Desc.e (d : Desc) : EpiBlk := d.epi.getD zeroEpi
def Desc.dim (d : Desc) : Nat := hdimOf d.a.hdim
def Desc.q (d : Desc) : Nat := if d.jtype = 3 then 64 else (shapeDims d.a.shape).1
def Desc.k (d : Desc) : Nat := if d.jtype = 3 then 64 else (shapeDims d.a.shape).2

/-- A source without a PRO block (R172). -/
def proDefault (qual : Nat) : Pro := ⟨qual, 0, 0, 0, 0, 0, 0, 0, 0x3F800000#32⟩

def Desc.pro (d : Desc) (qual : Nat) : Pro := (d.pros.find? (fun p => p.qual == qual)).getD (proDefault qual)

def Desc.hasPro (d : Desc) (qual : Nat) : Bool := d.pros.any (fun p => p.qual == qual)

/-- The stream with a SID. -/
def Desc.stream (d : Desc) (sid : Nat) : Option Stream := d.streams.find? (fun x => x.sid == sid)

/-- The first stream of a USE. -/
def Desc.byUse (d : Desc) (use : Nat) : Option Stream := d.streams.find? (fun x => x.use == use)

/-- The XBND of a USE's stream, 0 where there is none. -/
def Desc.xb (d : Desc) (use : Nat) : Int := ((d.byUse use).map (fun x => x.xbnd)).getD 0

/-- floor(log2 x) of an E8M23 code (R99). -/
def f32Log2 (c : BitVec 32) : Int := (Fmt.e8m23.val c.toNat).log2Floor

def f32 (c : BitVec 32) : XV := Fmt.e8m23.val c.toNat

/-- E_D and XD (R99, R100). -/
def Desc.eD (d : Desc) : Int := boundE d.dim (d.xb 4) (d.xb 3) none
def Desc.xd (d : Desc) : Int := if d.a.dMode = 1 then d.xb 6 else d.eD
def Desc.eDP (d : Desc) : Int := boundE d.dim (d.xb 4) (d.xb 2) none

/-- XBND_DS of R99. -/
def Desc.xbDS (d : Desc) : Int := (if d.eDP < d.xd then d.xd else d.eDP) + f32Log2 d.a.dscale + 4

/-- The starting row exponent of an accumulation by GRID code (R41, R43, R61, R84, R100): 0 S, 1 dP, 2 D, 3 dV, 4 dK,
5 dQ, 6 O, 7 l. -/
def Desc.gridE (d : Desc) (g : Nat) : Int :=
  let kv := Nat.max d.p.kvalid 1
  match g with
  | 0 => if d.jtype = 1 ∧ d.a.stight = 1 then d.a.sTightH else boundE d.dim (d.xb 0) (d.xb 1) none
  | 1 => d.eDP
  | 2 => d.eD
  | 3 => boundE d.a.kqDecl 0 (d.xb 4) none
  | 4 => boundE d.a.kqDecl d.xbDS (d.xb 0) none
  | 5 => boundE kv d.xbDS (d.xb 1) none
  | 6 =>
    match d.byUse 14 with
    | some o => if o.erule = 1 then o.tightH else boundE kv 0 (d.xb 2) none
    | none => boundE kv 0 (d.xb 2) none
  | _ => boundE kv 0 0 none

/-- Whether a position's stream bit is set: bit k mod 64 of word i·ceil(KPAD/64) + k/64 (R75). -/
def maskWordIndex (kpad i k : Nat) : Nat := i * ceilDiv kpad 64 + k / 64

/-- seg(x): how many table entries are at most x (R74); only equality of two values is used. -/
def segOf (seg : List Nat) (x : Nat) : Nat := (seg.filter (fun e => decide (e ≤ x))).length

/-- The mask components of R73 other than the bit-mask stream. -/
def maskedPos (p : Pos) (seg : List Nat) (i k : Nat) : Bool :=
  let qpos : Int := (p.qpos0 + i : Nat)
  let kpos : Int := (p.kpos0 + k : Nat)
  decide (p.kvalid ≤ k) ||
  (bit p.mask 0 && decide (qpos + p.diagOff < kpos)) ||
  (bit p.mask 1 && (decide (kpos < qpos - (p.winLeft : Int)) || decide (qpos + (p.winRight : Int) < kpos))) ||
  (bit p.mask 2 && segOf seg (p.qpos0 + i) != segOf seg (p.kpos0 + k))

end Sys2Proof.Machine
end

