-- ==== Sys2Proof/Config.lean ====
section
/-!
DEFINITION. What the manual leaves open: uninterpreted constants. Nothing in Lean can evaluate them, so a statement
that is proved holds whatever they are. Each is named in the assumption log.
-/
namespace Sys2Proof.Config

/-- A free bit pattern, one for each reading of the counter in State (log entry 2). -/
opaque freeWord : Nat → BitVec 64

/-- The random bits of Lodge's DRBG by request number (R391): a token is not a result. -/
opaque drbg : Nat → BitVec 384

/-- Where in its pool the Allotment begins to look for a free plot, by class and allocation number (R236). -/
opaque plotHint : Nat → Nat → Nat

/-- SHA-384 (FIPS 180-4, which the manual names and does not restate), as a number below 2^384. -/
opaque sha384 : List Byte → Nat

/-- ECDSA P-384 verification over SHA-384: public key, message, signature (R407, R411). -/
opaque ecdsaVerify : List Byte → List Byte → List Byte → Bool

/-- ECDSA P-384 signing with the alias key of this instance (R347, R406, R411): start mode, measurement of the Lodge
image and message to r then s. -/
opaque aliasSign : Nat → Nat → List Byte → BitVec 768

/-- The alias certificate chain of this instance, positions 0 to 3 of R405, after start-up in a start mode with images
of these measurements (R406). -/
opaque ownChain : Nat → List Nat → List (List Byte)

/-- Whether a certificate chain verifies to the root hash in ROM (R405, R411). -/
opaque chainOk : List (List Byte) → Bool

/-- The alias public key that a chain certifies. -/
opaque chainKey : List (List Byte) → List Byte

/-- The security versions that a chain's DiceTcbInfo lists, by image KIND (R406, R411). -/
opaque chainSvn : List (List Byte) → Nat → Nat

/-- ECDH on P-384: own ephemeral secret (by DRBG request), peer's public key, to the shared secret Z (R413). -/
opaque ecdh : Nat → BitVec 768 → List Byte

/-- The ephemeral public key for a DRBG request (R411). -/
opaque ephemPub : Nat → BitVec 768

/-- HKDF-SHA-384: salt, input, info to a 32 B key (R413). -/
opaque hkdf : Nat → List Byte → List Byte → BitVec 256

/-- AES-256-GCM encryption: key, IV, AAD, plaintext to ciphertext and tag (R290). -/
opaque gcmSeal : BitVec 256 → BitVec 96 → List Byte → List Byte → List Byte

/-- AES-256-GCM decryption: key, IV, AAD, ciphertext with tag to the plaintext, none when the tag fails (R290). -/
opaque gcmOpen : BitVec 256 → BitVec 96 → List Byte → List Byte → Option (List Byte)

/-- The SPDM 1.2 response to the last of the requests since start-up (R409), whose message encoding DMTF fixes: by the
requests, the instance's chain, whether the device certificates verified, the grove certificate, the measurement
blocks of R410, and the DRBG request. -/
opaque spdmResponse : List (List Byte) → List (List Byte) → Bool → List Byte → List (List Byte) → Nat → List Byte

/-- The grove certificate that the leader's Lodge issues (R347). -/
opaque groveCert : List Byte → List Byte

end Sys2Proof.Config
end

