-- ==== Sys2Proof/Machine/State.lean ====
section
/-!
DEFINITION. The state of one Ixdon G3 instance, and the state right after reset. Every register that the manual gives a
reset value holds it; a value that the manual does not give is named in the assumption log (entry 3).
-/
namespace Sys2Proof.Machine

/-- The state. `pending` is the queue of commands that are waiting, first in first out; `out` is what has left the
ports, oldest first; `free` counts the free values taken (log entry 2). -/
structure State where
  pending : List Instr
  sys : Sys
  mgmt : Mgmt
  ctxs : Tbl Ctx
  jobs : List Job
  ter : Terrace
  ext : Outside
  pavs : Tbl Pav
  alt : Allot
  prom : Prom
  band : Band
  grove : Groves
  power : Power
  mports : Tbl MPort
  trace : Trace
  jtag : Jtag
  out : List Out
  free : Nat
  deriving DecidableEq, Repr

/-- Why the machine stops. -/
inductive Fault where
  /-- A memory test or logic test has destroyed every piece of state (R508) and something other than a reset, another
  instrument or power removal is asked of the instance. Raised by every such command. Safe. -/
  | stateDestroyed
  deriving DecidableEq, Repr

/-- Why a command has no meaning. -/
inductive Refusal where
  /-- The command has no meaning in the model yet. Raised by no arm of a finished model. Safe. -/
  | notModelled (mnemonic : String)
  deriving DecidableEq, Repr

/-- Rings at position 0, nothing installed (R350). -/
def Ring.empty : Ring := ⟨0, 0, 0, 0, 0, 0, 0, 0, false, [], none⟩

/-- Every count of R484 at 0. -/
def CtxCounts.zero : CtxCounts := ⟨0, 0, 0, 0, 0, 0, 0, 0, 0, 0, 0, 0⟩

/-- A FREE context with nothing in it (R389, R440). -/
def Ctx.free : Ctx :=
  { state := .free, ring := Ring.empty, ivec := 0, token := 0, grove := false, hifMaj := 0, bound := 0,
    haltPending := false, haltNow := (0, []), regions := [], landing := [], plotLids := [], flags := 0, roles0 := [], roles1 := [], angles := [],
    seqLo := 0, seqN := 0, quota := (0, 0, 0), use := (0, 0, 0), pfDepth := 8, log := [], logTotal := 0,
    counts := CtxCounts.zero, jobCount := 0, altWait := none, resumeWait := [], destroyWait := none }

/-- A region-table entry that is absent (R205). -/
def Region.absent : Region := ⟨0, 0, false, false, false, false⟩

/-- A landing entry that is not defined (R276). -/
def Landing.absent : Landing := ⟨0, 0, 0, 0, false, false, false, 0, 0, 0, 0, 0⟩

/-- A role that is not assigned (R196). -/
def Role.absent : Role := ⟨0, 0, false, 0⟩

/-- A window at its reset value: closed, GEN 0 (R217). -/
def Window.closed0 : Window := ⟨0, false, false, 0, 0, 0, 0, 0, 0, none, none, [], false⟩

/-- A Pavilion that holds nothing (R487 to R489). -/
def Pav.empty : Pav := ⟨none, none, false, [], 0, 0, [], [], [], [], 0, []⟩

/-- A link in DOWN with nothing sent or received (R263, R264, R453). -/
def Link.down : Link :=
  { cfg := 0, rstore := 0, state := 0, awidth := 0, cause := 0, retrains := 0, replays := 0, hdrErr := 0,
    up := false, lanesOk := 0, rowRetrains := 0, gotHello := false, gotHelloAck := false, peer := 0, peerWidth := 0,
    txSeq := 0, rxSeq := 0, retry := [], replayRuns := 0, mid := 0, held := [], msgs := [], chunks := [], turn := 0,
    seg := none, rxLast := none, rxOpen := [] }

/-- An M-port without credits (R447). -/
def MPort.empty : MPort := ⟨0, 0, [], []⟩

/-- Finite zero (R38, R395). -/
def AEl.zero : AEl := ⟨0, 0⟩

/-- An accumulator row of finite zeros with row exponent 0 and repeat count 0 (R395). -/
def AccRow.zero : AccRow := ⟨0, 0, List.replicate 64 AEl.zero⟩

/-- Row state before the first unmasked score: m = −∞, l = 0 (R59, R395). -/
def RowState.init : RowState := ⟨0xFF800000#32, 0, 0x3F800000#32, AEl.zero, 0, false⟩

/-- The Terrace after its initialisation (R230): zeros, no region, no window open, every group a scratchpad. -/
def Terrace.empty : Terrace :=
  { mem := [], tags := [], poison := [], flips := [], unfilled := [], windows := [], cached := 0, lines := [],
    access := [], xwait := [], wback := [], scrub := [], dbgAddr := 0, dbgData := 0, dbgSide := 0, dbgPoison := false,
    dbgCorr := false }

/-- The surroundings of a part that carries the fused values of R417 in fuse word 19 (R462) and TRIP_MAX as TRIP_C's
reset value in word 18 (log entry 4); nothing denied, memories with nothing listed (log entry 1). -/
def Outside.plain : Outside :=
  { stack := [], host := [], stackPoison := [], hostPoison := [], deny := [],
    fuses := [(18, 0x6E0000000000#64), (19, 0x07D0047E012C6D60#64)], certs := [] }

/-- The management mailbox after reset (R349). -/
def Mgmt.empty : Mgmt :=
  { ring := Ring.empty, en := false, ready := false, mdbState := 0, attachNo := 0, hbMs := 0, graceS := 0, hbAt := 0,
    hostId := 0, major := 0, minor := 0, fmask := 0 }

/-- The Allotment before ALT_CONFIG (R490). -/
def Allot.empty : Allot :=
  { configured := false, descBase := 0, poolBase := (0, 0, 0), rcBase := (0, 0, 0), poolN := (0, 0, 0),
    lostPlots := [], lost := 0, groupOf := [], groupUse := [], nextGroup := 0, dcache := [], xfers := (0, 0), dcHits := 0,
    dcMiss := 0, picks := 0 }

/-- The Promenade after reset. -/
def Prom.empty : Prom :=
  { paths := [], gports := [], routes := [], sends := [], creds := [], landing := [], landWait := [], landEpoch := [], keys := [],
    shakes := [], sealWait := [] }

/-- Bandstand after reset (R493). -/
def Band.empty : Band := ⟨0, 0, 0, 0, [], [], [], []⟩

/-- Grove state after reset: UPATH_SELF is all ones (R330). -/
def Groves.empty : Groves := ⟨0xFFFFFFFFFFFF#48, none, [], [], [], [], [], [], [], [], []⟩

/-- Power state after reset (R418, R419, R426, R486): no budget, RAMP 40 A/µs, the allowance at its ceiling of 40 A,
THROTTLE_C 64h, TRIP_C 6Eh, the values of R417, ACLK 4,000 MHz. -/
def Power.reset : Power :=
  { noBudget := true, pBudget := 0, pCap := 0, pRamp := 40, lastBudget := 0, nextBudget := none, drvCap := 0, throttleC := 0x64,
    tripC := 0x6E, working := none, coefs := [28000, 300, 1150, 2000], fused := 0xF, samples := [], coefExc := 0, meas := 0,
    measAt := none, grants := [], quiet := true, allowance := 80000, lastPav := 15, aclkMhz := 4000, aclkNext := 4000,
    aclkChg := false, trip := false, throttle := false, fcstHi := 0, fcstExp := 0, fcstLo := 0, temps := [], badRun := [] }

/-- Trace after reset (R494). -/
def Trace.empty : Trace := ⟨0, 0, false, false, []⟩

/-- The test access port after TRST_N: IDCODE selected (IEEE 1149.1, log entry 4). -/
def Jtag.reset : Jtag := ⟨4, false, false, [], 0, []⟩

/-- Every counter at 0. -/
def CountBase.zero : CountBase := ⟨[], 0, [], [], [], [], 0, [], 0, 0, 0⟩

/-- Instance registers after reset (R474 to R485). -/
def Sys.reset : Sys :=
  { phase := .inReset, mode := 0, startMode := 0, fwBase := 0, testKeyUsed := false, time := 0, capv := false,
    errSts := 0, errNow := 0, base := CountBase.zero, errMask := 0, fwFailDet := 0, wdog := [], groveStaleCnt := 0, eccCorr := [], eccPois := [],
    cesSel := 0, irqPend := 0, coreSts := [], coreWait := [], coreCause := [], restartWaiter := [], lodgeQ := [], fwver := [], imageHash := [],
    certsOk := false, ctxswLo := 0, ctxswHi := 0, thermTrip := false, fLock := false, tokens := [], spdm := [] }

/-- The machine right after reset (R440): RST_N low, every field at its reset value, no command waiting. -/
def State.reset : State :=
  { pending := [], sys := Sys.reset, mgmt := Mgmt.empty, ctxs := [], jobs := [], ter := Terrace.empty,
    ext := Outside.plain, pavs := [], alt := Allot.empty, prom := Prom.empty, band := Band.empty,
    grove := Groves.empty, power := Power.reset, mports := [], trace := Trace.empty, jtag := Jtag.reset, out := [],
    free := 0 }

end Sys2Proof.Machine
end

