-- ==== Sys2Proof/Machine/Ops.lean ====
section
/-!
DEFINITION. The operations that the commands share: sparse tables, byte memory in its canonical form, contexts and their
counts, context halts and the error status.
-/
namespace Sys2Proof.Machine

/-! Sparse tables. -/

/-- The entry of key k. -/
def tget? {α : Type} (t : Tbl α) (k : Nat) : Option α := t.lookup k

/-- The entry of key k, or the default. -/
def tget {α : Type} (t : Tbl α) (k : Nat) (d : α) : α := (t.lookup k).getD d

/-- Sets key k, in order. -/
def tset {α : Type} (t : Tbl α) (k : Nat) (v : α) : Tbl α :=
  t.filter (fun e => decide (e.1 < k)) ++ (k, v) :: t.filter (fun e => decide (k < e.1))

/-- Removes key k. -/
def tdel {α : Type} (t : Tbl α) (k : Nat) : Tbl α :=
  t.filter (fun e => decide (e.1 < k)) ++ t.filter (fun e => decide (k < e.1))

/-- Applies f to the entry of key k, or to the default. -/
def tmod {α : Type} (t : Tbl α) (k : Nat) (d : α) (f : α → α) : Tbl α := tset t k (f (tget t k d))

/-! Byte memory: a list of cells with rising addresses and no zero byte; an unlisted address reads 0 (R230, log entry 1). -/

abbrev Mem := List Host.Cell

/-- The canonical form: addresses strictly rising, no entry 0. -/
def Mem.wf (m : Mem) : Bool :=
  match m with
  | [] => true
  | [c] => c.2 != 0
  | c :: d :: rest => c.2 != 0 && decide (c.1 < d.1) && Mem.wf (d :: rest)

/-- The byte at address a. -/
def memByte (m : Mem) (a : Nat) : Byte := (m.lookup a).getD 0

/-- n bytes from a on, from cells that start at a or later. -/
def memWalk : Nat → Nat → List Host.Cell → List Byte
  | 0, _, _ => []
  | n + 1, _, [] => 0 :: memWalk n 0 []
  | n + 1, a, c :: cs => if c.1 = a then c.2 :: memWalk n (a + 1) cs else 0 :: memWalk n (a + 1) (c :: cs)

/-- n bytes from address a on. -/
def memRead (m : Mem) (a n : Nat) : List Byte :=
  memWalk n a (m.filter (fun c => decide (a ≤ c.1) && decide (c.1 < a + n)))

/-- The nonzero bytes of a list placed from address a on. -/
def cellsOf (a : Nat) : List Byte → List Host.Cell
  | [] => []
  | b :: bs => if b = 0 then cellsOf (a + 1) bs else (a, b) :: cellsOf (a + 1) bs

/-- Bytes written from address a on. -/
def memWrite (m : Mem) (a : Nat) (bs : List Byte) : Mem :=
  m.filter (fun c => decide (c.1 < a)) ++ cellsOf a bs ++ m.filter (fun c => decide (a + bs.length ≤ c.1))

/-- n bytes from address a on set to 0. -/
def memZero (m : Mem) (a n : Nat) : Mem :=
  m.filter (fun c => decide (c.1 < a)) ++ m.filter (fun c => decide (a + n ≤ c.1))

/-! STATUS codes (R359): class in bits [15:12], position in the class from 1. -/

def stOK : Nat := 0
def stMSG_FORMAT : Nat := 0x1001
def stBAD_OPC : Nat := 0x1002
def stVERSION_REFUSED : Nat := 0x1003
def stBAD_MEMBER : Nat := 0x1004
def stCTX_HALTED : Nat := 0x1005
def stBAD_TOKEN : Nat := 0x1006
def stMGMT_BUSY : Nat := 0x1007
def stMODE_LOCKED : Nat := 0x1008
def stCORE_BUSY : Nat := 0x1009
def stFW_FAIL : Nat := 0x100A
def stNOT_ORPHAN : Nat := 0x100B
def stGROVE_MEMBER : Nat := 0x100C
def stNEEDS_MB3 : Nat := 0x2001
def stBAD_DESCRIPTOR : Nat := 0x2002
def stLEN_OVER_BUCKET : Nat := 0x2003
def stSFU_IMAGE : Nat := 0x2004
def stPROG_BAD : Nat := 0x2005
def stRESOURCE : Nat := 0x2006
def stCHAIN_STAT : Nat := 0x2007
def stCHAIN_STREAMS : Nat := 0x2008
def stACC_CAPACITY : Nat := 0x2009
def stACC_CONFLICT : Nat := 0x200A
def stSFU_CONFLICT : Nat := 0x200B
def stWRITE_OVERLAP : Nat := 0x200C
def stUNORDERED : Nat := 0x200D
def stTOKEN_BALANCE : Nat := 0x200E
def stWAIT_TIMEOUT : Nat := 0x3001
def stTOKEN_OVF : Nat := 0x3002
def stEXP_BOUND : Nat := 0x3003
def stTERRACE_BOUND : Nat := 0x3004
def stUNFILLED_READ : Nat := 0x3005
def stTERRACE_UE : Nat := 0x3006
def stALT_UE : Nat := 0x3007
def stNO_ROUTE : Nat := 0x3008
def stMISROUTED : Nat := 0x3009
def stCHUNK_CRC : Nat := 0x300A
def stCHUNK_AUTH : Nat := 0x300B
def stCHUNK_TIMEOUT : Nat := 0x300C
def stKEY_FAIL : Nat := 0x300D
def stWINDOW_CLOSED : Nat := 0x300E
def stWINDOW_CLASS : Nat := 0x300F
def stWINDOW_RANGE : Nat := 0x3010
def stWINDOW_NOCREDIT : Nat := 0x3011
def stMEMBER_LOST : Nat := 0x3012
def stHOST_LOST : Nat := 0x3013
def stCTX_DESTROYED : Nat := 0x3014
def stLAND_UE : Nat := 0x3015
def stBAD_REGION : Nat := 0x4001
def stBAD_LANDING : Nat := 0x4002
def stBAD_QUOTA : Nat := 0x4003
def stCOMM_BAD : Nat := 0x4004
def stCOMM_BUSY : Nat := 0x4005
def stGROVE_BUSY : Nat := 0x4006
def stGROVE_BAD : Nat := 0x4007
def stNO_CAP : Nat := 0x4008
def stGROVE_MISMATCH : Nat := 0x4009
def stGROVE_INCOMPLETE : Nat := 0x400A
def stSEQ_RANGE : Nat := 0x5001
def stSEQ_BUSY : Nat := 0x5002
def stSEQ_NONE : Nat := 0x5003
def stSEQ_FAULT : Nat := 0x5004
def stBAD_LAYOUT : Nat := 0x5005
def stTABLE_LIMIT : Nat := 0x5006
def stNO_PLOTS : Nat := 0x5007
def stAPPEND_ORDER : Nat := 0x5008
def stSEQ_FULL : Nat := 0x5009
def stAPPEND_ALIGN : Nat := 0x500A
def stAPPEND_PENDING : Nat := 0x500B
def stFORK_LIMIT : Nat := 0x500C
def stLEN_ABOVE : Nat := 0x500D
def stPINNED : Nat := 0x500E
def stPIN_RANGE : Nat := 0x500F
def stNO_COMM : Nat := 0x6001
def stBAD_COLL : Nat := 0x6002
def stSEQ_ORDER : Nat := 0x6003
def stNO_SLOT : Nat := 0x6004
def stSIGNATURE_MISMATCH : Nat := 0x6005
def stCOLL_TIMEOUT : Nat := 0x6006
def stPEER_ABORT : Nat := 0x6007
def stCOLL_ABORTED : Nat := 0x6008

/-! Bits of ERR_STS (R480). -/

def ebTHERM_TRIP : Nat := 0
def ebFW_FAIL : Nat := 1
def ebFW_WATCHDOG : Nat := 2
def ebTER_CE : Nat := 3
def ebTER_UE : Nat := 4
def ebM_POISON : Nat := 5
def ebM_DENY : Nat := 6
def ebALT_LOST : Nat := 7
def ebPATH_FAIL : Nat := 8
def ebPATH_RETRAIN : Nat := 9
def ebHDR_ERR : Nat := 10
def ebGROVE_STALE : Nat := 11
def ebMEMBER_LOST : Nat := 12
def ebHOST_LOST : Nat := 13
def ebCOEF_EXCEED : Nat := 14
def ebCFG_LOCKED : Nat := 15
def ebCTX_HALT : Nat := 16
def ebSQ_OVF : Nat := 17

/-- Sets a bit of ERR_STS: a set wins over a clear in the same TCLK (R14, R480). -/
def setErr (b : Nat) (s : State) : State :=
  { s with sys := { s.sys with errSts := s.sys.errSts ||| (1#64 <<< b), errNow := s.sys.errNow ||| (1#64 <<< b) } }

/-- A count of R472: it stops at FFFF_FFFFh. -/
def satAdd (x n : Nat) : Nat := Nat.min (x + n) 0xFFFFFFFF

/-- A 32-bit counter that stops at FFFF_FFFFh, as a rise by 1. -/
def satInc (x : Nat) : Nat := satAdd x 1

/-- The counters that software may write, as they stand (R14). -/
def countBase (s : State) : CountBase :=
  { wdog := s.sys.wdog, groveStale := s.sys.groveStaleCnt, eccCorr := s.sys.eccCorr, eccPois := s.sys.eccPois
    ces := s.ctxs.map (fun e => (e.1, e.2.counts))
    hdrErr := s.prom.paths.map (fun e => (e.1, e.2.hdrErr)) ++ s.prom.gports.map (fun e => (4 + e.1, e.2.hdrErr))
    coefExc := s.power.coefExc, perf := s.pavs.map (fun e => (e.1, e.2.perfCnt)), altLost := s.alt.lost
    dcHits := s.alt.dcHits.toNat, dcMiss := s.alt.dcMiss.toNat }

/-- The state of firmware core c (R479): 0 running, 1 restarting, 2 held in reset, 3 not yet released. -/
def coreState (s : State) (c : Nat) : Nat := tget s.sys.coreSts c 3

/-- What leaves a port. -/
def emit (o : Out) (s : State) : State := { s with out := s.out ++ [o] }

/-- A free value (log entry 2). -/
def takeFree (s : State) : BitVec 64 × State := (Config.freeWord s.free, { s with free := s.free + 1 })

/-! Contexts. -/

/-- Context c. -/
def getCtx (s : State) (c : Nat) : Ctx := tget s.ctxs c Ctx.free

/-- Context c changed. -/
def modCtx (c : Nat) (f : Ctx → Ctx) (s : State) : State := { s with ctxs := tset s.ctxs c (f (getCtx s c)) }

/-- The counts of context c changed (R484). -/
def modCounts (c : Nat) (f : CtxCounts → CtxCounts) (s : State) : State :=
  modCtx c (fun x => { x with counts := f x.counts }) s

/-- Pavilion p. -/
def getPav (s : State) (p : Nat) : Pav := tget s.pavs p Pav.empty

def modPav (p : Nat) (f : Pav → Pav) (s : State) : State := { s with pavs := tset s.pavs p (f (getPav s p)) }

/-- The program in a slot of a Pavilion. -/
def getProg (s : State) (p : Nat) (q : PSlot) : Option Prog :=
  match q with
  | .a => (getPav s p).progA
  | .b => (getPav s p).progB

def setProg (p : Nat) (q : PSlot) (g : Option Prog) (s : State) : State :=
  modPav p (fun v => match q with
    | .a => { v with progA := g }
    | .b => { v with progB := g }) s

/-- Changes the program in a slot, where there is one. -/
def modProg (p : Nat) (q : PSlot) (f : Prog → Prog) (s : State) : State :=
  match getProg s p q with
  | none => s
  | some g => setProg p q (some (f g)) s

/-- An admitted job that has not completed. -/
def findJob (s : State) (c : Nat) (seq : BitVec 32) : Option Job :=
  s.jobs.find? (fun j => j.ctx == c && j.jobseq == seq)

def modJob (c : Nat) (seq : BitVec 32) (f : Job → Job) (s : State) : State :=
  { s with jobs := s.jobs.map (fun j => if j.ctx == c && j.jobseq == seq then f j else j) }

/-- n free bytes (log entry 2). -/
def freeBytes (n : Nat) (s : State) : List Byte × State :=
  ((List.range n).map (fun i => ((Config.freeWord (s.free + i / 8)) >>> (8 * (i % 8))).truncate 8),
    { s with free := s.free + (n + 7) / 8 })

/-- The other of a Pavilion's two slots. -/
def otherSlot : PSlot → PSlot
  | .a => .b
  | .b => .a

/-- The two slots of a Pavilion. -/
def bothSlots : List PSlot := [.a, .b]

/-- Every program that some Pavilion holds. -/
def allProgs (s : State) : List Prog :=
  s.pavs.flatMap (fun e => [e.2.progA, e.2.progB].filterMap id)

/-! Events (R50 to R53) and counters (R51). -/

/-- The order of R53: (JOB, MEMBER, PAV, TPC, ROW, COL, KIND). -/
def EvKey.list (k : EvKey) : List Nat := [k.job, k.member, k.pav, k.tpc, k.row, k.col, k.kind]

/-- Lexicographic order of number lists. -/
def lexLt : List Nat → List Nat → Bool
  | [], [] => false
  | [], _ => true
  | _, [] => false
  | a :: as, b :: bs => decide (a < b) || (a == b && lexLt as bs)

def EvKey.lt (a b : EvKey) : Bool := lexLt a.list b.list

/-- An event enters a log of 16 by key, evicting the largest of a full log (R52, R53). -/
def logInsert (log : List LogEnt) (e : LogEnt) : List LogEnt :=
  (log.filter (fun x => !e.lt x) ++ e :: log.filter (fun x => e.lt x)).take 16

/-- One event of kinds 1 to 5: the context's log and total, and the job's counters (R51 to R53). -/
def addEvent (c : Nat) (seq : BitVec 32) (e : EvKey) (s : State) : State :=
  let s1 := modCtx c (fun x => { x with log := logInsert x.log e, logTotal := satInc x.logTotal }) s
  let s2 := if e.kind = 4 then modCounts c (fun k => { k with accSat := satInc k.accSat }) s1 else s1
  modJob c seq (fun j =>
    match e.kind with
    | 4 => { j with accSat := satInc j.accSat }
    | 5 => { j with ovfConv := satInc j.ovfConv }
    | _ => { j with
        invalid := satInc j.invalid
        invFirst := match j.invFirst with
          | none => some e
          | some f => if e.lt f then some e else some f }) s2

def addEvents (c : Nat) (seq : BitVec 32) (es : List EvKey) (s : State) : State :=
  es.foldl (fun s e => addEvent c seq e s) s

/-! Trace (R494, R504 to R506) and performance counts (R489, R503). -/

/-- The words of a trace record (R505). Sources queue without a bound here, so DROP is 0 (log entry 22). -/
def traceRecord (s : State) (src type ctx pav status arg0 arg1 : Nat) : BitVec 512 :=
  BitVec.ofNat 512 (s.sys.time.toNat + src * 2 ^ 64 + type * 2 ^ 72 + ctx * 2 ^ 80 + pav * 2 ^ 92 + status * 2 ^ 96 +
    arg0 % 2 ^ 64 * 2 ^ 128 + arg1 % 2 ^ 64 * 2 ^ 192)

/-- The order of records within one TCLK: by SRC, then by PAV (R506). -/
def traceKey (r : BitVec 512) : List Nat := [bits r.toNat 64 3, bits r.toNat 92 4]

/-- Moves the record at position i before those of its own TCLK that come after it in order (R506). -/
def traceSink : Nat → Tbl (BitVec 512) → Nat → Tbl (BitVec 512)
  | 0, b, _ => b
  | f + 1, b, i =>
    let k := (i + 4095) % 4096
    match tget? b k, tget? b i with
    | some x, some y =>
      if bits x.toNat 0 64 = bits y.toNat 0 64 ∧ lexLt (traceKey y) (traceKey x) = true then
        traceSink f (tset (tset b k y) i x) k
      else b
    | _, _ => b

/-- Enters an event into the trace buffer (R494, R506). -/
def traceEv (src type ctx pav status arg0 arg1 : Nat) (s : State) : State :=
  let t := s.trace
  if (s.sys.mode = 1 ∨ s.sys.mode = 2) ∧ t.cfg.getLsbD 0 ∧ t.cfg.getLsbD (8 + src) ∧ !t.stopped then
    let full : Bool := t.next == 4095
    let stop : Bool := full && t.cfg.getLsbD 1
    { s with trace := { t with
        buf := traceSink 4095 (tset t.buf t.next (traceRecord s src type ctx pav status arg0 arg1)) t.next
        next := (t.next + 1) % 4096
        wrapped := t.wrapped || (full && !stop)
        stopped := stop } }
  else s

/-- Adds n occurrences of a performance event to the counters of Pavilion p that select it (R489, R503). -/
def perfEvent (p event n : Nat) (s : State) : State :=
  modPav p (fun v => { v with perfCnt := v.perfSel.foldl (fun t e =>
    if e.2.getLsbD 8 && e.2.toNat % 256 == event then tset t e.1 (tget t e.1 0 + BitVec.ofNat 48 n) else t) v.perfCnt }) s

/-! Context halts (R189, R369, R495). -/

/-- The fault that a command raises: STATUS, FSID (255 for none), and the details of R364. -/
structure RFault where
  status : Nat
  fsid : Nat
  det0 : Nat
  det1 : Nat
  deriving DecidableEq, Repr

/-- A fault without a stream or details. -/
def plainFault (st : Nat) : RFault := ⟨st, 255, 0, 0⟩

/-- The count of R484 that a halt raises beside HALTS. -/
def CtxCounts.halted (st : Nat) (k : CtxCounts) : CtxCounts :=
  let k1 := { k with lastHalt := st, halts := satInc k.halts }
  if st = stUNFILLED_READ then { k1 with unfilledRead := satInc k1.unfilledRead } else k1

/-- The programs of a job stop: no further command is dispatched, and what has not issued is discarded (R189, R395). -/
def stopProg (g : Prog) : Prog := { g with halted := true, queues := [], slotStop := false }

def stopJob (c : Nat) (seq : BitVec 32) (s : State) : State :=
  { s with pavs := s.pavs.map (fun e =>
      let f (o : Option Prog) : Option Prog := o.map (fun g =>
        if g.ctx == c && g.jobseq == seq then stopProg g else g)
      (e.1, { e.2 with
        progA := f e.2.progA
        progB := f e.2.progB
        waitq := e.2.waitq.filter (fun w => !(w.1 == c && w.2.1 == seq))
        saved := e.2.saved.filter (fun v => !(v.prog.ctx == c && v.prog.jobseq == seq)) })) }

/-- The key of R53 of a halt of a job. -/
def haltKey (seq : BitVec 32) (f : JFault) : List Nat := [seq.toNat, f.fmember, f.fpav, f.ftpc]

/-- The keys of the halts that a context has met in this TCLK. -/
def haltsNow (s : State) (x : Ctx) : List (List Nat) := if x.haltNow.1 = s.sys.time then x.haltNow.2 else []

/-- A context after a halt: HALTED, and its counts. Of the halts of one TCLK LAST_HALT takes that of the latest key
(R53, R502). -/
def Ctx.halt (s : State) (st : Nat) (k : List Nat) (x : Ctx) : Ctx :=
  let ks := haltsNow s x
  { x with
    state := if x.state = .active then .halted else x.state
    haltPending := x.haltPending || x.state == .orphan
    haltNow := (s.sys.time, k :: ks)
    counts := { x.counts.halted st with lastHalt := if ks.any (lexLt k) then x.counts.lastHalt else st } }

/-- A halt of a context by a fault of one of its jobs: the faulting job ends, the context becomes HALTED, CTX_HALT,
LAST_HALT and HALTS record it (R189, R369, R480, R484, R495). Of several halts of one job the later one is kept,
and in one TCLK that of the latest key (R502). -/
def haltJob (c : Nat) (seq : BitVec 32) (f : JFault) (s : State) : State :=
  let late := (haltsNow s (getCtx s c)).any (fun k => k.head? == some seq.toNat && lexLt (haltKey seq f) k)
  let s1 := modJob c seq (fun j => { j with fault := if late && j.fault.isSome then j.fault else some f }) s
  let s2 := stopJob c seq s1
  let s3 := modCtx c (Ctx.halt s f.status (haltKey seq f)) s2
  traceEv 1 1 c f.fpav f.status f.ftpc f.fdet0 (setErr ebCTX_HALT s3)

/-- Whether two byte ranges (start, length) share a byte. -/
def rangesMeet (a n b m : Nat) : Bool := decide (0 < n) && decide (0 < m) && decide (a < b + m) && decide (b < a + n)

end Sys2Proof.Machine
end

