-- ==== Sys2Proof/Machine/TerraceOps.lean ====
section
/-!
DEFINITION. The Terrace (R202 to R230) and the memories behind the M-ports with the cache-mode groups in front of them
(R225 to R227): the context view, bounds, fill tags, error correction, plain and accumulating writes.
-/
namespace Sys2Proof.Machine

/-- A piece of an access in one region (R207): its context-view offset, physical offset, length and region. -/
structure Part where
  off : Nat
  phys : Nat
  len : Nat
  region : Region
  deriving DecidableEq, Repr

/-- The pieces of [lo, hi) among regions that begin at view offset `base` (R205). -/
def viewGo (lo hi : Nat) : Nat → List (Nat × Region) → List Part
  | _, [] => []
  | base, e :: rest =>
    let n := e.2.len4k * 4096
    let a := Nat.max lo base
    let b := Nat.min hi (base + n)
    let more := viewGo lo hi (base + n) rest
    if a < b then ⟨a, e.2.base4k * 4096 + (a - base), b - a, e.2⟩ :: more else more

/-- The length of a context view (R205). -/
def viewLen (t : Tbl Region) : Nat := (t.map (fun e => e.2.len4k * 4096)).sum

/-- The pieces of an access of n bytes at view offset off. -/
def viewParts (t : Tbl Region) (off n : Nat) : List Part := viewGo off (off + n) 0 t

/-- The first byte outside the view, rounded down to 4 KiB (R207). -/
def boundDetail (t : Tbl Region) (off : Nat) : Nat := Nat.max off (viewLen t) / 4096 * 4096

/-- The unfilled granule of lowest context-view offset that the parts reach (R216). -/
def unfilledAt (unfilled : List Nat) : List Part → Option Nat
  | [] => none
  | p :: ps =>
    let hit := unfilled.filter (fun g => decide (p.phys / 4096 ≤ g) && decide (g * 4096 < p.phys + p.len))
    match hit with
    | [] => unfilledAt unfilled ps
    | g :: gs =>
      let m := gs.foldl Nat.min g
      some (p.off + m * 4096 - p.phys)

/-- The checks of R207 and R216 on a read or accumulate-write of a context. -/
def terCheck (s : State) (c off n : Nat) : Except RFault (List Part) :=
  let t := (getCtx s c).regions
  if viewLen t < off + n then .error ⟨stTERRACE_BOUND, 255, boundDetail t off, 0⟩
  else
    let ps := viewParts t off n
    match unfilledAt s.ter.unfilled ps with
    | some g => .error ⟨stUNFILLED_READ, 255, g, 0⟩
    | none => .ok ps

/-- The number under which the sideband word of a line holds its flipped bits and its poison (R204, R229): above the
2^26 data words. -/
def sideWord (line : Nat) : Nat := 2 ^ 26 + line

/-- The physical offset of a word of 8 B, or of the line whose sideband word it is. -/
def wordByte (w : Nat) : Nat := if w < 2 ^ 26 then 8 * w else 256 * (w - 2 ^ 26)

/-- The slice of a physical word (R202). -/
def sliceOfWord (w : Nat) : Nat := bits (wordByte w) 25 4

/-- A word of slice sl was marked poisoned: TER_UE and the count of TER_ECC (R480, R483, R501). -/
def countMarked (sl : Nat) (s : State) : State :=
  setErr ebTER_UE { s with sys := { s.sys with eccPois := tset s.sys.eccPois sl (satInc (tget s.sys.eccPois sl 0)) } }

/-- Words of the Terrace that a copy marks poisoned; each that was not poisoned before counts (R501). -/
def terMark (ws : List Nat) (s : State) : State :=
  (ws.filter (fun w => !s.ter.poison.contains w)).foldl (fun s w =>
    countMarked (sliceOfWord w) { s with ter := { s.ter with poison := s.ter.poison ++ [w] } }) s

/-- A read's effect on the words it touches that hold flipped bits (R229): one is corrected and queued for write-back,
two poison the word. -/
def eccTouch (ws : List (Nat × Nat)) (s : State) : State :=
  ws.foldl (fun s e =>
    let sl := sliceOfWord e.1
    if e.2 = 1 then
      setErr ebTER_CE
        { s with
          sys := { s.sys with eccCorr := tset s.sys.eccCorr sl (satInc (tget s.sys.eccCorr sl 0)) }
          ter := { s.ter with wback := s.ter.wback.filter (· != e.1) ++ [e.1] } }
    else
      countMarked sl
        { s with
          ter := { s.ter with
            flips := tdel s.ter.flips e.1
            wback := s.ter.wback.filter (· != e.1)
            poison := s.ter.poison.filter (· != e.1) ++ [e.1] } }) s

/-- Whether word w lies in n bytes from physical offset a. -/
def wordIn (a n w : Nat) : Bool := decide (a < 8 * w + 8) && decide (8 * w < a + n)

/-- The flipped words of some parts, in order. -/
def flipsIn (s : State) (ps : List Part) : List (Nat × Nat) :=
  s.ter.flips.filter (fun e => ps.any (fun p => wordIn p.phys p.len e.1))

/-- Whether a part delivers a poisoned word. -/
def poisonIn (s : State) (ps : List Part) : Bool :=
  s.ter.poison.any (fun w => ps.any (fun p => wordIn p.phys p.len w))

/-- The stored bytes of some parts. -/
def partBytes (m : Mem) (ps : List Part) : List Byte := ps.flatMap (fun p => memRead m p.phys p.len)

/-- The tags of the 8 B words of some parts. -/
def partTags (t : Tbl (BitVec 2)) (ps : List Part) : List (BitVec 2) :=
  ps.flatMap (fun p => (List.range (p.len / 8)).map (fun i => tget t (p.phys / 8 + i) 0))

/-- A read of n bytes at a view offset: bounds, fill tags, error correction, poison (R207, R216, R229). -/
def terRead (s : State) (c off n : Nat) : State × Except RFault (List Byte × List (BitVec 2)) :=
  match terCheck s c off n with
  | .error f => (s, .error f)
  | .ok ps =>
    let s1 := eccTouch (flipsIn s ps) s
    if poisonIn s1 ps then (s1, .error (plainFault stTERRACE_UE))
    else (s1, .ok (partBytes s1.ter.mem ps, partTags s1.ter.tags ps))

/-- The lines of some parts. -/
def partLineNos (ps : List Part) : List Nat :=
  ps.flatMap (fun p => if p.len = 0 then [] else
    (List.range ((p.phys + p.len - 1) / 256 + 1 - p.phys / 256)).map (· + p.phys / 256))

/-- A read of n bytes with their tags, as a wide read of FMT 10 makes it: the sideband words of its lines are
corrected and checked like the data words (R204, R224, R229). -/
def terReadTags (s : State) (c off n : Nat) : State × Except RFault (List Byte × List (BitVec 2)) :=
  match terCheck s c off n with
  | .error f => (s, .error f)
  | .ok ps =>
    let side := (partLineNos ps).map sideWord
    let s1 := eccTouch (s.ter.flips.filter (fun e => side.contains e.1)) s
    match terRead s1 c off n with
    | (s2, .ok r) => if s2.ter.poison.any (side.contains ·) then (s2, .error (plainFault stTERRACE_UE)) else (s2, .ok r)
    | e => e

/-- Whether a write of n bytes at a physical offset covers a word, or the whole line of a sideband word (R204, R229). -/
def wordWhole (phys n w : Nat) : Bool :=
  decide (phys ≤ wordByte w) && decide (wordByte w + (if w < 2 ^ 26 then 8 else 256) ≤ phys + n)

/-- A plain write of bytes at a physical offset: the tags of the words written, poison and flips of whole words, fill
tags of the granules (R204, R215, R229). -/
def terPut (phys : Nat) (bs : List Byte) (tags : List (BitVec 2)) (t : Terrace) : Terrace :=
  let n := bs.length
  let whole (w : Nat) : Bool := wordWhole phys n w
  let hit (w : Nat) : Bool := wordIn phys n w
  let fresh : Tbl (BitVec 2) :=
    ((List.range tags.length).map (fun i => (phys / 8 + i, tags.getD i 0))).filter (fun e => e.2 != 0)
  if n = 0 then t
  else
    { t with
      mem := memWrite t.mem phys bs
      tags := t.tags.filter (fun e => decide (8 * e.1 + 8 ≤ phys)) ++ fresh ++
        t.tags.filter (fun e => decide (8 * e.1 + 8 > phys) && !hit e.1)
      poison := t.poison.filter (fun w => !whole w)
      flips := t.flips.filter (fun e => !whole e.1)
      wback := t.wback.filter (fun w => !whole w)
      unfilled := t.unfilled.filter (fun g => !(decide (phys / 4096 ≤ g) && decide (g * 4096 < phys + n))) }

/-- Pieces of a byte list and its tags laid over parts. -/
def terPutParts : List Part → List Byte → List (BitVec 2) → Terrace → Terrace
  | [], _, _, t => t
  | p :: ps, bs, tags, t =>
    terPutParts ps (bs.drop p.len) (tags.drop (p.len / 8)) (terPut p.phys (bs.take p.len) (tags.take (p.len / 8)) t)

/-- A plain write of a context at a view offset; the bound of R207 only, since a plain write meets no fill tag. -/
def terWrite (s : State) (c off : Nat) (bs : List Byte) (tags : List (BitVec 2)) : State × Except RFault Unit :=
  let t := (getCtx s c).regions
  if viewLen t < off + bs.length then (s, .error ⟨stTERRACE_BOUND, 255, boundDetail t off, 0⟩)
  else ({ s with ter := terPutParts (viewParts t off bs.length) bs tags s.ter }, .ok ())

/-- Whether a word or the sideband word of its line is poisoned: its integer or its tag cannot be combined (R229). -/
def wordBad (t : Terrace) (w : Nat) : Bool := t.poison.contains w || t.poison.contains (sideWord (w / 32))

/-- One word of an accumulate-write at a physical word (R222): finite words add modulo 2^64; a poisoned word stays. -/
def terAddWord (w : Nat) (x : AEl) (t : Terrace) : Terrace :=
  if wordBad t w then t
  else
    let old : AEl := ⟨BitVec.ofNat 64 (leNat (memRead t.mem (8 * w) 8)), tget t.tags w 0⟩
    let new := (old.av.combine x.av).el
    { t with
      mem := memWrite t.mem (8 * w) (leBytes 8 new.v.toNat)
      tags := if new.tag = 0 then tdel t.tags w else tset t.tags w new.tag }

/-- The physical words of some parts. -/
def partWords (ps : List Part) : List Nat := ps.flatMap (fun p => (List.range (p.len / 8)).map (fun i => p.phys / 8 + i))

/-- An accumulate-write of A64 words at a view offset (R216, R222, R229). Nothing is done on an unfilled granule and a
poisoned word stays; every other word adds. Answers the unfilled granule of lowest offset, and whether a word was
poisoned. -/
def terAdd (s : State) (c off : Nat) (xs : List AEl) : State × Option Nat × Bool :=
  let ps := viewParts (getCtx s c).regions off (8 * xs.length)
  let ws := ((partWords ps).zip xs).filter (fun e => !s.ter.unfilled.contains (e.1 / 512))
  let s1 := eccTouch (s.ter.flips.filter (fun f => ws.any (fun e => f.1 == e.1 || f.1 == sideWord (e.1 / 32)))) s
  ({ s1 with ter := ws.foldl (fun t e => terAddWord e.1 e.2 t) s1.ter }, unfilledAt s.ter.unfilled ps,
    ws.any (fun e => wordBad s1.ter e.1))

/-- An accumulate-write with the fault that it raises: TERRACE_BOUND without effect, UNFILLED_READ or TERRACE_UE after
the other words have added (R207, R216, R229). -/
def terAccum (s : State) (c off : Nat) (xs : List AEl) : State × Except RFault Unit :=
  let t := (getCtx s c).regions
  if viewLen t < off + 8 * xs.length then (s, .error ⟨stTERRACE_BOUND, 255, boundDetail t off, 0⟩)
  else
    match terAdd s c off xs with
    | (s1, some g, _) => (s1, .error ⟨stUNFILLED_READ, 255, g, 0⟩)
    | (s1, none, true) => (s1, .error (plainFault stTERRACE_UE))
    | (s1, none, false) => (s1, .ok ())

/-- Bytes of the Terrace set to zero with valid check bits, tags and fill tags dropped (R395, R228). -/
def terClear (phys n : Nat) (t : Terrace) : Terrace :=
  { t with
    mem := memZero t.mem phys n
    tags := t.tags.filter (fun e => !wordIn phys n e.1)
    poison := t.poison.filter (fun w => !wordWhole phys n w)
    flips := t.flips.filter (fun e => !wordWhole phys n e.1)
    wback := t.wback.filter (fun w => !wordWhole phys n w)
    unfilled := t.unfilled.filter (fun g => !(decide (phys / 4096 ≤ g) && decide (g * 4096 < phys + n))) }

/-! Stack memory (M_QSPACE 0) and host memory (M_QSPACE 1) behind the M-ports. -/

/-- The image of an outside memory. -/
def extMem (s : State) (space : Nat) : Mem := if space = 0 then s.ext.stack else s.ext.host

def setExtMem (space : Nat) (m : Mem) (s : State) : State :=
  { s with ext := if space = 0 then { s.ext with stack := m } else { s.ext with host := m } }

/-- The poisoned 8 B words of an outside memory. -/
def extPoison (s : State) (space : Nat) : List Nat := if space = 0 then s.ext.stackPoison else s.ext.hostPoison

def setExtPoison (space : Nat) (l : List Nat) (s : State) : State :=
  { s with ext := if space = 0 then { s.ext with stackPoison := l } else { s.ext with hostPoison := l } }

/-- Whether the surroundings deny a request (R393). -/
def extDenied (s : State) (c space a n : Nat) : Bool :=
  s.ext.deny.any (fun d => d.1 == c && d.2.1 == space && rangesMeet a n d.2.2.1 d.2.2.2)

/-- bs, which stand at address a, with the part that a cached line holds laid over them. -/
def overlay (a : Nat) (bs : List Byte) (l : CacheLine) : List Byte :=
  let la := l.addr * 256
  (List.range bs.length).map (fun i =>
    let x := a + i
    if la ≤ x ∧ x < la + 256 then l.data.getD (x - la) 0 else bs.getD i 0)

/-- n bytes of an outside memory as Ixdon reads them, through the lines that the cache-mode groups hold (R225 to
R227). -/
def extPeek (s : State) (space a n : Nat) : List Byte :=
  (s.ter.lines.filter (fun l => l.space == space && rangesMeet a n (l.addr * 256) 256)).foldl (overlay a)
    (memRead (extMem s space) a n)

/-- The poisoned words of an outside range. -/
def extPoisonIn (s : State) (space a n : Nat) : List Nat := (extPoison s space).filter (wordIn a n)

/-- The requests of an access, queued on their M-ports (R445, R446): pieces within 1 KiB, on port (a div 1 KiB) mod
12. -/
def mQueue (write : Bool) (c : Nat) (priv : Bool) (space a n : Nat) (s : State) : State :=
  (cutAt 1024 (n / 1024 + 2) a n).foldl (fun s k =>
    let r : MReq := ⟨write, c, priv, space, k.1 / 256, (k.1 + k.2 - 1) / 256 + 1 - k.1 / 256⟩
    { s with mports := tmod s.mports (k.1 / 1024 % 12) MPort.empty (fun p => { p with waiting := p.waiting ++ [r] }) }) s

/-- Writes a dirty line back to memory. -/
def writeBack (l : CacheLine) (s : State) : State :=
  if l.dirty then setExtMem l.space (memWrite (extMem s l.space) (l.addr * 256) l.data) s else s

/-- The number of groups in cache mode (R225). -/
def cachedGroups (s : State) : Nat := ((List.range 128).filter (fun g => s.ter.cached.getLsbD g)).length

/-- The slice of the cache-mode group that a line of stack or host memory belongs to: the groups in cache mode are
taken in order of slice and group (R225). -/
def lineSlice (s : State) (line : Nat) : Nat :=
  let gs := (List.range 128).filter (fun g => s.ter.cached.getLsbD g)
  gs.getD (line % gs.length) 0 / 8

/-- The group and set of a line address among G cached groups (R225): the set is the quotient modulo 1,024, DESIGN
CHOICE (log entry 12). -/
def lineSet (g line : Nat) : Nat × Nat := (line % g, line / g % 1024)

/-- A line is allocated; a set that holds 16 lines first evicts the one used longest ago, which is written back when
it is dirty (R225, R226; log entry 12). -/
def cacheAlloc (space line : Nat) (s : State) : State :=
  let g := cachedGroups s
  let set := s.ter.lines.filter (fun l => lineSet g l.addr == lineSet g line)
  let s1 := match set with
    | l :: _ =>
      if set.length < 16 then s
      else
        let s1 := if l.dirty then mQueue true 0 true l.space (l.addr * 256) 256 (writeBack l s) else s
        { s1 with ter := { s1.ter with lines := s1.ter.lines.filter (· != l) } }
    | [] => s
  { s1 with ter := { s1.ter with
    lines := s1.ter.lines ++ [⟨space, line, memRead (extMem s1 space) (line * 256) 256, false⟩] } }

/-- A read of n bytes through the cached groups: a line that it hits is used, one that it misses is allocated (R226); a
poisoned word stays poisoned in its line (R501). -/
def cacheFill (space a n : Nat) (s : State) : State :=
  if cachedGroups s = 0 ∨ n = 0 then s
  else
    let need := (List.range ((a + n - 1) / 256 + 1 - a / 256)).map (· + a / 256)
    need.foldl (fun s x =>
      let hit (l : CacheLine) : Bool := l.space == space && l.addr == x
      match s.ter.lines.find? hit with
      | some l => { s with ter := { s.ter with lines := s.ter.lines.filter (fun y => !hit y) ++ [l] } }
      | none =>
        ((extPoison s space).filter (fun w => w / 32 == x)).foldl (fun s _ => countMarked (lineSlice s x) s)
          (cacheAlloc space x s)) s

/-- A read of outside memory for context c (PRIV 0) or for Ixdon itself (PRIV 1): denied, or the bytes with their
poisoned words. A delivery of poison sets M_POISON, a denial M_DENY (R393, R449, R501). -/
def extRead (s : State) (c : Nat) (priv : Bool) (space a n : Nat) : State × Option (List Byte × List Nat) :=
  if !priv && extDenied s c space a n then (setErr ebM_DENY s, none)
  else
    let bs := extPeek s space a n
    let pw := extPoisonIn s space a n
    let s1 := mQueue false c priv space a n (cacheFill space a n s)
    (if pw.isEmpty then s1 else setErr ebM_POISON s1, some (bs, pw))

/-- A line with bytes at address a laid over it. -/
def lineWrite (a : Nat) (bs : List Byte) (l : CacheLine) : CacheLine :=
  let la := l.addr * 256
  { l with data := (List.range 256).map (fun i =>
      let x := la + i
      if a ≤ x ∧ x < a + bs.length then bs.getD (x - a) 0 else l.data.getD i 0) }

/-- A write to outside memory. `cached` marks the group's own write path, which updates a line it hits and marks it
dirty; every other writer of Ixdon writes memory and leaves no line behind (R226, R227). Whole words lose their poison;
the words named in `pw` keep theirs (R501). -/
def extPut (space a : Nat) (bs : List Byte) (pw : List Nat) (cached : Bool) (s : State) : State :=
  let n := bs.length
  let hit (l : CacheLine) : Bool := l.space == space && rangesMeet a n (l.addr * 256) 256
  let s1 := (s.ter.lines.filter hit).foldl (fun s l => if cached then s else writeBack l s) s
  let lines := if cached then s1.ter.lines.map (fun l => if hit l then { lineWrite a bs l with dirty := true } else l)
    else s1.ter.lines.filter (fun l => !hit l)
  let inLine (x : Nat) : Bool := cached && s1.ter.lines.any (fun l => l.space == space && l.addr == x / 256)
  let old := extMem s1 space
  let mixed := (List.range n).map (fun i => if inLine (a + i) then memByte old (a + i) else bs.getD i 0)
  let whole (w : Nat) : Bool := decide (a ≤ 8 * w) && decide (8 * w + 8 ≤ a + n)
  let kept := (extPoison s1 space).filter (fun w => !whole w && !pw.contains w)
  let s2 := setExtMem space (memWrite old a (if cached then mixed else bs)) s1
  let s3 := setExtPoison space (kept ++ pw) s2
  { s3 with ter := { s3.ter with lines := lines } }

/-- A write for context c: false when the surroundings deny it (R393). -/
def extWrite (s : State) (c : Nat) (priv : Bool) (space a : Nat) (bs : List Byte) (pw : List Nat) (cached : Bool) :
    State × Bool :=
  if !priv && extDenied s c space a bs.length then (setErr ebM_DENY s, false)
  else (mQueue true c priv space a bs.length (extPut space a bs pw cached s), true)

end Sys2Proof.Machine
end

