-- ==== Sys2Proof/Machine/Operands.lean ====
section
/-!
DEFINITION. Streams as operands: their layout (R232, R510), reads and writes in every SPACE of R174, Allotment tokens
(R238, R251, R253), landing views and the chunks of a landing write (R273, R276, R278).
-/
namespace Sys2Proof.Machine

/-- A computation that may raise a fault; what it did to the state before stays (R189). -/
abbrev Eff := ExceptT RFault (StateM State)

def raise {α : Type} (f : RFault) : Eff α := throw f

/-- Runs a computation. -/
def Eff.exec {α : Type} (m : Eff α) (s : State) : Except RFault α × State := (ExceptT.run m).run s

/-- Names a stream in a fault that names none (R363). -/
def RFault.inStream (sid : Nat) (f : RFault) : RFault := if f.fsid = 255 then { f with fsid := sid } else f

/-- A computation from a step with a result. -/
def liftStep {α : Type} (sid : Nat) (f : State → State × Except RFault α) : Eff α := do
  let s ← get
  let (s1, r) := f s
  set s1
  match r with
  | .ok a => pure a
  | .error e => raise (e.inStream sid)

/-! USE codes of R174. -/

def uQ : Nat := 0
def uK : Nat := 1
def uV : Nat := 2
def uO : Nat := 3
def uDO : Nat := 4
def uLSE : Nat := 5
def uD : Nat := 6
def uG : Nat := 7
def uRES : Nat := 8
def uMASK : Nat := 9
def uSEG : Nat := 10
def uNW : Nat := 11
def uNB : Nat := 12
def uROW : Nat := 13
def uODEST : Nat := 14
def uLSEDEST : Nat := 15
def uPART : Nat := 16
def uDUMP : Nat := 17
def uOPRE : Nat := 18
def uDDEST : Nat := 19
def uDQACC : Nat := 20
def uDKVACC : Nat := 21
def uDQDEST : Nat := 22
def uDKDEST : Nat := 23
def uDVDEST : Nat := 24
def uROWDEST : Nat := 25
def uMAX : Nat := 26

/-- Rows in one tile of a USE (R179, R190, R178 for row passes). -/
def tileRows (d : Desc) (use : Nat) : Nat :=
  if d.jtype = 3 then 64
  else if use = uK ∨ use = uV ∨ use = uDKVACC ∨ use = uDKDEST ∨ use = uDVDEST then d.k
  else if use = uNW ∨ use = uNB ∨ use = uSEG then 1
  else d.q

/-- Elements in one row of a stream (R75, R86, R97, R108, R125, R510; the PART_DEST of MODE 1 under log entry 20). -/
def rowElems (d : Desc) (x : Stream) : Nat :=
  if d.jtype = 3 then d.e.rowlen
  else if x.use = uLSE ∨ x.use = uLSEDEST ∨ x.use = uD ∨ x.use = uDDEST ∨ x.use = uMAX then 1
  else if x.use = uPART then (if d.a.mode = 1 then d.dim + 1 else d.dim + 2)
  else if x.use = uDKVACC then 2 * d.dim
  else if x.use = uDUMP then d.p.kpad
  else if x.use = uMASK then 2 * ceilDiv d.p.kpad 64
  else if x.use = uSEG then x.length / 4
  else if x.use ≤ uV ∧ (d.pro x.use).norm ≠ 0 then (d.pro x.use).normLen
  else d.dim

/-- Bits of one element of a stream. -/
def streamBits (x : Stream) : Nat := if x.fmt = 10 then 64 else elemBits x.fmt

/-- Whether a stream's scales run along tokens: an MX V_SRC (R510). -/
def groupedV (d : Desc) (x : Stream) : Bool := x.use == uV && isMx x.fmt && d.jtype != 3

/-- Rows and bytes of a layout unit: a row, or a group of 32 rows of an MX V_SRC (R510). -/
def unitRows (d : Desc) (x : Stream) : Nat := if groupedV d x then 32 else 1

/-- Bytes of the packed elements of a row. -/
def dataBytes (d : Desc) (x : Stream) : Nat := ceilDiv (rowElems d x * streamBits x) 8

def unitBytes (d : Desc) (x : Stream) : Nat :=
  if groupedV d x then 32 * dataBytes d x + rowElems d x
  else dataBytes d x + (if isMx x.fmt then ceilDiv (rowElems d x) 32 else 0)

/-- Bytes from one unit to the next; MASK_STREAM's layout is fixed (R75, R510). -/
def unitStride (d : Desc) (x : Stream) : Nat :=
  if x.rstride = 0 ∨ x.use = uMASK then unitBytes d x else x.rstride

/-- W of R232: the row bytes of a plot. -/
def plotW (fmt dim : Nat) : Nat := dim * elemBits fmt / 8

/-- Bytes of a plot up to the end of its scale areas (R231, R232). -/
def plotBytes (fmt dim : Nat) : Nat := 256 * plotW fmt dim + (if isMx fmt then 8 * dim else 0)

/-- The plot class: the smallest of 16, 32 and 64 KiB, 3 when none holds it (R231). -/
def plotClass (fmt dim : Nat) : Nat :=
  let n := plotBytes fmt dim
  if n ≤ 16384 then 0 else if n ≤ 32768 then 1 else if n ≤ 65536 then 2 else 3

def classBytes (c : Nat) : Nat := 16384 * 2 ^ c

/-! Landing views (R276, R278, R279). -/

def nbufOf (e : Landing) : Nat := 2 ^ e.nbufCode

/-- A piece of a landing-view range: LID, entry, landing-view start of the entry, offset in the entry, length. -/
structure LPart where
  lid : Nat
  ent : Landing
  start : Nat
  inner : Nat
  len : Nat
  deriving DecidableEq, Repr

def landGo (lo hi : Nat) : Nat → List (Nat × Landing) → List LPart
  | _, [] => []
  | base, e :: rest =>
    if !e.2.valid then landGo lo hi base rest
    else
      let n := e.2.len4k * 4096
      let a := Nat.max lo base
      let b := Nat.min hi (base + n)
      let more := landGo lo hi (base + n) rest
      if a < b then ⟨e.1, e.2, base, a - base, b - a⟩ :: more else more

def landParts (t : Tbl Landing) (off n : Nat) : List LPart := landGo off (off + n) 0 t

def landViewLen (t : Tbl Landing) : Nat := ((t.filter (fun e => e.2.valid)).map (fun e => e.2.len4k * 4096)).sum

/-- Where buffer `buf` of a piece lies: a context-view offset (PLACE 0) or a stack address (PLACE 1). -/
def LPart.addr (p : LPart) (buf : Nat) : Nat := p.ent.loc4k * 4096 + buf * p.ent.len4k * 4096 + p.inner

/-- The entry of role r in bank e mod 2 (R196). -/
def roleOf (x : Ctx) (e r : Nat) : Role := tget (if e % 2 = 0 then x.roles0 else x.roles1) r Role.absent

/-- Whether a role stands on this instance: the path of a standalone instance is not set (R330). -/
def roleHere (s : State) (r : Role) : Bool := r.upath == s.grove.upathSelf

/-! Reads. -/

/-- n bytes at offset off of a stream, with the tags of their 8 B words, for a program in epoch ep. -/
def streamRead (c ep : Nat) (x : Stream) (off n : Nat) : Eff (List Byte × List (BitVec 2)) := do
  let outside (space a m : Nat) : Eff (List Byte) := do
    let s ← get
    let (s1, r) := extRead s c false space a m
    set s1
    match r with
    | none => raise ⟨stRESOURCE, x.sid, 0, 0⟩
    | some (bs, pw) => if pw.isEmpty then pure bs else raise ⟨stTERRACE_UE, x.sid, 0, 0⟩
  let terrace (a m : Nat) : Eff (List Byte × List (BitVec 2)) :=
    liftStep x.sid (fun s => if x.fmt = 10 then terReadTags s c a m else terRead s c a m)
  match x.space with
  | 0 => terrace (x.base + off) n
  | 1 => do pure (← outside 0 (x.base + off) n, [])
  | 4 => do pure (← outside 1 (x.base + off) n, [])
  | 3 =>
    let s ← get
    let ps := landParts (getCtx s c).landing (x.base + off) n
    let rs ← ps.mapM (fun p => do
      let buf := ep % nbufOf p.ent
      if p.ent.place = 0 then terrace (p.addr buf) p.len
      else do pure (← outside 0 (p.addr buf) p.len, []))
    pure (rs.flatMap (·.1), rs.flatMap (·.2))
  | _ => pure (List.replicate n 0, [])

/-- Element codes of w bits packed in bytes (R232, R510). -/
def unpackCodes (w n : Nat) (bs : List Byte) : List Nat :=
  let x := leNat bs
  (List.range n).map (fun c => bits x (c * w) w)

/-- Packed codes as bytes. -/
def packCodes (w : Nat) (codes : List Nat) : List Byte :=
  leBytes (ceilDiv (codes.length * w) 8)
    (codes.foldr (fun c acc => c % 2 ^ w + acc * 2 ^ w) 0)

/-! The Allotment's translation (R237, R238, R253). -/

def seqDescAddr (s : State) (seq : Nat) : Nat := s.alt.descBase + 64 * seq

/-- A sequence's descriptor (R237), as a 512-bit number. -/
def seqDesc (s : State) (seq : Nat) : Nat := leNat (extPeek s 0 (seqDescAddr s seq) 64)

/-- The descriptors that the descriptor cache holds (R254). -/
def dcacheSize : Nat := 32768

/-- A lookup of a sequence's descriptor: a hit, or a miss that enters it, in place of the one used longest ago when
the cache is full (R254, R490; the replacement is log entry 80's choice). -/
def descLookup (seq : Nat) (s : State) : State :=
  let a := s.alt
  let rest := a.dcache.filter (· != seq)
  if a.dcache.contains seq then { s with alt := { a with dcache := rest ++ [seq], dcHits := a.dcHits + 1 } }
  else { s with alt := { a with
    dcache := (if a.dcache.length < dcacheSize then rest else rest.drop 1) ++ [seq], dcMiss := a.dcMiss + 1 } }

/-- The plot transfers in flight (R256, R490): those that have begun in this TCLK. -/
def xfersNow (s : State) : Nat := if s.alt.xfers.1 = s.sys.time then s.alt.xfers.2 else 0

/-- n plot transfers begin; beyond the 16,384 slots they take the slots that fall free (R256). -/
def beginXfers (n : Nat) (s : State) : State :=
  { s with alt := { s.alt with xfers := (s.sys.time, Nat.min 16384 (xfersNow s + n)) } }

def poolBaseOf (s : State) (cls : Nat) : Nat :=
  match cls with
  | 0 => s.alt.poolBase.1
  | 1 => s.alt.poolBase.2.1
  | _ => s.alt.poolBase.2.2

/-- The address of a plot: the low 24 bits of its index number it in its class (R233). -/
def plotAddr (s : State) (cls pidx : Nat) : Nat := poolBaseOf s cls + pidx % 2 ^ 24 * classBytes cls

/-- VLEN(l) of R250. -/
def seqVlen (d l : Nat) : Nat := if l < bits d 128 8 then bits d 96 32 else bits d 64 32

/-- Whether a stack range holds a poisoned word. -/
def stackPoisoned (s : State) (a n : Nat) : Bool := !(extPoisonIn s 0 a n).isEmpty

/-- The address of the level-2 entry of table position i (R238); none when level 1 has no page. -/
def l2Addr (s : State) (d i : Nat) : Option Nat :=
  let e1 := leNat (extPeek s 0 (plotAddr s (bits d 25 2) (bits d 224 26) + 8 * (i / 2048)) 8)
  if bit e1 26 then some (plotAddr s 0 (bits e1 0 26) + 8 * (i % 2048)) else none

/-- NPAIR (R238). -/
def seqPairs (d : Nat) : Nat := (bits d 32 8 + 1) * (bits d 40 8 + 1)

/-- The plot of block j of pair (l, g): its stack address (R238). ALT_UE where a table word is poisoned or invalid
(R253, R260). -/
def plotOf (sid seq l g j : Nat) : Eff Nat := do
  let s ← get
  let ue : RFault := ⟨stALT_UE, sid, seq, 0⟩
  if stackPoisoned s (seqDescAddr s seq) 64 then raise ue
  let d := seqDesc s seq
  let i := j * seqPairs d + l * (bits d 40 8 + 1) + g
  if stackPoisoned s (plotAddr s (bits d 25 2) (bits d 224 26) + 8 * (i / 2048)) 8 then raise ue
  match l2Addr s d i with
  | none => raise ue
  | some a =>
    if stackPoisoned s a 8 then raise ue
    let e := leNat (extPeek s 0 a 8)
    if bit e 26 then pure (plotAddr s (bits d 23 2) (bits e 0 26)) else raise ue

/-- Key or value row of slot t of a plot image at a reader (R232): its elements' exact values. -/
def plotRow (fmt dim : Nat) (isV : Bool) (t : Nat) (rd : Nat → Nat → Eff (List Byte)) : Eff (List XV) := do
  let w := plotW fmt dim
  let bs ← rd ((if isV then 128 * w else 0) + t * w) w
  let codes := unpackCodes (elemBits fmt) dim bs
  if isMx fmt then
    if isV then
      let sc ← rd (256 * w + 4 * dim + t / 32 * dim) dim
      pure ((codes.zip sc).map (fun e => mxVal fmt e.2.toNat e.1))
    else
      let sc ← rd (256 * w + t * (dim / 32)) (dim / 32)
      pure ((codes.zip (List.range dim)).map (fun e => mxVal fmt (sc.getD (e.2 / 32) 0).toNat e.1))
  else pure (codes.map (fun c => (fmtOf fmt).val c))

/-- A token row of a SPACE 2 stream under the job's snapshot: zeros at or above VLEN (R250, R251). -/
def tokenRow (c : Nat) (j : Job) (x : Stream) (tok : Nat) : Eff (List XV) := do
  let seq := x.base % 2 ^ 18
  let vlen := ((j.snaps.find? (fun n => n.sid == x.sid)).map (fun n => n.vlen)).getD 0
  let dim := j.desc.dim
  if vlen ≤ tok then pure (List.replicate dim .zero)
  else
    let a ← plotOf x.sid seq x.layer x.kvg (tok / 128)
    plotRow x.fmt dim (x.use == uV) (tok % 128) (fun off n => do
      let s ← get
      let (s1, r) := extRead s c true 0 (a + off) n
      set s1
      match r with
      | none => raise ⟨stRESOURCE, x.sid, 0, 0⟩
      | some (bs, pw) => if pw.isEmpty then pure bs else raise ⟨stTERRACE_UE, x.sid, 0, 0⟩)

/-- Whether a SPACE 3 source holds plot images (R258, R510): its landing entry last received PLOT chunks (log entry
21). -/
def plotImages (s : State) (c : Nat) (x : Stream) : Bool :=
  x.space == 3 && (x.use == uK || x.use == uV) &&
    (landParts (getCtx s c).landing x.base 1).any (fun p => (getCtx s c).plotLids.contains p.lid)

/-- Row r of a stream, its elements col0 to col0 + n − 1, as exact values (R33, R510). FMT 10 is read by `rowWords`. -/
def rowVals (j : Job) (ep : Nat) (x : Stream) (r col0 n : Nat) : Eff (List XV) := do
  let s ← get
  let c := j.ctx
  let d := j.desc
  if x.space = 2 then do
    let xs ← tokenRow c j x r
    pure ((xs.drop col0).take n)
  else if plotImages s c x then do
    let cls := classBytes (plotClass x.fmt d.dim)
    let xs ← plotRow x.fmt d.dim (x.use == uV) (r % 128)
      (fun off m => do pure (← streamRead c ep x (r / 128 * cls + off) m).1)
    pure ((xs.drop col0).take n)
  else
    let w := streamBits x
    let u := unitRows d x
    let base := r / u * unitStride d x
    let rowAt := base + r % u * dataBytes d x
    let lo := col0 * w / 8
    let hi := ceilDiv ((col0 + n) * w) 8
    let (bs, _) ← streamRead c ep x (rowAt + lo) (hi - lo)
    let xnum := leNat bs >>> (col0 * w - 8 * lo)
    let codes := (List.range n).map (fun i => bits xnum (i * w) w)
    if isMx x.fmt then
      if groupedV d x then
        let (sc, _) ← streamRead c ep x (base + 32 * dataBytes d x + col0) n
        pure ((codes.zip sc).map (fun e => mxVal x.fmt e.2.toNat e.1))
      else
        let b0 := col0 / 32
        let (sc, _) ← streamRead c ep x (rowAt + dataBytes d x + b0) (ceilDiv (col0 + n) 32 - b0)
        pure ((codes.zip (List.range n)).map (fun e => mxVal x.fmt (sc.getD ((col0 + e.2) / 32 - b0) 0).toNat e.1))
    else pure (codes.map (fun cd => (fmtOf x.fmt).val cd))

/-- Row r of an FMT 10 stream: A64 words with their tags (R204). -/
def rowWords (j : Job) (ep : Nat) (x : Stream) (r col0 n : Nat) : Eff (List AEl) := do
  let (bs, tags) ← streamRead j.ctx ep x (r * unitStride j.desc x + 8 * col0) (8 * n)
  let ws := leWords 8 n bs
  pure ((List.range n).map (fun i => ⟨BitVec.ofNat 64 (ws.getD i 0), tags.getD i 0⟩))

/-! Writes. -/

/-- What a command writes: offset in the stream, bytes, tags of FMT 10 words. -/
structure WSpan where
  off : Nat
  data : List Byte
  tags : List (BitVec 2)
  deriving DecidableEq, Repr

/-- Joins spans that follow each other without a gap. -/
def joinSpans : List WSpan → List WSpan
  | [] => []
  | a :: rest =>
    match joinSpans rest with
    | [] => [a]
    | b :: more =>
      if a.off + a.data.length = b.off then ⟨a.off, a.data ++ b.data, a.tags ++ b.tags⟩ :: more else a :: b :: more

/-- Who writes: context, Pavilion, job, command number, role, epoch, and whether over the DMA path (R227). -/
structure Writer where
  ctx : Nat
  pav : Nat
  jobseq : BitVec 32
  num : Nat
  role : Nat
  epoch : Nat
  slot : PSlot
  dma : Bool
  deriving DecidableEq, Repr

/-! Routes (R265). -/

/-- The n outermost levels of a unit path (R329): the levels stand from bit 47 down. -/
def pathPrefix (n : Nat) (u : UPath) : Nat := u.toNat >>> (48 - 8 * n)

/-- Whether a route entry is valid and matches a destination (R265). -/
def routeMatches (r : BitVec 64) (u : UPath) : Bool :=
  let n := bits r.toNat 48 3
  1 ≤ n && n ≤ 6 && pathPrefix n (BitVec.ofNat 48 (bits r.toNat 0 48)) == pathPrefix n u

/-- The port that a route entry names. -/
def routePort (r : BitVec 64) : LinkPort :=
  if bit r.toNat 53 then .gport (Fin.ofNat 4 (bits r.toNat 51 2)) else .path (Fin.ofNat 4 (bits r.toNat 51 2))

/-- The matching entry of the largest PLEN, the lowest index among equals (R265). -/
def routeOf (s : State) (u : UPath) : Option LinkPort :=
  ((s.prom.routes.filter (fun e => e.1 < 64 && routeMatches e.2 u)).foldl (fun best e =>
    match best with
    | none => some e.2
    | some b => if bits b.toNat 48 3 < bits e.2.toNat 48 3 then some e.2 else best) none).map routePort

/-- The link of a port. -/
def getLink (s : State) : LinkPort → Link
  | .path p => tget s.prom.paths p.val Link.down
  | .gport g => tget s.prom.gports g.val Link.down

/-- Whether a port is a path that speaks PL2 (R263). -/
def isPl2 (s : State) : LinkPort → Bool
  | .path p => (tget s.prom.paths p.val Link.down).cfg.getLsbD 1
  | .gport _ => false

/-- The largest chunk toward a landing owner (R273, R292). -/
def chunkLimit (s : State) (u : UPath) : Nat :=
  match routeOf s u with
  | some p => if isPl2 s p then 32768 else 65536
  | none => 65536

/-- The lowest free entry of the send table; a number of 16,384 or more is that of a chunk that waits for a free entry,
after those that wait already (R273). -/
def freeStag (t : Tbl SendEnt) : Option Nat :=
  match (t.filter (fun e => 16384 ≤ e.1)).map (·.1) with
  | [] => (List.range (t.length + 1)).find? (fun i => !t.any (fun e => e.1 == i))
  | ws => some (ws.foldl Nat.max 0 + 1)

/-- Whether a port is a path with EXPOSED set (R263, R290). -/
def exposedPort (s : State) : LinkPort → Bool
  | .path p => (getLink s (.path p)).cfg.getLsbD 2
  | .gport _ => false

/-- Whether the route to an instance is an exposed path. -/
def exposedPeer (s : State) (u : UPath) : Bool :=
  match routeOf s u with
  | some p => exposedPort s p
  | none => false

/-- The send slot in force toward a peer (R413, R414): not one that a replacement is still installing. -/
def sendKey (s : State) (u : UPath) : Option (Nat × KeySlot) :=
  s.prom.keys.find? (fun e => e.2.peer == u && e.2.send && !e.2.old &&
    !((tget? s.prom.shakes u.toNat).map (fun h => h.sendSlot == e.1)).getD false)

/-- The receiver's slot of the key that a chunk entering the send table toward a peer uses (R414). -/
def entryKey (s : State) (u : UPath) : Option Nat :=
  if exposedPeer s u then (sendKey s u).map (fun k => k.2.peerSlot) else none

/-- Sets flag f of context c; a set of a flag that is set counts FLAG_REPEAT (R186). -/
def setFlag (c f : Nat) (s : State) : State :=
  modCtx c (fun x =>
    if x.flags.getLsbD f then { x with counts := { x.counts with flagRepeat := satInc x.counts.flagRepeat } }
    else { x with flags := x.flags ||| (1#4096 <<< f) }) s

/-- The next chunk number of a program for a landing entry in its epoch (R273). -/
def takeCseq (w : Writer) (lid : Nat) (s : State) : Nat × State :=
  match getProg s w.pav w.slot with
  | none => (0, s)
  | some g =>
    let key := lid
    let n := tget g.cseq key 0
    (n, setProg w.pav w.slot (some { g with cseq := tset g.cseq key ((n + 1) % 65536) }) s)

/-- The 8 B words of n bytes at address a that a copy's bad words reach. -/
def badWords (a n : Nat) (bad : List Int) : List Nat :=
  (List.range ((a + n + 7) / 8 - a / 8)).filterMap (fun i =>
    let w := a / 8 + i
    let rel : Int := ((8 * w : Nat) : Int) - (a : Int)
    if bad.any (fun b => decide (b < rel + 8) && decide (rel < b + 8)) then some w else none)

/-- The poison map of a chunk: one bit for each 256 B line (R275, R285). -/
def poisonLines (n : Nat) (bad : List Int) : BitVec 256 :=
  BitVec.ofNat 256 (((List.range (ceilDiv n 256)).filter (fun i =>
    bad.any (fun b => decide (b < ((256 * i + 256 : Nat) : Int)) && decide (((256 * i : Nat) : Int) < b + 8)))).map
    (fun i => 2 ^ i)).sum

/-- Words of n bytes written at a view offset that a copy marked: they stay poisoned in their new place (R501). -/
def markBad (c off n : Nat) (bad : List Int) (s : State) : State :=
  let ws := (viewParts (getCtx s c).regions off n).flatMap (fun p =>
    badWords p.phys p.len (bad.map (fun b => b - ((p.off - off : Nat) : Int))))
  terMark ws s

/-- Runs parts that each take effect, and then raises the first fault that one of them met (R216, R229). -/
def eachThenRaise {α β : Type} (xs : List α) (f : α → Eff (List β)) : Eff (List β) := do
  let rs ← xs.mapM (fun x => do
    let s ← get
    let (r, s1) := (f x).exec s
    set s1
    pure r)
  match rs.findSome? (fun r => match r with
      | .error e => some e
      | .ok _ => none) with
  | some e => raise e
  | none => pure (rs.flatMap (fun r => match r with
      | .ok v => v
      | .error _ => []))

/-- One chunk of a landing write (R273): local when owner and sender stand on one instance (R278), else an entry of the
send table. Answers the STAG it waits on. -/
def landChunk (w : Writer) (x : Stream) (acc plot : Bool) (p : LPart) (off : Nat) (bs : List Byte)
    (tags : List (BitVec 2)) (bad : List Int) : Eff (List Nat) := do
  let (cs, s0) := takeCseq w p.lid (← get)
  set s0
  let ctx := getCtx s0 w.ctx
  let owner := roleOf ctx w.epoch p.ent.owner
  let sender := roleOf ctx w.epoch p.ent.sender
  if !owner.valid || !sender.valid then raise ⟨stPROG_BAD, x.sid, 0, 0⟩
  if roleHere s0 owner then
    let buf := w.epoch % nbufOf p.ent
    let at_ := p.ent.loc4k * 4096 + buf * p.ent.len4k * 4096 + (off - p.start)
    if p.ent.place = 0 then
      if acc then
        let ws := leWords 8 (bs.length / 8) bs
        liftStep x.sid (fun s => terAccum s w.ctx at_
          ((List.range ws.length).map (fun i => ⟨BitVec.ofNat 64 (ws.getD i 0), tags.getD i 0⟩)))
      else
        liftStep x.sid (fun s => terWrite s w.ctx at_ bs tags)
        modifyThe State (markBad w.ctx at_ bs.length bad)
    else
      let (s1, ok) := extWrite (← get) w.ctx false 0 at_ bs (badWords at_ bs.length bad) false
      set s1
      if !ok then raise ⟨stRESOURCE, x.sid, 0, 0⟩
    modify (fun s => setFlag w.ctx (p.ent.flag0 + cs % (p.ent.flagnM1 + 1))
      (modCtx w.ctx (fun y => { y with plotLids := (y.plotLids.filter (· != p.lid)) ++ (if plot then [p.lid] else []) }) s))
    pure []
  else
    let s1 ← get
    match freeStag s1.prom.sends with
    | none => pure []
    | some stag =>
      let way := routeOf s1 owner.upath
      if way.isNone && decide (stag < 16384) then raise ⟨stNO_ROUTE, x.sid, 0, 0⟩
      let e : SendEnt :=
        { port := way.getD (.path 0), ctx := w.ctx, pav := w.pav, jobseq := w.jobseq, num := w.num, lid := p.lid, epoch := w.epoch, loff := off
          cseq := cs, drole := p.ent.owner, srole := p.ent.sender, repoch := owner.repoch, dupath := owner.upath
          acc := acc, plot := plot, poison := poisonLines bs.length bad, data := bs, tags := tags, attempt := 0, nonce := 0
          kslot := entryKey s1 owner.upath
          credits := 0, widx := 0, wgen := 0, sent := false }
      set { s1 with prom := { s1.prom with sends := tset s1.prom.sends stag e } }
      pure [stag]

/-- The largest chunk of a landing entry's owner in the writer's epoch. -/
def entryLimit (s : State) (w : Writer) (p : LPart) : Nat :=
  chunkLimit s (roleOf (getCtx s w.ctx) w.epoch p.ent.owner).upath

/-- A landing write of one span. -/
def landWrite (w : Writer) (x : Stream) (acc : Bool) (sp : WSpan) : Eff (List Nat) := do
  let s ← get
  let ps := landParts (getCtx s w.ctx).landing (x.base + sp.off) sp.data.length
  let chunks := ps.flatMap (fun p =>
    (cutAt (entryLimit s w p) (p.len / 32768 + 2) (p.start + p.inner) p.len).map (fun k => (p, k)))
  let put (e : LPart × Nat × Nat) : Eff (List Nat) :=
    let rel := e.2.1 - (x.base + sp.off)
    landChunk w x acc false e.1 e.2.1 ((sp.data.drop rel).take e.2.2) ((sp.tags.drop (rel / 8)).take (e.2.2 / 8)) []
  if acc then eachThenRaise chunks put else pure (← chunks.mapM put).flatten

/-- A plain write of one span to a stream: the chunks it waits on. -/
def spanWrite (w : Writer) (x : Stream) (sp : WSpan) : Eff (List Nat) := do
  match x.space with
  | 0 => liftStep x.sid (fun s => terWrite s w.ctx (x.base + sp.off) sp.data sp.tags); pure []
  | 3 => landWrite w x false sp
  | sp4 =>
    let (s1, ok) := extWrite (← get) w.ctx false (if sp4 = 1 then 0 else 1) (x.base + sp.off) sp.data [] (!w.dma)
    set s1
    if ok then pure [] else raise ⟨stRESOURCE, x.sid, 0, 0⟩

/-- A plain write of spans (R204). -/
def streamWrite (w : Writer) (x : Stream) (sps : List WSpan) : Eff (List Nat) := do
  let rs ← (if x.space = 3 then joinSpans sps else sps).mapM (spanWrite w x)
  pure rs.flatten

/-- An accumulate-write of spans (R222, R273): every span adds where it can, and the first fault is raised after the
last (R216, R229). -/
def streamAccum (w : Writer) (x : Stream) (sps : List WSpan) : Eff (List Nat) :=
  eachThenRaise (if x.space = 3 then joinSpans sps else sps) (fun sp => do
    match x.space with
    | 3 => landWrite w x true sp
    | _ =>
      let ws := leWords 8 (sp.data.length / 8) sp.data
      liftStep x.sid (fun s => terAccum s w.ctx (x.base + sp.off)
        ((List.range ws.length).map (fun i => ⟨BitVec.ofNat 64 (ws.getD i 0), sp.tags.getD i 0⟩)))
      pure [])

/-- An event of a command: (KIND, row, column, UNIT) in its logical tile (R512). -/
abbrev Ev := Nat × Nat × Nat × Nat

/-- A row encoded into a stream's format: bytes relative to the row's start (an MX row has two pieces), the values
written, and OVF_CONV events at their columns (R55, R56). -/
def encodeRow (d : Desc) (x : Stream) (r col0 : Nat) (vals : List XV) (unit row : Nat) :
    List WSpan × List XV × List Ev :=
  let w := streamBits x
  let at_ := r * unitStride d x
  if isMx x.fmt then
    let blocks := cut 32 (vals.length / 32 + 1) vals
    let enc := blocks.map (mxEncode x.fmt)
    let codes := enc.flatMap (fun e => e.2.1)
    let scales := enc.map (fun e => BitVec.ofNat 8 e.1)
    let outv := enc.flatMap (fun e => e.2.1.map (mxVal x.fmt e.1))
    let evs := ((List.range enc.length).zip enc).filterMap (fun e => if e.2.2.2 then some (5, row, 32 * e.1, unit) else none)
    ([⟨at_ + col0 * w / 8, packCodes w codes, []⟩, ⟨at_ + dataBytes d x + col0 / 32, scales, []⟩], outv, evs)
  else
    let enc := vals.map (fmtOf x.fmt).enc
    let codes := enc.map (·.1)
    let evs := ((List.range enc.length).zip enc).filterMap (fun e => if e.2.2 then some (5, row, e.1, unit) else none)
    ([⟨at_ + col0 * w / 8, packCodes w codes, []⟩], codes.map (fmtOf x.fmt).val, evs)

/-- OUT_XBND over some written values (R36): the largest floor(log2|y|), over a start value. -/
def outXbnd (start : Int) (vs : List XV) : Int :=
  vs.foldl (fun m v => if v.isFin && !v.isZero then (if m < v.log2Floor then v.log2Floor else m) else m) start

/-- The OXB slot of a USE (R365); none for FMT 10 streams and sources. -/
def oxbSlot (use : Nat) : Option Nat :=
  match use with
  | 14 => some 0
  | 18 => some 1
  | 15 => some 2
  | 19 => some 3
  | 22 => some 4
  | 23 => some 5
  | 24 => some 6
  | 25 => some 7
  | 17 => some 8
  | 16 => some 9
  | 26 => some 10
  | _ => none

/-- Records OUT_XBND of a written stream (R36, R365). -/
def noteOut (c : Nat) (seq : BitVec 32) (x : Stream) (vs : List XV) (s : State) : State :=
  if x.fmt = 10 then s
  else match oxbSlot x.use with
    | none => s
    | some k => modJob c seq (fun j => { j with oxb := tset j.oxb k (outXbnd (tget j.oxb k (-2048)) vs) }) s

/-- Faults and events of a Pavilion queue while its Kiosk restarts, up to 64 (R381). -/
def kioskQueue (p n : Nat) (s : State) : State :=
  if coreState s (3 + p) = 0 then s else modPav p (fun v => { v with kq := Nat.min 64 (v.kq + n) }) s

/-- Counts the events of a command against its job and context (R50 to R53, R512). -/
def countEvents (c : Nat) (seq : BitVec 32) (member pav tpc : Nat) (es : List Ev) (s : State) : State :=
  kioskQueue pav es.length (addEvents c seq (es.map (fun e =>
    { job := seq.toNat, member := member, pav := pav, tpc := tpc, row := e.2.1 % 256, col := e.2.2.1 % 256
      kind := e.1, unit := e.2.2.2 })) s)

/-- Rows of values written to a stream from row r0, column col0 on; the events, and the chunks waited on. -/
def writeRows (w : Writer) (j : Job) (x : Stream) (r0 col0 unit : Nat) (rows : List (List XV)) :
    Eff (List Ev × List Nat) := do
  let enc := ((List.range rows.length).zip rows).map (fun e => encodeRow j.desc x (r0 + e.1) col0 e.2 unit e.1)
  let stags ← streamWrite w x (enc.flatMap (·.1))
  modify (noteOut w.ctx w.jobseq x (enc.flatMap (fun e => e.2.1)))
  pure (enc.flatMap (fun e => e.2.2), stags)

/-- A row of A64 words as a span. -/
def wordSpan (d : Desc) (x : Stream) (r col0 : Nat) (ws : List AEl) : WSpan :=
  ⟨r * unitStride d x + 8 * col0, ws.flatMap (fun a => leBytes 8 a.v.toNat), ws.map (·.tag)⟩

end Sys2Proof.Machine
end

