-- ==== Sys2Proof/Machine/Program.lean ====
section
/-!
DEFINITION. Tile-program commands: their fields (R177 to R180), the checks of check 5 of R199 that one command can
break, the streams, tiles and entries that a command touches (R182, R192, R212), and the expansion of loops (R180).
-/
namespace Sys2Proof.Machine

/-! Header fields (R177). -/

def cOpc (w : Nat) : Nat := bits w 0 8
def cWkind (w : Nat) : Nat := bits w 8 2
def cWtok (w : Nat) : Nat := bits w 10 6
def cWval (w : Nat) : Nat := bits w 16 8
def cSkind (w : Nat) : Nat := bits w 40 2
def cStok (w : Nat) : Nat := bits w 42 6
def cSdest (w : Nat) : Nat := bits w 48 12
def cSlot (w : Nat) : Bool := bit w 63

/-! Opcodes (R178). -/

def oLOAD : Nat := 0x01
def oMMA : Nat := 0x02
def oDRAIN : Nat := 0x03
def oEPI : Nat := 0x04
def oACCW : Nat := 0x05
def oPART : Nat := 0x06
def oCOMB : Nat := 0x07
def oMAXC : Nat := 0x08
def oFIN : Nat := 0x09
def oSETQ : Nat := 0x0A
def oDPRO : Nat := 0x0B
def oROWP : Nat := 0x0C
def oPREF : Nat := 0x0D
def oZACC : Nat := 0x0E
def oFLAGCLR : Nat := 0x10
def oTOKADD : Nat := 0x11
def oWAIT : Nat := 0x12
def oLOOP : Nat := 0x13
def oEPOCH : Nat := 0x14
def oLEAVE : Nat := 0x15
def oEND : Nat := 0x1F

/-- The value of loop register i; a register outside every active loop holds 0 (R180). -/
def lreg (r : List Nat) (i : Nat) : Nat := r.getD i 0

/-- The register added under a WFLX code (R177). -/
def flx (r : List Nat) (code : Nat) : Nat := if code = 0 then 0 else lreg r (code - 1)

/-- The value of the TREF at bit lo (R179, R180). -/
def trefAt (w lo : Nat) (r : List Nat) : Int :=
  (bits w lo 18 : Nat) + sbits w (lo + 20) 4 * (lreg r (bits w (lo + 18) 2) : Nat)

/-- Where an opcode's TREF stands (R179). -/
def trefLo (opc : Nat) : Nat :=
  if opc = oLOAD then 74
  else if opc = oDRAIN then 78
  else if opc = oCOMB then 89
  else if opc = oMAXC then 97
  else if opc = oFIN then 73
  else if opc = oSETQ ∨ opc = oDPRO then 64
  else 81

def tref (w : Nat) (r : List Nat) : Int := trefAt w (trefLo (cOpc w)) r

/-- The flag waited on, and the flag set (R177, R183, R184). -/
def waitFlag (w : Nat) (r : List Nat) : Nat := bits w 24 12 + flx r (bits w 36 3)
def setFlagOf (w : Nat) (r : List Nat) : Nat := cSdest w + flx r (bits w 60 3)
def clrFlag (w : Nat) (r : List Nat) : Nat := bits w 64 12 + flx r (bits w 76 3)

def waitsToken (w : Nat) : Bool := cWkind w == 1 || cWkind w == 3
def waitsFlag (w : Nat) : Bool := cWkind w == 2 || cWkind w == 3

/-- The units that a token wait consumes: NCON for FIN (R183). -/
def tokenUnits (w : Nat) : Nat := if cOpc w = oFIN then bits w 109 16 else cWval w

/-- The increment of a retirement signal: INC for TOKADD (R184). -/
def tokenInc (w : Nat) : Nat := if cOpc w = oTOKADD then bits w 64 8 else 1

/-- Queue of a command: 0 and 1 the arrays, 2 RSU, 3 DMA, 4 Control (R178, R181). -/
def queueOf (w : Nat) : Nat :=
  let o := cOpc w
  if o = oMMA ∨ o = oZACC then (if bit w 64 then 1 else 0)
  else if o = oLOAD ∨ o = oACCW ∨ o = oPART ∨ o = oPREF then 3
  else if o < 0x10 then 2
  else 4

/-- The first reserved payload bit of an opcode (R179). -/
def payEnd (o : Nat) : Nat :=
  if o = oLOAD then 99
  else if o = oMMA then 95
  else if o = oDRAIN then 102
  else if o = oEPI then 106
  else if o = oACCW ∨ o = oPART then 105
  else if o = oCOMB then 114
  else if o = oMAXC ∨ o = oROWP ∨ o = oPREF then 121
  else if o = oFIN then 125
  else if o = oSETQ ∨ o = oDPRO then 89
  else if o = oZACC then 73
  else if o = oFLAGCLR then 79
  else if o = oTOKADD then 72
  else if o = oLOOP then 94
  else if o = oEPOCH then 96
  else if o = oLEAVE then 66
  else 64

/-- Whether an opcode is one of R178's. -/
def opcKnown (o : Nat) : Bool := (1 ≤ o && o ≤ 0x0E) || (0x10 ≤ o && o ≤ 0x15) || o == 0x1F

/-- A command's opcode, header and payload hold no reserved field and no reserved code (R15, R177 to R179). -/
def reservedOk (w : Nat) : Bool :=
  let o := cOpc w
  let low64 := !(o == oCOMB || o == oMAXC || o == oROWP || o == oPREF || o == oFIN) || !bit w 64
  let top := if o = oACCW ∨ o = oPART then 106 else payEnd o
  let own :=
    if o = oLOAD then bits w 64 2 != 0
    else if o = oMMA then bits w 65 2 != 3 && bits w 67 2 != 3 && bits w 81 2 != 3 && bits w 91 4 < 8
    else if o = oDRAIN then bits w 75 3 ≤ 4
    else if o = oFLAGCLR then bits w 76 3 ≤ 4
    else true
  opcKnown o && !bit w 39 && bits w 36 3 ≤ 4 && bits w 60 3 ≤ 4 && low64 && bits w top (128 - top) == 0 && own

/-- Header and payload fields hold no reserved code and keep the ranges given (R15, R177, R179, R194). -/
def fieldsOk (w : Nat) : Bool :=
  let o := cOpc w
  let waitOk := if o = oFIN then waitsToken w && cWval w == 0 && bits w 109 16 != 0
    else !waitsToken w || cWval w != 0
  let own :=
    if o = oMAXC then bits w 73 16 != 0
    else if o = oROWP ∨ o = oPREF then bits w 105 16 != 0
    else if o = oTOKADD then bits w 64 8 != 0
    else if o = oLOOP then bits w 64 16 != 0 && bits w 80 12 != 0
    else if o = oACCW ∨ o = oPART then !bit w 105
    else true
  reservedOk w && waitOk && own

/-- The SIDs that a command names (R174, R179). -/
def cmdSids (w : Nat) : List Nat :=
  let o := cOpc w
  if o = oLOAD then [bits w 66 8]
  else if o = oEPI ∨ o = oACCW ∨ o = oPART then [bits w 73 8]
  else if o = oCOMB then [bits w 65 8, bits w 73 8, bits w 81 8]
  else if o = oMAXC then bits w 89 8 :: (List.range (bits w 73 16)).map (fun i => bits w 65 8 + i)
  else if o = oFIN then [bits w 65 8, bits w 97 8]
  else if o = oROWP ∨ o = oPREF then [bits w 65 8, bits w 73 8]
  else []

/-- USE of the stream with a SID; 31, which is reserved, when no block declares it. -/
def useOf (d : Desc) (sid : Nat) : Nat := ((d.stream sid).map (fun x => x.use)).getD 31

/-- Tiles of 64×64 that rows × cols elements fill. -/
def pieces (rows cols : Nat) : Nat := ceilDiv rows 64 * ceilDiv cols 64

/-- Tiles or feed entries of 4,096 elements that a score tile fills (R192). -/
def scoreTiles (d : Desc) : Nat := ceilDiv (d.q * d.k) 4096

/-- The streams, mode and grid of a command fit the job (R105, R108, R179, R194, R513, R514). -/
def usesOk (d : Desc) (w : Nat) : Bool :=
  let o := cOpc w
  let u := useOf d
  if o = oLOAD then u (bits w 66 8) ≤ uDO
  else if o = oMMA then
    let g := bits w 91 4
    (d.jtype == 1 && (g == 0 || g == 6 || (g == 7 && d.a.mode == 1))) || (d.jtype == 2 && g ≤ 5)
  else if o = oDRAIN then
    let m := bits w 75 3
    if m ≤ 2 then d.jtype == 1 && (m == 0) == (d.a.mode == 0) else d.jtype == 2
  else if o = oEPI then
    let t := u (bits w 73 8)
    if d.jtype = 1 then t == uODEST && (!bit w 105 || (d.byUse uLSEDEST).isSome)
    else d.jtype == 2 && (t == uDKDEST || t == uDVDEST) && !bit w 105
  else if o = oACCW then
    let t := u (bits w 73 8)
    t == uDQACC || t == uDKVACC || (t == uPART && d.a.mode == 1)
  else if o = oPART then u (bits w 73 8) == uPART && d.a.mode == 0
  else if o = oCOMB then
    u (bits w 65 8) == uPART && u (bits w 73 8) == uPART && d.a.mode == 0 &&
      (if bit w 113 then u (bits w 81 8) == uODEST && (d.byUse uLSEDEST).isSome else u (bits w 81 8) == uPART)
  else if o = oMAXC then (cmdSids w).all (fun s => u s == uMAX)
  else if o = oFIN then
    let src := u (bits w 65 8)
    let dst := u (bits w 97 8)
    let rows := if src = uDQACC then d.q else d.k
    ((src == uDQACC && dst == uDQDEST) || (src == uDKVACC && (dst == uDKDEST || dst == uDVDEST))) &&
      bits w 105 4 + 1 == pieces rows d.dim
  else if o = oDPRO then d.jtype == 2
  else if o = oROWP then u (bits w 65 8) == uROW && u (bits w 73 8) == uROWDEST
  else if o = oPREF then ((d.stream (bits w 73 8)).map (fun x => x.space != 2)).getD false
  else true

/-- Check 5 of R199 on one command, apart from its loop values. -/
def cmdOk (d : Desc) (w : Nat) : Bool :=
  fieldsOk w && (cmdSids w).all (fun s => (d.stream s).isSome) && usesOk d w

/-! What a command accesses. -/

/-- Access kinds: 0 read, 1 plain write, 2 accumulate-write. -/
structure Acc where
  kind : Nat
  x : Stream
  spans : Option (List (Nat × Nat))
  deriving DecidableEq, Repr

/-- The byte ranges (start, length) in a stream of `rows` whole rows from row r0 on; none outside the stream (R199,
R510). For SPACE 2 they are token ranges (R252). -/
def rowsSpan (d : Desc) (img : Stream → Bool) (x : Stream) (r0 : Int) (rows : Nat) : Option (List (Nat × Nat)) :=
  if r0 < 0 then none
  else if rows = 0 then some []
  else
    let a := r0.toNat
    let out : List (Nat × Nat) :=
      if x.space = 2 then [(a, rows)]
      else if img x then
        let cls := classBytes (plotClass x.fmt d.dim)
        (List.range ((a + rows - 1) / 128 + 1 - a / 128)).map (fun i => ((a / 128 + i) * cls, plotBytes x.fmt d.dim))
      else
        let u := unitRows d x
        let first := a / u
        let last := (a + rows - 1) / u
        let st := unitStride d x
        let n := unitBytes d x
        if st = n then [(first * st, (last + 1 - first) * st)]
        else (List.range (last + 1 - first)).map (fun i => ((first + i) * st, n))
    if x.space = 2 ∨ out.all (fun s => decide (s.1 + s.2 ≤ x.length)) then some out else none

/-- The byte ranges of a rectangle of a stream (R78, R108). -/
def rectSpan (d : Desc) (x : Stream) (r0 : Int) (rows : Nat) (c0 : Int) (cols : Nat) : Option (List (Nat × Nat)) :=
  if r0 < 0 ∨ c0 < 0 ∨ (rowElems d x : Int) < c0 + cols then none
  else
    let w := streamBits x
    let out := (List.range rows).map (fun i =>
      ((r0.toNat + i) * unitStride d x + c0.toNat * w / 8, ceilDiv (cols * w) 8))
    if out.all (fun s => decide (s.1 + s.2 ≤ x.length)) then some out else none

/-- The tile t of a stream, with its n followers. A DKV_ACC tile names a key tile and a half (R108). -/
def tileAcc (d : Desc) (img : Stream → Bool) (kind sid : Nat) (t : Int) (n : Nat) : List Acc :=
  match d.stream sid with
  | none => []
  | some x =>
    let rows := tileRows d x.use
    if x.use = uDKVACC then
      [⟨kind, x, if t < 0 then none else rectSpan d x (t / 2 * (rows : Int)) rows (t % 2 * (d.dim : Int)) d.dim⟩]
    else [⟨kind, x, rowsSpan d img x (t * (rows : Int)) (n * rows)⟩]

/-- The same for every stream of a USE. -/
def useAcc (d : Desc) (img : Stream → Bool) (kind use : Nat) (t : Int) (n : Nat) : List Acc :=
  (d.streams.filter (fun x => x.use == use)).flatMap (fun x => tileAcc d img kind x.sid t n)

/-- The MAX_DEST stream that a DMODE 1 DRAIN writes (R83, R193). DRAIN names no SID. DESIGN CHOICE: of several, the
one of lowest SID (log entry 103). -/
def maxDest (d : Desc) : Option Stream :=
  (d.streams.filter (fun x => x.use == uMAX)).foldl (fun b x =>
    match b with
    | none => some x
    | some y => if x.sid < y.sid then some x else b) none

/-- The blocks of 128 tokens that tokens [a, a + n) reach. -/
def blocksOf (a n : Nat) : List Nat := (List.range ((a + n - 1) / 128 + 1 - a / 128)).map (fun i => a / 128 + i)

/-- What a command accesses in streams, for the loop registers r and the query tile qt in force. -/
def cmdAccs (d : Desc) (img : Stream → Bool) (w : Nat) (r : List Nat) (qt : Nat) : List Acc :=
  let o := cOpc w
  let t := tref w r
  let ta := tileAcc d img
  let ua := useAcc d img
  let tail (t : Int) : List Acc :=
    ua 1 uOPRE t 1 ++ (if d.e.gmode = 0 then [] else ua 0 uG t 1) ++ (if d.e.res = 0 then [] else ua 0 uRES t 1)
  if o = oLOAD then ta 0 (bits w 66 8) t 1
  else if o = oEPI then
    ta 1 (bits w 73 8) t 1 ++
      (if d.jtype = 1 then
        tail t ++ (if bit w 105 then ua 1 uLSEDEST t 1 else []) ++
          (if d.a.mode = 1 ∧ 1 < d.a.nsplit then (ua 0 uPART t 1).take 1 else [])
       else [])
  else if o = oACCW then
    ta 2 (bits w 73 8) t 1
  else if o = oPART then ta 1 (bits w 73 8) t 1
  else if o = oCOMB then
    ta 0 (bits w 65 8) t 1 ++ ta 0 (bits w 73 8) t 1 ++ ta 1 (bits w 81 8) t 1 ++
      (if bit w 113 then tail t ++ ua 1 uLSEDEST t 1 else [])
  else if o = oMAXC then
    (List.range (bits w 73 16)).flatMap (fun i => ta 0 (bits w 65 8 + i) t 1) ++ ta 1 (bits w 89 8) t 1
  else if o = oFIN then
    let dt := if useOf d (bits w 65 8) = uDKVACC then t / 2 else t
    ta 0 (bits w 65 8) t 1 ++ ta 1 (bits w 97 8) dt 1
  else if o = oDPRO then
    (if d.a.dMode = 0 then ua 0 uDO t 1 ++ ua 0 uO t 1 ++ ua 1 uDDEST t 1 else []) ++
      (if bit w 88 then ua 1 uDQACC t 1 else [])
  else if o = oROWP then
    ta 0 (bits w 65 8) t (bits w 105 16) ++ ta 1 (bits w 73 8) t (bits w 105 16) ++
      (if d.e.gmode = 0 then [] else ua 0 uG t (bits w 105 16)) ++
      (if d.e.res = 0 then [] else ua 0 uRES t (bits w 105 16))
  else if o = oPREF then
    match d.stream (bits w 65 8), d.stream (bits w 73 8) with
    | some x, some y =>
      let rows := tileRows d x.use
      let n := bits w 105 16 * rows
      let r0 := t * (rows : Int)
      if x.space = 2 then
        let cls := classBytes (plotClass x.fmt d.dim)
        let sp := (blocksOf r0.toNat n).map (fun b => (b * cls, plotBytes x.fmt d.dim))
        [⟨0, x, rowsSpan d img x r0 n⟩,
         ⟨1, y, if r0 < 0 ∨ !sp.all (fun s => decide (s.1 + s.2 ≤ y.length)) then none else some sp⟩]
      else [⟨0, x, rowsSpan d img x r0 n⟩, ⟨1, y, rowsSpan d (fun _ => img x) y r0 n⟩]
    | _, _ => []
  else if o = oDRAIN then
    let m := bits w 75 3
    (if bit d.p.mask 3 then ua 0 uMASK qt 1 else []) ++
    (if m = 3 then ua 0 uLSE qt 1 else []) ++
    (if m = 4 then ua 0 (if d.a.dMode = 1 then uD else uDDEST) qt 1 else []) ++
    (if m = 1 then (match maxDest d with
      | some x => ta 1 x.sid qt 1
      | none => []) else []) ++
    (if d.a.dump ≠ 0 ∧ m ≤ 1 then
      (d.streams.filter (fun x => x.use == uDUMP)).map (fun x =>
        (⟨1, x, rectSpan d x ((qt * d.q : Nat) : Int) d.q (t * (d.k : Int)) d.k⟩ : Acc))
     else [])
  else []

/-- Check 5 of R199 for one loop value: flag indices, tiles inside their streams, the half of a FIN, and a query or key
tile that exists; that of a DPRO by DQ_ACC, whether it is zeroed or not. -/
def cmdAt (d : Desc) (img : Stream → Bool) (w : Nat) (r : List Nat) (qt : Nat) : Bool :=
  let o := cOpc w
  (!waitsFlag w || waitFlag w r < 4096) &&
  (cSkind w != 3 || setFlagOf w r < 4096) &&
  (o != oFLAGCLR || clrFlag w r < 4096) &&
  ((o != oSETQ && o != oDRAIN) || 0 ≤ tref w r) &&
  (o != oFIN || useOf d (bits w 65 8) != uDKVACC ||
    (tref w r % 2 == 1) == (useOf d (bits w 97 8) == uDVDEST)) &&
  (o != oDPRO || (useAcc d img 1 uDQACC (tref w r) 1).all (fun a => a.spans.isSome)) &&
  (cmdAccs d img w r qt).all (fun a => a.spans.isSome)

/-- The accumulator tiles (array, tile) that a command names (R179, R192, R200); a DRAIN names one. -/
def cmdTiles (w : Nat) (r : List Nat) : List (Nat × Nat) :=
  let o := cOpc w
  let arr := if bit w 64 then 1 else 0
  let run (a n : Nat) : List (Nat × Nat) := (List.range n).map (fun i => (arr, a + i))
  if o = oMMA then run (bits w 77 4 + (if bit w 86 then lreg r 0 % 2 else 0)) (bits w 87 4 + 1)
  else if o = oDRAIN then run (bits w 65 4 + (if bit w 69 then lreg r 0 % 2 else 0)) 1
  else if o = oEPI ∨ o = oACCW ∨ o = oPART ∨ o = oZACC then run (bits w 65 4) (bits w 69 4 + 1)
  else []

/-- The first feed entries of an MMA's operands, and of a DRAIN's result, with the alternation of ALTF. -/
def feedA (w : Nat) (r : List Nat) : Nat := bits w 69 4 + (if bit w 85 then lreg r 0 % 2 else 0)
def feedB (w : Nat) (r : List Nat) : Nat := bits w 73 4 + (if bit w 85 then lreg r 0 % 2 else 0)
def feedD (w : Nat) (r : List Nat) : Nat := bits w 70 4 + (if bit w 74 then lreg r 0 % 2 else 0)

/-- The feed entries that a command names. -/
def cmdFeeds (d : Desc) (w : Nat) (r : List Nat) : List Nat :=
  let o := cOpc w
  let run (a : Nat) : List Nat := (List.range (scoreTiles d)).map (fun i => a + i)
  if o = oMMA then
    (if bits w 65 2 = 2 then run (feedA w r) else []) ++ (if bits w 67 2 = 2 then run (feedB w r) else [])
  else if o = oDRAIN ∧ bits w 75 3 ≠ 1 then run (feedD w r)
  else []

/-- Whether a header's masks hold the tiles and entries that a command names (R200). -/
def masksHold (d : Desc) (h : ProgHdr) (w : Nat) (r : List Nat) : Bool :=
  (cmdTiles w r).all (fun t => (if t.1 = 0 then h.acc0 else h.acc1).getLsbD t.2) &&
    (cmdFeeds d w r).all (fun e => h.feed.getLsbD e)

/-- What a command is interlocked on (R182), as (resource, whether it writes it). A resource is (0, array, tile), (1,
feed entry, 0), (2, array, 0) for a resident region, or (3, query tile, 0) for RSU row state. A DRAIN reads nt tiles,
those of the product that it drains. -/
def cmdTouch (d : Desc) (w : Nat) (r : List Nat) (qt nt : Nat) : List ((Nat × Nat × Nat) × Bool) :=
  let o := cOpc w
  let named := cmdTiles w r
  let drained := if o = oDRAIN then named.flatMap (fun t => (List.range nt).map (fun i => (t.1, t.2 + i))) else named
  let tiles (wr : Bool) := drained.map (fun t => ((0, t.1, t.2), wr))
  let feeds (wr : Bool) := (cmdFeeds d w r).map (fun e => ((1, e, 0), wr))
  let arr := if bit w 64 then 1 else 0
  let row (t : Nat) (wr : Bool) : List ((Nat × Nat × Nat) × Bool) := [((3, t, 0), wr)]
  if o = oLOAD then
    if bit w 98 then []
    else (if bit w 64 then [((2, 0, 0), true)] else []) ++ (if bit w 65 then [((2, 1, 0), true)] else [])
  else if o = oMMA then
    tiles true ++ feeds false ++
      (if bits w 65 2 = 0 ∨ bits w 67 2 = 0 then [((2, arr, 0), false)] else []) ++
      (if bits w 81 2 = 2 then row qt false else [])
  else if o = oDRAIN then tiles false ++ feeds true ++ row qt true
  else if o = oEPI ∨ o = oPART then tiles false ++ row (tref w r).toNat false
  else if o = oACCW then tiles false
  else if o = oZACC then tiles true
  else if o = oSETQ then row (tref w r).toNat true
  else if o = oMAXC then row (tref w r).toNat true
  else []

/-- What of its Pavilion's own storage a command meets, as (place, whether it reads it before it writes it) (R497):
the resources of R182, an array's stream FIFO as (2, array, 1), and the parameter and SFU stores for a command that
does RSU or SFU work. A product reads the tiles that it adds to. DESIGN CHOICE: such work meets both stores (log entry
120). -/
def cmdStore (d : Desc) (w : Nat) (r : List Nat) (qt nt : Nat) : List ((Nat × Nat × Nat) × Bool) :=
  let o := cOpc w
  let clears (x : Nat × Nat × Nat) : Bool := o == oLOAD || o == oZACC || o == oSETQ || (o == oDRAIN && x.1 == 1)
  let fifo (a : Nat) : (Nat × Nat × Nat) × Bool := ((2, a, 1), true)
  (cmdTouch d w r qt nt).map (fun t => (t.1, !(t.2 && clears t.1))) ++
    (if o = oMMA ∧ (bits w 65 2 = 1 ∨ bits w 67 2 = 1) then [fifo (if bit w 64 then 1 else 0)] else []) ++
    (if (queueOf w = 2 ∧ o ≠ oZACC ∧ o ≠ oSETQ) ∨
        (o = oLOAD ∧ useOf d (bits w 66 8) ≤ uV ∧ d.hasPro (useOf d (bits w 66 8)) = true) then
      [((4, 0, 0), true), ((5, 0, 0), true)]
    else [])

/-- The tiles that an MMA pops off its array's stream FIFO (R179, R182). -/
def cmdPops (w : Nat) : Nat :=
  if cOpc w = oMMA then (if bits w 65 2 = 1 then 1 else 0) + (if bits w 67 2 = 1 then 1 else 0) else 0

/-- The leave class that a command at its queue's head needs (R187): L2 for a product on one array, L1 for RSU and SFU
work alone, the prologue of a LOAD among it. -/
def leaveNeed (d : Desc) (w : Nat) : Nat :=
  if cOpc w = oMMA then 2
  else if queueOf w = 2 then 1
  else if cOpc w = oLOAD ∧ useOf d (bits w 66 8) ≤ uV ∧ d.hasPro (useOf d (bits w 66 8)) then 1
  else 0

/-! Programs. -/

/-- One issue of a command (R180): its TPC, its text and the loop registers. -/
structure Issue where
  tpc : Nat
  word : Nat
  regs : List Nat
  deriving DecidableEq, Repr

/-- The issue sequence of commands (R180), each with its TPC. A LOOP stands before its body each time it is reached. -/
def expandGo : Nat → List (Nat × Nat) → List Nat → List Issue
  | 0, _, _ => []
  | _, [], _ => []
  | f + 1, (tpc, w) :: rest, r =>
    if cOpc w = oLOOP then
      let body := rest.take (bits w 80 12)
      ⟨tpc, w, r⟩ :: ((List.range (bits w 64 16)).flatMap (fun i => expandGo f body (r.set (bits w 92 2) i)) ++
        expandGo f (rest.drop (bits w 80 12)) r)
    else ⟨tpc, w, r⟩ :: expandGo f rest r

/-- Commands with their TPCs (R176). -/
def withTpc (cmds : List Nat) : List (Nat × Nat) := ((List.range cmds.length).map (· + 2)).zip cmds

def expand (cmds : List Nat) : List Issue := expandGo (cmds.length + 1) (withTpc cmds) [0, 0, 0, 0]

/-- TPCs that break the loops of R180: nested more than four deep, a register counted twice, a body that reaches past
its outer body or holds END. -/
def loopErrs : Nat → List (Nat × Nat) → List Nat → List Nat
  | 0, _, _ => []
  | _, [], _ => []
  | f + 1, (tpc, w) :: rest, used =>
    if cOpc w = oLOOP then
      let n := bits w 80 12
      let body := rest.take n
      let lr := bits w 92 2
      if rest.length < n ∨ 4 ≤ used.length ∨ used.contains lr ∨ body.any (fun e => cOpc e.2 == oEND) then
        tpc :: loopErrs f rest used
      else loopErrs f body (lr :: used) ++ loopErrs f (rest.drop n) used
    else loopErrs f rest used

/-- TPCs that break the place of END (R176, R199). -/
def endErrs (cmds : List Nat) : List Nat :=
  (withTpc cmds).filterMap (fun e =>
    if (cOpc e.2 == oEND) != (e.1 == cmds.length + 1) then some e.1 else none)

/-- The bits of a program header (R176). -/
def parseHdr (addr member w : Nat) : ProgHdr :=
  { addr := addr, member := member, acc0 := BitVec.ofNat 16 (bits w 0 16), acc1 := BitVec.ofNat 16 (bits w 16 16)
    feed := BitVec.ofNat 16 (bits w 32 16), pav := bits w 48 4, role := bits w 52 12, ncmd := bits w 64 24
    tokExt := BitVec.ofNat 64 (bits w 96 64) }

/-- The active loop registers of a running program. -/
def loopRegs (ls : List LoopEnt) : List Nat :=
  [0, 1, 2, 3].map (fun i => ((ls.find? (fun l => l.lreg == i)).map (fun l => l.iter)).getD 0)

/-- The next TPC after a command, with the loops that end or repeat there (R180); innermost loop first. -/
def nextTpc (tpc : Nat) : List LoopEnt → Nat × List LoopEnt
  | [] => (tpc, [])
  | l :: ls =>
    if tpc = l.tpc + 1 + l.body then
      if l.iter + 1 < l.count then (l.tpc + 1, { l with iter := l.iter + 1 } :: ls)
      else nextTpc tpc ls
    else (tpc, l :: ls)

/-- Whether a LOOP fetched at run time keeps the rules of R180 among the active loops. -/
def loopFits (ncmd tpc w : Nat) (ls : List LoopEnt) : Bool :=
  let last := tpc + bits w 80 12
  ls.length < 4 && !ls.any (fun l => l.lreg == bits w 92 2) && last ≤ ncmd &&
    (match ls with
      | [] => true
      | l :: _ => decide (last ≤ l.tpc + l.body))

end Sys2Proof.Machine
end

