-- ==== Sys2Proof/Machine/Flags.lean ====
section
/-!
DEFINITION. Token counters, flags and signals of tile programs (R183 to R186, R197, R402), and how a fault of a command
halts its context (R189, R363).
-/
namespace Sys2Proof.Machine

/-- Where a program's counters are: in a Pavilion's program register, in the suspended-counter table, or with a program
that has not started. -/
inductive TokHome where
  | run (p : Nat) (q : PSlot)
  | saved (p : Nat) (slot : Nat)
  | waiting (c : Nat) (seq : BitVec 32) (idx : Nat)
  deriving DecidableEq, Repr

/-- Whether a running program is program idx of a job. -/
def Prog.isOf (g : Prog) (c : Nat) (seq : BitVec 32) (idx : Nat) : Bool :=
  g.ctx == c && g.jobseq == seq && g.idx == idx

/-- The Pavilion register that holds a program. -/
def findRun (s : State) (c : Nat) (seq : BitVec 32) (idx : Nat) : Option (Nat × PSlot) :=
  (List.range 16).findSome? (fun p => bothSlots.findSome? (fun q =>
    match getProg s p q with
    | some g => if g.isOf c seq idx && !g.done then some (p, q) else none
    | none => none))

/-- The save slot that holds a program (R397). -/
def findSaved (s : State) (c : Nat) (seq : BitVec 32) (idx : Nat) : Option (Nat × Saved) :=
  (List.range 16).findSome? (fun p =>
    ((getPav s p).saved.find? (fun v => v.prog.isOf c seq idx)).map (fun v => (p, v)))

/-- The home and current epoch of program idx of a job that has not ended. -/
def progHome (s : State) (j : Job) (idx : Nat) : Option (TokHome × Nat) :=
  if j.ended.contains idx then none
  else match findRun s j.ctx j.jobseq idx with
    | some (p, q) => some (.run p q, ((getProg s p q).map (·.epoch)).getD 0)
    | none =>
      match findSaved s j.ctx j.jobseq idx with
      | some (p, v) => some (.saved p v.slot, v.prog.epoch)
      | none => if j.started.contains idx then none else some (.waiting j.ctx j.jobseq idx, j.desc.epoch0)

/-- The program of a context that holds a role on this instance, in the job given first and then in admission order. -/
def roleHolder (s : State) (c role : Nat) (first : Option (BitVec 32)) : Option (Job × TokHome × Nat) :=
  let js := s.jobs.filter (fun j => j.ctx == c)
  let js := js.filter (fun j => some j.jobseq == first) ++ js.filter (fun j => some j.jobseq != first)
  js.findSome? (fun j =>
    ((List.range j.progs.length).zip j.progs).findSome? (fun e =>
      if e.2.role = role ∧ e.2.member = j.member then (progHome s j e.1).map (fun h => (j, h)) else none))

/-- Counter tok of a home. -/
def homeTok (s : State) (h : TokHome) (tok : Nat) : Nat :=
  match h with
  | .run p q => ((getProg s p q).map (fun g => tget g.tok tok 0)).getD 0
  | .saved p k => (((getPav s p).saved.find? (fun v => v.slot == k)).map (fun v => tget v.prog.tok tok 0)).getD 0
  | .waiting c seq i => ((findJob s c seq).map (fun j => tget (tget j.preTok i []) tok 0)).getD 0

/-- Sets counter tok of a home. -/
def setHomeTok (h : TokHome) (tok v : Nat) (s : State) : State :=
  match h with
  | .run p q => modProg p q (fun g => { g with tok := tset g.tok tok v }) s
  | .saved p k => modPav p (fun x => { x with saved := x.saved.map (fun e =>
      if e.slot = k then { e with prog := { e.prog with tok := tset e.prog.tok tok v } } else e) }) s
  | .waiting c seq i => modJob c seq (fun j => { j with preTok := tmod j.preTok i [] (fun t => tset t tok v) }) s

/-- The fault fields of a command of a program (R363). -/
def progFault (p : Nat) (g : Prog) (tpc : Nat) (f : RFault) : JFault :=
  ⟨f.status, g.hdr.member, p, f.fsid, tpc, f.det0, f.det1⟩

/-- A fault of a program's command halts its context (R189). -/
def haltProg (p : Nat) (g : Prog) (tpc : Nat) (f : RFault) (s : State) : State :=
  kioskQueue p 1 (haltJob g.ctx g.jobseq (progFault p g tpc f) s)

/-- A halt of a job without a command behind it: the job's member, no Pavilion, TPC 0. -/
def haltPlain (c : Nat) (seq : BitVec 32) (f : RFault) (s : State) : State :=
  let m := ((findJob s c seq).map (fun j => j.member)).getD 0
  haltJob c seq ⟨f.status, m, 0, f.fsid, 0, f.det0, f.det1⟩ s

/-- Adds an increment to a counter; past 65,535 it raises TOKEN_OVF against the program (R184, R402). -/
def addToken (h : TokHome) (j : Job) (tok inc : Nat) (s : State) : State :=
  let v := homeTok s h tok + inc
  if v ≤ 65535 then setHomeTok h tok v s
  else match h with
    | .run p q =>
      match getProg s p q with
      | some g => haltProg p g g.tpc (plainFault stTOKEN_OVF) s
      | none => s
    | _ => haltPlain j.ctx j.jobseq (plainFault stTOKEN_OVF) s

/-- The MISROUTED fault of R289 and R364. -/
def misrouted (role : Nat) (sent : BitVec 32) (here : BitVec 32) : RFault :=
  ⟨stMISROUTED, 255, role, sent.toNat + here.toNat * 2 ^ 32⟩

/-- A signal to a role (R184, R197): to a program of this instance directly, else on a link. -/
def signalRole (p : Nat) (g : Prog) (tpc role tok inc : Nat) (s : State) : State :=
  let r := roleOf (getCtx s g.ctx) g.epoch role
  if !r.valid then haltProg p g tpc (plainFault stPROG_BAD) s
  else if !roleHere s r then emit (.token r.upath g.ctx role tok inc r.repoch g.hdr.role) s
  else match roleHolder s g.ctx role (some g.jobseq) with
    | none => s
    | some (j, h, ep) =>
      let here := (roleOf (getCtx s g.ctx) ep role).repoch
      if here = r.repoch then addToken h j tok inc s
      else
        let s1 := modCounts g.ctx (fun k => { k with misroutedIn := satInc k.misroutedIn }) s
        haltProg p g tpc (misrouted role r.repoch here) s1

/-- The header signal of a command at its retirement (R184). -/
def fireSignal (p : Nat) (q : PSlot) (g : Prog) (c : QCmd) (s : State) : State :=
  let w := c.word.toNat
  match cSkind w with
  | 1 =>
    let v := tget g.tok (cStok w) 0 + tokenInc w
    if v ≤ 65535 then modProg p q (fun g => { g with tok := tset g.tok (cStok w) v }) s
    else haltProg p g c.tpc (plainFault stTOKEN_OVF) s
  | 2 => signalRole p g c.tpc (cSdest w) (cStok w) (tokenInc w) s
  | 3 => setFlag g.ctx (setFlagOf w c.regs) s
  | _ => s

/-- Clears flag f of a context (R186). -/
def clearFlag (c f : Nat) (s : State) : State :=
  modCtx c (fun x => { x with flags := x.flags &&& ~~~(1#4096 <<< f) }) s

/-- Whether a command's waits of R183 are met. A flag past 4,095, which fails check 5 at issue (R200), holds nothing
up. -/
def waitsMet (s : State) (g : Prog) (c : QCmd) : Bool :=
  let w := c.word.toNat
  (!waitsToken w || decide (tokenUnits w ≤ tget g.tok (cWtok w) 0)) &&
    (!waitsFlag w || decide (4096 ≤ waitFlag w c.regs) || (getCtx s g.ctx).flags.getLsbD (waitFlag w c.regs))

/-- The tokens that a command consumes when it issues (R183). -/
def consumeToken (w : Nat) (g : Prog) : Prog :=
  if waitsToken w then { g with tok := tset g.tok (cWtok w) (tget g.tok (cWtok w) 0 - tokenUnits w) } else g

end Sys2Proof.Machine
end

