-- ==== Sys2Proof/Machine/Landing.lean ====
section
/-!
DEFINITION. Windows (R217 to R220) and the owner's side of landing entries: the windows that admission opens and the
credits that a program grants (R279, R280).
-/
namespace Sys2Proof.Machine

/-- Window w of the instance (R217). -/
def getWin (s : State) (w : Nat) : Window := tget s.ter.windows w Window.closed0

def modWin (w : Nat) (f : Window → Window) (s : State) : State :=
  { s with ter := { s.ter with windows := tset s.ter.windows w (f (getWin s w)) } }

/-- The granules, by physical number, that n 4 KiB units of a context view from unit a on cover. -/
def granulesOf (s : State) (c a n : Nat) : List Nat :=
  (viewParts (getCtx s c).regions (a * 4096) (n * 4096)).flatMap (fun p =>
    (List.range (p.len / 4096)).map (fun i => p.phys / 4096 + i))

/-- The granules of those in regions with FILLCHK (R215). -/
def checkedGranules (s : State) (c a n : Nat) : List Nat :=
  ((viewParts (getCtx s c).regions (a * 4096) (n * 4096)).filter (fun p => p.region.fillchk)).flatMap (fun p =>
    (List.range (p.len / 4096)).map (fun i => p.phys / 4096 + i))

/-- Sets fill tags to unfilled where the region keeps them (R215). -/
def markUnfilled (c a n : Nat) (s : State) : State :=
  let gs := checkedGranules s c a n
  { s with ter := { s.ter with unfilled := s.ter.unfilled.filter (fun g => !gs.contains g) ++ gs } }

/-- Whether a view range lies in regions that have RWIN set (R217, R277). -/
def inRwin (t : Tbl Region) (off n : Nat) : Bool :=
  off + n ≤ viewLen t && (viewParts t off n).all (fun p => p.region.rwin)

/-- Opens window w (R217). A window's granules become unfilled under FILLSET (R215); those of a landing entry lie in the
Terrace only when its PLACE is 0. -/
def openWin (w c : Nat) (fillset : Bool) (wclass : BitVec 4) (off len : Nat) (land : Option (Nat × Nat)) (s : State) :
    State :=
  let s1 := modWin w (fun x =>
    { x with ctx := c, isOpen := true, fillset := fillset, wclass := wclass, off4k := off, len4k := len, credits := 0
             landing := land, bufCred := [] }) s
  let inTerrace := (land.map (fun l => (tget (getCtx s l.1).landing l.2 Landing.absent).place == 0)).getD true
  if fillset && inTerrace then markUnfilled c off len s1 else s1

/-- Closes window w (R220): GEN rises, CREDITS and OPEN become 0, and the X-ports are told of a window that admits them
(R455). A GEN of FFFF_FFFFh retires the index. -/
def closeWin (w : Nat) (s : State) : State :=
  let x := getWin s w
  if !x.isOpen then s
  else
    let s1 := modWin w (fun x => { x with
      isOpen := false, credits := 0, bufCred := [], landing := none, gen := x.gen + 1, retired := x.gen == 0xFFFFFFFF#32 }) s
    if x.wclass.getLsbD 3 then emit (.xcredit true x.ctx w (x.gen + 1).toNat 0) s1 else s1

/-- The open window of landing entry lid of context c. -/
def landWin (s : State) (c lid : Nat) : Option (Nat × Window) :=
  s.ter.windows.find? (fun e => e.2.isOpen && e.2.landing == some (c, lid))

/-- The lowest window that can be opened. -/
def freeWin (s : State) : Option Nat :=
  (List.range 4096).find? (fun w => let x := getWin s w; !x.isOpen && !x.retired && x.closing.isNone)

/-- The landing entries that a job's SPACE 3 streams reach. -/
def jobLids (s : State) (c : Nat) (d : Desc) : List Nat :=
  ((d.streams.filter (fun x => x.space == 3)).flatMap (fun x =>
    (landParts (getCtx s c).landing x.base x.length).map (fun p => p.lid))).eraseDups

/-- The landing entries whose windows a job's admission opens: those that this instance owns and another sends to,
without an open window. -/
def newJobWins (s : State) (c : Nat) (d : Desc) : List Nat :=
  let ctx := getCtx s c
  (jobLids s c d).filter (fun lid =>
    let e := tget ctx.landing lid Landing.absent
    let own := roleOf ctx d.epoch0 e.owner
    (landWin s c lid).isNone && own.valid && roleHere s own && !roleHere s (roleOf ctx d.epoch0 e.sender))

/-- The refusal of a job for want of its windows: BAD_REGION for a landing range outside the regions with RWIN (R217),
and RESOURCE when too few of the instance's windows are free. -/
def jobWinsBad (s : State) (c : Nat) (d : Desc) : Option Nat :=
  let ctx := getCtx s c
  let new := newJobWins s c d
  let inside (lid : Nat) : Bool :=
    let e := tget ctx.landing lid Landing.absent
    e.place != 0 || inRwin ctx.regions (e.loc4k * 4096) (e.len4k * nbufOf e * 4096)
  let used := (s.ter.windows.filter (fun w => w.2.isOpen || w.2.retired || w.2.closing.isSome)).length
  if !new.all inside then some stBAD_REGION else if 4096 < used + new.length then some stRESOURCE else none

/-- Opens the windows of the landing entries that this instance owns and another sends to, at a job's admission (R217,
R279); answers the windows. -/
def openJobWins (c : Nat) (d : Desc) (s : State) : State × List Nat :=
  (jobLids s c d).foldl (fun a lid =>
    let s := a.1
    let e := tget (getCtx s c).landing lid Landing.absent
    match landWin s c lid with
    | some (w, _) => (s, a.2 ++ [w])
    | none =>
      if (newJobWins s c d).contains lid then
        match freeWin s with
        | none => a
        | some w =>
          (openWin w c e.fillset 2#4 e.loc4k (e.len4k * nbufOf e) (some (c, lid)) s, a.2 ++ [w])
      else a) (s, [])

/-- The sum of the credits per buffer, which CREDITS reads (R279). -/
def sumCred (t : Tbl Nat) : Nat := (t.map (fun e => e.2)).sum

/-- A CREDIT record (R283). -/
def creditRecord (widx ctx lid : Nat) (wgen : BitVec 32) (epoch n : Nat) : BitVec 128 :=
  BitVec.ofNat 128 (widx + ctx * 2 ^ 12 + lid * 2 ^ 24 + wgen.toNat * 2 ^ 32 + epoch % 2 ^ 32 * 2 ^ 64 + n * 2 ^ 96)

/-- The credits of one landing entry for epoch ep, from a program in epoch cur (R279). -/
def grantEntry (c lid cur ep : Nat) (s : State) : State :=
  let ctx := getCtx s c
  let e := tget ctx.landing lid Landing.absent
  let snd := roleOf ctx cur e.sender
  match landWin s c lid with
  | none => s
  | some (w, x) =>
    let cred := tset x.bufCred (ep % nbufOf e) e.epcred
    let s1 := modWin w (fun x => { x with bufCred := cred, credits := sumCred cred }) s
    let s2 := if e.fillset && e.place == 0 then markUnfilled c (e.loc4k + ep % nbufOf e * e.len4k) e.len4k s1 else s1
    emit (.creditRec snd.upath (creditRecord w c lid x.gen ep e.epcred)) s2

/-- The landing entries that a role owns. -/
def ownedLids (s : State) (c role : Nat) : List Nat :=
  ((getCtx s c).landing.filter (fun e => e.2.valid && e.2.owner == role)).map (fun e => e.1)

/-- The owner enters epoch ep (R279, R289): the credits of every epoch below lapse, and the entry's epoch is kept. -/
def enterEntry (c lid ep : Nat) (s : State) : State :=
  let e := tget (getCtx s c).landing lid Landing.absent
  let old := tget s.prom.landEpoch (c * 256 + lid) ep
  let lapsed : List Nat := (List.range (Nat.min (ep - old) (nbufOf e))).map (fun i => (old + i) % nbufOf e)
  let s1 := match landWin s c lid with
    | none => s
    | some (w, x) =>
      let cred := lapsed.foldl tdel x.bufCred
      modWin w (fun x => { x with bufCred := cred, credits := sumCred cred }) s
  { s1 with prom := { s1.prom with landEpoch := tset s1.prom.landEpoch (c * 256 + lid) ep } }

/-- A landing owner's program starts in epoch e0 (R279). -/
def startGrants (c role e0 : Nat) (s : State) : State :=
  (ownedLids s c role).foldl (fun s lid =>
    let n := nbufOf (tget (getCtx s c).landing lid Landing.absent)
    (List.range n).foldl (fun s i => grantEntry c lid e0 (e0 + i) s) (enterEntry c lid e0 s)) s

/-- A landing owner's program enters epoch ep (R198, R279). -/
def epochGrants (c role ep : Nat) (s : State) : State :=
  (ownedLids s c role).foldl (fun s lid =>
    let n := nbufOf (tget (getCtx s c).landing lid Landing.absent)
    grantEntry c lid ep (ep + n - 1) (enterEntry c lid ep s)) s

end Sys2Proof.Machine
end

