-- ==== Sys2Proof/Machine/Links.lean ====
section
/-!
DEFINITION. The link layer of paths and G-ports (R262 to R272, R453): flits, their numbers and CRC, the retry store,
replay, and the framing of everything that a command sends; and what a command's meaning is wrapped in.
-/
namespace Sys2Proof.Machine

/-- The outcome of a command. -/
abbrev Result := Host.Outcome State Fault Refusal

/-! Link registers. -/

/-- Replaces the link of a port. -/
def setLink (p : LinkPort) (l : Link) (s : State) : State :=
  match p with
  | .path k => { s with prom := { s.prom with paths := tset s.prom.paths k.val l } }
  | .gport k => { s with prom := { s.prom with gports := tset s.prom.gports k.val l } }

def modLink (p : LinkPort) (f : Link → Link) (s : State) : State := setLink p (f (getLink s p)) s

/-- The fields of PATH_CFG (R263). -/
def Link.lane0 (l : Link) : Nat := bits l.cfg.toNat 4 4
def Link.widthCode (l : Link) : Nat := bits l.cfg.toNat 8 3
def Link.width (l : Link) : Nat := 2 ^ l.widthCode
def Link.latUs (l : Link) : Nat := bits l.cfg.toNat 16 9

/-- The fields of PATH_RSTORE (R270). -/
def Link.rsBase (l : Link) : Nat := bits l.rstore.toNat 0 36 * 4096
def Link.rsLen (l : Link) : Nat := bits l.rstore.toNat 36 20 * 4096

/-- States of R264. -/
def lsDown : Nat := 0
def lsTrain : Nat := 1
def lsHello : Nat := 2
def lsSecure : Nat := 3
def lsUp : Nat := 4
def lsRetrain : Nat := 5
def lsFail : Nat := 6

/-- The trace event of a change of state: TYPE 1 path, 2 G-port (R504). -/
def traceLink (p : LinkPort) (st cause : Nat) (s : State) : State :=
  match p with
  | .path k => traceEv 3 1 0 0 0 k.val (st + cause * 2 ^ 8) s
  | .gport k => traceEv 3 2 0 0 0 k.val (st + cause * 2 ^ 8) s

/-- A link enters a state: FAIL keeps its cause and sets PATH_FAIL, RETRAIN counts and sets PATH_RETRAIN (R264, R480,
R491). -/
def linkState (p : LinkPort) (st cause : Nat) (s : State) : State :=
  let l := getLink s p
  let l1 := { l with
    state := st
    cause := if st = lsFail then cause else l.cause
    retrains := if st = lsRetrain ∧ l.retrains ≠ 0xFFFF#16 then l.retrains + 1 else l.retrains }
  let s1 := traceLink p st l1.cause (setLink p l1 s)
  if st = lsFail then setErr ebPATH_FAIL s1 else if st = lsRetrain then setErr ebPATH_RETRAIN s1 else s1

/-- HDR_ERR of a port rises (R281, R480, R491). -/
def countHdrErr (p : LinkPort) (s : State) : State :=
  setErr ebHDR_ERR (modLink p (fun l => { l with hdrErr := satInc l.hdrErr }) s)

/-! Flits (R267, R268, R292). -/

/-- Bytes of a flit, of its payload, and the modulus of its sequence numbers. -/
def flitBytes (pl2 : Bool) : Nat := if pl2 then 128 else 256
def flitPayload (pl2 : Bool) : Nat := if pl2 then 112 else 240
def seqModulus (pl2 : Bool) : Nat := if pl2 then 2 ^ 16 else 2 ^ 23

/-- n zero bytes. -/
def zeroBytes (n : Nat) : List Byte := List.replicate n 0

/-- A flit's header, payload and reserved bytes followed by their CRC-32C (R267, R268). -/
def sealFlit (body : List Byte) : BitVec 2048 := BitVec.ofNat 2048 (leNat (body ++ leBytes 4 (crc32c body)))

/-- ACKSEQ and ACKV of a flit: the last of the rx flits accepted (R267). -/
def ackSeq (pl2 : Bool) (rx : Nat) : Nat := (rx + seqModulus pl2 - 1) % seqModulus pl2

/-- A flit: header, payload, reserved bytes and CRC-32C (R267). `rx` is the count of flits accepted, of which the last
is acknowledged. -/
def mkFlit (pl2 : Bool) (ftype tslot seq rx : Nat) (nak : Bool) (pvb : Nat) (payload : List Byte) : BitVec 2048 :=
  let n := seq % seqModulus pl2
  let a := ackSeq pl2 rx
  let hdr := ftype + tslot % 16 * 2 ^ 4 + n % 2 ^ 16 * 2 ^ 8 + a % 2 ^ 16 * 2 ^ 24 + (if rx = 0 then 0 else 1) * 2 ^ 40 +
    (if nak then 1 else 0) * 2 ^ 41 + pvb * 2 ^ 42 + n / 2 ^ 16 * 2 ^ 50 + a / 2 ^ 16 * 2 ^ 57
  let k := flitPayload pl2
  sealFlit (leBytes 8 hdr ++ (payload ++ zeroBytes k).take k ++ zeroBytes 4)

/-- A stored flit as a replay sends it: with the current acknowledgement, and without a replay request of its own (R268;
log entry 108). -/
def refreshFlit (pl2 : Bool) (rx : Nat) (f : BitVec 2048) : BitVec 2048 :=
  let bs := leBytes (flitBytes pl2 - 4) f.toNat
  let a := ackSeq pl2 rx
  let h := setBits (setBits (leNat (bs.take 8)) 24 16 a) 40 2 (if rx = 0 then 0 else 1)
  sealFlit (leBytes 8 (if pl2 then h else setBits h 57 7 (a / 2 ^ 16)) ++ bs.drop 8)

/-! The retry store (R269, R270). -/

/-- The on-die share of a port: 8,192·w/16 flits for a path, 8,192 for a G-port (R269, R453). -/
def dieShare (l : Link) : LinkPort → Nat
  | .path _ => 512 * l.width
  | .gport _ => 8192

/-- The place of flit n in the stack-memory store, used as a ring in sequence order (R270). -/
def rstoreAddr (l : Link) (pl2 : Bool) (n : Nat) : Nat :=
  l.rsBase + n % Nat.max (l.rsLen / flitBytes pl2) 1 * flitBytes pl2

/-- The flit that the on-die share gives up goes to the stack store (R270). -/
def spillOldest (p : LinkPort) (s : State) : State :=
  let l := getLink s p
  let extra := l.retry.length - dieShare l p
  if l.rsLen = 0 ∨ extra = 0 then s
  else match l.retry[extra - 1]? with
    | none => s
    | some (n, f) =>
      let pl2 := isPl2 s p
      (extWrite s 0 true 0 (rstoreAddr l pl2 n) (leBytes (flitBytes pl2) f.toNat) [] false).1

/-- Gives a flit the next number and keeps it until it is acknowledged (R267, R269). -/
def sendFlit (p : LinkPort) (tslot : Nat) (f : TxFlit) (s : State) : State :=
  let l := getLink s p
  let w := mkFlit (isPl2 s p) f.ftype tslot l.txSeq l.rxSeq f.nak f.pvb f.payload
  spillOldest p (setLink p { l with txSeq := l.txSeq + 1, retry := l.retry ++ [(l.txSeq, w)] } s)

/-- Flits that the retry store of a link holds: its on-die share and its stack-memory store, and less than half of the
sequence space (R267, R269, R270). -/
def storeSize (l : Link) (p : LinkPort) (pl2 : Bool) : Nat :=
  Nat.min (dieShare l p + l.rsLen / flitBytes pl2) (seqModulus pl2 / 2)

/-! The order in which flits leave (R266, R271, R272). -/

/-- Gives transmit slots to chunks in their order, each the lowest free one, while any of the 16 is free (R271). -/
def giveSlots : List Nat → List TxChunk → List TxChunk
  | _, [] => []
  | used, c :: cs =>
    match c.slot with
    | some _ => c :: giveSlots used cs
    | none =>
      match (List.range 16).find? (fun i => !used.contains i) with
      | some i => { c with slot := some i } :: giveSlots (i :: used) cs
      | none => c :: cs

def Link.slotted (l : Link) : Link := { l with chunks := giveSlots (l.chunks.filterMap (·.slot)) l.chunks }

/-- The flit that leaves next, its TSLOT, and the link without it: records, then link-control messages one after
another, then the chunks in their slots by turns (R271, R272). -/
def Link.next (l : Link) : Option (TxFlit × Nat × Link) :=
  match l.held, l.msgs with
  | f :: rest, _ => some (f, 0, { l with held := rest })
  | [], ⟨src, f :: segs, whole⟩ :: ms =>
    some (f, 0, { l with msgs := if segs.isEmpty && whole then ms else ⟨src, segs, whole⟩ :: ms })
  | [], _ =>
    let far (c : TxChunk) : Option Nat := if c.flits.isEmpty then none else c.slot.map (fun i => (i + 16 - l.turn % 16) % 16)
    match (l.chunks.filterMap far).foldl (fun b d => some (Nat.min d (b.getD d))) none with
    | none => none
    | some d =>
      match l.chunks.find? (fun c => far c == some d) with
      | some ⟨src, some i, f :: fs, whole⟩ =>
        let left := l.chunks.filterMap (fun c =>
          if far c == some d then (if fs.isEmpty && whole then none else some ⟨src, some i, fs, whole⟩) else some c)
        some (f, i, { l with chunks := left, turn := (i + 1) % 16 })
      | _ => none

/-- Flits that wait to leave on a link. -/
def Link.waiting (l : Link) : Nat :=
  l.held.length + (l.msgs.map (·.segs.length)).sum + (l.chunks.map (·.flits.length)).sum

/-- Sends what waits, at most n flits, while the retry store has room (R269). -/
def pump (p : LinkPort) : Nat → State → State
  | 0, s => s
  | n + 1, s =>
    let l := (getLink s p).slotted
    if storeSize l p (isPl2 s p) ≤ l.retry.length then s
    else match l.next with
      | none => s
      | some (f, i, l1) => pump p n (sendFlit p i f (setLink p l1 s))

/-- Whether a link takes traffic: one that retrains keeps it (R269). -/
def Link.carries (l : Link) : Bool := l.state == lsUp || l.state == lsRetrain

/-- Puts something before a link that carries traffic, and sends what can leave. -/
def linkPut (p : LinkPort) (f : Link → Link) (s : State) : State :=
  let l := f (getLink s p)
  if (getLink s p).carries then pump p l.waiting (setLink p l s) else s

/-- Sends what waits on a link (R269). -/
def drainLink (p : LinkPort) (s : State) : State := pump p (getLink s p).waiting s

/-- Sends a flit of records, or an IDLE flit with a replay request. -/
def pushFlit (p : LinkPort) (ftype pvb : Nat) (nak : Bool) (payload : List Byte) (s : State) : State :=
  linkPut p (fun l => { l with held := l.held ++ [⟨ftype, pvb, nak, payload⟩] }) s

/-- The poisoned words that a replay from the stack store would read (R270). -/
def replayPoisoned (s : State) (p : LinkPort) : Bool :=
  let l := getLink s p
  let pl2 := isPl2 s p
  l.rsLen != 0 && (l.retry.take (l.retry.length - dieShare l p)).any (fun e =>
    !(extPoisonIn s 0 (rstoreAddr l pl2 e.1) (flitBytes pl2)).isEmpty)

/-! Framing (R271, R272, R275, R283, R323). -/

/-- The routing block of R272. -/
def routingBlock (s : State) (dst : UPath) : List Byte :=
  leBytes 6 dst.toNat ++ leBytes 6 s.grove.upathSelf.toNat ++ zeroBytes 4

/-- A chunk's header flit and its data flits (R274, R275). -/
def pushChunk (p : LinkPort) (ftype : Nat) (head stream : List Byte) (s : State) : State :=
  let k := flitPayload (isPl2 s p)
  let flits := (cut k (stream.length / k + 1) stream).map (fun d => (⟨2, d.length, false, d⟩ : TxFlit))
  linkPut p (fun l => { l with chunks := l.chunks ++ [⟨none, none, ⟨ftype, head.length, false, head⟩ :: flits, true⟩] }) s

/-- A flit of one record, with its routing block on PL3 (R283). -/
def pushRecord (p : LinkPort) (ftype : Nat) (dst : UPath) (rec : List Byte) (s : State) : State :=
  let body := (if isPl2 s p then [] else routingBlock s dst) ++ rec
  pushFlit p ftype body.length false body s

/-- The segments of a link-control message of number mid (R272). -/
def lctlSegs (pl2 : Bool) (mid ltype : Nat) (enc : Bool) (body : List Byte) : List TxFlit :=
  let k := flitPayload pl2 - 16
  let segs := cut k (body.length / k + 1) body
  let head (i : Nat) : List Byte :=
    leBytes 16 (ltype + (if pl2 then 2 else 3) * 2 ^ 8 + mid % 2 ^ 16 * 2 ^ 16 + i * 2 ^ 32 +
      (if i + 1 = segs.length then 1 else 0) * 2 ^ 44 + (if enc then 1 else 0) * 2 ^ 45 + body.length * 2 ^ 64)
  ((List.range segs.length).zip segs).map (fun e => ⟨6, 16 + e.2.length, false, head e.1 ++ e.2⟩)

/-- Sends a link-control message; the messages of a link leave one after another (R272). -/
def pushLctl (p : LinkPort) (ltype : Nat) (enc : Bool) (body : List Byte) (s : State) : State :=
  let pl2 := isPl2 s p
  linkPut p (fun l => { l with
    mid := (l.mid + 1) % 2 ^ 16, msgs := l.msgs ++ [⟨none, lctlSegs pl2 l.mid ltype enc body, true⟩] }) s

/-- HELLO or HELLO_ACK of number mid: a link-control flit with FSEQ 0 and ACKV 0 that is not numbered (R272). -/
def helloFlit (pl2 : Bool) (mid : Nat) (ack : Bool) (body : BitVec 256) : BitVec 2048 :=
  match lctlSegs pl2 mid (if ack then 2 else 1) false (leBytes 32 body.toNat) with
  | f :: _ => mkFlit pl2 f.ftype 0 0 0 false f.pvb f.payload
  | [] => 0

/-- Takes the next counter value of the key toward a peer (R290): the receiver's slot, the key and the value; none while
no key is in force or the counter has run out (R414). -/
def takeNonce (u : UPath) (s : State) : Option (Nat × BitVec 256 × Nat × State) :=
  match sendKey s u with
  | none => none
  | some (i, k) =>
    if 2 ^ 40 - 1 ≤ k.nonce then none
    else some (k.peerSlot, k.key, k.nonce,
      { s with prom := { s.prom with keys := tset s.prom.keys i { k with nonce := k.nonce + 1 } } })

/-- The IV of R290: NONCE_CTR, then KSLOT. -/
def gcmIv (nonce kslot : Nat) : BitVec 96 := BitVec.ofNat 96 (nonce % 2 ^ 64 + kslot * 2 ^ 64)

/-- A grove message on its route, encrypted where the route is exposed; without a key it waits for one (R272, R291). -/
def pushGrove (p : LinkPort) (dst : UPath) (hdr : BitVec 128) (body : List Byte) (s : State) : State :=
  let rb := routingBlock s dst
  let msg := leBytes 16 hdr.toNat ++ body
  if exposedPort s p then
    match takeNonce dst s with
    | none => { s with prom := { s.prom with sealWait := s.prom.sealWait ++ [(dst, hdr, body)] } }
    | some (ks, key, n, s1) =>
      pushLctl p 0x10 true (rb ++ leBytes 8 n ++ leBytes 4 ks ++ Config.gcmSeal key (gcmIv n ks) rb msg) s1
  else pushLctl p 0x10 false (rb ++ msg) s

/-- Frames what has left for a link onto the port of its route (R265, R271). -/
def frameOut (s : State) (o : Out) : State :=
  let on (dst : UPath) (f : LinkPort → State → State) : State :=
    match routeOf s dst with
    | none => s
    | some p => f p s
  match o with
  | .chunk p hdr stream => pushChunk p 1 (leBytes 64 hdr.toNat) stream s
  | .creditRec dst r => on dst (fun p => pushRecord p 3 dst (leBytes 16 r.toNat))
  | .cackRec dst r => on dst (fun p => pushRecord p 4 dst (leBytes 16 r.toNat))
  | .bounce dst hdr ep => on dst (fun p => pushRecord p 5 dst (leBytes 64 hdr.toNat ++ leBytes 2 stMISROUTED ++ leBytes 4 ep.toNat))
  | .lctl dst t body => on dst (fun p s => pushLctl p t false (routingBlock s dst ++ body) s)
  | .grove dst hdr body => on dst (fun p => pushGrove p dst hdr body)
  | .nak p _ => pushFlit p 0 0 true [] s
  | .band dst hdr stream => on dst (fun p s =>
    pushChunk p 7 (leBytes 64 hdr.toNat ++ (if isPl2 s p then [] else routingBlock s dst)) stream s)
  | _ => s

/-- Frames what a command has sent: what left the ports after the first n entries of the record. -/
def frameNew (n : Nat) (s : State) : State := (s.out.drop n).foldl frameOut s

/-! What a command's meaning is wrapped in. -/

/-- A command's effect with what it sent framed on its links; the queue of waiting commands is untouched. -/
def effect (f : State → State) (s : State) : State := { frameNew s.out.length (f s) with pending := s.pending }

/-- A command that acts while the instance is up: its effect on everything but the queue. Before READY the ports take
nothing and the state stays (log entry 5); after a destroying test only a reset, an instrument or power removal acts
(R508). -/
def live (f : State → State) (s : State) : Result :=
  match s.sys.phase with
  | .up => .next (effect f s)
  | .destroyed => .fault .stateDestroyed
  | _ => .next s

/-- A command that acts in every phase (reset, test, power removal). -/
def always (f : State → State) (s : State) : Result := .next { f s with pending := s.pending }

/-- A command that acts outside reset: during start-up too (R437 to R439). -/
def running (f : State → State) (s : State) : Result :=
  match s.sys.phase with
  | .destroyed => .fault .stateDestroyed
  | .inReset => .next s
  | _ => .next (effect f s)

end Sys2Proof.Machine
end

