-- ==== Sys2Proof/Machine/Member.lean ====
section
/-!
DEFINITION. Membership of groves (R331, R338, R339) and the grove messages that an instance sends (R336, R337).
-/
namespace Sys2Proof.Machine

/-- The outermost formed grove of the instance: the root grove as far as the instance knows (R338). -/
def rootGrove (s : State) : Option GroveSt := s.grove.formed.head?

/-- Whether the instance leads its outermost grove. -/
def leadsRoot (s : State) : Bool :=
  match rootGrove s with
  | none => false
  | some g => g.leader == s.grove.upathSelf

/-- Whether the host may attach here: a standalone instance or a root leader (R338). -/
def bindsHost (s : State) : Bool := (rootGrove s).isNone || leadsRoot s

/-- Members of the binding (R338). -/
def memberCount (s : State) : Nat :=
  match rootGrove s with
  | none => 1
  | some g => g.ninst

/-- Whether an entry of a table at prefix length lv holds a path. -/
def GMember.holds (lv : Nat) (e : GMember) (u : UPath) : Bool :=
  if e.isGrove then pathPrefix (lv + 1) e.upath == pathPrefix (lv + 1) u else e.upath == u

/-- Instances in a member (R333). -/
def GMember.size (e : GMember) : Nat := if e.isGrove then e.ninst else 1

/-- The entry of a table that holds index i, with the index inside it (R339). -/
def entryAt : List GMember → Nat → Option (GMember × Nat)
  | [], _ => none
  | e :: es, i => if i < e.size then some (e, i) else entryAt es (i - e.size)

/-- Instance j of a member grove whose table this instance does not hold: as the member's leader has reported it, and
until then the path from which its GHELLO came (log entries 38 and 40). -/
def GMember.inst (e : GMember) (j : Nat) : UPath := e.insts.getD j e.lead

/-- Whether an entry is the member grove that comes first in a list of groves. -/
def GMember.heads (e : GMember) (inner : List GroveSt) : Bool :=
  e.isGrove && ((inner.head?.map (fun h => h.gprefix)) == some e.upath)

/-- The path of member index i of a grove, through the groves that this instance has formed inside it (R339). -/
def pathOfMember : List GroveSt → Nat → UPath
  | [], _ => BitVec.allOnes 48
  | g :: inner, i =>
    match entryAt g.members i with
    | none => BitVec.allOnes 48
    | some (e, j) =>
      if e.heads inner then pathOfMember inner j else if e.isGrove then e.inst j else e.upath

/-- The member index of a path (R339). -/
def indexOfPath (u : UPath) : List GroveSt → Nat
  | [] => 0
  | g :: inner =>
    let before := (g.members.takeWhile (fun e => !e.holds g.glevel u)).map GMember.size
    match g.members.find? (fun e => e.holds g.glevel u) with
    | none => if g.members.isEmpty then indexOfPath u inner else before.sum
    | some e => before.sum +
        (if e.heads inner then indexOfPath u inner else if e.insts.contains u then e.insts.idxOf u else 0)

/-- The member index of this instance: the one that the leader has named, or its place in the tables that it holds. -/
def ownIndex (s : State) : Nat :=
  match (s.grove.formed.head?).bind (·.myIndex) with
  | some i => i
  | none => indexOfPath s.grove.upathSelf s.grove.formed

/-- The path of member index i. -/
def memberPath (s : State) (i : Nat) : UPath := pathOfMember s.grove.formed i

/-! The capability list (R340, R372, R373). -/

/-- The records of an Ixdon G3 (R373). -/
def ownCaps : List CapRec :=
  (List.range 19).map (fun i =>
    ⟨i + 1, if i = 0 then 3 else 1, 0,
      if i = 0 then 1 + 3 * 2 ^ 8 else if i = 1 then 0x3FF else if i = 2 then 16 else if i = 9 then 1024 else 0⟩)

/-- The record of a grove from those of two of its parts (R340, R373). -/
def CapRec.meet (a b : CapRec) : CapRec :=
  { a with
    version := Nat.min a.version b.version, flags := a.flags &&& b.flags
    value :=
      if a.id = 3 then a.value + b.value
      else if a.id = 1 then Nat.max (bits a.value 0 8) (bits b.value 0 8) + Nat.min (bits a.value 8 8) (bits b.value 8 8) * 2 ^ 8 +
        Nat.min (bits a.value 16 16) (bits b.value 16 16) * 2 ^ 16
      else Nat.min a.value b.value }

/-- The records that two lists share (R340). -/
def meetCaps (a b : List CapRec) : List CapRec := a.filterMap (fun x => (b.find? (fun y => y.id == x.id)).map x.meet)

/-- A member's list as it has reported it; until then that of as many instances of this part (R340; log entry 40). -/
def GMember.capList (e : GMember) : List CapRec :=
  e.caps.getD (ownCaps.map (fun x => if x.id = 3 then { x with value := x.value * e.size } else x))

/-- The list of a grove that this instance leads, through the groves that it leads inside it. -/
def capsIn (self : UPath) : List GroveSt → List CapRec
  | [] => ownCaps
  | g :: inner =>
    let own := capsIn self inner
    if g.leader != self then own
    else ((g.members.filter (fun e => !e.holds g.glevel self)).map GMember.capList).foldl meetCaps own

/-- The capability list that this instance presents (R340). -/
def capList (s : State) : List CapRec := capsIn s.grove.upathSelf s.grove.formed

/-- The capabilities of a list, as a mask (R372, R375). -/
def maskOf (l : List CapRec) : BitVec 32 := BitVec.ofNat 32 ((l.filter (fun x => x.id < 32)).map (fun x => 2 ^ x.id)).sum

/-- The feature set that the checks of this instance test (R376): the negotiated one; at a member of a grove, where no
host is attached, its whole list, for the leader has tested what it forwards (log entry 111). -/
def features (s : State) : BitVec 32 := if bindsHost s then s.mgmt.fmask else maskOf ownCaps

/-- The state by which the leader judges what runs at member i: this instance's, with the tables of context c that the
member last reported, seen from the member's path. What routes the member has it does not report (R343; log entry 40).
-/
def memberState (s : State) (c i : Nat) : State :=
  if i = ownIndex s then s
  else
    let ctx := getCtx s c
    let x := match tget? (tget s.grove.reported i []) c with
      | none => ctx
      | some t => { ctx with regions := t.regions, landing := t.landing, roles0 := t.roles0, roles1 := t.roles1 }
    { s with
      ctxs := tset s.ctxs c x
      grove := { s.grove with upathSelf := memberPath s i }
      prom := { s.prom with routes := [] } }

/-- A grove header (R337). -/
def groveHdr (g : GroveSt) (gtype gseq : Nat) : BitVec 128 :=
  BitVec.ofNat 128 (g.gprefix.toNat + g.glevel % 8 * 2 ^ 48 + gtype * 2 ^ 56 + g.gepoch.toNat * 2 ^ 64 + gseq % 2 ^ 32 * 2 ^ 96)

/-- Sends a grove message to an instance (R336, R337): numbered from 1 in its ordered pair, but for GHB
and GACK, which carry 0. -/
def sendGrove (g : GroveSt) (dst : UPath) (gtype : Nat) (body : List Byte) (s : State) : State :=
  if gtype = 6 ∨ gtype = 9 then emit (.grove dst (groveHdr g gtype 0) body) s
  else
    let n := tget s.grove.txSeq dst.toNat 0 + 1
    let s1 := { s with grove := { s.grove with
      txSeq := tset s.grove.txSeq dst.toNat n
      unacked := s.grove.unacked ++ [(dst.toNat, n)] } }
    emit (.grove dst (groveHdr g gtype n) body) s1

/-- GFWD's fields (R337): member index, kind and context, then the message and what follows it. -/
def gfwdBody (member kind c : Nat) (msg : BitVec 512) (rest : List Byte) : List Byte :=
  leBytes 4 (member + kind * 2 ^ 16 + c * 2 ^ 20) ++ leBytes 64 msg.toNat ++ rest

/-- GREPORT's fields (R337). -/
def greportBody (member kind c : Nat) (body : List Byte) : List Byte :=
  leBytes 4 (member + kind * 2 ^ 16 + c * 2 ^ 20) ++ body

/-- Reports to the leader of the root grove (R343, R344). -/
def report (kind c : Nat) (body : List Byte) (s : State) : State :=
  match rootGrove s with
  | none => s
  | some g => sendGrove g g.leader 8 (greportBody (ownIndex s) kind c body) s

/-- Sends GFWD to some members of the root grove (R337, R341 to R344). -/
def forwardTell (kind c : Nat) (msg : BitVec 512) (ms : List Nat) (s : State) : State :=
  match rootGrove s with
  | none => s
  | some g => ms.foldl (fun s i => sendGrove g (memberPath s i) 7 (gfwdBody i kind c msg []) s) s

/-- The members of the root grove that are lost (R345). -/
def lostMembers (s : State) : List Nat := ((rootGrove s).map (·.lost)).getD []

/-- The members of the root grove beside this one that are not lost. -/
def otherMembers (s : State) : List Nat :=
  match rootGrove s with
  | none => []
  | some g => (List.range g.ninst).filter (fun i => i != ownIndex s && !g.lost.contains i)

end Sys2Proof.Machine
end

