-- ==== Sys2Proof/Machine/Rings.lean ====
section
/-!
DEFINITION. Mailboxes (R348 to R368): reading messages, the checks of R357, completion records and their writing.
-/
namespace Sys2Proof.Machine

/-- The number that stands for the management ring where a context is named. -/
def mgmtCtx : Nat := 4096

/-- The ring of context c, or of the management mailbox. -/
def ringAt (s : State) (c : Nat) : Ring := if c = mgmtCtx then s.mgmt.ring else (getCtx s c).ring

def modRing (c : Nat) (f : Ring → Ring) (s : State) : State :=
  if c = mgmtCtx then { s with mgmt := { s.mgmt with ring := f s.mgmt.ring } }
  else modCtx c (fun x => { x with ring := f x.ring }) s

def mboxCtx : Mbox → Nat
  | .mgmt => mgmtCtx
  | .ctx c => c.val

/-! Reads and writes that carry no cache (R348, R356, R511). -/

/-- A read by Ixdon itself or for a context, without a cached line: denied or poisoned gives none (R511). -/
def fetchMem (s : State) (c : Nat) (priv : Bool) (space a n : Nat) : State × Option (List Byte) :=
  if !priv && extDenied s c space a n then (setErr ebM_DENY s, none)
  else
    let s1 := mQueue false c priv space a n s
    if (extPoisonIn s space a n).isEmpty then (s1, some (extPeek s space a n)) else (setErr ebM_POISON s1, none)

/-- Position difference modulo 2^24 (R348). -/
def posDiff (a b : Nat) : Nat := (a + 2 ^ 24 - b) % 2 ^ 24

/-- The host address of the unit at position p of a ring (R348). -/
def unitAddr (base log2 p : Nat) : Nat := base + p % 2 ^ log2 * 16

/-- The 16 B units at ring positions [p, p + n) as a number, read from host memory. -/
def readUnits (s : State) (base log2 p n : Nat) : Nat :=
  leNat ((List.range n).flatMap (fun i => extPeek s 1 (unitAddr base log2 (p + i)) 16))

/-- Whether the units at ring positions [p, p + n) read without poison. DESIGN CHOICE: a message with a poisoned unit
is not taken, and stays at the head of its ring (log entry 116). -/
def unitsClean (s : State) (base log2 p n : Nat) : Bool :=
  (List.range n).all (fun i => (extPoisonIn s 1 (unitAddr base log2 (p + i)) 16).isEmpty)

/-- The M-port reads of the n units from position p on (R348). -/
def queueUnits (base log2 p n : Nat) (s : State) : State :=
  (List.range n).foldl (fun s i => mQueue false 0 true 1 (unitAddr base log2 (p + i)) 16 s) s

/-! Messages. -/

/-- Units of a message by generation (R352). -/
def genUnits : Nat → Nat
  | 1 => 1
  | 2 => 2
  | _ => 4

/-- The position of the first unit that is no padding, from the head on (R353). -/
def skipPadding (s : State) (r : Ring) : Nat → Nat → Nat
  | 0, p => p
  | f + 1, p =>
    if p = r.sqTail then p
    else if unitsClean s r.sqBase r.sqLog2 p 1 && readUnits s r.sqBase r.sqLog2 p 1 % 4 == 0 then
      skipPadding s r f ((p + 1) % 2 ^ 24)
    else p

/-- Whether Ixdon reads a submission ring (R248, R349, R350, R361, R381, R385): Belvedere runs, fewer than 64 records
are held, no append waits, and the mailbox is in use. -/
def ringReads (s : State) (c : Nat) : Bool :=
  let r := ringAt s c
  let open_ := if c = mgmtCtx then s.mgmt.en && s.mgmt.ready
    else ((getCtx s c).state == .active || (getCtx s c).state == .halted) && (getCtx s c).altWait.isNone
  open_ && coreState s 2 == 0 && r.held.length < 64 && 6 ≤ r.sqLog2 && r.sqLog2 ≤ 16

/-- A message at the head of a ring: its position, its units, and the message. -/
structure HeadMsg where
  pos : Nat
  units : Nat
  raw : Nat
  msg : Msg
  deriving DecidableEq, Repr

/-- The message that stands first on a ring, when all of its units have been written (R351 to R353). -/
def headMsg (s : State) (c : Nat) : Option HeadMsg :=
  if !ringReads s c then none
  else
    let r := ringAt s c
    let p := skipPadding s r (2 ^ r.sqLog2) r.sqHead
    if p = r.sqTail then none
    else
      let gen := readUnits s r.sqBase r.sqLog2 p 1 % 4
      let n := genUnits gen
      if posDiff r.sqTail p < n || !unitsClean s r.sqBase r.sqLog2 p n then none
      else
        let raw := readUnits s r.sqBase r.sqLog2 p n
        some ⟨p, n, raw, ⟨gen, bits raw 8 8, bits raw 16 16, BitVec.ofNat 32 (bits raw 32 32), BitVec.ofNat 512 raw⟩⟩

/-- A command's generation, capability ID (0 for none) and whether it takes a member index (R354, R355). -/
structure CmdInfo where
  gen : Nat
  cap : Nat
  member : Bool
  deriving DecidableEq, Repr

/-- The context commands (R354). -/
def ctxCmd (o : Nat) : Option CmdInfo :=
  if o = 0x01 ∨ o = 0x02 then some ⟨1, 1, false⟩
  else if o = 0x03 then some ⟨2, 1, false⟩
  else if o = 0x04 ∨ o = 0x07 ∨ o = 0x08 then some ⟨2, 1, true⟩
  else if o = 0x05 ∨ o = 0x06 then some ⟨1, 1, true⟩
  else if o = 0x09 then some ⟨2, 8, true⟩
  else if o = 0x0A then some ⟨2, 7, true⟩
  else if o = 0x0B then some ⟨2, 6, true⟩
  else if o = 0x14 then some ⟨1, 7, true⟩
  else if 0x10 ≤ o ∧ o ≤ 0x16 then some ⟨2, 7, true⟩
  else if o = 0x20 then some ⟨1, 10, true⟩
  else if o = 0x21 then some ⟨2, 10, true⟩
  else none

/-- The management commands (R355). -/
def mgmtCmd (o : Nat) : Option CmdInfo :=
  if o = 0x80 ∨ o = 0x81 then some ⟨1, 0, false⟩
  else if o = 0x82 ∨ o = 0x84 then some ⟨2, 1, false⟩
  else if o = 0x83 ∨ o = 0x8E ∨ o = 0x8F then some ⟨1, 1, false⟩
  else if o = 0x85 then some ⟨1, 7, true⟩
  else if o = 0x86 then some ⟨2, 10, true⟩
  else if o = 0x87 ∨ o = 0x88 then some ⟨1, 10, true⟩
  else if o = 0x89 then some ⟨1, 13, true⟩
  else if o = 0x8A ∨ o = 0x8B then some ⟨3, 13, false⟩
  else if o = 0x8C ∨ o = 0x8D then some ⟨1, 7, false⟩
  else if o = 0x90 ∨ o = 0x91 then some ⟨2, 1, true⟩
  else if o = 0x92 then some ⟨2, 14, false⟩
  else none

def cmdInfo (c o : Nat) : Option CmdInfo := if c = mgmtCtx then mgmtCmd o else ctxCmd o

/-- Jobs, Allotment operations and launches, which a halted context refuses (R357). -/
def refusedHalted (o : Nat) : Bool := o == 1 || (0x10 ≤ o && o ≤ 0x16) || o == 0x20

/-- Whether MEMBER is one that the command accepts (R354, R355, R357 check 4). -/
def memberOk (s : State) (c : Nat) (i : CmdInfo) (m : Nat) : Bool :=
  if m = 0 then true
  else if !i.member then false
  else if c = mgmtCtx then m < memberCount s || m == 0xFFFF
  else (getCtx s c).grove && m < memberCount s

/-- The management commands that a member of a formed grove still takes: ATTACH, which is refused with the leader's
path, DETACH, and GROVE_DISSOLVE (R338, R346). -/
def atMember (o : Nat) : Bool := o == 0x80 || o == 0x81 || o == 0x8B

/-- The message checks of R357: the first failing code. An operation that has passed them and waits under R248 is not
refused for a halt that comes while it waits. GROVE_FORM answers a low generation itself (R334). A member of a formed
grove has no management mailbox (R338; log entry 112). -/
def msgCheck (s : State) (c : Nat) (h : HeadMsg) : Option Nat :=
  let r := ringAt s c
  if bits h.raw 2 4 + 1 != h.units || bits h.raw 6 2 != 0 || (h.msg.gen < 3 && h.msg.member != 0) ||
      2 ^ r.sqLog2 < h.pos % 2 ^ r.sqLog2 + h.units then some stMSG_FORMAT
  else match cmdInfo c h.msg.opc with
    | none => some stBAD_OPC
    | some i =>
      if h.msg.gen < i.gen && !(c == mgmtCtx && h.msg.opc == 0x8A) then some stBAD_OPC
      else if i.cap != 0 && !s.mgmt.fmask.getLsbD i.cap then some stVERSION_REFUSED
      else if !memberOk s c i h.msg.member then some stBAD_MEMBER
      else if c != mgmtCtx && (getCtx s c).state == .halted && refusedHalted h.msg.opc && r.began != some h.pos then
        some stCTX_HALTED
      else if c == mgmtCtx && !bindsHost s && !atMember h.msg.opc then some stGROVE_MEMBER
      else none

/-! Records. -/

/-- KIND of a message's record, by ring (R352): an opcode that the ring does not take is an ordinary command. -/
def recKind (mgmt : Bool) (o : Nat) : Nat :=
  if mgmt then (if o = 0x8C ∨ o = 0x8D then 2 else 4)
  else if o = 1 then 1 else if 0x10 ≤ o ∧ o ≤ 0x16 then 2 else if o = 0x20 then 3 else 4

/-- Units of a record (R362, R363, R366 to R368). -/
def recUnits (gen kind : Nat) : Nat :=
  if gen = 1 then 1 else if gen = 2 then 2 else if kind = 1 ∨ kind = 3 then 8 else 4

def mkRec (gen kind status : Nat) (tag : BitVec 32) (body : Nat) : CRec := ⟨gen, kind, status, tag, recUnits gen kind, body, none, none⟩

/-- The bits of a record with its phase (R352, R360). -/
def CRec.bitsOf (r : CRec) (phase : Nat) : Nat :=
  (r.gen + (r.units - 1) * 4 + phase * 64 + r.kind * 2 ^ 8 + r.status * 2 ^ 16 + r.tag.toNat * 2 ^ 32 + r.body * 2 ^ 64) %
    2 ^ (128 * r.units)

/-- Queues a record for its ring (R361). -/
def postRec (c : Nat) (r : CRec) (s : State) : State := modRing c (fun x => { x with held := x.held ++ [r] }) s

/-- The bits of a command record from bit 64 on (R368). -/
def cmdBody (opc ret0 ret1 ret2 fmember : Nat) : Nat :=
  ret0 + ret1 * 2 ^ 64 + ret2 * 2 ^ 128 + opc * 2 ^ 192 + fmember * 2 ^ 200

/-- OUT_XBND of R365 with every slot's stream absent: each of eleven reads 800h. -/
def oxbAbsent : Nat := ((List.range 11).map (fun k => 0x800 * 2 ^ (12 * k))).sum

/-- The bits of a job record from bit 64 on, for a job refused at its checks (R363, R364). -/
def refusedJobBody (jobseq : BitVec 32) (prog tpc : Nat) : Nat :=
  jobseq.toNat + (2 ^ 64 - 1) * 2 ^ 128 + 255 * 2 ^ 280 + tpc * 2 ^ 288 + prog * 2 ^ 320 + oxbAbsent * 2 ^ 448

/-- The bits of an Allotment record from bit 64 on (R366). -/
def altBody (s : State) (seq : Nat) (use : Nat × Nat × Nat) : Nat :=
  let d := seqDesc s seq
  bits d 160 32 + bits d 64 32 * 2 ^ 32 + bits d 96 32 * 2 ^ 64 + bits d 128 8 * 2 ^ 96 + use.1 * 2 ^ 128 +
    use.2.1 * 2 ^ 160 + use.2.2 * 2 ^ 192 + seq * 2 ^ 224

/-- How a command ends: with its record now, with its record later, or not taken at all (R248, R382). -/
inductive Reply where
  | done (status body : Nat)
  | later
  | stay
  deriving DecidableEq, Repr

/-- Posts the record of a message, or reports it to the leader that forwarded the message (R343, R361). -/
def finish (w : Waiter) (status body : Nat) (s : State) : State :=
  let r := mkRec w.gen (recKind w.mgmt w.opc) status w.tag body
  match w.via with
  | none => postRec (if w.mgmt then mgmtCtx else w.ctx) r s
  | some _ => report 1 (if w.mgmt then 0 else w.ctx) (leBytes 128 (r.bitsOf 0)) s

/-- The body of the record of a message that its first checks refuse (R357, R362 to R368). -/
def refusalBody (s : State) (c : Nat) (m : Msg) : Nat :=
  match recKind (c == mgmtCtx) m.opc with
  | 1 => refusedJobBody (getCtx s c).jobCount 0 0
  | 2 => altBody s (bits m.bits.toNat 64 18) (getCtx s c).use
  | 3 => 0
  | _ => cmdBody m.opc 0 0 0 0

/-- The number of a JOB_SUBMIT message in ring order (R368). -/
def nextJobNo (n : BitVec 32) : BitVec 32 := if n = 0xFFFFFFFF#32 then 1 else n + 1

/-- A command's own meaning: context, waiter, message, state. -/
abbrev MsgAct := Nat → Waiter → Msg → State → State × Reply

/-- Takes a ring's units up to position p: their reads leave, and SQ_HEAD passes them (R348, R351). The reads of a
message leave here, after those of its own parameter block (log entry 116). -/
def takeUnits (c p : Nat) (s : State) : State :=
  let r := ringAt s c
  modRing c (fun r => { r with sqHead := p, began := none })
    (queueUnits r.sqBase r.sqLog2 r.sqHead (Nat.min (posDiff p r.sqHead) (2 ^ r.sqLog2)) s)

/-- Advances SQ_HEAD past a message (R351). -/
def consume (c : Nat) (h : HeadMsg) (s : State) : State := takeUnits c ((h.pos + h.units) % 2 ^ 24) s

/-- A message that stays on its ring; of an Allotment operation the ring keeps that it has passed its checks (R248). -/
def leaveHead (c : Nat) (h : HeadMsg) (s : State) : State :=
  if 0x10 ≤ h.msg.opc ∧ h.msg.opc ≤ 0x16 ∧ c ≠ mgmtCtx then modRing c (fun r => { r with began := some h.pos }) s else s

def waiterOf (c : Nat) (m : Msg) : Waiter := ⟨c == mgmtCtx, c, m.gen, m.opc, m.tag, none⟩

/-- Whether a message stands for the whole grove: one of the management mailbox or of a grove context (R341, R354). -/
def ofGrove (s : State) (c : Nat) : Bool := (rootGrove s).isSome && (c == mgmtCtx || (getCtx s c).grove)

/-- The members that a message concerns beside this one (R341 to R343): the member of its index, or all for FFFFh. -/
def forwardTo (s : State) (c : Nat) (m : Msg) : List Nat :=
  match rootGrove s with
  | none => []
  | some g =>
    let all := (List.range g.ninst).filter (· != ownIndex s)
    match cmdInfo c m.opc with
    | some i =>
      if !i.member || !ofGrove s c then []
      else if m.member = 0xFFFF then all else if m.member = ownIndex s then [] else [m.member]
    | none => []

/-- Whether the message also acts here. -/
def actsHere (s : State) (c : Nat) (m : Msg) : Bool :=
  match cmdInfo c m.opc with
  | some i => !i.member || !ofGrove s c || m.member == 0xFFFF || m.member == ownIndex s
  | none => true

/-- Forwards a message to members, in ring order, and waits for their reports (R342, R343). -/
def forwardMsg (w : Waiter) (c : Nat) (m : Msg) (ms : List Nat) (fail body : Option (Nat × Nat)) (s : State) : State :=
  forwardTell (if c = mgmtCtx then 2 else 1) (if c = mgmtCtx then 0 else c) m.bits ms
    { s with grove := { s.grove with fwd := s.grove.fwd ++ [⟨w, ms, fail, body, []⟩] } }

/-- Whether a launch that goes to another member asks for a capability outside the negotiated set, which that member
does not know (R376; log entry 111). -/
def launchLacks (s : State) (c : Nat) (m : Msg) (d : Nat) : Bool :=
  c != mgmtCtx && m.opc == 0x20 &&
    ((bit d 20 && !s.mgmt.fmask.getLsbD 0xC) || (bits d 21 2 != 0 && !s.mgmt.fmask.getLsbD 0xB))

/-- What the leader refuses before it forwards a message: after a loss (R345), or for a feature. -/
def forwardBad (s : State) (c : Nat) (m : Msg) : Option (Nat × Nat) :=
  let d := leNat (extPeek s 1 (bits m.bits.toNat 64 64) 64)
  match lostMembers s with
  | i :: _ => some (stMEMBER_LOST, if recKind (c == mgmtCtx) m.opc = 4 then cmdBody m.opc 0 0 0 i else refusalBody s c m)
  | [] => if launchLacks s c m d then some (stBAD_COLL, bits d 32 32 + bits d 0 10 * 2 ^ 32) else none

/-- Takes the message at the head of a ring when it is command opc: the checks of R357, then the command, here or at the
members that it names. -/
def runMsg (c opc : Nat) (act : MsgAct) (h : HeadMsg) (s : State) : State :=
  let s0 := if opc = 1 ∧ c ≠ mgmtCtx then modCtx c (fun x => { x with jobCount := nextJobNo x.jobCount }) s else s
  let w := waiterOf c h.msg
  match msgCheck s c h with
  | some st =>
    let w1 := if st = stMSG_FORMAT then { w with gen := 1 } else w
    finish w1 st (refusalBody s0 c h.msg) (consume c h s0)
  | none =>
    let others := forwardTo s c h.msg
    if others.isEmpty then
      match act c w h.msg s0 with
      | (s1, .done st body) => finish w st body (consume c h s1)
      | (s1, .later) => consume c h s1
      | (_, .stay) => leaveHead c h s
    else match forwardBad s0 c h.msg with
    | some (st, body) => finish w st body (consume c h s0)
    | none =>
      let sent (s : State) (fail body : Option (Nat × Nat)) : State := forwardMsg w c h.msg others fail body s
      if actsHere s c h.msg then
        match act c w h.msg s0 with
        | (s1, .done st body) => consume c h (sent s1 (if st = 0 then none else some (ownIndex s, st)) (some (ownIndex s, body)))
        | (s1, .later) => consume c h (sent s1 none none)
        | (_, .stay) => leaveHead c h s
      else consume c h (sent s0 none none)

/-- The message row of a ring: the head message when it is this command, or one that its first checks refuse whatever
it is (log entry 6). Padding at the head is skipped without a record. A poisoned unit at the head shows in M_POISON
(R449). -/
def takeMsg (c opc : Nat) (act : MsgAct) (s : State) : State :=
  match headMsg s c with
  | none =>
    if ringReads s c then
      let r := ringAt s c
      let p := skipPadding s r (2 ^ r.sqLog2) r.sqHead
      let s1 := if p = r.sqHead then s else takeUnits c p s
      let n := Nat.min (posDiff r.sqTail p) (genUnits (readUnits s r.sqBase r.sqLog2 p 1 % 4))
      if unitsClean s r.sqBase r.sqLog2 p n then s1 else setErr ebM_POISON s1
    else s
  | some h =>
    if h.msg.opc = opc then runMsg c opc act h s
    else
      match msgCheck s c h with
      | some st => if st = stMSG_FORMAT ∨ (cmdInfo c h.msg.opc).isNone then runMsg c h.msg.opc act h s else s
      | none => s

/-! Writing records (R360, R361). -/

/-- Writes units to a completion ring in host memory, the first unit last (R360). -/
def writeUnits (base log2 p : Nat) (bs : List Byte) (s : State) : State :=
  ((List.range (bs.length / 16)).rotateLeft 1).foldl (fun s i =>
    let a := unitAddr base log2 (p + i)
    mQueue true 0 true 1 a 16 (extPut 1 a ((bs.drop (16 * i)).take 16) [] false s)) s

/-- The phase of a position (R360). -/
def phaseAt (log2 p : Nat) : Nat := (p / 2 ^ log2 + 1) % 2

/-- What the writing of a record sets in force: that of a collective frees its slot (R304), and that of an accepted
MODE_SET its mode (R377). -/
def recordWritten (r : CRec) (s : State) : State :=
  let s1 := match r.slot with
    | none => s
    | some i => { s with band := { s.band with slots := tdel s.band.slots i } }
  match r.mode with
  | none => s1
  | some v => { s1 with sys := { s1.sys with mode := v } }

/-- Writes the oldest held record where the completion ring has room: padding to the ring's end first when the record
would wrap; then CQ_TAIL moves and, with IEN, the interrupt vector is raised (R360, R460). -/
def writeRecord (c : Nat) (s : State) : State :=
  let r := ringAt s c
  match r.held with
  | [] => s
  | rec :: rest =>
    let size := 2 ^ r.cqLog2
    let off := r.cqTail % size
    let pad := if size < off + rec.units then size - off else 0
    let free := size - posDiff r.cqTail r.cqHead
    if r.cqLog2 < 6 ∨ 16 < r.cqLog2 ∨ free < pad + rec.units then s
    else
      let padding := (List.range pad).flatMap (fun i => leBytes 16 (phaseAt r.cqLog2 (r.cqTail + i) * 64))
      let s1 := writeUnits r.cqBase r.cqLog2 r.cqTail padding s
      let p := (r.cqTail + pad) % 2 ^ 24
      let s2 := writeUnits r.cqBase r.cqLog2 p (leBytes (16 * rec.units) (rec.bitsOf (phaseAt r.cqLog2 p))) s1
      let s3 := recordWritten rec (modRing c (fun x => { x with held := rest, cqTail := (p + rec.units) % 2 ^ 24 }) s2)
      if c != mgmtCtx && r.ien then
        { s3 with sys := { s3.sys with irqPend := s3.sys.irqPend ||| (1#1024 <<< (getCtx s c).ivec) } }
      else s3

/-- The lowest pending vector leaves (R460). -/
def sendVector (s : State) : State :=
  match (List.range 1024).find? (fun v => s.sys.irqPend.getLsbD v) with
  | none => s
  | some v => emit (.irq v) { s with sys := { s.sys with irqPend := s.sys.irqPend &&& ~~~(1#1024 <<< v) } }

/-- IRQ_VECTOR_SEND (R460). -/
def execIrqVectorSend (s : State) : Result := live sendVector s

end Sys2Proof.Machine
end

