-- ==== Sys2Proof/Machine/Private.lean ====
section
/-!
DEFINITION. Private ranges of stack memory (R394), and the locations that a stream's bytes reach after translation (R66).
-/
namespace Sys2Proof.Machine

/-- The Allotment's private range as (base, length) pieces (R234). -/
def altRanges (s : State) : List (Nat × Nat) :=
  let a := s.alt
  if !a.configured then []
  else [(a.descBase, 0x1000000), (a.poolBase.1, a.poolN.1 * 0x4000), (a.poolBase.2.1, a.poolN.2.1 * 0x8000),
    (a.poolBase.2.2, a.poolN.2.2 * 0x10000), (a.rcBase.1, a.poolN.1 * 2), (a.rcBase.2.1, a.poolN.2.1 * 2),
    (a.rcBase.2.2, a.poolN.2.2 * 2)]

/-- The private ranges of R394 that lie in stack memory: the Allotment's, the Bandstand staging pool's stack part, the
save pool, the firmware range with Lodge's copies (R437), and the retry stores of R270. -/
def privateRanges (s : State) : List (Nat × Nat) :=
  altRanges s ++ [(s.band.stkBase, s.band.stkLen), (bits s.sys.ctxswHi.toNat 0 52 * 4096, bits s.sys.ctxswLo.toNat 16 9 * 0x200000),
    (s.sys.fwBase * 0x100000, 0x800000)] ++
  s.prom.paths.map (fun e => (bits e.2.rstore.toNat 0 36 * 4096, bits e.2.rstore.toNat 36 20 * 4096))

/-- Whether a stack range reaches a private range. -/
def reachesPrivate (s : State) (a n : Nat) : Bool := (privateRanges s).any (fun r => rangesMeet a n r.1 r.2)

/-- A range after translation: memory (0 Terrace, 1 stack, 2 host, from 16 on the buffers of an entry owned
elsewhere), first byte, length. -/
abbrev Loc := Nat × Nat × Nat

/-- Terrace locations of a context-view range. -/
def viewLocs (t : Tbl Region) (off n : Nat) : List Loc := (viewParts t off n).map (fun p => (0, p.phys, p.len))

/-- Where a landing piece lies in one buffer. -/
def landLocs (s : State) (c e0 : Nat) (p : LPart) (buf : Nat) : List Loc :=
  let ctx := getCtx s c
  let r := roleOf ctx e0 p.ent.owner
  if r.valid && !roleHere s r then [(16 + p.lid * 4 + buf, p.inner, p.len)]
  else if p.ent.place = 0 then viewLocs ctx.regions (p.addr buf) p.len
  else [(1, p.addr buf, p.len)]

/-- The locations of a byte range of a stream, over the landing buffers that a list names for each entry. -/
def streamLocs (s : State) (c e0 : Nat) (bufs : Landing → List Nat) (x : Stream) (off n : Nat) : List Loc :=
  match x.space with
  | 0 => viewLocs (getCtx s c).regions (x.base + off) n
  | 1 => [(1, x.base + off, n)]
  | 4 => [(2, x.base + off, n)]
  | 3 => (landParts (getCtx s c).landing (x.base + off) n).flatMap (fun p => (bufs p.ent).flatMap (landLocs s c e0 p))
  | _ => []

/-- Every buffer of an entry. -/
def allBufs (e : Landing) : List Nat := List.range (nbufOf e)

/-- The whole of a stream. -/
def wholeLocs (s : State) (c e0 : Nat) (x : Stream) : List Loc := streamLocs s c e0 allBufs x 0 x.length

/-- Whether two lists of locations share a byte. -/
def locsMeet (xs ys : List Loc) : Bool :=
  xs.any (fun x => ys.any (fun y => x.1 == y.1 && rangesMeet x.2.1 x.2.2 y.2.1 y.2.2))

/-- Whether a USE is a destination; accumulate ranges count as destinations (R66). -/
def isDest (use : Nat) : Bool := 14 ≤ use && use ≤ 26

end Sys2Proof.Machine
end

