-- ==== Sys2Proof/Machine/Sfu.lean ====
section
/-!
DEFINITION. The special-function unit: the built-in tables by their generation rule (R149, R150), the G2 tables (R158,
R159), the built-in functions (R146, R147, R154, R155) and the micro-programs of an SFU image (R161 to R165).
-/
namespace Sys2Proof.Machine

/-- Guard precision of the table generation: 2^−192, far below half a unit of 2^−30. -/
def fxP : Nat := 192

def fxOne : Nat := 2 ^ fxP

/-- Σ z^(2i+1)/(2i+1) in fixed point, alternating when `alt`: atanh z, or atan z. -/
def oddSeries (alt : Bool) (zz : Nat) : Nat → Nat → Nat → Nat
  | 0, _, _ => 0
  | k + 1, i, pw =>
    let rest := oddSeries alt zz k (i + 1) (pw * zz / fxOne)
    if alt then pw / (2 * i + 1) - rest else pw / (2 * i + 1) + rest

/-- atanh(p/q) for 0 ≤ p/q ≤ 1/2. -/
def fxAtanh (p q : Nat) : Nat := let z := p * fxOne / q; oddSeries false (z * z / fxOne) 100 0 z

/-- atan(1/q). -/
def fxAtanInv (q : Nat) : Nat := let z := fxOne / q; oddSeries true (z * z / fxOne) 50 0 z

/-- ln 2. -/
def fxLn2 : Nat := 2 * fxAtanh 1 3

/-- π by Machin's formula. -/
def fxPi : Nat := 16 * fxAtanInv 5 - 4 * fxAtanInv 239

/-- Horner's form of 1 + x/n(1 + x/(n+1)(…)). -/
def expHorner (x : Nat) : Nat → Nat → Nat
  | 0, _ => fxOne
  | k + 1, n => fxOne + x * expHorner x k (n + 1) / (n * fxOne)

/-- e^x for a fixed-point x in [0, 1]. -/
def fxExp (x : Nat) : Nat := expHorner x 60 1

/-- e^−x for a fixed-point x ≥ 0. -/
def fxExpNeg (x : Nat) : Nat :=
  let k := x / fxLn2
  (fxOne * fxOne / fxExp (x - k * fxLn2)) >>> k

/-- Horner's form of 1 − y/(n(n+1))(1 − …). -/
def sinHorner (y : Nat) : Nat → Nat → Nat
  | 0, _ => fxOne
  | k + 1, n => fxOne - y * sinHorner y k (n + 2) / (n * (n + 1) * fxOne)

/-- sin x for a fixed-point x in [0, π/2]. -/
def fxSin (x : Nat) : Nat := x * sinHorner (x * x / fxOne) 40 2 / fxOne

/-- The function of a built-in table at u = p/2^k (R149), in fixed point. -/
def tableFn (idx : Nat) (p : Int) (k : Nat) : Nat :=
  let n := p.natAbs
  let u := n * fxOne / 2 ^ k
  match idx with
  | 0 => fxExp (fxLn2 * n / 2 ^ k)
  | 1 =>
    if p = 0 then fxOne * fxOne / fxLn2
    else 2 * fxAtanh n ((2 * 2 ^ k : Nat) + p).toNat * fxOne / fxLn2 * fxOne / u
  | 2 => 2 ^ k * fxOne / n
  | 3 => isqrt (2 ^ k * fxOne * fxOne / n)
  | 4 => if p = 0 then fxPi / 2 else fxSin (fxPi * n / 2 ^ (k + 1)) * fxOne / u
  | 5 => if p = 0 then fxOne else let e2 := fxExp u * fxExp u / fxOne; (e2 - fxOne) * fxOne / (e2 + fxOne) * fxOne / u
  | 6 => fxOne * fxOne / (fxOne + fxExpNeg u)
  | _ => let w := fxExpNeg u; 2 * fxAtanh w (2 * fxOne + w) * fxOne / w

/-- T(u)·2^s rounded to an integer. -/
def tableAt (idx s : Nat) (p : Int) (k : Nat) : Int := ((tableFn idx p k + 2 ^ (fxP - s - 1)) >>> (fxP - s) : Nat)

/-- Domain start in quarters, log2 of the segments per unit, and the segments of a G3 table (R149). -/
def tableDom : Nat → Int × Nat × Nat
  | 0 => (0, 6, 64)
  | 1 => (-1, 7, 96)
  | 2 => (4, 6, 64)
  | 3 => (4, 5, 96)
  | 4 => (0, 6, 64)
  | 5 => (0, 6, 64)
  | _ => (0, 4, 512)

/-- The coefficients of segment j: Y0, A1, A2 (R150). -/
def segCoef (idx j : Nat) : Int × Int × Int :=
  let (q, hb, _) := tableDom idx
  let k := hb + 1
  let p0 : Int := q * (2 ^ k / 4 : Nat) + 2 * (j : Int)
  let y0 := tableAt idx 30 p0 k
  let ym := tableAt idx 30 (p0 + 1) k
  let y1 := tableAt idx 30 (p0 + 2) k
  (y0, y1 - y0, 2 * (y0 + y1 - 2 * ym))

/-- Steps 1 to 3 of R148: the segment, and t in units of 2^−tb. -/
def locate (u u0 : XV) (hexp : Int) (nseg tb : Nat) : Nat × Int :=
  match u with
  | .inf true => (0, 0)
  | .inf false => (nseg - 1, (2 ^ tb : Nat))
  | _ =>
    let q := ((u.sub u0).1).scale (-hexp)
    let j0 := q.floorInt
    let j : Nat := if j0 < 0 then 0 else if (nseg : Int) ≤ j0 then nseg - 1 else j0.toNat
    match ((q.sub (.ofInt j)).1).scale tb with
    | .fin n d e =>
      let t := rneScaled n d e
      (j, if t < 0 then 0 else if ((2 ^ tb : Nat) : Int) < t then (2 ^ tb : Nat) else t)
    | _ => (j, 0)

/-- Step 4 of R148: the quadratic's exact value. -/
def quadVal (c : Int × Int × Int) (t : Int) : XV :=
  let one : Int := (2 ^ 24 : Nat)
  .fin (c.1 * one * one + c.2.1 * t * one + c.2.2 * t * (t - one)) 1 (-78)

/-- A lookup in a G3 table (R148). -/
def lookupG3 (idx : Nat) (u : XV) : XV :=
  let (q, hb, n) := tableDom idx
  let (j, t) := locate u (.fin q 1 (-2)) (-(hb : Int)) n 24
  quadVal (segCoef idx j) t

/-- A lookup in a G2 table (R158, R159): half as many segments per unit, a quarter of them for SIGG; endpoints in
units of 2^−16, with the three exceptions of EXP2. -/
def lookupG2 (idx : Nat) (u : XV) : XV :=
  let (q, hb0, n0) := tableDom idx
  let hb := if idx = 6 then hb0 - 2 else hb0 - 1
  let n := if idx = 6 then n0 / 4 else n0 / 2
  let (j, t) := locate u (.fin q 1 (-2)) (-(hb : Int)) n 16
  let k := if hb < 2 then 2 else hb
  let st : Int := (2 ^ (k - hb) : Nat)
  let p0 : Int := q * (2 ^ k / 4 : Nat) + (j : Int) * st
  let sj := tableAt idx 16 p0 k
  let e0 := tableAt idx 16 (p0 + st) k
  let ej := if idx = 0 ∧ (j = 10 ∨ j = 18 ∨ j = 26) then e0 + 1 else e0
  .fin (sj * (2 ^ 16 : Nat) + (ej - sj) * t) 1 (-32)

/-- A table lookup of the set that the job selects (R157). -/
def lookup (g2 : Bool) (idx : Nat) (u : XV) : XV := if g2 then lookupG2 idx u else lookupG3 idx u

/-- round(x·2^30) of a fixed-point constant. -/
def const30 (x : Nat) : Int := ((x + 2 ^ (fxP - 31)) >>> (fxP - 30) : Nat)

/-- K = log2 e (R147). -/
def constK : XV := .fin (const30 (fxOne * fxOne / fxLn2)) 1 (-30)

/-- C1 = 2·sqrt(2/π) (R147). -/
def constC1 : XV := .fin (const30 (2 * isqrt (2 * fxOne * fxOne / fxPi * fxOne))) 1 (-30)

/-- C3 = 0.044715 (R147). -/
def constC3 : XV := .fin (rneDiv (44715 * 2 ^ 30) 1000000 : Nat) 1 (-30)

/-- X(a) of R147 for the argument z ≥ 0. -/
def xOf (g2 : Bool) (z : XV) : XV :=
  match ((z.mul constK).1).scale 24 with
  | .fin n d e =>
    let a := rneScaled n d e
    let unit : Int := (2 ^ 24 : Nat)
    if 160 * unit ≤ a then .zero
    else
      let n := (-a) / unit
      (lookup g2 0 (.fin (-a - n * unit) 1 (-24))).scale n
  | _ => .zero

/-- SIGG or SOFTH, 1 from 32 on (R147). -/
def tailTable (g2 : Bool) (idx : Nat) (z : XV) : XV := if (XV.ofInt 32).le z then .one else lookup g2 idx z

/-- sg(z) of R147. -/
def sgOf (g2 : Bool) (z : XV) : XV := ((xOf g2 z).mul (tailTable g2 6 z)).1

/-- sp(z) of R147, with the G3 tables whatever SFUSET is (R157). -/
def spOf (z : XV) : XV := ((xOf false z).mul (tailTable false 7 z)).1

/-- The sigmoid row of R146 before rounding, with its limits at the infinities. -/
def sigHat (g2 : Bool) (x : XV) : XV :=
  match x with
  | .inf neg => if neg then .zero else .one
  | _ => if x.isNeg || x.isZero then sgOf g2 x.neg else (XV.one.sub (sgOf g2 x)).1

/-- S(w) = w·SIN(w) (R146). -/
def sinS (w : XV) : XV := (w.mul (lookupG3 4 w)).1

/-- The quadrant table of R146: sine, or cosine. -/
def sinCos (cosine : Bool) (x : XV) : XV :=
  let f := (x.sub (.ofInt x.floorInt)).1
  let q := (f.scale 2).floorInt
  let v := ((f.scale 2).sub (.ofInt q)).1
  let w := (XV.one.sub v).1
  match q.toNat, cosine with
  | 0, false => sinS v
  | 1, false => sinS w
  | 2, false => (sinS v).neg
  | _, false => (sinS w).neg
  | 0, true => sinS w
  | 1, true => (sinS v).neg
  | 2, true => (sinS w).neg
  | _, true => sinS v

/-- The special functions: the built-ins of R146, and the user functions of an image (R164). -/
inductive Fn where
  | exp2
  | log2
  | recip
  | rsqrt
  | sin
  | cos
  | sigmoid
  | tanh
  | silu
  | gelu
  | softplus
  | user (f : Nat)
  deriving DecidableEq, Repr

/-- The value before the one rounding, for a finite argument that R154 does not fix (R146). -/
def fnValue (g2 : Bool) (fn : Fn) (x : XV) : XV :=
  match fn with
  | .exp2 => let n := x.floorInt; (lookup g2 0 (x.sub (.ofInt n)).1).scale n
  | .log2 =>
    let e0 := x.log2Floor
    let r0 := x.scale (-e0)
    let big := (XV.fin 3 1 (-1)).le r0
    let e := if big then e0 + 1 else e0
    let u := ((if big then r0.scale (-1) else r0).sub .one).1
    ((XV.ofInt e).add (u.mul (lookup g2 1 u)).1).1
  | .recip =>
    let e := x.log2Floor
    let y := (lookup g2 2 (x.abs.scale (-e))).scale (-e)
    if x.isNeg then y.neg else y
  | .rsqrt =>
    let e0 := x.log2Floor
    let e := if e0 % 2 = 0 then e0 else e0 - 1
    (lookup g2 3 (x.scale (-e))).scale (-(e / 2))
  | .sin => sinCos false x
  | .cos => sinCos true x
  | .sigmoid => sigHat g2 x
  | .tanh =>
    let a := x.abs
    if XV.one.le a then
      let y := (XV.one.sub ((sgOf g2 (a.scale 1)).scale 1)).1
      if x.isNeg then y.neg else y
    else (x.mul (lookup g2 5 a)).1
  | .silu => (x.mul (sigHat g2 x)).1
  | .gelu =>
    let x3 := ((x.mul x).1.mul x).1
    let w := (Fmt.e8m23.rnd (constC1.mul (x.add (constC3.mul x3).1).1).1).1
    (x.mul (sigHat g2 w)).1
  | .softplus => if x.isNeg || x.isZero then spOf x.neg else (x.add (spOf x)).1
  | .user _ => x

/-- The arguments that R154 fixes: the result, and whether it counts INV_FN. DESIGN CHOICE: a NaN argument of a user
function gives NaN by R154 without a run of R164 (log entry 104). -/
def fnFixed (fn : Fn) (x : XV) : Option (XV × Bool) :=
  match x with
  | .nan => some (.nan, false)
  | .inf neg =>
    match fn with
    | .exp2 => some (if neg then .zero else .inf false, false)
    | .log2 => some (if neg then .nan else .inf false, neg)
    | .recip => some (.zero, false)
    | .rsqrt => some (if neg then .nan else .zero, neg)
    | .sigmoid => some (if neg then .zero else .one, false)
    | .tanh => some (if neg then .ofInt (-1) else .one, false)
    | .silu | .gelu | .softplus => some (if neg then .zero else .inf false, false)
    | .sin | .cos => some (.nan, true)
    | .user _ => none
  | .fin n _ _ =>
    if n = 0 then
      match fn with
      | .exp2 | .cos => some (.one, false)
      | .log2 => some (.inf true, false)
      | .recip | .rsqrt => some (.inf false, false)
      | .sigmoid => some (.fin 1 1 (-1), false)
      | .tanh | .silu | .gelu | .sin => some (.zero, false)
      | .softplus => some ((Fmt.e8m16.rnd (.fin fxLn2 1 (-(fxP : Int)))).1, false)
      | .user _ => none
    else if n < 0 then
      match fn with
      | .log2 | .rsqrt => some (.nan, true)
      | _ => none
    else none

/-- A parsed micro-instruction (R162). -/
structure Micro where
  op : Nat
  dst : Nat
  sa : Nat
  sb : Nat
  slot : Nat
  linear : Bool
  imm : Nat
  deriving DecidableEq, Repr

/-- Micro-instruction i of an image (R161, R162). -/
def microAt (img : List Byte) (i : Nat) : Micro :=
  let w := leNat ((img.drop (0x70 + 8 * i)).take 8)
  ⟨bits w 0 6, bits w 6 3, bits w 9 3, bits w 12 3, bits w 15 3, bit w 18, bits w 32 32⟩

/-- LOOKUP in user slot s of an image (R161, R165). -/
def userLookup (img : List Byte) (s : Nat) (linear : Bool) (u : XV) : XV :=
  let d := leNat ((img.drop (0x30 + 8 * s)).take 8)
  let (j, t) := locate u (Fmt.e8m23.val (bits d 32 32)) (sbits d 8 8) (bits d 0 8) 24
  let c := leNat ((img.drop (0x870 + (128 * s + j) * 12)).take 12)
  quadVal (sbits c 0 32, sbits c 32 32, if linear then 0 else sbits c 64 20) t

/-- Working registers of a user function and the event it has counted (R164): none, or the kind of R52. -/
structure UState where
  w : List XV
  ev : Option Nat
  deriving DecidableEq, Repr

def UState.get (u : UState) (i : Nat) : XV := u.w.getD i .zero

/-- An exact result. -/
def UState.put (u : UState) (i : Nat) (x : XV) : UState := { u with w := u.w.set i x }

/-- One event at most for an evaluation (R155). -/
def UState.count (u : UState) (kind : Nat) (yes : Bool) : UState :=
  if yes && u.ev.isNone then { u with ev := some kind } else u

/-- A result rounded once to E11M48 (R164), after an operation that may be invalid. -/
def UState.putRnd (u : UState) (i : Nat) (r : XV × Bool) : UState :=
  let (x, ovf) := Fmt.e11m48.rnd r.1
  ((u.put i x).count 3 r.2).count 5 (ovf && !r.2)

/-- SPLIT (R163): e and r. -/
def splitOf (form : Nat) (x : XV) : Int × XV :=
  let e0 := x.log2Floor
  let e := match form with
    | 1 => if e0 % 2 = 0 then e0 else e0 - 1
    | 2 => if (XV.fin 3 1 (-1)).le (x.scale (-e0)) then e0 + 1 else e0
    | _ => e0
  (e, x.scale (-e))

/-- 2^floor(x), which an infinity takes to its limit. -/
def pow2Floor : XV → XV
  | .fin n d e => .fin 1 1 (floorScaled n d e)
  | .inf neg => if neg then .zero else .inf false
  | .nan => .nan

/-- One micro-instruction (R163). DESIGN CHOICE (log entry 104): FRAC keeps its exact value where E11M48 cannot hold it,
and SPLIT of NaN into DST 7 counts no event. -/
def microStep (img : List Byte) (m : Micro) (u : UState) : UState :=
  let a := u.get m.sa
  let b := u.get m.sb
  match m.op with
  | 0x01 => u.put m.dst a
  | 0x02 => u.put m.dst (Fmt.e8m23.val m.imm)
  | 0x03 => u.putRnd m.dst (a.add b)
  | 0x04 => u.putRnd m.dst (a.sub b)
  | 0x05 => u.putRnd m.dst (a.mul b)
  | 0x06 => u.put m.dst a.abs
  | 0x07 => u.put m.dst a.neg
  | 0x08 => u.put m.dst (if a.isNan || b.isNan then .nan else a.min b)
  | 0x09 => u.put m.dst (if a.isNan || b.isNan then .nan else a.max b)
  | 0x0A => if a.isNeg then u.put m.dst b else u
  | 0x0B => u.put m.dst (if a.isFin then .ofInt a.floorInt else a)
  | 0x0C => if a.isInf then (u.put m.dst .nan).count 3 true
            else u.put m.dst (if a.isFin then (a.sub (.ofInt a.floorInt)).1 else a)
  | 0x0D =>
    if a.isNan then (u.put m.dst .nan).put (m.dst + 1) .nan
    else if a.isInf || a.isZero || a.isNeg || m.dst == 7 then
      ((u.put m.dst .nan).put (m.dst + 1) .nan).count 3 true
    else
      let (e, r) := splitOf (m.imm % 4) a
      (u.put m.dst (.ofInt e)).put (m.dst + 1) r
  | 0x0E => u.putRnd m.dst (a.mul (pow2Floor b))
  | 0x0F => u.putRnd m.dst (if a.isNan then .nan else userLookup img m.slot m.linear a, false)
  | 0x10 => u.putRnd m.dst (if a.isNan then .nan else lookupG3 (m.imm % 8) a, false)
  | _ => u

/-- Micro-instructions from `pc` on, to the END (R164): the value at END. -/
def microRun (img : List Byte) : Nat → Nat → UState → XV × Option Nat
  | 0, _, u => (u.get 0, u.ev)
  | k + 1, pc, u =>
    let m := microAt img pc
    if m.op = 0x1F then (u.get m.sa, u.ev) else microRun img k (pc + 1) (microStep img m u)

/-- User function f on an argument (R164). -/
def userFn (img : List Byte) (f : Nat) (x : XV) : XV × Option Nat :=
  let d := leNat ((img.drop (0x10 + 4 * f)).take 4)
  microRun img (bits d 8 6) (bits d 0 8) ⟨x :: List.replicate 7 .zero, none⟩

/-- One SFU evaluation on an exact argument: the argument rounded once to E8M16, the function, and the result rounded
once (R119, R144, R155). The result and the kind of the one event it counts, if any; the event's UNIT is 3. -/
def sfu (g2 : Bool) (img : List Byte) (fn : Fn) (arg : XV) : XV × Option Nat :=
  let (x, argOvf) := Fmt.e8m16.rnd arg
  let (y, ev) : XV × Option Nat := match fnFixed fn x with
    | some (y, bad) => (y, if bad then some 3 else none)
    | none => match fn with
      | .user f =>
        let (y, ev) := userFn img f x
        let (z, ovf) := Fmt.e8m16.rnd y
        (z, match ev with
            | some k => some k
            | none => if ovf then some 5 else none)
      | _ => let (z, ovf) := Fmt.e8m16.rnd (fnValue g2 fn x); (z, if ovf then some 5 else none)
  (y, if argOvf then some 5 else ev)

/-- The activation of an ACT or EACT code (R122): none, a function, or relu. -/
inductive Act where
  | none
  | fn (f : Fn)
  | relu
  deriving DecidableEq, Repr

def actOf (code : Nat) : Act :=
  match code with
  | 0 => .none
  | 1 => .fn .sigmoid
  | 2 => .fn .tanh
  | 3 => .fn .silu
  | 4 => .fn .gelu
  | 5 => .fn .softplus
  | 6 => .relu
  | _ => if 8 ≤ code then .fn (.user (code - 8)) else .none

end Sys2Proof.Machine
end

