-- ==== Sys2Proof/Machine/Chain.lean ====
section
/-!
DEFINITION. Prologue and epilogue chains (R119 to R140): exact values with their events, the normalisation statistics of
R64, the rotary step of R126, R127 and R136, and the roundings that SPLIT_ROUND adds (R92, R121).
-/
namespace Sys2Proof.Machine

/-- A chain value: the exact value, the first invalid step's event as (KIND, UNIT) (R120), and the UNITs of its OVF_CONV
events (R55). -/
structure CV where
  x : XV
  inv : Option (Nat × Nat)
  ovf : List Nat
  deriving DecidableEq, Repr

def CV.of (x : XV) : CV := ⟨x, none, []⟩

/-- Records an invalid step unless one is recorded (R120). -/
def CV.invalid (c : CV) (unit : Nat) : CV := { c with inv := some (c.inv.getD (3, unit)) }

/-- A step with its own validity: UNIT 2, the RSU (R120). -/
def CV.step (c : CV) (r : XV × Bool) : CV :=
  let c1 := { c with x := r.1 }
  if r.2 then c1.invalid 2 else c1

/-- A special function as a step: UNIT 3 (R120, R155). -/
def CV.fn (g2 : Bool) (img : List Byte) (f : Fn) (c : CV) : CV :=
  let (y, e) := sfu g2 img f c.x
  match e with
  | none => { c with x := y }
  | some 3 => { c with x := y }.invalid 3
  | some _ => { c with x := y, ovf := c.ovf ++ [3] }

/-- The events of a chain: (KIND, UNIT). -/
def CV.events (c : CV) : List (Nat × Nat) := c.inv.toList ++ c.ovf.map (fun u => (5, u))

/-- One rounding to a plain format (R55), UNIT 2. -/
def CV.rnd (f : Fmt) (c : CV) : CV :=
  let (y, o) := f.rnd c.x
  { c with x := y, ovf := if o then c.ovf ++ [2] else c.ovf }

/-- The one activation (R122); relu is exact. -/
def CV.act (g2 : Bool) (img : List Byte) (a : Act) (c : CV) : CV :=
  match a with
  | .none => c
  | .fn f => c.fn g2 img f
  | .relu => { c with x := if c.x.isNeg then .zero else c.x }

/-- A row rounded to format code `fmt`; an MX row by blocks of 32, whose event stands at the block's first column (R56,
R121, R128). -/
def roundRow (fmt : Nat) (row : List CV) : List CV :=
  if isMx fmt then
    (cut 32 (row.length / 32 + 1) row).flatMap (fun blk =>
      let (sc, codes, o) := mxEncode fmt (blk.map (·.x))
      ((List.range blk.length).zip (blk.zip codes)).map (fun e =>
        { e.2.1 with x := mxVal fmt sc e.2.2, ovf := if o && e.1 == 0 then e.2.1.ovf ++ [2] else e.2.1.ovf }))
  else row.map (CV.rnd (fmtOf fmt))

/-! Normalisation (R64, R125). -/

/-- floor(log2 |x|) of the largest nonzero value. -/
def maxLog2 (ds : List XV) : Option Int :=
  ds.foldl (fun m x =>
    if x.isZero then m
    else match m with
      | none => some x.log2Floor
      | some e => some (if e < x.log2Floor then x.log2Floor else e)) none

/-- A finite value in units of 2^g, rounded to an integer. -/
def gridInt (g : Int) : XV → Int
  | .fin n d e => rneScaled n d (e - g)
  | _ => 0

/-- Mean and variance of R64, or 0 and the mean square; each with whether its rounding overflowed. -/
def normStats (rms : Bool) (xs : List XV) : (XV × Bool) × (XV × Bool) :=
  let n := xs.length
  let x0 := if rms then .zero else xs.headD .zero
  let ds := xs.map (fun x => (x.sub x0).1)
  match maxLog2 ds with
  | none => ((x0, false), (.zero, false))
  | some m =>
    let g := m - 22
    let dd := ds.map (gridInt g)
    let s1 := dd.foldl (· + ·) 0
    let s2 := dd.foldl (fun a x => a + x * x) 0
    if rms then ((.zero, false), Fmt.e8m23.rnd (.fin s2 n (2 * g)))
    else
      (Fmt.e8m23.rnd (x0.add (.fin s1 n g)).1,
       Fmt.e8m23.rnd (.fin ((n : Int) * s2 - s1 * s1) (n * n) (2 * g)))

/-- A parameter vector's value for a column (R125). -/
def vecAt (pr : Params) (use qual c : Nat) (dflt : XV) : XV :=
  match pr.vecs.find? (fun v => v.1 == use && v.2.1 == qual) with
  | some v => f32 (v.2.2.getD c 0)
  | none => dflt

/-- The NORM step over a normalisation row, for the consumed columns `xs` (R125). DESIGN CHOICE: the OVF_CONV events
of the row's statistics stand at the first consumed column, for which R125 and R512 name none (log entry 99). -/
def normRow (d : Desc) (pr : Params) (qual norm : Nat) (p : Pro) (row xs : List XV) : List CV :=
  if row.any XV.isNan then xs.map (fun _ => CV.of .nan)
  else if row.any XV.isInf then
    ((List.range xs.length).map (fun c => if c = 0 then (CV.of .nan).invalid 2 else CV.of .nan))
  else
    let ((mean, o1), (stat, o2)) := normStats (norm == 1) row
    let r := (CV.of (stat.add (f32 p.normEps)).1).fn (d.sfuset == 1) pr.image .rsqrt
    ((List.range xs.length).zip xs).map (fun e =>
      let c := e.1
      let v0 : CV := if c = 0 then { r with ovf := (if o1 then [2] else []) ++ (if o2 then [2] else []) ++ r.ovf } else CV.of .zero
      let v1 := { v0 with x := if norm = 1 then e.2 else (e.2.sub mean).1 }
      let v2 := v1.step (v1.x.mul r.x)
      let v3 := if p.affine % 2 = 1 then v2.step (v2.x.mul (vecAt pr 11 qual c .one)) else v2
      if norm = 2 ∧ p.affine / 2 % 2 = 1 then v3.step (v3.x.add (vecAt pr 12 qual c .zero)) else v3)

/-! Rotary (R126, R127, R136). -/

/-- The frequency of pair j: from the angle table, or generated without an event (R127). -/
def ropeFreq (d : Desc) (pr : Params) (j : Nat) : XV :=
  if d.p.ropeSrc = 0 then f32 (pr.angles.getD j 0)
  else
    let e := (Fmt.e8m16.rnd ((XV.fin (-(2 * (j : Int))) (Nat.max d.p.ropeDim 1) 0).mul (f32 d.p.ropeLb)).1).1
    (Fmt.e8m23.rnd ((sfu (d.sfuset == 1) pr.image .exp2 e).1.mul (f32 d.p.ropeFs)).1).1

/-- Cosine and sine of a pair's phase, and whether forming the phase is invalid (R127). -/
def ropeCs (d : Desc) (pr : Params) (j : Nat) (pos : Int) : XV × XV × Bool :=
  match ropeFreq d pr j with
  | .nan => (.nan, .nan, false)
  | .inf _ => (.nan, .nan, true)
  | f =>
    let x := ((XV.ofInt pos).mul f).1
    let ph0 := (Fmt.e8m16.rnd (x.sub (.ofInt x.floorInt)).1).1
    let ph := if ph0.same .one then .zero else ph0
    ((sfu (d.sfuset == 1) pr.image .cos ph).1, (sfu (d.sfuset == 1) pr.image .sin ph).1, false)

/-- The position of a row under ROPE_SEGREL (R74, R127). -/
def ropePos (d : Desc) (pr : Params) (pos : Nat) : Int :=
  if d.p.ropeSegrel = 1 then (pos : Int) - (((pr.seg.filter (fun e => decide (e ≤ pos))).getLast?).getD 0 : Nat)
  else (pos : Int)

/-- The rotary step over a row; the inverse replaces sn by −sn (R126, R136). -/
def ropeRow (d : Desc) (pr : Params) (inverse : Bool) (pos : Nat) (row : List CV) : List CV :=
  let half := if d.p.rope = 0 then 0 else d.p.ropeDim / 2
  let at_ := ropePos d pr pos
  let css := (List.range half).map (fun j => ropeCs d pr j at_)
  ((List.range row.length).zip row).map (fun e =>
    let c := e.1
    let j := if d.p.rope = 1 then c % Nat.max half 1 else c / 2
    let first := if d.p.rope = 1 then decide (c < half) else c % 2 == 0
    let other := if d.p.rope = 1 then (if first then c + half else c - half) else (if first then c + 1 else c - 1)
    if 2 * half ≤ c then e.2
    else
      let (cs, sn0, bad) := css.getD j (.one, .zero, false)
      let sn := if inverse then sn0.neg else sn0
      let v0 := if bad then e.2.invalid 2 else e.2
      let o := (row.getD other (CV.of .zero)).x
      let m1 := v0.x.mul cs
      let m2 := o.mul sn
      let v1 := (v0.step m1).step (m2.1, m2.2)
      let v2 := { v1 with x := m1.1 }
      v2.step (m1.1.add (if first then m2.1.neg else m2.1)))

/-! Prologues (R124). -/

/-- NORM, ACT, ROPE and PSCALE over one source row: exact values. In a row pass (QUAL 3) ENORM fills the NORM step
(R140). `pos` is the row's qpos or kpos (R67). -/
def prologueRow (d : Desc) (pr : Params) (qual pos : Nat) (row : List XV) : List CV :=
  let p := d.pro qual
  let norm := if qual = 3 then d.e.enorm else p.norm
  let xs := if qual = 3 then row
    else if norm = 0 then row.take d.dim
    else (row.drop p.headCol).take d.dim
  let y1 := if norm = 0 then xs.map CV.of else normRow d pr qual norm p row xs
  let y2 := y1.map (CV.act (d.sfuset == 1) pr.image (actOf p.act))
  let y3 := if p.ropeOn = 1 then ropeRow d pr false pos y2 else y2
  if p.pscale = 0x3F800000#32 then y3 else y3.map (fun v => v.step (v.x.mul (f32 p.pscale)))

/-! Epilogues (R132). -/

/-- The chain over one output row from y0 on. Under SPLIT_ROUND the quotient and every later step round to OUT_FMT
(R121). -/
def epilogueRow (d : Desc) (pr : Params) (y0 : List CV) (g r : List XV) : List CV :=
  let e := d.e
  let g2 := d.sfuset == 1
  let step (row : List CV) : List CV := if d.a.splitRound = 1 then roundRow e.outFmt row else row
  let y := step y0
  let y1 :=
    if e.gmode = 1 then step ((y.zip g).map (fun v => v.1.step (v.1.x.mul v.2)))
    else if e.gmode = 2 then
      step ((y.zip g).map (fun v =>
        let a := ({ v.1 with x := v.2 } : CV).act g2 pr.image (actOf e.eact)
        { a with x := v.1.x }.step (v.1.x.mul a.x)))
    else y
  let y2 := if e.eact ≠ 0 ∧ e.gmode ≠ 2 then step (y1.map (CV.act g2 pr.image (actOf e.eact))) else y1
  let y3 := if e.res = 1 then step ((y2.zip r).map (fun v => v.1.step (v.1.x.add v.2))) else y2
  if e.oscale = 0x3F800000#32 then y3 else step (y3.map (fun v => v.step (v.x.mul (f32 e.oscale))))

/-- The events of rows of chain values, as (KIND, row, column, UNIT). -/
def rowEvents (rows : List (List CV)) : List (Nat × Nat × Nat × Nat) :=
  ((List.range rows.length).zip rows).flatMap (fun r =>
    ((List.range r.2.length).zip r.2).flatMap (fun c => c.2.events.map (fun e => (e.1, r.1, c.1, e.2))))

end Sys2Proof.Machine
end

