-- ==== Sys2Proof/Machine/Issue.lean ====
section
/-!
DEFINITION. How a queue head issues (R181 to R188, R200, R213): interlocks, waits, the scoreboard, the leave class, the
checks at issue, and what an issued command leaves behind; retirement; and what a program's end clears (R395).
-/
namespace Sys2Proof.Machine

/-- The head of unit queue k of a program. -/
def headOf (g : Prog) (k : Nat) : Option QCmd := (tget g.queues k []).head?

/-- The commands of a program that were dispatched before a command and have not retired. -/
def earlierCmds (g : Prog) (c : QCmd) : List QCmd :=
  (g.queues.flatMap (·.2) ++ g.issued.map (·.cmd)).filter (fun e => decide (e.num < c.num))

/-- Whether two commands touch one resource of R182 that at least one of them writes. -/
def touchConflict (xs ys : List ((Nat × Nat × Nat) × Bool)) : Bool :=
  xs.any (fun x => ys.any (fun y => x.1 == y.1 && (x.2 || y.2)))

/-- The tiles of the product that a DRAIN drains: those of the latest earlier MMA from the same tile on. -/
def drainSpan (g : Prog) (c : QCmd) : Nat :=
  let t := (cmdTiles c.word.toNat c.regs).headD (0, 0)
  let mmas := (earlierCmds g c).filter (fun e =>
    cOpc e.word.toNat == oMMA && (cmdTiles e.word.toNat e.regs).headD (2, 0) == t)
  match mmas.foldl (fun b e =>
      match b with
      | none => some e
      | some x => if x.num < e.num then some e else b) (none : Option QCmd) with
  | some e => (cmdTiles e.word.toNat e.regs).length
  | none => tget g.accN (16 * t.1 + t.2) 1

/-- The interlocks of R182 against every earlier command; TOKADD, EPOCH and END wait for each to retire (R184, R198). -/
def interlocksClear (d : Desc) (g : Prog) (c : QCmd) : Bool :=
  let w := c.word.toNat
  let es := earlierCmds g c
  let mine := cmdTouch d w c.regs c.qt (drainSpan g c)
  (es.all (fun e => !touchConflict mine (cmdTouch d e.word.toNat e.regs e.qt (drainSpan g e)))) &&
    (!(cOpc w == oTOKADD || cOpc w == oEPOCH || cOpc w == oEND) || es.isEmpty)

/-- The 256 B lines of some parts: (first line, lines). -/
def partLines (ps : List Part) : List (Nat × Nat) :=
  ps.map (fun p => (p.phys / 256, (p.phys + p.len - 1) / 256 + 1 - p.phys / 256))

/-- The Terrace lines of an access of a program (R212): of a SPACE 3 range, those of the landing buffer here. -/
def accLines (s : State) (g : Prog) (a : Acc) : List (Nat × Nat) :=
  let ctx := getCtx s g.ctx
  (a.spans.getD []).flatMap (fun sp =>
    if a.x.space = 0 then partLines (viewParts ctx.regions (a.x.base + sp.1) sp.2)
    else if a.x.space = 3 then
      (landParts ctx.landing (a.x.base + sp.1) sp.2).flatMap (fun p =>
        if p.ent.place = 0 ∧ roleHere s (roleOf ctx g.epoch p.ent.owner) then
          partLines (viewParts ctx.regions (p.addr (g.epoch % nbufOf p.ent)) p.len)
        else [])
    else [])

/-- The lines that a command reads, writes and accumulates to. -/
def cmdLines (s : State) (j : Job) (g : Prog) (c : QCmd) : List (Nat × Nat) × List (Nat × Nat) × List (Nat × Nat) :=
  let as_ := cmdAccs j.desc (plotImages s g.ctx) c.word.toNat c.regs c.qt
  let of (k : Nat) : List (Nat × Nat) := (as_.filter (fun a => a.kind == k)).flatMap (accLines s g)
  (of 0, of 1, of 2)

/-- The scoreboard entries that a command takes, one for each access that reaches the Terrace (R212). -/
def cmdEntries (s : State) (j : Job) (g : Prog) (c : QCmd) : Nat :=
  ((cmdAccs j.desc (plotImages s g.ctx) c.word.toNat c.regs c.qt).filter (fun a => !(accLines s g a).isEmpty)).length

/-- The issued commands of both programs that a Pavilion holds. -/
def pavIssued (s : State) (p : Nat) : List Issued :=
  ([(getPav s p).progA, (getPav s p).progB].filterMap id).flatMap (·.issued)

/-- The entries in use in the scoreboard of a Pavilion (R212, R488). -/
def sbUsed (s : State) (p : Nat) : Nat := ((pavIssued s p).map (·.entries)).sum

/-- Whether two lists of line ranges meet. -/
def linesMeet (xs ys : List (Nat × Nat)) : Bool := xs.any (fun x => ys.any (fun y => rangesMeet x.1 x.2 y.1 y.2))

/-- Whether a write or accumulate in flight keeps an access waiting, and for a write a read in flight too (R213). -/
def tableBusy (s : State) (write : Bool) (ls : List (Nat × Nat)) : Bool :=
  s.ter.access.any (fun a => linesMeet ls [(a.line0, a.lines)] && (a.write || a.acc || write))

/-- The scoreboard of R213 for a command's lines: accumulate-writes pass each other, and the entries that it takes are
free among the 64. -/
def scoreClear (s : State) (p n : Nat) (ls : List (Nat × Nat) × List (Nat × Nat) × List (Nat × Nat)) : Bool :=
  let rd := ls.1
  let wr := ls.2.1
  let ac := ls.2.2
  let own := (pavIssued s p).all (fun i =>
    !linesMeet rd i.writes && !linesMeet rd i.accs &&
    !linesMeet wr i.reads && !linesMeet wr i.writes && !linesMeet wr i.accs &&
    !linesMeet ac i.reads && !linesMeet ac i.writes)
  let table := s.ter.access.all (fun a =>
    let l := [(a.line0, a.lines)]
    !(a.write && !a.acc && linesMeet (rd ++ wr ++ ac) l) &&
    !(a.acc && linesMeet (rd ++ wr) l) &&
    !(!a.write && !a.acc && linesMeet (wr ++ ac) l))
  own && table && decide (sbUsed s p + Nat.min n 64 ≤ 64)

/-- Arrays with an unretired product of either program. -/
def busyArrays (s : State) (p : Nat) : List Nat :=
  (pavIssued s p).filterMap (fun i => if cOpc i.cmd.word.toNat = oMMA then some (queueOf i.cmd.word.toNat) else none)

/-- The leave class for a head that is to issue (R187): L3 for a product beside one on the other array. -/
def issueClass (s : State) (d : Desc) (p w : Nat) : Nat :=
  if cOpc w = oMMA then (if (busyArrays s p).any (· != queueOf w) then 3 else 2) else leaveNeed d w

/-- The arrays that a LOAD fills (R179). -/
def loadArrays (w : Nat) : List Nat := (if bit w 64 then [0] else []) ++ (if bit w 65 then [1] else [])

/-- Whether the LOAD by a number is still queued or has not retired. -/
def unretired (g : Prog) (num : Nat) : Bool :=
  (g.queues.flatMap (·.2) ++ g.issued.map (·.cmd)).any (fun e => e.num == num)

/-- The stream FIFO lets a command issue (R182): a LOAD waits while a FIFO is full, a pop for the LOAD of its tile.
DESIGN CHOICE: a pop of an empty FIFO that no earlier LOAD fills issues and reads zeros, where R182 says nothing (log
entry 122). -/
def fifoReady (g : Prog) (c : QCmd) : Bool :=
  let w := c.word.toNat
  if cOpc w = oLOAD then !bit w 98 || (loadArrays w).all (fun a => (tget g.fifo a []).length < 2)
  else if cOpc w = oMMA then
    let a := queueOf w
    let n := cmdPops w
    let tiles := tget g.fifo a []
    let coming := (earlierCmds g c).any (fun e =>
      let v := e.word.toNat
      cOpc v == oLOAD && bit v 98 && (loadArrays v).contains a && !tiles.any (fun t => t.by_ == e.num))
    (tiles.take n).all (fun t => !unretired g t.by_) && (n ≤ tiles.length || !coming)
  else true

/-- An array holds the pass buffers of its two most recent passes (R499). -/
def passReady (s : State) (p : Nat) (w : Nat) : Bool :=
  cOpc w != oMMA || ((getPav s p).passes.filter (fun x => x.arr == queueOf w)).length < 2

/-- The most chunks that a command's SPACE 3 writes cut into (R273). -/
def chunkBound (j : Job) (c : QCmd) (img : Stream → Bool) : Nat :=
  ((cmdAccs j.desc img c.word.toNat c.regs c.qt).map (fun a =>
    if a.kind != 0 && a.x.space == 3 then ((a.spans.getD []).map (fun sp => sp.2 / 32768 + 258)).sum else 0)).sum

/-- The send table has room for a command's chunks (R273). -/
def sendsReady (s : State) (j : Job) (g : Prog) (c : QCmd) : Bool :=
  let n := chunkBound j c (plotImages s g.ctx)
  n = 0 || s.prom.sends.length + n ≤ 16384 || s.prom.sends.isEmpty

/-- What keeps a head from issuing, other than the interlocks and buffers that time alone resolves: 1 a token or flag,
2 leave, 3 the scoreboard (R189, R488). -/
def headWait (s : State) (p : Nat) (j : Job) (g : Prog) (c : QCmd) : Nat :=
  if !waitsMet s g c then 1
  else if (getPav s p).leave < issueClass s j.desc p c.word.toNat then 2
  else if !scoreClear s p (cmdEntries s j g c) (cmdLines s j g c) then 3
  else 0

/-- The conditions on a head other than those of `headWait`. -/
def headFree (s : State) (p : Nat) (j : Job) (g : Prog) (c : QCmd) : Bool :=
  interlocksClear j.desc g c && fifoReady g c && passReady s p c.word.toNat && sendsReady s j g c

/-- What the meaning of an issued command works from. -/
structure Env where
  p : Nat
  q : PSlot
  g : Prog
  j : Job
  c : QCmd
  deriving DecidableEq, Repr

def Env.w (e : Env) : Nat := e.c.word.toNat

/-- The command as a writer (R204, R227, R273). -/
def Env.writer (e : Env) (dma : Bool) : Writer :=
  ⟨e.g.ctx, e.p, e.g.jobseq, e.c.num, e.g.hdr.role, e.g.epoch, e.q, dma⟩

/-- The program of an environment as it stands now. -/
def Env.prog (e : Env) : Eff Prog := do
  match getProg (← get) e.p e.q with
  | some g => pure g
  | none => pure e.g

/-- Changes the program of an environment. -/
def Env.modify (e : Env) (f : Prog → Prog) : Eff Unit := modifyThe State (modProg e.p e.q f)

/-- What a command's meaning answers: its events (R512) and the send-table entries that it waits on. -/
abbrev Body := Env → Eff (List Ev × List Nat)

/-- A program with the head of queue k taken off, issued, and its tokens consumed (R183). The counter's consuming queue
is kept (R185). -/
def takeHead (k : Nat) (i : Issued) (g : Prog) : Prog :=
  let w := i.cmd.word.toNat
  consumeToken w
    { g with
      queues := tset g.queues k ((tget g.queues k []).drop 1)
      issued := g.issued ++ [i]
      users := if waitsToken w then tset g.users (cWtok w) k else g.users }

/-- A counter is consumed from one queue only (R185, check 5 of R199). -/
def oneUser (g : Prog) (k w : Nat) : Bool := !waitsToken w || tget g.users (cWtok w) k == k

/-- Records the chunks that an issued command waits on. -/
def noteChunks (num : Nat) (stags : List Nat) (g : Prog) : Prog :=
  { g with issued := g.issued.map (fun i => if i.cmd.num = num then { i with chunks := i.chunks ++ stags } else i) }

/-- Takes an issued command out. -/
def dropIssued (num : Nat) (g : Prog) : Prog := { g with issued := g.issued.filter (fun i => i.cmd.num != num) }

/-- The Pavilion asks the arbiter for a class (R187). -/
def requestLeave (p cls : Nat) (s : State) : State :=
  modPav p (fun v => { v with leaveReq := if v.leaveReq < cls then cls else v.leaveReq }) s

/-- What a command that meets a fault leaves: none of its writes, as its row block is not committed (R189, R200), and
the error counts, registers and log of its reads (log entry 36). An ACCW's writes stand: it halts once they have
committed (R216, R229). -/
def undoBody (before after : State) : State :=
  { before with sys := after.sys, ctxs := after.ctxs }

/-- An error that replay cannot remove (R498). -/
def datapathUe (p : Nat) (g : Prog) (tpc : Nat) (s : State) : State :=
  haltProg p g tpc (plainFault stTERRACE_UE)
    (countMarked p s)

/-- The flipped words of the Pavilion's storage that a command meets, each with whether it reads it (R497). -/
def storeMet (s : State) (p : Nat) (j : Job) (g : Prog) (c : QCmd) : List (((Nat × Nat × Nat) × Nat) × Bool) :=
  let met := cmdStore j.desc c.word.toNat c.regs c.qt (drainSpan g c)
  (getPav s p).flips.filterMap (fun f => (met.find? (fun m => m.1 == f.1)).map (fun m => (f, m.2)))

/-- Whether a flipped word that is read cannot be corrected: two bits, or any in the SFU stores, which have parity alone
(R497, R498). -/
def storeLost (hits : List (((Nat × Nat × Nat) × Nat) × Bool)) : Bool :=
  hits.any (fun h => h.2 && (2 ≤ h.1.2 || h.1.1.1 == 5))

/-- The words that a command meets are corrected as it reads them, counting event 0Dh, or written anew (R497). -/
def mendStore (p : Nat) (hits : List (((Nat × Nat × Nat) × Nat) × Bool)) (s : State) : State :=
  if hits.isEmpty then s
  else
    perfEvent p 0x0D (hits.filter (·.2)).length
      (modPav p (fun v => { v with flips := v.flips.filter (fun f => !hits.any (fun h => h.1 == f)) }) s)

/-- Runs a meaning for the head of queue k, which the checks of R200 have passed. -/
def runHead (p : Nat) (q : PSlot) (k : Nat) (g : Prog) (j : Job) (c : QCmd) (body : Body) (s : State) : State :=
  let (rd, wr, ac) := cmdLines s j g c
  let g1 := takeHead k ⟨c, rd, wr, ac, cmdEntries s j g c, []⟩ g
  let s1 := perfEvent p 0x0A 1 (setProg p q (some g1) s)
  match (body ⟨p, q, g1, j, c⟩).exec s1 with
  | (.error f, s2) =>
    haltProg p g c.tpc f (modProg p q (dropIssued c.num) (if cOpc c.word.toNat = oACCW then s2 else undoBody s1 s2))
  | (.ok (evs, stags), s2) =>
    countEvents g.ctx g.jobseq g.hdr.member p c.tpc evs (modProg p q (noteChunks c.num stags) s2)

/-- Issues the head of queue k of a program when it is command `opc` and every condition of R181 holds. A head that
wants leave asks for it. -/
def issueOp (p : Nat) (q : PSlot) (k opc : Nat) (body : Body) (s : State) : State :=
  match getProg s p q with
  | none => s
  | some g =>
    match headOf g k, findJob s g.ctx g.jobseq with
    | some c, some j =>
      let w := c.word.toNat
      if g.halted || g.done || cOpc w != opc || !headFree s p j g c then s
      else
        match headWait s p j g c with
        | 0 =>
          if !(oneUser g k w && cmdOk j.desc w && cmdAt j.desc (plotImages s g.ctx) w c.regs c.qt) then
            haltProg p g c.tpc (plainFault stPROG_BAD) s
          else if !masksHold j.desc g.hdr w c.regs then haltProg p g c.tpc (plainFault stACC_CAPACITY) s
          else
            let hits := storeMet s p j g c
            if storeLost hits then datapathUe p g c.tpc s else runHead p q k g j c body (mendStore p hits s)
        | 2 => requestLeave p (issueClass s j.desc p w) s
        | _ => s
    | _, _ => s

/-- A meaning without an effect beyond the header. -/
def noBody : Body := fun _ => pure ([], [])

/-- The class that a Pavilion's work needs now (R187): issued products, RSU work, heads, and classes asked ahead. -/
def classNeeded (s : State) (p : Nat) : Nat :=
  let prods := (busyArrays s p).eraseDups.length
  let gs := [(getPav s p).progA, (getPav s p).progB].filterMap id
  let need (g : Prog) : List Nat :=
    match findJob s g.ctx g.jobseq with
    | none => []
    | some j => ((g.queues.filterMap (fun e => e.2.head?)) ++ g.issued.map (·.cmd)).map (fun c => leaveNeed j.desc c.word.toNat)
  let base := if 2 ≤ prods then 3 else if prods = 1 then 2 else 0
  let heads := (gs.flatMap need).foldl Nat.max base
  (gs.map (·.leaveWant)).foldl Nat.max heads

/-- A Pavilion's class changes; Pumphouse sees a grant begin, end or change (R424). -/
def setLeave (p n : Nat) (s : State) : State :=
  let old := (getPav s p).leave
  if old = n then s
  else
    let seen := if old = 0 then n else if n = 0 then old else 0
    modPav p (fun v => { v with leave := n })
      { s with power := { s.power with grants := (s.power.grants ++ [seen]).take 2, quiet := false } }

/-- A grant is held until a lower class suffices (R187). -/
def lowerLeave (p : Nat) (s : State) : State :=
  let n := classNeeded s p
  modPav p (fun v => { v with leaveReq := if v.leaveReq ≤ n then v.leaveReq else n })
    (setLeave p (Nat.min n (getPav s p).leave) s)

/-- A command retires (R184): it leaves the issued commands and its header signal fires. -/
def retireCmd (p : Nat) (q : PSlot) (num : Nat) (s : State) : State :=
  match getProg s p q with
  | none => s
  | some g =>
    match g.issued.find? (fun i => i.cmd.num == num) with
    | none => s
    | some i =>
      if !i.chunks.isEmpty || (getPav s p).passes.any (fun x => x.q == q && x.num == num) then s
      else
        let s1 := modProg p q (dropIssued num) s
        let s2 := if g.halted then s1 else fireSignal p q (dropIssued num g) i.cmd s1
        lowerLeave p s2

/-- Whether a place of a Pavilion's storage lies in a program's masks (R395). -/
def inMasks (h : ProgHdr) (x : Nat × Nat × Nat) : Bool :=
  (x.1 == 0 && (if x.2.1 = 0 then h.acc0 else h.acc1).getLsbD x.2.2) || (x.1 == 1 && h.feed.getLsbD x.2.1)

/-- A program leaves its Pavilion (R395): its tiles, entries, buffers and row state go with it, and flipped bits in
them. -/
def clearProg (p : Nat) (q : PSlot) (s : State) : State :=
  let h := (getProg s p q).map (·.hdr)
  lowerLeave p (modPav p (fun v => { v with
    passes := v.passes.filter (fun x => x.q != q)
    flips := v.flips.filter (fun f => f.1.1 == 5 ||
      (!(h.map (fun h => inMasks h f.1)).getD false && (getProg s p (otherSlot q)).isSome)) }) (setProg p q none s))

end Sys2Proof.Machine
end

