-- ==== Sys2Proof/Machine/Tile.lean ====
section
/-!
DEFINITION. Operand tiles, feed entries and accumulator tiles as the commands read and write them (R38, R45, R60, R106,
R191, R192), and the parts of a row of scores (R58 to R61, R73, R111).
-/
namespace Sys2Proof.Machine

/-! Accumulator tiles. -/

/-- A piece of a product's row in a tile: tile offset, tile row, first column, columns. -/
structure Seg where
  tile : Nat
  row : Nat
  col : Nat
  n : Nat
  deriving DecidableEq, Repr

/-- Where row r of an m×n product stands in 64×64 tiles, tile by tile in row-major order; rows narrower than a tile
share a tile row and rows wider than a tile of few rows follow each other (R190, R192; log entry 23). -/
def rowSegs (m n r : Nat) : List Seg :=
  let w := ceilDiv n 64
  if 1 < n ∧ n < 64 ∧ 64 < m then
    let f := 64 / n
    [⟨r / f / 64, r / f % 64, r % f * n, n⟩]
  else if m < 64 ∧ 64 < n then
    (List.range w).map (fun i => ⟨(r * w + i) / 64, (r * w + i) % 64, 0, Nat.min 64 (n - 64 * i)⟩)
  else (List.range w).map (fun i => ⟨r / 64 * w + i, r % 64, 0, Nat.min 64 (n - 64 * i)⟩)

/-- Tiles that an m×n product fills. -/
def tilesOf (m n : Nat) : Nat :=
  if m = 0 then 0 else ((rowSegs m n (m - 1)).map (fun x => x.tile + 1)).foldl Nat.max 0

/-- An accumulator row; none where nothing was written since the tile was cleared (R395). -/
def accRow? (g : Prog) (arr tile row : Nat) : Option AccRow := tget? (tget g.acc (16 * arr + tile) []) row

/-- A part of a product's row in an accumulator row: the product row, its first column there, and where it stands. -/
structure AccPart where
  row : Nat
  col : Nat
  seg : Seg
  deriving DecidableEq, Repr

/-- A tile offset in a product of nt tiles: tiles past the last follow in the rows after 63 of the tiles there are, the
form that two score buffers of R192 give shapes S2 to S4 (log entry 23). -/
def Seg.fold (nt : Nat) (x : Seg) : Seg := { x with tile := x.tile % Nat.max nt 1, row := x.row + 64 * (x.tile / Nat.max nt 1) }

/-- The parts of row r of an m×n product that stands in nt tiles. -/
def rowPieces (m n nt r : Nat) : List AccPart :=
  let segs := rowSegs m n r
  ((List.range segs.length).zip segs).map (fun x => ⟨r, 64 * x.1, x.2.fold nt⟩)

/-- The parts of an m×n product by accumulator row, each of which carries one E and one repeat count (R38, R45, R400):
the tile row where rows of a product share it, a row of 256 columns of shape S5 (R69), each 64 columns elsewhere. -/
def accGroups (m n nt : Nat) : List (List AccPart) :=
  if 1 < n ∧ n < 64 ∧ 64 < m then
    (List.range (ceilDiv m (64 / n))).map (fun k =>
      ((List.range (64 / n)).filter (fun i => k * (64 / n) + i < m)).flatMap (fun i => rowPieces m n nt (k * (64 / n) + i)))
  else if m < 64 ∧ 64 < n then (List.range m).map (rowPieces m n nt)
  else (List.range m).flatMap (fun r => (rowPieces m n nt r).map (fun p => [p]))

/-- An accumulator row as it stands: row exponent, repeat count, elements; none where every part is clear. -/
def accGet (g : Prog) (arr acc : Nat) (ps : List AccPart) : Option AccRow :=
  let rs := ps.map (fun x => (x.seg, accRow? g arr (acc + x.seg.tile) x.seg.row))
  match rs.findSome? (·.2) with
  | none => none
  | some r0 => some ⟨r0.e, r0.reps, rs.flatMap (fun x => ((x.2.getD AccRow.zero).els.drop x.1.col).take x.1.n)⟩

/-- Writes an accumulator row back. -/
def accPut (arr acc : Nat) : List AccPart → AccRow → Tbl (Tbl AccRow) → Tbl (Tbl AccRow)
  | [], _, t => t
  | p :: ps, r, t =>
    let x := p.seg
    let k := 16 * arr + acc + x.tile
    let old := (tget? (tget t k []) x.row).getD AccRow.zero
    let els := old.els.take x.col ++ r.els.take x.n ++ old.els.drop (x.col + x.n)
    accPut arr acc ps { r with els := r.els.drop x.n } (tmod t k [] (fun rows => tset rows x.row ⟨r.e, r.reps, els⟩))

/-- Row r of an m×n product in nt tiles from tile acc on: each element with the exponent of its accumulator row, zeros
for a clear one (R38). -/
def accEls (g : Prog) (arr acc m n nt r : Nat) : List (Int × AEl) :=
  (rowPieces m n nt r).flatMap (fun p =>
    match accRow? g arr (acc + p.seg.tile) p.seg.row with
    | none => List.replicate p.seg.n (0, AEl.zero)
    | some x => ((x.els.drop p.seg.col).take p.seg.n).map (fun v => (x.e, v)))

/-- Rows 0 to m − 1 of an m×n product from tile acc on. -/
def accRows (g : Prog) (arr acc m n : Nat) : List (List (Int × AEl)) :=
  (List.range m).map (accEls g arr acc m n (tilesOf m n))

/-- Tiles that the latest product from tile acc on took; its own count where there was none. -/
def tilesHeld (g : Prog) (arr acc m n : Nat) : Nat := tget g.accN (16 * arr + acc) (tilesOf m n)

/-- Columns that NTM1 + 1 tiles hold of an m-row tile of n columns (R512; log entry 24). -/
def colsHeld (m n tiles : Nat) : Nat :=
  if m < 64 then n else Nat.min n (64 * Nat.max 1 (tiles / ceilDiv m 64))

/-! Operands. -/

/-- A finite value of a code as an operand. -/
def XV.dv : XV → DV
  | .fin n _ e => .fin n e
  | .inf s => .inf s
  | .nan => .nan

/-- The formats of feed codes: 0 BF16, 1 FP16, 2 E5M2, 3 E4M3 (R93). -/
def feedFmt : Nat → Fmt
  | 0 => .bf16
  | 1 => .fp16
  | 2 => .e5m2
  | _ => .e4m3

/-- The P feed format (R65). -/
def pFeed (d : Desc) : Nat := if d.a.pfeed = 0 then 0 else 3

/-- The USE that a GRID's A and B operand has (R101; log entry 15). -/
def gridUse (g : Nat) (isB : Bool) : Nat :=
  match g with
  | 0 => if isB then uK else uQ
  | 1 => if isB then uV else uDO
  | 2 => if isB then uO else uDO
  | 3 => uDO
  | 4 => uQ
  | 5 => uK
  | _ => uV

/-- Rows and columns of a GRID's A and B operand as the product consumes it. -/
def gridShape (d : Desc) (g : Nat) (isB : Bool) : Nat × Nat :=
  match g with
  | 0 | 1 => if isB then (d.dim, d.k) else (d.q, d.dim)
  | 2 => if isB then (d.dim, d.q) else (d.q, d.dim)
  | 3 | 4 => if isB then (d.q, d.dim) else (d.k, d.q)
  | _ => if isB then (d.k, d.dim) else (d.q, d.k)

/-- A matrix of finite zeros. -/
def zeroMat (sh : Nat × Nat) : List (List (Option DV)) := List.replicate sh.1 (List.replicate sh.2 (some (.fin 0 0)))

/-- The transpose of a matrix, by the length of its first row. -/
def transpose (m : List (List (Option DV))) : List (List (Option DV)) :=
  (List.range ((m.headD []).length)).map (fun c => m.map (fun row => row.getD c none))

/-- The decoded value of a feed element, none at a masked position (R58, R111). -/
def feedVal (f : Fmt) (x : FeedEl) : Option DV := if x.masked then none else some (f.dec x.code.toNat)

/-- Rows that one feed entry holds of a q×k tile: 4,096 elements (R106). -/
def feedRows (d : Desc) : Nat := Nat.max 1 (4096 / Nat.max d.k 1)

/-- A q×k tile from feed entry e on; a clear entry reads as zeros (R395). -/
def feedTile (d : Desc) (g : Prog) (e : Nat) : List (List (Option DV)) :=
  let rows := (List.range (scoreTiles d)).flatMap (fun i =>
    match tget? g.feed (e + i) with
    | some f => f.rows.map (fun r => r.map (feedVal (feedFmt f.fmt)))
    | none => zeroMat (Nat.min (feedRows d) d.q, d.k))
  rows.take d.q

/-- Stores a q×k tile of codes from feed entry e on. -/
def feedStore (d : Desc) (e fmt : Nat) (isDs : Bool) (kt row0 col0 : Nat) (rows : List (List FeedEl)) (t : Tbl FeedEnt) :
    Tbl FeedEnt :=
  let n := feedRows d
  (List.range (scoreTiles d)).foldl (fun t i =>
    tset t (e + i) ⟨fmt, isDs, kt, row0 + i * n, col0, (rows.drop (i * n)).take n⟩) t

/-- The first feed element of an MMA's operand that breaks its derived bound (R96, R99): query index, key index. -/
def feedExceeds (xb : Int) (f : FeedEnt) : Option (Nat × Nat) :=
  (List.range f.rows.length).findSome? (fun r =>
    let row := f.rows.getD r []
    (List.range row.length).findSome? (fun c =>
      match feedVal (feedFmt f.fmt) (row.getD c ⟨0, true⟩) with
      | some x => if x.exceeds xb then some (f.row0 + r, f.col0 + c) else none
      | none => none))

/-- The check of R35 on a feed operand: p_f with XBND 0, dS_f with XBND_DS (R42, R96, R99). -/
def feedCheck (d : Desc) (g : Prog) (e : Nat) : Option RFault :=
  (List.range (scoreTiles d)).findSome? (fun i =>
    match tget? g.feed (e + i) with
    | none => none
    | some f =>
      let sid := if f.isDs then ((d.byUse (if d.a.dMode = 1 then uD else uDDEST)).map (·.sid)).getD 255
        else if d.jtype = 2 then ((d.byUse uLSE).map (·.sid)).getD 255 else 255
      (feedExceeds (if f.isDs then d.xbDS else 0) f).map (fun rc => ⟨stEXP_BOUND, sid, rc.1, rc.2⟩))

/-- A resident tile for a GRID's operand: that of its USE, else the only one (log entry 15). -/
def residentTile (g : Prog) (arr grid : Nat) (isB : Bool) : Option OpTile :=
  let ts := tget g.resident arr []
  match ts.find? (fun t => t.use == gridUse grid isB) with
  | some t => some t
  | none => if ts.length = 1 then ts.head? else none

/-- One operand of an MMA, in the order the product consumes it (R179). -/
def operand (e : Env) (arr grid src fe tr : Nat) (isB : Bool) : Eff (List (List (Option DV))) := do
  let d := e.j.desc
  let g ← e.prog
  let plain (t : Option OpTile) : List (List (Option DV)) :=
    match t with
    | none => zeroMat (gridShape d grid isB)
    | some t =>
      let m := t.rows.map (fun r => r.map some)
      if tr = 1 then transpose m else m
  match src with
  | 0 => pure (plain (residentTile g arr grid isB))
  | 1 =>
    let ts := tget g.fifo arr []
    e.modify (fun g => { g with fifo := tset g.fifo arr ((tget g.fifo arr []).drop 1) })
    pure (plain ts.head?)
  | _ =>
    match feedCheck d g fe with
    | some f => raise f
    | none =>
      let m := feedTile d g fe
      pure (if tr = 1 then transpose m else m)

/-! Rows of scores. -/

/-- RSU row state of query index i (R59, R395). -/
def rowState (g : Prog) (i : Nat) : RowState := tget g.rsu i RowState.init

/-- The code of an E8M23 value. -/
def f32code (x : XV) : BitVec 32 := BitVec.ofNat 32 (Fmt.e8m23.enc x).1

/-- The value of an E8M16 code (R54). -/
def f16x (c : BitVec 32) : XV := Fmt.e8m16.val c.toNat

/-- The stream bits of query row i: MASK_STREAM's words as one number (R75). -/
def maskBits (e : Env) (i : Nat) : Eff Nat := do
  match e.j.desc.byUse uMASK with
  | none => pure 0
  | some x =>
    let n := 8 * ceilDiv e.j.desc.p.kpad 64
    let (bs, _) ← streamRead e.g.ctx e.g.epoch x (i * n) n
    pure (leNat bs)

/-- The value that a stream of one value per row holds for row i. -/
def rowScalar (e : Env) (use i : Nat) : Eff XV := do
  match e.j.desc.byUse use with
  | none => pure .zero
  | some x =>
    let v ← rowVals e.j e.g.epoch x i 0 1
    pure (v.headD .zero)

/-- Whether R73, or in a backward job R111, masks position (i, k), with the row's stream bits and λ. -/
def posMasked (d : Desc) (seg : List Nat) (i k mbits : Nat) (lam : XV) : Bool :=
  maskedPos d.p seg i k || (bit d.p.mask 3 && mbits.testBit k) ||
    (d.jtype == 2 && (decide (d.p.qvalid ≤ i) || lam == .inf true))

/-- A finalised accumulator element converted to E8M23 (R50, R58 step 1, R95 step 5). -/
def convScore (arr : Nat) (e : Int) (x : AEl) : CV :=
  CV.rnd .e8m23 ⟨x.x e, x.event.map (fun k => (k, arr)), []⟩

/-- Scaled scores of one row (R58 steps 1 to 3): none where masked. -/
def scoreRow (d : Desc) (seg : List Nat) (arr i kt mbits : Nat) (lam : XV) (row : List (Int × AEl)) : List (Option CV) :=
  ((List.range d.k).zip row).map (fun e =>
    if posMasked d seg i (kt * d.k + e.1) mbits lam then none
    else
      let s := convScore arr e.2.1 e.2.2
      some (CV.rnd .e8m23 (s.step (s.x.mul (f32 d.a.sigma)))))

/-- exp2 of an exact difference, rounded to E8M16 first (R58 steps 5 and 6). -/
def CV.exp2 (d : Desc) (img : List Byte) (c : CV) : CV := (CV.rnd .e8m16 c).fn (d.sfuset == 1) img .exp2

/-- The larger of two values; NaN wins (R58 step 4, R83). -/
def nanMax (a b : XV) : XV := if a.isNan || b.isNan then .nan else a.max b

/-- The correction factor from m_old to m_new (R59). -/
def corrFactor (d : Desc) (img : List Byte) (mo mn : XV) : CV :=
  if mo.same mn then CV.of .one
  else if mo == .inf true && !mn.isNan then CV.of .zero
  else CV.exp2 d img ((CV.of .zero).step (mo.sub mn))

/-- A value rounded to a feed format: its code and the chain with the rounding's event (R58 step 7, R95). -/
def toFeed (fmt : Nat) (c : CV) : CV × BitVec 32 :=
  let f := feedFmt fmt
  let (code, o) := f.enc c.x
  ({ c with x := f.val code, ovf := if o then c.ovf ++ [2] else c.ovf }, BitVec.ofNat 32 code)

/-- A masked feed position. -/
def FeedEl.mask : FeedEl := ⟨0, true⟩

/-- The events of one row of optional chain values. -/
def optEvents (row : Nat) (vs : List (Option CV)) : List Ev :=
  ((List.range vs.length).zip vs).flatMap (fun e =>
    match e.2 with
    | none => []
    | some v => v.events.map (fun k => (k.1, row, e.1, k.2)))

/-- The events of a row-level value (l of a row, its correction factor, LSE2, a node's c and l). R512 lists no column
for them. DESIGN CHOICE: column 0 (log entry 99). -/
def rowLevel (row : Nat) (c : CV) : List Ev := c.events.map (fun k => (k.1, row, 0, k.2))

end Sys2Proof.Machine
end

