-- ==== Sys2Proof/Machine/Scores.lean ====
section
/-!
DEFINITION. What LOAD, MMA, DRAIN and SETQ compute (R35, R39, R58 to R61, R78, R83, R84, R92, R95 to R99, R124, R178).
-/
namespace Sys2Proof.Machine

/-! LOAD. -/

/-- One row of a LOAD as it enters an array: the stored row, or the prologue rounded to the stream's format (R79, R124,
R128, R129). -/
def loadRow (d : Desc) (pr : Params) (x : Stream) (i : Nat) (row : List XV) : List CV :=
  let lim := if x.use = uQ then d.p.qvalid else d.p.kvalid
  let pro := d.pro x.use
  if x.use ≤ uV ∧ d.hasPro x.use ∧ i < lim then
    roundRow x.fmt (prologueRow d pr x.use ((if x.use = uQ then d.p.qpos0 else d.p.kpos0) + i) row)
  else
    ((if x.use ≤ uV ∧ pro.norm ≠ 0 then row.drop pro.headCol else row).take d.dim).map CV.of

/-- The first element of loaded rows that exceeds its stream's bound (R35): row index in the stream, column. -/
def loadExceeds (xbnd : Int) (r0 : Nat) (rows : List (List DV)) : Option (Nat × Nat) :=
  (List.range rows.length).findSome? (fun r =>
    let row := rows.getD r []
    ((List.range row.length).find? (fun c => (row.getD c .nan).exceeds xbnd)).map (fun c => (r0 + r, c)))

/-- LOAD (R178): a stream tile through its prologue into operand buffers. -/
def loadBody : Body := fun e => do
  let w := e.w
  let d := e.j.desc
  match d.stream (bits w 66 8) with
  | none => raise (plainFault stPROG_BAD)
  | some x =>
    let n := tileRows d x.use
    let r0 := (tref w e.c.regs).toNat * n
    if x.space = 2 then
      modifyThe State (fun s => (blocksOf r0 n).foldl (fun s _ => descLookup (x.base % 2 ^ 18) s) s)
    let rows ← (List.range n).mapM (fun r => do
      let row ← rowVals e.j e.g.epoch x (r0 + r) 0 (rowElems d x)
      pure (loadRow d e.j.params x (r0 + r) row))
    let dv := rows.map (fun row => row.map (fun v => v.x.dv))
    match loadExceeds x.xbnd r0 dv with
    | some (r, c) => raise ⟨stEXP_BOUND, x.sid, r, c⟩
    | none =>
      let t : OpTile := ⟨e.c.num, x.sid, x.use, (tref w e.c.regs).toNat, x.xbnd, dv⟩
      e.modify (fun g =>
        (loadArrays w).foldl (fun g a =>
          if bit w 98 then { g with fifo := tset g.fifo a (tget g.fifo a [] ++ [t]) }
          else { g with resident := tset g.resident a ((tget g.resident a []).filter (fun y => y.use != x.use) ++ [t]) }) g)
      pure (rowEvents rows, [])

/-! MMA. -/

/-- An accumulator row before its pass: set to the start of its grid, kept, or rescaled by the correction factors of its
columns' rows (R41, R60, R179). -/
def passStart (init : Nat) (gridE : Int) (cs : List DV) (old : Option AccRow) : AccRow :=
  match old with
  | none => ⟨gridE, 0, cs.map (fun _ => AEl.zero)⟩
  | some r =>
    if init = 1 then ⟨gridE, 0, cs.map (fun _ => AEl.zero)⟩
    else if init = 2 then { r with els := List.zipWith AEl.rescale cs r.els }
    else r

/-- The tiles of an array that a program holds, tile acc to tile acc + n − 1. -/
def tileSlice (arr acc n : Nat) (t : Tbl (Tbl AccRow)) : Tbl (Tbl AccRow) :=
  t.filter (fun e => decide (16 * arr + acc ≤ e.1) && decide (e.1 < 16 * arr + acc + n))

/-- The pass of one accumulator row of a product (R45, R60): the row, the product positions that count ACC_SAT, the
repeats. -/
def groupPass (init : Nat) (gridE : Int) (c : Nat → DV) (a cols : List (List (Option DV))) (ps : List AccPart)
    (old : Option AccRow) : AccRow × List (Nat × Nat) × Nat :=
  let at_ : List (Nat × Nat) := ps.flatMap (fun p => (List.range p.seg.n).map (fun i => (p.row, p.col + i)))
  let out := (passStart init gridE (at_.map (fun x => c x.1)) old).pass
    (at_.map (fun x => (a.getD x.1 [], cols.getD x.2 [])))
  (out.1, out.2.1.map (fun i => at_.getD i (0, 0)), out.2.2)

/-- MMA (R39, R45, R60, R179): one product over the accumulator tiles from ACC on. A forward job's score product may
name fewer tiles than it fills, as R192 needs two for every shape (log entry 23). -/
def mmaBody : Body := fun e => do
  let w := e.w
  let d := e.j.desc
  let arr := queueOf w
  let grid := bits w 91 4
  let nt := bits w 87 4 + 1
  let acc := bits w 77 4 + (if bit w 86 then lreg e.c.regs 0 % 2 else 0)
  let a ← operand e arr grid (bits w 65 2) (feedA w e.c.regs) (bits w 83 1) false
  let b0 ← operand e arr grid (bits w 67 2) (feedB w e.c.regs) (bits w 84 1) true
  let kk := (a.headD []).length
  let b := if grid = 7 then List.replicate kk [some (DV.fin 1 0)] else b0
  let m := a.length
  let cols := transpose b
  let n := cols.length
  if kk != b.length || (nt < tilesOf m n && !(grid == 0 && d.jtype == 1)) then raise (plainFault stPROG_BAD)
  else
    let g ← e.prog
    let before := tileSlice arr acc nt g.acc
    let c (r : Nat) : DV := Fmt.e8m16.dec (rowState g (e.c.qt * d.q + r)).c.toNat
    let res := (accGroups m n nt).map (fun ps =>
      (ps, groupPass (bits w 81 2) (d.gridE grid) c a cols ps (accGet g arr acc ps)))
    e.modify (fun g => { g with
      acc := res.foldl (fun t x => accPut arr acc x.1 x.2.1 t) g.acc
      accG := (List.range nt).foldl (fun t i => tset t (16 * arr + acc + i) grid) g.accG
      accN := tset g.accN (16 * arr + acc) nt })
    let g2 ← e.prog
    modifyThe State (modPav e.p (fun v =>
      { v with passes := v.passes ++ [⟨e.q, arr, e.c.num, 0, before, tileSlice arr acc nt g2.acc⟩] }))
    let reps := (res.map (fun x => x.2.2.2)).sum
    modifyThe State (modJob e.g.ctx e.g.jobseq (fun j => { j with repeats := satAdd j.repeats reps }))
    modifyThe State (perfEvent e.p 0x0C reps)
    pure (res.flatMap (fun x => x.2.2.1.map (fun c => (4, c.1, c.2, arr))), [])

/-! DRAIN. -/

/-- What one row of a forward drain gives. -/
structure FwdRow where
  feed : List FeedEl
  st : RowState
  evs : List Ev
  deriving DecidableEq, Repr

/-- The value that a masked position holds in a dump and under SPLIT_ROUND (R78, R92). -/
def maskedScore : XV := .fin (-16384) 1 0

/-- The forward steps of one row (R58 steps 4 to 7, R59, R61, R76, R77, R83, R84, R92) under DMODE dm. -/
def fwdRow (d : Desc) (img : List Byte) (dm r : Nat) (st0 : RowState) (scores : List (Option CV)) : FwdRow :=
  let st := { st0 with seen := st0.seen || scores.any Option.isSome }
  let vals := if d.a.splitRound = 1 then scores.map (fun v => some (v.getD (CV.of maskedScore))) else scores
  let live := vals.filterMap id
  let noFeed := vals.map (fun _ => FeedEl.mask)
  if live.isEmpty then ⟨noFeed, { st with c := f32code .one }, []⟩
  else
    let mo := f32 st.m
    let mn := if dm = 2 then mo else live.foldl (fun a v => nanMax a v.x) mo
    if dm = 1 then ⟨noFeed, { st with m := f32code mn }, optEvents r scores⟩
    else
      let ps := vals.map (fun v => v.map (fun v => toFeed (pFeed d) (CV.exp2 d img (v.step (v.x.sub mn)))))
      let feed := ps.map (fun p => match p with
        | some x => ⟨x.2, false⟩
        | none => FeedEl.mask)
      let pev := optEvents r (ps.map (fun p => p.map (·.1)))
      let pv := ps.filterMap (fun p => p.map (fun x => x.1.x))
      if dm = 2 then
        let e := d.gridE 7
        let l := pv.foldl (fun a p => a.combine (gridProduct (e - 62) p.dv (.fin 1 0))) st.lsum.av
        ⟨feed, { st with c := f32code .one, lsum := l.el, lexp := e }, pev⟩
      else
        let c := corrFactor d img mo mn
        let t := pv.foldl (fun a p => (a.add p).1) .zero
        let l0 := (CV.of .zero).step (c.x.mul (f32 st.l))
        let l := CV.rnd .e8m23 (l0.step (l0.x.add t))
        ⟨feed, { st with m := f32code mn, l := f32code l.x, c := BitVec.ofNat 32 (Fmt.e8m16.enc c.x).1 },
          pev ++ rowLevel r c ++ rowLevel r l⟩

/-- One row of p_f (R95 steps 1 to 4). -/
def bwdP (d : Desc) (img : List Byte) (lam : XV) (scores : List (Option CV)) : List (Option (CV × BitVec 32)) :=
  scores.map (fun v => v.map (fun v => toFeed (pFeed d) (CV.exp2 d img (v.step (v.x.sub lam)))))

/-- One row of dS_f from p_f, the accumulated dP and D (R95 steps 5 to 7). -/
def bwdDs (d : Desc) (arr pfmt : Nat) (dv : XV) (pf : List FeedEl) (row : List (Int × AEl)) :
    List (Option (CV × BitVec 32)) :=
  (pf.zip row).map (fun e =>
    if e.1.masked then none
    else
      let dp := convScore arr e.2.1 e.2.2
      let y0 := dp.step (dp.x.sub dv)
      let y1 := y0.step (((feedFmt pfmt).val e.1.code.toNat).mul y0.x)
      some (toFeed d.a.dsfeed (y1.step (y1.x.mul (f32 d.a.dscale)))))

/-- Feed elements of a row of optional results. -/
def feedEls (vs : List (Option (CV × BitVec 32))) : List FeedEl :=
  vs.map (fun v => match v with
    | some x => ⟨x.2, false⟩
    | none => FeedEl.mask)

/-- The scores of a drained tile, row by row, with each row's λ (R58, R73, R95, R111). -/
def drainScores (e : Env) (arr acc kt : Nat) : Eff (List (XV × List (Option CV))) := do
  let d := e.j.desc
  let g ← e.prog
  (List.range d.q).mapM (fun r => do
    let i := e.c.qt * d.q + r
    let mb ← if bit d.p.mask 3 then maskBits e i else pure 0
    let lam ← if d.jtype = 2 then rowScalar e uLSE i else pure XV.zero
    pure (lam, scoreRow d e.j.params.seg arr i kt mb lam (accEls g arr acc d.q d.k (tilesHeld g arr acc d.q d.k) r)))

/-- Rows of values written to a stream where there is one. -/
def writeTo (e : Env) (x : Option Stream) (r0 col0 : Nat) (rows : List (List XV)) : Eff (List Ev × List Nat) :=
  match x with
  | none => pure ([], [])
  | some x => writeRows (e.writer false) e.j x r0 col0 2 rows

/-- What an effect answers, with its effects left out. -/
def peekEff {α : Type} (m : Eff α) (dflt : α) : Eff α := do
  let s ← get
  match (m.exec s).1 with
  | .ok v => pure v
  | .error _ => pure dflt

/-- Whether some position of query row i is unmasked over the job's whole key range (R73, R77). -/
def rowOpen (e : Env) (i : Nat) : Eff Bool := do
  let d := e.j.desc
  let mb ← if bit d.p.mask 3 then peekEff (maskBits e i) 0 else pure 0
  pure ((List.range d.p.kpad).any (fun k => !posMasked d e.j.params.seg i k mb .zero))

/-- Adds the rows of a list that lie below QVALID and that the job has not counted yet to MASKED_ROWS (R51, R77,
R112). -/
def countMaskedRows (e : Env) (rows : List Nat) : Eff Unit :=
  modifyThe State (modJob e.g.ctx e.g.jobseq (fun j =>
    let fresh := rows.filter (fun i => decide (i < j.desc.p.qvalid) && !j.maskedSeen.contains i)
    { j with maskedRows := satAdd j.maskedRows fresh.length, maskedSeen := j.maskedSeen ++ fresh }))

/-- A dump-only job's rows without an unmasked position are counted where the last of their positions is dumped, which
one program of one member does (R77, R78; log entry 100). -/
def noteDump (e : Env) (kt : Nat) : Eff Unit := do
  let d := e.j.desc
  if kt * d.k ≤ d.p.kpad - 1 ∧ d.p.kpad - 1 < (kt + 1) * d.k then
    let rows := (List.range d.q).map (fun r => e.c.qt * d.q + r)
    let masked ← rows.filterM (fun i => do pure (!(← rowOpen e i)))
    countMaskedRows e masked

/-- DRAIN in a forward job, DMODE 0 to 2. -/
def drainFwd (e : Env) (dm arr acc fe kt : Nat) : Eff (List Ev × List Nat) := do
  let d := e.j.desc
  let qt := e.c.qt
  let scores := (← drainScores e arr acc kt).map (·.2)
  let dumpTo := if d.a.dump ≠ 0 ∧ dm ≤ 1 then d.byUse uDUMP else none
  let (ev1, st1) ← writeTo e dumpTo (qt * d.q) (kt * d.k) (scores.map (fun row => row.map (fun v =>
    (v.map (·.x)).getD maskedScore)))
  if d.a.dump = 2 ∧ dm ≤ 1 then noteDump e kt
  if d.a.dump = 2 ∧ dm ≠ 1 then
    pure (((List.range scores.length).zip scores).flatMap (fun x => optEvents x.1 x.2) ++ ev1, st1)
  else
    let g ← e.prog
    let rows := ((List.range scores.length).zip scores).map (fun x =>
      fwdRow d e.j.params.image dm x.1 (rowState g (qt * d.q + x.1)) x.2)
    e.modify (fun g => { g with
      rsu := ((List.range rows.length).zip rows).foldl (fun t x => tset t (qt * d.q + x.1) x.2.st) g.rsu
      feed := if dm = 1 then g.feed
        else feedStore d fe (pFeed d) false kt (qt * d.q) (kt * d.k) (rows.map (·.feed)) g.feed })
    let (ev2, st2) ← writeTo e (if dm = 1 then maxDest d else none) (qt * d.q) 0 (rows.map (fun r => [f32 r.st.m]))
    pure (rows.flatMap (·.evs) ++ ev1 ++ ev2, st1 ++ st2)

/-- A backward job counts each row with λ = −∞ once, at the first DMODE 3 DRAIN of the row; among the members of a
grove, at that of key tile 0, which one member drains. DESIGN CHOICE: R112 names no command (log entry 101). -/
def noteLambda (e : Env) (kt : Nat) (lams : List XV) : Eff Unit :=
  if (e.j.via.isNone && (e.j.progs.all (fun h => h.member == e.j.member))) || kt == 0 then
    countMaskedRows e (((List.range lams.length).zip lams).filterMap (fun l =>
      if l.2 == .inf true then some (e.c.qt * e.j.desc.q + l.1) else none))
  else pure ()

/-- DRAIN in a backward job, DMODE 3: p_f (R95 steps 1 to 4). -/
def drainP (e : Env) (arr acc fe kt : Nat) : Eff (List Ev × List Nat) := do
  let d := e.j.desc
  let qt := e.c.qt
  let sc ← drainScores e arr acc kt
  noteLambda e kt (sc.map (·.1))
  let ps := sc.map (fun x => bwdP d e.j.params.image x.1 x.2)
  let rows := ps.map feedEls
  e.modify (fun g => { g with
    feed := feedStore d fe (pFeed d) false kt (qt * d.q) (kt * d.k) rows g.feed
    pf := g.pf.filter (fun f => !(f.kt == kt && f.row0 == qt * d.q)) ++
      [⟨pFeed d, false, kt, qt * d.q, kt * d.k, rows⟩] })
  pure (((List.range ps.length).zip ps).flatMap (fun x => optEvents x.1 (x.2.map (fun p => p.map (·.1)))), [])

/-- DRAIN in a backward job, DMODE 4: dS_f (R95 steps 5 to 7) from the p_f of an earlier DMODE 3 drain with the same KT,
that of the same query tile where there is one (R514; log entry 25). -/
def drainDs (e : Env) (arr acc fe kt : Nat) : Eff (List Ev × List Nat) := do
  let d := e.j.desc
  let qt := e.c.qt
  let g ← e.prog
  let cands := g.pf.filter (fun f => f.kt == kt)
  match (match cands.find? (fun f => f.row0 == qt * d.q) with
    | some f => some f
    | none => cands.getLast?) with
  | none => raise (plainFault stPROG_BAD)
  | some f =>
    let ds ← (List.range d.q).mapM (fun r => do
      let dv ← rowScalar e (if d.a.dMode = 1 then uD else uDDEST) (qt * d.q + r)
      pure (bwdDs d arr f.fmt dv (f.rows.getD r []) (accEls g arr acc d.q d.k (tilesHeld g arr acc d.q d.k) r)))
    e.modify (fun g => { g with
      feed := feedStore d fe d.a.dsfeed true kt (qt * d.q) (kt * d.k) (ds.map feedEls) g.feed })
    pure (((List.range ds.length).zip ds).flatMap (fun x => optEvents x.1 (x.2.map (fun p => p.map (·.1)))), [])

/-- DRAIN (R178, R514). -/
def drainBody : Body := fun e => do
  let w := e.w
  let arr := if bit w 64 then 1 else 0
  let acc := bits w 65 4 + (if bit w 69 then lreg e.c.regs 0 % 2 else 0)
  let fe := feedD w e.c.regs
  let kt := (tref w e.c.regs).toNat
  let d := e.j.desc
  modifyThe State (perfEvent e.p 0x05 (d.q * d.k))
  match bits w 75 3 with
  | 3 => drainP e arr acc fe kt
  | 4 => drainDs e arr acc fe kt
  | dm => drainFwd e dm arr acc fe kt

/-! SETQ and ZACC. -/

/-- SETQ (R179): the current query tile, and with RSTAT m = −∞ and l = 0 for its rows. -/
def setqBody : Body := fun e => do
  let d := e.j.desc
  let qt := (tref e.w e.c.regs).toNat
  e.modify (fun g => { g with
    qtile := qt
    rsu := if bit e.w 88 then g.rsu.filter (fun x => !(decide (qt * d.q ≤ x.1) && decide (x.1 < (qt + 1) * d.q)))
      else g.rsu })
  pure ([], [])

/-- ZACC (R178): accumulator tiles set to finite zero. -/
def zaccBody : Body := fun e => do
  let arr := queueOf e.w
  let a0 := bits e.w 65 4
  let n := bits e.w 69 4 + 1
  e.modify (fun g => { g with acc := g.acc.filter (fun t => !(decide (16 * arr + a0 ≤ t.1) && decide (t.1 < 16 * arr + a0 + n))) })
  pure ([], [])

end Sys2Proof.Machine
end

