-- ==== Sys2Proof/Machine/Outputs.lean ====
section
/-!
DEFINITION. What EPI, ACCW, PART, COMB, MAXC, FIN, DPRO, ROWP and PREF compute (R62, R63, R77, R83, R86, R92, R97, R105
to R112, R121, R132, R133, R136, R140, R178, R222, R223, R258).
-/
namespace Sys2Proof.Machine

/-- Numbered rows. -/
def enum {α : Type} (xs : List α) : List (Nat × α) := (List.range xs.length).zip xs

/-- A finalised A64 element (R50): its exact value, with the event of a NaN of cause 2 or 3 under a UNIT. -/
def finalCV (unit : Nat) (e : Int) (x : AEl) : CV := ⟨x.x e, x.event.map (fun k => (k, unit)), []⟩

/-- Rows of n elements of a stream from row r0 on, as exact values. -/
def streamRows (e : Env) (x : Stream) (r0 n cols : Nat) : Eff (List (List XV)) :=
  (List.range n).mapM (fun r => rowVals e.j e.g.epoch x (r0 + r) 0 cols)

/-- The rows of an optional operand stream. -/
def optRows (e : Env) (on : Bool) (use r0 n cols : Nat) : Eff (List (List XV)) :=
  match (if on then e.j.desc.byUse use else none) with
  | none => pure []
  | some x => streamRows e x r0 n cols

/-! Forward finalisation. -/

/-- A query row that is to be finalised: o, m, l, and whether some position was unmasked (R77). -/
structure FinRow where
  o : List CV
  m : XV
  l : XV
  seen : Bool
  deriving DecidableEq, Repr

/-- y0 of R132, LSE2 of R63, and what the row level rounds (R62, R77, R92). -/
def finRow (d : Desc) (img : List Byte) (f : FinRow) : List CV × CV × List (Nat × Nat) :=
  let sr := d.a.splitRound = 1
  if !f.seen && !sr then (f.o.map (fun _ => CV.of .zero), CV.of (.inf true), [])
  else
    let l0 := if sr then CV.rnd .e8m23 (CV.of f.l) else CV.of f.l
    let o := if sr then roundRow d.e.outFmt f.o else f.o
    let y0 := o.map (fun v => v.step (v.x.div l0.x))
    let g := (CV.of l0.x).fn (d.sfuset == 1) img .log2
    (y0, CV.rnd .e8m23 (g.step (f.m.add g.x)), l0.events)

/-- Finalises the rows of query tile qt through the epilogue chain into stream x, and writes O_PRE_DEST and, when asked,
LSE_DEST (R62, R63, R132, R133). -/
def finalise (e : Env) (x : Stream) (qt : Nat) (lse : Bool) (rows : List FinRow) : Eff (List Ev × List Nat) := do
  let d := e.j.desc
  let r0 := qt * d.q
  let cols := ((rows.headD ⟨[], .zero, .zero, false⟩).o).length
  countMaskedRows e ((enum rows).filterMap (fun f => if f.2.seen then none else some (r0 + f.1)))
  let gs ← optRows e (d.e.gmode != 0) uG r0 d.q cols
  let rs ← optRows e (d.e.res != 0) uRES r0 d.q cols
  let fs := rows.map (finRow d e.j.params.image)
  let outs := (enum fs).map (fun f => epilogueRow d e.j.params f.2.1 (gs.getD f.1 []) (rs.getD f.1 []))
  let lseEv := (enum fs).flatMap (fun f => rowLevel f.1 f.2.2.1 ++ f.2.2.2.map (fun k => (k.1, f.1, 0, k.2)))
  let (e1, s1) ← writeTo e (some x) r0 0 (outs.map (fun row => row.map (·.x)))
  let (e2, s2) ← writeTo e (d.byUse uOPRE) r0 0 (fs.map (fun f => f.1.map (·.x)))
  let (e3, s3) ← writeTo e (if lse then d.byUse uLSEDEST else none) r0 0 (fs.map (fun f => [f.2.1.x]))
  pure (rowEvents outs ++ lseEv ++ e1 ++ e2 ++ e3, s1 ++ s2 ++ s3)

/-! Gradients. -/

/-- Whether a gradient destination takes the inverse rotation, and the position of row 0 (R136). -/
def gradRot (d : Desc) (use : Nat) : Bool × Nat :=
  if use = uDQDEST then (d.a.dqRopeInv == 1, d.p.qpos0)
  else if use = uDKDEST then (d.a.dkRopeInv == 1, d.p.kpos0)
  else (false, 0)

/-- The GRID of a gradient destination (R100). -/
def gradGrid (use : Nat) : Nat := if use = uDQDEST then 5 else if use = uDKDEST then 4 else 3

/-- Finalised gradient rows, rotated and written (R105, R109, R136). -/
def gradWrite (e : Env) (x : Stream) (r0 : Nat) (rows : List (List CV)) : Eff (List Ev × List Nat) := do
  let d := e.j.desc
  let (inv, pos) := gradRot d x.use
  let ys := if inv then (enum rows).map (fun r => ropeRow d e.j.params true (pos + r0 + r.1) r.2) else rows
  let (ev, st) ← writeTo e (some x) r0 0 (ys.map (fun row => row.map (·.x)))
  pure (rowEvents ys ++ ev, st)

/-! The tile fields of EPI, ACCW and PART (R179). -/

def outArr (w : Nat) : Nat := if bit w 64 then 1 else 0
def outAcc (w : Nat) : Nat := bits w 65 4
def outTiles (w : Nat) : Nat := bits w 69 4 + 1

/-- The accumulator rows that a command reads of an m×n tile (R512). -/
def outRows (e : Env) (m n : Nat) : Eff (List (List (Int × AEl))) := do
  let g ← e.prog
  let w := e.w
  let held := colsHeld m n (outTiles w)
  pure ((accRows g (outArr w) (outAcc w) m n).map (fun r => r.take held))

/-- The output rows of a forward job's accumulators, or of PART_DEST words under MODE 1 with several splits (R62, R84,
R193). -/
def outputRows (e : Env) (qt : Nat) : Eff (List FinRow) := do
  let d := e.j.desc
  let g ← e.prog
  let st (r : Nat) : RowState := rowState g (qt * d.q + r)
  match (if d.a.mode = 1 ∧ 1 < d.a.nsplit then d.byUse uPART else none) with
  | some x => do
    (List.range d.q).mapM (fun r => do
      let ws ← rowWords e.j e.g.epoch x (qt * d.q + r) 0 (d.dim + 1)
      let l := (ws.getD d.dim AEl.zero).x (d.gridE 7)
      let m := f32 (st r).m
      pure ⟨(ws.take d.dim).map (finalCV 2 (d.gridE 6)), m, l, ← rowOpen e (qt * d.q + r)⟩)
  | none => do
    let rows ← outRows e d.q d.dim
    pure ((enum rows).map (fun r =>
      let z := st r.1
      ⟨r.2.map (fun v => finalCV (outArr e.w) v.1 v.2), f32 z.m, if d.a.mode = 1 then z.lsum.x z.lexp else f32 z.l, z.seen⟩))

/-- EPI (R105, R132, R178). -/
def epiBody : Body := fun e => do
  let d := e.j.desc
  let w := e.w
  let t := (tref w e.c.regs).toNat
  match d.stream (bits w 73 8) with
  | none => raise (plainFault stPROG_BAD)
  | some x =>
    if d.jtype = 2 then
      let n := tileRows d x.use
      let rows ← outRows e n d.dim
      gradWrite e x (t * n) (rows.map (fun r => r.map (fun v => finalCV (outArr w) v.1 v.2)))
    else if d.a.dump = 2 then pure ([], [])
    else finalise e x t (bit w 105) (← outputRows e t)

/-- ACCW (R107, R108, R222): accumulator words and tags added into a range, not finalised. -/
def accwBody : Body := fun e => do
  let d := e.j.desc
  let w := e.w
  let t := (tref w e.c.regs).toNat
  match d.stream (bits w 73 8) with
  | none => raise (plainFault stPROG_BAD)
  | some x =>
    let n := tileRows d x.use
    let g ← e.prog
    let isL := x.use == uPART && tget g.accG (16 * outArr w + outAcc w) 6 == 7
    let rows ← outRows e n (if isL then 1 else d.dim)
    let (r0, c0) := if x.use = uDKVACC then (t / 2 * n, t % 2 * d.dim) else (t * n, if isL then d.dim else 0)
    let st ← streamAccum (e.writer true) x ((enum rows).map (fun r => wordSpan d x (r0 + r.1) c0 (r.2.map (·.2))))
    pure ([], st)

/-- PART (R86): a leaf's partial record. -/
def partBody : Body := fun e => do
  let d := e.j.desc
  let w := e.w
  let qt := (tref w e.c.regs).toNat
  if d.a.dump = 2 then pure ([], [])
  else
    let g ← e.prog
    let rows ← outRows e d.q d.dim
    let os := rows.map (fun r => r.map (fun v => CV.rnd .e8m23 (finalCV (outArr w) v.1 v.2)))
    let recs := (enum os).map (fun r =>
      let z := rowState g (qt * d.q + r.1)
      f32 z.m :: f32 z.l :: r.2.map (·.x))
    let (ev, st) ← writeTo e (d.stream (bits w 73 8)) (qt * d.q) 0 recs
    pure (rowEvents os ++ ev, st)

/-- A node's partial record (R86): m, l and o, with the events of the row level and of the elements. -/
structure Node where
  m : XV
  l : XV
  o : List CV
  evs : List (Nat × Nat)
  deriving DecidableEq, Repr

/-- c·o, where an infinity or NaN of o is not scaled (R49, R86). -/
def scaleTerm (c o : XV) : XV := if o.isFin then (c.mul o).1 else o

/-- Combines two partial records of a row (R86). -/
def combineNode (d : Desc) (img : List Byte) (a b : List XV) : Node :=
  let at_ (r : List XV) (i : Nat) : XV := r.getD i .zero
  let m := nanMax (at_ a 0) (at_ b 0)
  let ca := corrFactor d img (at_ a 0) m
  let cb := corrFactor d img (at_ b 0) m
  let x := (CV.of .zero).step (ca.x.mul (at_ a 1))
  let y := x.step (cb.x.mul (at_ b 1))
  let l := CV.rnd .e8m23 (y.step (x.x.add y.x))
  let o := ((a.drop 2).zip (b.drop 2)).map (fun p =>
    let (s, bad) := (scaleTerm ca.x p.1).add (scaleTerm cb.x p.2)
    CV.rnd .e8m23 ⟨s, if bad then some (2, 2) else none, []⟩)
  ⟨m, l.x, o, ca.events ++ cb.events ++ l.events⟩

/-- COMB (R86): one node of the split combine tree; the root finalises. -/
def combBody : Body := fun e => do
  let d := e.j.desc
  let w := e.w
  let qt := (tref w e.c.regs).toNat
  match d.stream (bits w 65 8), d.stream (bits w 73 8), d.stream (bits w 81 8) with
  | some xl, some xr, some xo =>
    if d.a.dump = 2 then pure ([], [])
    else
      let as_ ← streamRows e xl (qt * d.q) d.q (d.dim + 2)
      let bs ← streamRows e xr (qt * d.q) d.q (d.dim + 2)
      let ns := (as_.zip bs).map (fun p => combineNode d e.j.params.image p.1 p.2)
      let rowEv := (enum ns).flatMap (fun n => n.2.evs.map (fun k => (k.1, n.1, 0, k.2)))
      if bit w 113 then
        let (ev, st) ← finalise e xo qt true (ns.map (fun n => ⟨n.o, n.m, n.l, !(n.m == .inf true && n.l.isZero)⟩))
        pure (rowEv ++ ev, st)
      else
        let (ev, st) ← writeTo e (some xo) (qt * d.q) 0 (ns.map (fun n => n.m :: n.l :: n.o.map (·.x)))
        pure (rowEv ++ rowEvents (ns.map (·.o)) ++ ev, st)
  | _, _, _ => raise (plainFault stPROG_BAD)

/-- MAXC (R83, R193): the largest of the splits' maxima, written, and the maximum of pass two. -/
def maxcBody : Body := fun e => do
  let d := e.j.desc
  let w := e.w
  let qt := (tref w e.c.regs).toNat
  let xs := (List.range (bits w 73 16)).filterMap (fun i => d.stream (bits w 65 8 + i))
  let cols ← xs.mapM (fun x => streamRows e x (qt * d.q) d.q 1)
  let ms := (List.range d.q).map (fun r =>
    (cols.map (fun c => (c.getD r []).headD .zero)).foldl nanMax (.inf true))
  let (ev, st) ← writeTo e (d.stream (bits w 89 8)) (qt * d.q) 0 (ms.map (fun m => [m]))
  e.modify (fun g => { g with
    rsu := (enum ms).foldl (fun t m =>
      tset t (qt * d.q + m.1) { rowState g (qt * d.q + m.1) with m := f32code m.2 }) g.rsu })
  pure (ev, st)

/-- Whether a finite word lies outside ±2^62 (R223). -/
def wordOver (x : AEl) : Bool := x.tag == 0 && decide (4611686018427387904 < x.v.toInt.natAbs)

/-- FIN (R109, R112, R223): the finalising read-out of an accumulate range. -/
def finBody : Body := fun e => do
  let d := e.j.desc
  let w := e.w
  let t := (tref w e.c.regs).toNat
  match d.stream (bits w 65 8), d.stream (bits w 97 8) with
  | some x, some y =>
    let n := tileRows d x.use
    let (r0, c0) := if x.use = uDKVACC then (t / 2 * n, t % 2 * d.dim) else (t * n, 0)
    let rows ← (List.range n).mapM (fun r => rowWords e.j e.g.epoch x (r0 + r) c0 d.dim)
    if y.use = uDQDEST then
      let lams ← (List.range n).mapM (fun r => rowScalar e uLSE (r0 + r))
      if e.j.via.isNone && e.j.progs.all (fun h => h.member == e.j.member) then
        countMaskedRows e ((enum lams).filterMap (fun l => if l.2 == .inf true then some (r0 + l.1) else none))
    let sat : List Ev := (enum rows).flatMap (fun r =>
      ((enum r.2).filter (fun v => wordOver v.2)).map (fun v => (4, r.1, v.1, 2)))
    let (ev, st) ← gradWrite e y r0 (rows.map (fun r => r.map (finalCV 2 (d.gridE (gradGrid y.use)))))
    pure (sat ++ ev, st)
  | _, _ => raise (plainFault stPROG_BAD)

/-- Rows of a stream that enter the D prologue, with the check of R35. -/
def checkedRow (e : Env) (x : Stream) (i : Nat) : Eff (List DV) := do
  let row ← rowVals e.j e.g.epoch x i 0 e.j.desc.dim
  match loadExceeds x.xbnd i [row.map (·.dv)] with
  | some (r, c) => raise ⟨stEXP_BOUND, x.sid, r, c⟩
  | none => pure (row.map (·.dv))

/-- A query tile of A64 words set to zero by a plain write, where there is such a stream (R107, R215). -/
def zeroRows (e : Env) (x : Option Stream) (r0 : Nat) : Eff (List Nat) :=
  match x with
  | none => pure []
  | some x => streamWrite (e.writer false) x ((List.range e.j.desc.q).map (fun r =>
      wordSpan e.j.desc x (r0 + r) 0 (List.replicate e.j.desc.dim AEl.zero)))

/-- DPRO (R97, R107): D of one query tile, and with ZDQ the matching DQ_ACC tile set to zero. -/
def dproBody : Body := fun e => do
  let d := e.j.desc
  let qt := (tref e.w e.c.regs).toNat
  let r0 := qt * d.q
  let st0 ← zeroRows e (if bit e.w 88 then d.byUse uDQACC else none) r0
  match d.byUse uDDEST, d.byUse uDO, d.byUse uO with
  | some y, some xd, some xo =>
    let vals ← (List.range d.q).mapM (fun r => do
      if r0 + r < d.p.qvalid then
        let a ← checkedRow e xd (r0 + r)
        let b ← checkedRow e xo (r0 + r)
        let v := elemSum d.eD (.fin 0) (a.map some, b.map some)
        pure (CV.rnd .e8m23 (finalCV 2 d.eD v.el))
      else pure (CV.of .zero))
    let (ev, st) ← writeTo e (some y) r0 0 (vals.map (fun v => [v.x]))
    pure (rowEvents (vals.map (fun v => [v])) ++ ev, st0 ++ st)
  | _, _, _ => pure ([], st0)

/-- ROWP (R140): a row pass over blocks of 64 rows. -/
def rowpBody : Body := fun e => do
  let d := e.j.desc
  let w := e.w
  let b0 := (tref w e.c.regs).toNat
  match d.stream (bits w 65 8), d.stream (bits w 73 8) with
  | some x, some y =>
    let outs ← (List.range (bits w 105 16)).mapM (fun k => do
      let r0 := (b0 + k) * 64
      let src ← streamRows e x r0 64 d.e.rowlen
      let gs ← optRows e (d.e.gmode != 0) uG r0 64 d.e.rowlen
      let rs ← optRows e (d.e.res != 0) uRES r0 64 d.e.rowlen
      let rows := (enum src).map (fun r =>
        epilogueRow d e.j.params (prologueRow d e.j.params 3 0 r.2) (gs.getD r.1 []) (rs.getD r.1 []))
      let (ev, st) ← writeTo e (some y) r0 0 (rows.map (fun row => row.map (·.x)))
      pure (rowEvents rows ++ ev, st))
    pure (outs.flatMap (·.1), outs.flatMap (·.2))
  | _, _ => raise (plainFault stPROG_BAD)

/-! PREF. -/

/-- Bytes read for a copy: the words, by byte offset in them, that are poisoned travel with them (R501). -/
structure Copied where
  data : List Byte
  tags : List (BitVec 2)
  bad : List Int
  deriving DecidableEq, Repr

/-- Reads n bytes of outside memory with their marks. -/
def copyOutside (e : Env) (sid space a n : Nat) (priv : Bool) : Eff Copied := do
  let s ← get
  let (s1, r) := extRead s e.g.ctx priv space a n
  set s1
  match r with
  | none => raise ⟨stRESOURCE, sid, 0, 0⟩
  | some (bs, pw) => pure ⟨bs, [], pw.map (fun w => ((8 * w : Nat) : Int) - (a : Int))⟩

/-- Reads a range of a stream for a copy. -/
def copyRead (e : Env) (x : Stream) (off n : Nat) : Eff Copied := do
  match x.space with
  | 1 => copyOutside e x.sid 0 (x.base + off) n false
  | 4 => copyOutside e x.sid 1 (x.base + off) n false
  | _ =>
    let (bs, tags) ← streamRead e.g.ctx e.g.epoch x off n
    pure ⟨bs, tags, []⟩

/-- Writes a copy to a range of a stream (R204, R501). -/
def copyWrite (e : Env) (y : Stream) (off : Nat) (c : Copied) : Eff (List Nat) := do
  let n := c.data.length
  match y.space with
  | 0 =>
    let tags := if y.fmt = 10 then c.tags else []
    liftStep y.sid (fun s => terWrite s e.g.ctx (y.base + off) c.data tags)
    modifyThe State (markBad e.g.ctx (y.base + off) n c.bad)
    pure []
  | 3 =>
    let s ← get
    let ps := landParts (getCtx s e.g.ctx).landing (y.base + off) n
    let rs ← ps.mapM (fun p => do
      let a0 := p.start + p.inner
      let ys ← (cutAt (entryLimit s (e.writer true) p) (p.len / 32768 + 2) a0 p.len).mapM (fun k =>
        let rel := k.1 - (y.base + off)
        landChunk (e.writer true) y false false p k.1 ((c.data.drop rel).take k.2)
          (if y.fmt = 10 then (c.tags.drop (rel / 8)).take (k.2 / 8) else [])
          (c.bad.map (fun b => b - (rel : Int))))
      pure ys.flatten)
    pure rs.flatten
  | sp =>
    let space := if sp = 1 then 0 else 1
    let s ← get
    let (s1, ok) := extWrite s e.g.ctx false space (y.base + off) c.data (badWords (y.base + off) n c.bad) false
    set s1
    if ok then pure [] else raise ⟨stRESOURCE, y.sid, 0, 0⟩

/-- Whether byte i of a plot image (R232) belongs to a slot below VLEN, counted from the plot's first slot. -/
def plotLive (fmt dim vlen0 i : Nat) : Bool :=
  let w := plotW fmt dim
  if i < 128 * w then decide (i / Nat.max w 1 < vlen0)
  else if i < 256 * w then decide ((i - 128 * w) / Nat.max w 1 < vlen0)
  else if i < 256 * w + 4 * dim then decide ((i - 256 * w) / Nat.max (dim / 32) 1 < vlen0)
  else decide ((i - 256 * w - 4 * dim) / Nat.max dim 1 * 32 < vlen0)

/-- A plot image with every slot at or above VLEN set to zero with its scale bytes, which carry no poison (R251,
R258). -/
def plotImage (fmt dim vlen0 : Nat) (c : Copied) : Copied :=
  { c with
    data := (enum c.data).map (fun e => if plotLive fmt dim vlen0 e.1 then e.2 else 0)
    bad := c.bad.filter (fun b => (List.range 8).any (fun i => plotLive fmt dim vlen0 (b.toNat + i))) }

/-- Copies the plots of a SPACE 2 stream that tokens [r0, r0 + n) reach, as whole images (R258): one chunk for each, two
over a PL2 path when the image is longer than 32 KiB (R292). -/
def copyPlots (e : Env) (x y : Stream) (r0 n : Nat) : Eff (List Nat) := do
  let d := e.j.desc
  let cls := classBytes (plotClass x.fmt d.dim)
  let len := plotBytes x.fmt d.dim
  let vlen := ((e.j.snaps.find? (fun k => k.sid == x.sid)).map (fun k => k.vlen)).getD 0
  let rs ← (blocksOf r0 n).mapM (fun b => do
    let c ← if b * 128 < vlen then do
        modifyThe State (fun s => beginXfers 1 (descLookup (x.base % 2 ^ 18) s))
        let a ← plotOf x.sid (x.base % 2 ^ 18) x.layer x.kvg b
        copyOutside e x.sid 0 a len true
      else pure ⟨List.replicate len 0, [], []⟩
    let img := plotImage x.fmt d.dim (vlen - b * 128) c
    if y.space = 3 then
      let s ← get
      let ps := (landParts (getCtx s e.g.ctx).landing (y.base + b * cls) len).take 1
      let ys ← ps.mapM (fun p => do
        let lim := entryLimit s (e.writer true) p
        let cuts := if lim < len then [(0, lim), (lim, len - lim)] else [(0, len)]
        let zs ← cuts.mapM (fun k => landChunk (e.writer true) y false true p (p.start + p.inner + k.1)
          ((img.data.drop k.1).take k.2) [] (img.bad.map (fun b => b - (k.1 : Int))))
        pure zs.flatten)
      pure ys.flatten
    else copyWrite e y (b * cls) img)
  pure rs.flatten

/-- PREF (R178, R258, R501): a copy of a stream range, by rows or plot images, without conversion. -/
def prefBody : Body := fun e => do
  let d := e.j.desc
  let w := e.w
  match d.stream (bits w 65 8), d.stream (bits w 73 8) with
  | some x, some y =>
    let rows := tileRows d x.use
    let r0 := (tref w e.c.regs).toNat * rows
    let n := bits w 105 16 * rows
    if x.space = 2 then pure ([], ← copyPlots e x y r0 n)
    else
      let u := unitRows d x
      let first := r0 / u
      let last := (r0 + n - 1) / u
      let ub := unitBytes d x
      let sx := unitStride d x
      let sy := unitStride d y
      if sx = ub ∧ sy = ub then
        let c ← copyRead e x (first * sx) ((last + 1 - first) * ub)
        pure ([], ← copyWrite e y (first * sy) c)
      else
        let rs ← (List.range (last + 1 - first)).mapM (fun i => do
          let c ← copyRead e x ((first + i) * sx) ub
          copyWrite e y ((first + i) * sy) c)
        pure ([], rs.flatten)
  | _, _ => raise (plainFault stPROG_BAD)

end Sys2Proof.Machine
end

