-- ==== Sys2Proof/Machine/Sequencer.lean ====
section
/-!
DEFINITION. The tile sequencer (R117, R160, R176 to R189, R197 to R200, R395 to R402, R499): programs start, commands are
dispatched, issued and retired, programs are suspended and resumed, passes are checked, remote tokens arrive.
-/
namespace Sys2Proof.Machine

/-! Dispatch (R180, R181, R188, R200). -/

/-- The program in a slot that has not halted or ended. -/
def liveProg (s : State) (p : Nat) (q : PSlot) : Option Prog :=
  (getProg s p q).filter (fun g => !g.halted && !g.done)

/-- The slot whose turn it is: the other one when the turn's slot holds no live program (R188). -/
def turnOf (s : State) (p : Nat) : PSlot :=
  let t : PSlot := if (getPav s p).turnB then .b else .a
  if (liveProg s p t).isSome then t else otherSlot t

/-- WAIT, TOKADD, EPOCH and END stop dispatch until they issue (R181). -/
def stopsDispatch (g : Prog) : Bool :=
  (tget g.queues 4 []).any (fun c =>
    let o := cOpc c.word.toNat
    o == oTOKADD || o == oWAIT || o == oEPOCH || o == oEND)

/-- The checks that a command fails at its fetch: an unknown opcode, END out of place, a LOOP that breaks R180. -/
def fetchOk (g : Prog) (w : Nat) : Bool :=
  opcKnown (cOpc w) && (cOpc w == oEND) == (g.tpc == g.hdr.ncmd + 1) &&
    (cOpc w != oLOOP || (fieldsOk w && loopFits g.hdr.ncmd g.tpc w g.loops))

/-- A program with a command put into its queue, its loops stepped and its TPC moved on (R180, R181). -/
def enqueue (w : Nat) (g : Prog) : Prog :=
  let regs := loopRegs g.loops
  let k := queueOf w
  let loops := if cOpc w = oLOOP then ⟨g.tpc, bits w 92 2, 0, bits w 64 16, bits w 80 12⟩ :: g.loops else g.loops
  let next := nextTpc (g.tpc + 1) loops
  { g with
    queues := tset g.queues k (tget g.queues k [] ++ [⟨g.nextNum, g.qdisp, g.tpc, BitVec.ofNat 128 w, regs⟩])
    nextNum := g.nextNum + 1
    lastTpc := g.tpc
    tpc := next.1
    loops := next.2
    slotStop := cSlot w
    qdisp := if cOpc w = oSETQ then (tref w regs).toNat else g.qdisp }

/-- Fetches and dispatches the next command of the program in a slot; a queue of 8 takes no more (R181, R200). -/
def dispatchFrom (p : Nat) (q : PSlot) (g : Prog) (s : State) : State :=
  if stopsDispatch g then s
  else
    match terRead s g.ctx (g.hdr.addr + 16 * g.tpc) 16 with
    | (s1, .error f) => haltProg p g g.tpc f s1
    | (s1, .ok (bs, _)) =>
      let w := leNat bs
      if !fetchOk g w then haltProg p g g.tpc (plainFault stPROG_BAD) s1
      else if 8 ≤ (tget g.queues (queueOf w) []).length then s
      else
        setProg p q (some (enqueue w g))
          (modPav p (fun v => { v with turnB := match q with
            | .a => false
            | .b => true }) s1)

/-- Whether a program has a product in an array (R188). -/
def hasProduct (g : Prog) : Bool := g.issued.any (fun i => cOpc i.cmd.word.toNat == oMMA)

/-- Whether dispatch stands still: an ACLK change is in progress (R434), or the queue that holds the Pavilion's faults
and events while its Kiosk restarts is full (R381). -/
def dispatchHeld (s : State) (p : Nat) : Bool := s.power.aclkChg || 64 ≤ (getPav s p).kq

/-- One dispatch of a Pavilion: after a SLOT command, from the other program once no product is in an array, and from it
alone then (R188). -/
def dispatchStep (p : Nat) (s : State) : State :=
  let q := turnOf s p
  match liveProg s p q with
  | none => s
  | some g =>
    if dispatchHeld s p then s
    else if !g.slotStop then dispatchFrom p q g s
    else match liveProg s p (otherSlot q) with
      | none => dispatchFrom p q g s
      | some h =>
        if hasProduct g then s
        else dispatchFrom p (otherSlot q) h (modPav p (fun v => { v with turnB := !v.turnB })
          (setProg p q (some { g with slotStop := false }) s))

/-- COMMAND_DISPATCH (R181). -/
def execCommandDispatch (p : PavId) (s : State) : Result := live (dispatchStep p.val) s

/-! Issue: each unit's commands (R178). -/

/-- LOAD. -/
def execLoad (p : PavId) (q : PSlot) (s : State) : Result := live (issueOp p.val q 3 oLOAD loadBody) s

/-- MMA on an array. -/
def execMma (p : PavId) (q : PSlot) (arr : Fin 2) (s : State) : Result := live (issueOp p.val q arr.val oMMA mmaBody) s

/-- DRAIN. -/
def execDrain (p : PavId) (q : PSlot) (s : State) : Result := live (issueOp p.val q 2 oDRAIN drainBody) s

/-- EPI. -/
def execEpi (p : PavId) (q : PSlot) (s : State) : Result := live (issueOp p.val q 2 oEPI epiBody) s

/-- ACCW. -/
def execAccw (p : PavId) (q : PSlot) (s : State) : Result := live (issueOp p.val q 3 oACCW accwBody) s

/-- PART. -/
def execPart (p : PavId) (q : PSlot) (s : State) : Result := live (issueOp p.val q 3 oPART partBody) s

/-- COMB. -/
def execComb (p : PavId) (q : PSlot) (s : State) : Result := live (issueOp p.val q 2 oCOMB combBody) s

/-- MAXC. -/
def execMaxc (p : PavId) (q : PSlot) (s : State) : Result := live (issueOp p.val q 2 oMAXC maxcBody) s

/-- FIN. -/
def execFin (p : PavId) (q : PSlot) (s : State) : Result := live (issueOp p.val q 2 oFIN finBody) s

/-- SETQ. -/
def execSetq (p : PavId) (q : PSlot) (s : State) : Result := live (issueOp p.val q 2 oSETQ setqBody) s

/-- DPRO. -/
def execDpro (p : PavId) (q : PSlot) (s : State) : Result := live (issueOp p.val q 2 oDPRO dproBody) s

/-- ROWP. -/
def execRowp (p : PavId) (q : PSlot) (s : State) : Result := live (issueOp p.val q 2 oROWP rowpBody) s

/-- PREF. -/
def execPref (p : PavId) (q : PSlot) (s : State) : Result := live (issueOp p.val q 3 oPREF prefBody) s

/-- ZACC on an array. -/
def execZacc (p : PavId) (q : PSlot) (arr : Fin 2) (s : State) : Result := live (issueOp p.val q arr.val oZACC zaccBody) s

/-- FLAGCLR clears flag FLAG + L[FLX] (R179, R186). -/
def flagclrBody : Body := fun e => do
  modifyThe State (clearFlag e.g.ctx (clrFlag e.w e.c.regs))
  pure ([], [])

/-- FLAGCLR. -/
def execFlagclr (p : PavId) (q : PSlot) (s : State) : Result := live (issueOp p.val q 4 oFLAGCLR flagclrBody) s

/-- TOKADD: its retirement signals INC (R184). -/
def execTokadd (p : PavId) (q : PSlot) (s : State) : Result := live (issueOp p.val q 4 oTOKADD noBody) s

/-- WAIT: its header waits (R183). -/
def execWait (p : PavId) (q : PSlot) (s : State) : Result := live (issueOp p.val q 4 oWAIT noBody) s

/-- LOOP: dispatch has opened it (R180, R181); its header waits and signals as any other. -/
def execLoop (p : PavId) (q : PSlot) (s : State) : Result := live (issueOp p.val q 4 oLOOP noBody) s

/-- EPOCH E (R197, R198): consecutive, with the program's own role valid in the new bank. -/
def epochBody : Body := fun e => do
  let ep := bits e.w 64 32
  let r := roleOf (getCtx (← get) e.g.ctx) ep e.g.hdr.role
  if ep != e.g.epoch + 1 || !r.valid then raise (plainFault stPROG_BAD)
  else
    e.modify (fun g => { g with epoch := ep, cseq := [] })
    modifyThe State (fun s => traceEv 2 1 e.g.ctx e.p 0 ep e.c.tpc (epochGrants e.g.ctx e.g.hdr.role ep s))
    pure ([], [])

/-- EPOCH. -/
def execEpoch (p : PavId) (q : PSlot) (s : State) : Result := live (issueOp p.val q 4 oEPOCH epochBody) s

/-- LEAVE CLASS (R187): a request ahead of need, or a release with CLASS 0. -/
def leaveBody : Body := fun e => do
  let cls := bits e.w 64 2
  e.modify (fun g => { g with leaveWant := cls })
  modifyThe State (if cls = 0 then lowerLeave e.p else requestLeave e.p cls)
  pure ([], [])

/-- LEAVE. -/
def execLeave (p : PavId) (q : PSlot) (s : State) : Result := live (issueOp p.val q 4 oLEAVE leaveBody) s

/-- An issued END retires, its signal fires and its program leaves the Pavilion (R184, R395, R488). -/
def finishProg (p : Nat) (q : PSlot) (s : State) : State :=
  match getProg s p q with
  | none => s
  | some g =>
    match g.issued.find? (fun i => cOpc i.cmd.word.toNat == oEND) with
    | none => s
    | some i =>
      let s1 := retireCmd p q i.cmd.num s
      if ((getProg s1 p q).map (·.halted)).getD true then s1
      else clearProg p q (modJob g.ctx g.jobseq (fun j => { j with ended := j.ended ++ [g.idx] }) s1)

/-- END. -/
def execEnd (p : PavId) (q : PSlot) (s : State) : Result :=
  live (fun s => finishProg p.val q (issueOp p.val q 4 oEND noBody s)) s

/-- COMMAND_RETIRE (R184). -/
def execCommandRetire (p : PavId) (q : PSlot) (num : Nat) (s : State) : Result := live (retireCmd p.val q num) s

/-! Waiting too long, and remote signals. -/

/-- Whether some program of a job is suspended (R402). -/
def jobSuspended (s : State) (c : Nat) (seq : BitVec 32) : Bool :=
  s.pavs.any (fun e => e.2.saved.any (fun v => v.prog.ctx == c && v.prog.jobseq == seq))

/-- The head of a queue has waited WAIT_DL on a token, a flag, leave or the scoreboard (R189). -/
def timeoutHead (p : Nat) (q : PSlot) (k : Nat) (s : State) : State :=
  match liveProg s p q with
  | none => s
  | some g =>
    match headOf g k, findJob s g.ctx g.jobseq with
    | some c, some j =>
      if headWait s p j g c = 0 || jobSuspended s g.ctx g.jobseq then s
      else haltProg p g c.tpc (plainFault stWAIT_TIMEOUT) s
    | _, _ => s

/-- WAIT_TIMEOUT (R189). -/
def execWaitTimeout (p : PavId) (q : PSlot) (queue : Fin 5) (s : State) : Result :=
  live (timeoutHead p.val q queue.val) s

/-- A token signal from another instance (R184, R197, R289): added when its tag is the receiver's role epoch, bounced
otherwise. -/
def tokenArrives (c role : Nat) (repoch : BitVec 32) (tok inc : Nat) (supath : UPath) (s : State) : State :=
  match roleHolder s c role none with
  | none => s
  | some (j, h, ep) =>
    let here := (roleOf (getCtx s c) ep role).repoch
    if here = repoch then addToken h j tok inc s
    else emit (.tokenBounce supath c role here) (modCounts c (fun k => { k with misroutedIn := satInc k.misroutedIn }) s)

/-- REMOTE_TOKEN_ARRIVAL (R197). -/
def execRemoteTokenArrival (c : CtxId) (role : Fin 4096) (repoch : BitVec 32) (tok : Fin 64) (inc : Fin 256)
    (_srole : Fin 4096) (supath : UPath) (s : State) : Result :=
  live (tokenArrives c.val role.val repoch tok.val inc.val supath) s

/-! Starting a program (R117, R141, R160, R398). -/

/-- A job's image as R160 compares images: address and CRC field; none where it names none. -/
def imageKey (j : Job) : Option (Nat × Nat) :=
  if j.desc.sfuImage = 0 then none else some (j.desc.sfuImage, leNat ((j.params.image.drop 8).take 4))

/-- Whether a program can be held beside an occupant: one forward and one backward job of different contexts with
disjoint masks and one image (R117, R160). -/
def fitsBeside (s : State) (g : Prog) (j : Job) (h : ProgHdr) : Bool :=
  match findJob s g.ctx g.jobseq with
  | none => false
  | some k =>
    g.ctx != j.ctx && ((g.jtype == 1 && j.desc.jtype == 2) || (g.jtype == 2 && j.desc.jtype == 1)) &&
      g.hdr.acc0 &&& h.acc0 == 0 && g.hdr.acc1 &&& h.acc1 == 0 && g.hdr.feed &&& h.feed == 0 && imageKey k == imageKey j

/-- Whether a Pavilion with these occupants can hold a program (R398). -/
def canHold (s : State) (occ : List Prog) (j : Job) (h : ProgHdr) : Bool :=
  match occ with
  | [] => true
  | [g] => fitsBeside s g j h
  | _ => false

/-- The programs that Pavilion p holds. -/
def occupants (s : State) (p : Nat) : List Prog := [(getPav s p).progA, (getPav s p).progB].filterMap id

/-- The slot that a program enters: PROGA when it is free, otherwise PROGB (R488). -/
def entrySlot (s : State) (p : Nat) : PSlot := if (getPav s p).progA.isNone then .a else .b

/-- Reads the parameter vectors of a job (R125, R141). -/
def readVecs (c : Nat) (j : Job) : Eff (List (Nat × Nat × List (BitVec 32))) :=
  (j.desc.streams.filter (fun x => x.use == uNW || x.use == uNB)).mapM (fun x => do
    let n := rowElems j.desc x
    let (bs, _) ← streamRead c j.desc.epoch0 x 0 (4 * n)
    pure (x.use, x.qual, (leWords 4 n bs).map (BitVec.ofNat 32)))

/-- A program at its first command (R176, R183, R198). -/
def newProg (s : State) (j : Job) (idx : Nat) (h : ProgHdr) : Prog :=
  { ctx := j.ctx, jobseq := j.jobseq, idx := idx, jtype := j.desc.jtype, hdr := h, tpc := 2, lastTpc := 0, users := []
    epoch := j.desc.epoch0, nextNum := 0, slotStop := false, halted := false, done := false, loops := []
    tok := tget j.preTok idx [], queues := [], issued := [], acc := [], feed := [], resident := [], fifo := [], accG := [], accN := []
    qdisp := 0, qtile := 0, rsu := [], pf := [], cseq := [], leaveWant := 0, startedAt := s.sys.time }

/-- Puts a program of a job into its Pavilion; its landing entries grant their first credits (R279). -/
def enterProg (p : Nat) (j : Job) (idx : Nat) (h : ProgHdr) (s : State) : State :=
  let s1 := setProg p (entrySlot s p) (some (newProg s j idx h)) s
  startGrants j.ctx h.role j.desc.epoch0 (modJob j.ctx j.jobseq (fun j => { j with started := j.started ++ [idx] }) s1)

/-- Fills the job's parameter store, then starts its program; a read that fails halts the job first. The vectors are
those of the admission, which a later write does not change (R141; log entry 14). -/
def fillAndEnter (p : Nat) (j : Job) (idx : Nat) (h : ProgHdr) (s : State) : State :=
  if j.paramsRead then enterProg p j idx h s
  else
    match (readVecs j.ctx j).exec s with
    | (.error f, s1) => haltJob j.ctx j.jobseq ⟨f.status, h.member, p, f.fsid, 0, f.det0, f.det1⟩ s1
    | (.ok vecs, s1) =>
      enterProg p j idx h (modJob j.ctx j.jobseq (fun j =>
        { j with params := { j.params with vecs := if j.params.vecs.isEmpty then vecs else j.params.vecs }, paramsRead := true }) s1)

/-- The head of a Pavilion's queue starts when the Pavilion can hold it and its Kiosk is not restarting (R381, R398). -/
def startHead (p : Nat) (s : State) : State :=
  match (getPav s p).waitq with
  | [] => s
  | (c, seq, idx) :: rest =>
    match findJob s c seq with
    | none => modPav p (fun v => { v with waitq := rest }) s
    | some j =>
      match j.progs[idx]? with
      | none => s
      | some h =>
        if coreState s (3 + p) != 0 || !j.untaken.isEmpty || !canHold s (occupants s p) j h then s
        else fillAndEnter p j idx h (modPav p (fun v => { v with waitq := rest }) s)

/-- PROGRAM_START (R176, R398). -/
def execProgramStart (p : PavId) (s : State) : Result := live (startHead p.val) s

/-! Suspending and resuming (R396 to R402). -/

def quantumUs (s : State) : Nat := bits s.sys.ctxswLo.toNat 0 16
def saveN (s : State) : Nat := bits s.sys.ctxswLo.toNat 16 9
def saveBase (s : State) : Nat := bits s.sys.ctxswHi.toNat 0 52 * 4096

/-- A save slot that no suspended program holds. -/
def freeSave (s : State) : Option Nat :=
  (List.range (Nat.min (saveN s) 256)).find? (fun k => !s.pavs.any (fun e => e.2.saved.any (fun v => v.slot == k)))

/-- Whether a program has a command dispatched that has not retired. -/
def hasWork (g : Prog) : Bool := g.queues.any (fun e => !e.2.isEmpty) || !g.issued.isEmpty

/-- Whether the next command to dispatch has its SLOT bit set (R398). -/
def nextIsSlot (s : State) (g : Prog) : Bool :=
  match (terRead s g.ctx (g.hdr.addr + 16 * g.tpc) 16).2 with
  | .ok (bs, _) => cSlot (leNat bs)
  | .error _ => false

/-- When a program was admitted: its place among the jobs. -/
def admitOrder (s : State) (g : Prog) : Nat :=
  (s.jobs.findIdx? (fun j => j.ctx == g.ctx && j.jobseq == g.jobseq)).getD s.jobs.length

/-- Whether the program in a slot can be suspended for the head of its Pavilion's queue (R398, R399 step 2). -/
def maySuspend (s : State) (p : Nat) (q : PSlot) : Bool :=
  match liveProg s p q, (getPav s p).waitq with
  | some g, (c, seq, idx) :: _ =>
    match findJob s c seq with
    | some j =>
      match j.progs[idx]? with
      | some h =>
        quantumUs s != 0 && j.untaken.isEmpty && c != g.ctx && (freeSave s).isSome && !hasWork g && nextIsSlot s g &&
          !canHold s (occupants s p) j h &&
          canHold s ([getProg s p (otherSlot q)].filterMap id) j h
      | none => false
    | none => false
  | _, _ => false

/-- Of two occupants that qualify, the one admitted earlier is suspended (R398). -/
def suspendFirst (s : State) (p : Nat) (q : PSlot) : Bool :=
  match getProg s p q, getProg s p (otherSlot q) with
  | some g, some h => !maySuspend s p (otherSlot q) || admitOrder s g ≤ admitOrder s h
  | _, _ => true

/-- The header of a save slot (R401). -/
def saveHeader (p : Nat) (g : Prog) : Nat :=
  let loop (i : Nat) (l : LoopEnt) : Nat :=
    (l.tpc + l.lreg * 2 ^ 24 + 2 ^ 26 + l.iter * 2 ^ 32) * 2 ^ (288 + 64 * i)
  let ls := g.loops.reverse
  g.ctx + p * 2 ^ 12 + g.hdr.member * 2 ^ 16 + g.idx * 2 ^ 32 + g.tpc * 2 ^ 64 + g.jobseq.toNat * 2 ^ 96 +
    g.epoch * 2 ^ 128 + g.hdr.acc0.toNat * 2 ^ 160 + g.hdr.acc1.toNat * 2 ^ 176 + g.hdr.feed.toNat * 2 ^ 192 +
    (tget g.fifo 0 []).length * 2 ^ 208 + (tget g.fifo 1 []).length * 2 ^ 211 + g.qtile * 2 ^ 256 +
    (((List.range ls.length).zip ls).map (fun e => loop e.1 e.2)).sum +
    (g.tok.map (fun e => e.2 * 2 ^ (1024 + 16 * e.1))).sum

/-- The tiles that a program's masks name, by 16·array + tile. -/
def maskTiles (g : Prog) : List Nat :=
  ((List.range 16).filter (fun t => g.hdr.acc0.getLsbD t)) ++
    ((List.range 16).filter (fun t => g.hdr.acc1.getLsbD t)).map (· + 16)

/-- An accumulator row of a tile, zero where nothing has been formed. -/
def savedRow (g : Prog) (t r : Nat) : AccRow := tget (tget g.acc t []) r AccRow.zero

/-- The writes of a suspension, as (offset in the slot, bytes): header, tiles, tag blocks, row block and RSU state
(R400, R401). -/
def saveWrites (p : Nat) (g : Prog) : List (Nat × List Byte) :=
  let rows : List Nat := List.range 64
  let tileBytes (t : Nat) : List Byte := rows.flatMap (fun r => (savedRow g t r).els.flatMap (fun a => leBytes 8 a.v.toNat))
  let tagBytes (t : Nat) : List Byte :=
    rows.flatMap (fun r => leBytes 16 ((savedRow g t r).els.foldr (fun a n => a.tag.toNat + n * 4) 0))
  let rowBytes (t : Nat) : List Byte :=
    rows.flatMap (fun r => leBytes 2 (toField 12 (savedRow g t r).e + (savedRow g t r).reps % 4 * 2 ^ 12))
  let rsu : List Byte := (List.range 256).flatMap (fun r =>
    let x := tget g.rsu r RowState.init
    leBytes 4 x.m.toNat ++ leBytes 4 x.l.toNat ++ leBytes 4 x.c.toNat ++ leBytes 4 0)
  let feed (e : Nat) : List Byte :=
    match tget? g.feed e with
    | none => []
    | some f =>
      let w := if f.fmt ≤ 1 then 2 else 1
      f.rows.flatMap (fun r => r.flatMap (fun x => leBytes w x.code.toNat))
  (0, leBytes 4096 (saveHeader p g)) ::
    ((maskTiles g).map (fun t => (0x1000 + t * 0x8000, tileBytes t)) ++
      (maskTiles g).map (fun t => (0x101000 + t * 1024, tagBytes t)) ++
      [(0x109000, (List.range 32).flatMap rowBytes), (0x10A000, rsu)] ++
      ((List.range 16).filter (fun e => g.hdr.feed.getLsbD e)).map (fun e => (0x10B000 + e * 0x2000, feed e)) ++
      [(0x1FF000, List.replicate 4096 0)])

/-- The SFU image of a program's job, as its save area holds it: 16 KiB (R161, R400). -/
def savedImage (s : State) (g : Prog) : List Byte :=
  let bs := ((findJob s g.ctx g.jobseq).map (·.params.image)).getD []
  (bs ++ List.replicate (0x4000 - bs.length) 0).take 0x4000

/-- Writes a save slot to stack memory, as Ixdon's own traffic (R393, R397, R400). DESIGN CHOICE: the operand buffers
and the parameter store, whose inner layout R400 does not give, are written as free bytes (log entry 117). -/
def writeSave (slot p : Nat) (g : Prog) (s : State) : State :=
  let (operands, s1) := freeBytes 0xC0000 s
  let (store, s2) := freeBytes 0x10000 s1
  let areas : List (Nat × List Byte) :=
    saveWrites p g ++ [(0x12B000, operands), (0x1EB000, store), (0x1FB000, savedImage s g)]
  areas.foldl (fun s e =>
    (extWrite s 0 true 0 (saveBase s + slot * 0x200000 + e.1) e.2 [] false).1) s2

/-- Suspension (R399). -/
def suspendProg (p : Nat) (q : PSlot) (s : State) : State :=
  match getProg s p q, freeSave s with
  | some g, some k =>
    if maySuspend s p q && suspendFirst s p q then
      perfEvent p 0x11 1 (modPav p (fun v => { v with saved := v.saved ++ [⟨k, p, { g with slotStop := false }⟩] })
        (clearProg p q (writeSave k p g s)))
    else s
  | _, _ => s

/-- SUSPEND (R399). -/
def execSuspend (p : PavId) (q : PSlot) (s : State) : Result := live (suspendProg p.val q) s

/-- The areas of a save slot that a program's suspension writes, as (offset, length) (R400). -/
def saveAreas (g : Prog) : List (Nat × Nat) :=
  [(0, 0x1000)] ++ (maskTiles g).map (fun t => (0x1000 + t * 0x8000, 0x8000)) ++
    (maskTiles g).map (fun t => (0x101000 + t * 1024, 1024)) ++ [(0x109000, 0x1000), (0x10A000, 0x1000)] ++
    ((List.range 16).filter (fun e => g.hdr.feed.getLsbD e)).map (fun e => (0x10B000 + e * 0x2000, 0x2000)) ++
    [(0x12B000, 0xC0000), (0x1EB000, 0x10000), (0x1FB000, 0x4000), (0x1FF000, 0x1000)]

/-- The reads of a save slot (R399). -/
def readSave (slot : Nat) (g : Prog) (s : State) : State :=
  (saveAreas g).foldl (fun s e => mQueue false 0 true 0 (saveBase s + slot * 0x200000 + e.1) e.2 s) s

/-- Whether a word of a saved program reads as poisoned. -/
def savePoisoned (s : State) (slot : Nat) (g : Prog) : Bool :=
  (saveAreas g).any (fun e => !(extPoisonIn s 0 (saveBase s + slot * 0x200000 + e.1) e.2).isEmpty)

/-- Resumption of the program suspended first, as soon as the Pavilion can hold it (R399). A saved program of which a
word reads as poisoned halts as it comes back, with TERRACE_UE (R498, R501; log entry 121). -/
def resumeProg (p : Nat) (s : State) : State :=
  match (getPav s p).saved with
  | [] => s
  | v :: rest =>
    match findJob s v.prog.ctx v.prog.jobseq with
    | none => s
    | some j =>
      if coreState s (3 + p) != 0 || !canHold s (occupants s p) j v.prog.hdr then s
      else
        let s1 := setProg p (entrySlot s p) (some { v.prog with startedAt := s.sys.time })
          (modPav p (fun x => { x with saved := rest }) (readSave v.slot v.prog s))
        if savePoisoned s v.slot v.prog then haltProg p v.prog v.prog.tpc (plainFault stTERRACE_UE) (setErr ebM_POISON s1) else s1

/-- RESUME (R399). -/
def execResume (p : PavId) (s : State) : Result := live (resumeProg p.val) s

/-! Pass checks (R498, R499). -/

/-- The check of the oldest pass of an array ends. A pass that fails is repeated with the same outcome; its third
failure halts the context (R499). -/
def checkPass (p : Nat) (q : PSlot) (arr : Nat) (good : Bool) (s : State) : State :=
  let mine (x : Pass) : Bool := x.q == q && x.arr == arr
  match (getPav s p).passes.find? mine with
  | none => s
  | some x =>
    let others := (getPav s p).passes.filter (fun y => !(mine y && y.num == x.num))
    if good then modPav p (fun v => { v with passes := others }) s
    else if x.fails < 2 then
      perfEvent p 0x0B 1 (modPav p (fun v => { v with passes := v.passes.map (fun y =>
        if mine y && y.num == x.num then { y with fails := y.fails + 1 } else y) }) s)
    else
      let s1 := modPav p (fun v => { v with passes := others }) s
      match getProg s1 p q with
      | none => s1
      | some g =>
        let tpc := ((g.issued.find? (fun i => i.cmd.num == x.num)).map (fun i => i.cmd.tpc)).getD g.lastTpc
        let restored := { g with acc := x.before.foldl (fun t e => tset t e.1 e.2) g.acc }
        datapathUe p restored tpc (setProg p q (some restored) s1)

/-- PASS_CHECK (R499). -/
def execPassCheck (p : PavId) (q : PSlot) (arr : Fin 2) (good : Bool) (s : State) : Result :=
  live (checkPass p.val q arr.val good) s

end Sys2Proof.Machine
end

