-- ==== Sys2Proof/Machine/Admission.lean ====
section
/-!
DEFINITION. Admission's reads and the checks on a descriptor (R511, checks 1 to 4 of R199, R166).
-/
namespace Sys2Proof.Machine

/-! Reads (R511). -/

/-- A program as admission reads it: its index, header, whether the table entry's and header's reserved bits are 0, and
its commands. -/
structure PProg where
  idx : Nat
  hdr : ProgHdr
  clean : Bool
  cmds : List Nat
  deriving DecidableEq, Repr

/-- A read of a context's Terrace view. -/
def viewRead (c off n : Nat) : Eff (List Byte) := do
  let r ← liftStep 255 (fun s => terRead s c off n)
  pure r.1

/-- A read of host or stack memory on a context's behalf. -/
def memFetch (c space a n : Nat) : Eff (List Byte) := do
  let (s1, r) := fetchMem (← get) c false space a n
  set s1
  match r with
  | some bs => pure bs
  | none => raise (plainFault stRESOURCE)

/-- The blocks of a descriptor at a host address (R168). -/
def readBlocks (c desc : Nat) : Eff (List Nat) := do
  let h ← memFetch c 1 desc 64
  let n := bits (leNat h) 12 8
  let rest ← memFetch c 1 (desc + 64) (64 * n)
  pure (leNat h :: leWords 64 n rest)

/-- The program that a table entry names (R176). Every program of the job is read at its address in this instance's
view of the context, those of other members too (R511; log entry 40). -/
def progAt (c n e : Nat) : Eff PProg := do
  let addr := bits e 0 64
  let h := leNat (← viewRead c addr 32)
  let hdr := parseHdr addr (bits e 64 16) h
  let bs ← viewRead c (addr + 32) (16 * hdr.ncmd)
  pure ⟨n, hdr, bits e 80 48 == 0 && bits h 88 8 == 0 && bits h 160 96 == 0, leWords 16 hdr.ncmd bs⟩

/-- Program n of a table. -/
def readProg (c base n : Nat) : Eff PProg := do progAt c n (leNat (← viewRead c (base + 16 * n) 16))

def readProgs (c base n : Nat) : Eff (List PProg) := (List.range n).mapM (readProg c base)

/-- The SEG_TABLE's entries (R74). -/
def readSeg (c : Nat) (d : Desc) : Eff (List Nat) := do
  match d.byUse uSEG with
  | none => pure []
  | some x =>
    let (bs, _) ← streamRead c d.epoch0 x 0 x.length
    pure (leWords 4 (x.length / 4) bs)

/-- What admission judges: the descriptor as parsed, the programs of the job or of each bucket entry with its KPAD, the
image and the segment table. -/
structure AdmIn where
  raw : RawDesc
  alts : List (Nat × List PProg)
  image : List Byte
  seg : List Nat
  deriving DecidableEq, Repr

/-- The reads of R511 for JOB_SUBMIT. -/
def readAdm (c desc : Nat) : Eff AdmIn := do
  let raw := parseDesc (← readBlocks c desc)
  let d := raw.desc
  let tabs := if d.buckets.isEmpty then [(d.p.kpad, d.progBase)]
    else d.buckets.map (fun b => (b.kpad, d.progBase + b.ptoff * 4096))
  let alts ← tabs.mapM (fun t => do pure (t.1, ← readProgs c t.2 d.nprog))
  let image ← if d.sfuImage = 0 then pure [] else viewRead c d.sfuImage 0x3870
  let seg ← readSeg c d
  pure ⟨raw, alts, image, seg⟩

/-! Check 2: BAD_DESCRIPTOR. -/

/-- A finite E8M23 code above 0. -/
def posFinite (c : BitVec 32) : Bool := (f32 c).isFin && !(f32 c).isZero && !(f32 c).isNeg

/-- A finite nonzero E8M23 code. -/
def nonzeroFinite (c : BitVec 32) : Bool := (f32 c).isFin && !(f32 c).isZero

/-- Whether ACT or EACT holds a usable code: 7 is reserved, and 8 to 15 need their function in the image (R122, R123).
-/
def actOk (image : List Byte) (a : Nat) : Bool :=
  a ≤ 6 || (8 ≤ a && !image.isEmpty && bit (leNat (image.take 16)) (32 + (a - 8)))

/-- The signed range of XBND and TIGHT_H (R35, R43). -/
def boundOk (x : Int) : Bool := decide (-1024 ≤ x) && decide (x ≤ 1023)

/-- The range of a row exponent (R41). -/
def expOk (e : Int) : Bool := decide (-2048 ≤ e) && decide (e ≤ 2047)

/-- ATT and EPI fields that only the other job type uses are 0 (R170). -/
def otherZero (d : Desc) : Bool :=
  let a := d.a
  if d.jtype = 1 then
    a.dsfeed == 0 && a.dMode == 0 && a.dqFmt == 0 && a.dkFmt == 0 && a.dvFmt == 0 && a.dqRopeInv == 0 && a.dkRopeInv == 0 &&
      a.dscale == 0 && a.kqDecl == 0
  else
    a.mode == 0 && a.splitRound == 0 && a.dump == 0 && a.dumpFmt == 0 && a.combine == 0 && a.chainDir == 0 &&
      a.stight == 0 && a.sTightH == 0 && a.nsplit == 0 && a.splitRank == 0 && a.chainStart == 0

/-- The extents of R66, for one KPAD; with buckets KVALID is judged by check 3. -/
def extentsOk (d : Desc) (kpads : List Nat) : Bool :=
  let p := d.p
  p.qvalid ≤ p.qpad && (!d.buckets.isEmpty || p.kvalid ≤ p.kpad) && p.qpad % d.q == 0 && kpads.all (fun k => k % d.k == 0)

/-- The conditions of R66, R83, R92 and R170 on a forward job. -/
def forwardOk (d : Desc) (kpads : List Nat) (fmask : BitVec 32) : Bool :=
  let a := d.a
  1 ≤ a.shape && a.shape ≤ 5 && a.dump ≤ 2 && a.dumpFmt ≤ 2 && a.combine ≤ 2 && 1 ≤ a.nsplit && a.nsplit ≤ 32768 &&
    a.splitRank < a.nsplit && a.chainStart < a.nsplit && (decide (1 < a.nsplit) == (a.combine != 0)) &&
    boundOk a.sTightH &&
    (a.mode == 0 || fmask.getLsbD 15) &&
    (a.splitRound == 0 || a.mode == 1 || (a.nsplit == 1 && kpads.all (fun k => k == d.k)))

/-- The conditions of R94 on a backward job apart from streams and exponents. -/
def backwardOk (d : Desc) : Bool :=
  let a := d.a
  (a.shape == 1 || (a.shape == 6 && a.hdim == 0)) && posFinite a.dscale && a.dqFmt ≤ 2 && a.dkFmt ≤ 2 && a.dvFmt ≤ 2 &&
    Nat.max d.p.qvalid 1 ≤ a.kqDecl

/-- The conditions of R123 that the whole job shares. -/
def ropeOk (d : Desc) : Bool :=
  let p := d.p
  p.rope ≤ 2 && (p.rope == 0 || (p.ropeDim % 2 == 0 && 2 ≤ p.ropeDim && p.ropeDim ≤ d.dim)) &&
    (p.ropeSegrel == 0 || (d.byUse uSEG).isSome) &&
    (p.ropeSrc == 0 || ((f32 p.ropeLb).isFin && (f32 p.ropeFs).isFin))

/-- The conditions of R123 on one prologue. -/
def proOk (d : Desc) (image : List Byte) (p : Pro) : Bool :=
  p.norm ≤ 2 && actOk image p.act && nonzeroFinite p.pscale && (p.qual != 3 || p.norm == 0) &&
    (p.norm == 0 || (1 ≤ p.normLen && p.normLen ≤ 65536 && p.headCol + d.dim ≤ p.normLen &&
      posFinite p.normEps && decide (-126 ≤ f32Log2 p.normEps))) &&
    (p.ropeOn == 0 || (p.qual ≤ 1 && d.p.rope != 0))

/-- The conditions of R131 and R140 on the epilogue. ENORM of an attention job is judged by check 7 alone (R137,
R199). -/
def epiOk (d : Desc) (image : List Byte) : Bool :=
  let e := d.e
  e.gmode ≤ 2 && actOk image e.eact && (d.jtype != 3 || e.enorm ≤ 2) && e.outFmt ≤ 9 && nonzeroFinite e.oscale &&
    (e.gmode != 2 || e.eact != 0) &&
    (if d.jtype = 3 then 1 ≤ e.rowlen && e.rowlen ≤ 65536 else e.rowlen == 0)

/-- The table of R74. -/
def segTableOk (d : Desc) (seg : List Nat) : Bool :=
  match d.byUse uSEG with
  | none => true
  | some x =>
    x.length % 4 == 0 && 1 ≤ seg.length && seg.length ≤ 4096 && seg.headD 0 ≤ d.p.qpos0 && seg.headD 0 ≤ d.p.kpos0 &&
      ((seg.zip (seg.drop 1)).all (fun e => decide (e.1 < e.2)))

/-- Whether a normalisation with a bit of AFFINE is in force for a source (R513). -/
def affineOn (d : Desc) (qual bit_ : Nat) (layerOnly : Bool) : Bool :=
  let p := d.pro qual
  let n := if qual = 3 then d.e.enorm else p.norm
  (if layerOnly then n == 2 else n != 0) && bit p.affine bit_

/-- Which job types carry a USE (R513). -/
def useAllowed (j use : Nat) : Bool :=
  match j with
  | 1 => use ≤ 2 || (7 ≤ use && use ≤ 12) || (14 ≤ use && use ≤ 18) || use == 26
  | 2 => use ≤ 6 || (9 ≤ use && use ≤ 12) || (19 ≤ use && use ≤ 24)
  | _ => use == 7 || use == 8 || (11 ≤ use && use ≤ 13) || use == 25

/-- The FMT of a USE (R513). -/
def useFmtOk (d : Desc) (use fmt : Nat) : Bool :=
  if use ≤ 2 ∨ use = 4 ∨ use = 7 ∨ use = 8 then 1 ≤ fmt && fmt ≤ 9
  else if use = 3 ∨ use = 13 then fmt ≤ 9
  else if use = 14 ∨ use = 18 ∨ use = 25 then fmt == d.e.outFmt
  else if use = 16 then fmt == (if d.a.mode = 1 then 10 else 0)
  else if use = 17 then fmt == d.a.dumpFmt
  else if use = 20 ∨ use = 21 then fmt == 10
  else if use = 22 then fmt == d.a.dqFmt
  else if use = 23 then fmt == d.a.dkFmt
  else if use = 24 then fmt == d.a.dvFmt
  else fmt == 0

/-- Whether a USE must be present (some true), absent (some false), or may be either (R513). -/
def useNeed (d : Desc) (use : Nat) : Option Bool :=
  let attn := d.jtype != 3
  match use with
  | 0 | 1 | 2 => some attn
  | 3 | 19 => if d.jtype = 2 then some (d.a.dMode == 0) else none
  | 6 => if d.jtype = 2 then some (d.a.dMode == 1) else none
  | 4 | 5 | 20 | 21 | 22 | 23 | 24 => if d.jtype = 2 then some true else none
  | 7 => if d.jtype = 2 then none else some (d.e.gmode != 0)
  | 8 => if d.jtype = 2 then none else some (d.e.res == 1)
  | 9 => if attn then some (bit d.p.mask 3) else none
  | 10 => if attn then some (bit d.p.mask 2 || d.p.ropeSegrel == 1) else none
  | 13 | 25 => if attn then none else some true
  | 14 => if d.jtype = 1 then some (d.a.dump != 2) else none
  | 16 => if d.jtype = 1 then some (decide (1 < d.a.nsplit) && (d.a.combine == 1 || d.a.mode == 1)) else none
  | 17 => if d.jtype = 1 then some (d.a.dump != 0) else none
  | 26 => if d.jtype = 1 then some (d.a.mode == 1) else none
  | _ => none

/-- How often a USE may appear (R174). -/
def useOnce (d : Desc) (use : Nat) : Bool :=
  let xs := d.streams.filter (fun x => x.use == use)
  if use = 16 ∨ use = 26 then true
  else if use = 11 ∨ use = 12 then (xs.map (fun x => x.qual)).eraseDups.length == xs.length
  else xs.length ≤ 1

/-- Presence of the parameter vectors (R513). -/
def vecsOk (d : Desc) : Bool :=
  [0, 1, 2, 3].all (fun q =>
    let own := if d.jtype = 3 then q == 3 else q ≤ 2
    let has (u : Nat) := d.streams.any (fun x => x.use == u && x.qual == q)
    has uNW == (own && affineOn d q 0 false) && has uNB == (own && affineOn d q 1 true))

/-- The STREAM blocks by R43, R174 and R513. -/
def streamOk1 (d : Desc) (x : Stream) : Bool :=
  x.use ≤ 26 && x.fmt ≤ 10 && x.space ≤ 4 && boundOk x.xbnd && boundOk x.tightH && useAllowed d.jtype x.use &&
    useFmtOk d x.use x.fmt && (x.use == uNW || x.use == uNB || x.qual == 0) &&
    (x.erule == 0 || (x.use == uODEST && d.jtype == 1 && d.a.mode == 0)) &&
    (x.space == 2 || (x.layer == 0 && x.kvg == 0)) &&
    (x.space != 2 || (x.use == uK || x.use == uV)) && (x.space != 2 || bits x.base 18 46 == 0)

/-- The rows that LSE_SRC and D_SRC must hold (R94). -/
def rowsHeld (d : Desc) (x : Stream) : Bool :=
  d.p.qpad == 0 || (d.p.qpad - 1) * unitStride d x + unitBytes d x ≤ x.length

/-- Row exponents of the job's accumulations (R41, R61, R84, R100). -/
def expsOk (d : Desc) : Bool :=
  if d.jtype = 1 then
    expOk (d.gridE 0) && expOk (d.gridE 6) && (d.a.mode == 0 || expOk (d.gridE 7))
  else if d.jtype = 2 then
    [0, 1, 3, 4, 5].all (fun g => expOk (d.gridE g)) && (d.a.dMode == 1 || expOk (d.gridE 2))
  else true

/-- A landing entry of a stream (R276, R278). -/
def streamLids (s : State) (c : Nat) (x : Stream) : List Landing :=
  if x.space = 3 then (landParts (getCtx s c).landing x.base (Nat.max x.length 1)).map (fun p => p.ent) else []

/-- Accumulated streams lie where Ixdon accumulates, and ACC entries are written from FMT 10 only (R278, R513). -/
def accPlaceOk (s : State) (c : Nat) (d : Desc) : Bool :=
  d.streams.all (fun x =>
    let es := streamLids s c x
    let accumulated := x.use == uDQACC || x.use == uDKVACC || (x.use == uPART && d.a.mode == 1)
    (!accumulated || x.space == 0 || (x.space == 3 && !es.isEmpty && es.all (fun e => e.acc))) &&
      (!(isDest x.use && x.fmt != 10) || es.all (fun e => !e.acc)))

/-- No destination overlaps another destination or a source (R66). -/
def overlapOk (s : State) (c : Nat) (d : Desc) : Bool :=
  let xs := (d.streams.filter (fun x => x.space != 2 && x.length != 0)).map (fun x =>
    (x.sid, isDest x.use, wholeLocs s c d.epoch0 x))
  xs.all (fun x => !x.2.1 || xs.all (fun y => x.1 == y.1 || !locsMeet x.2.2 y.2.2))

/-- The declared values behind an accumulate range's exponents (R100). -/
def accDeclared (d : Desc) (x : Stream) : List Int :=
  if x.use = uDQACC then
    [d.gridE 5, d.xb 1, d.xb 2, d.xb 4, d.xd, f32Log2 d.a.dscale, d.dim, Nat.max d.p.kvalid 1]
  else
    [d.gridE 4, d.gridE 3, d.xb 0, d.xb 2, d.xb 4, d.xd, f32Log2 d.a.dscale, d.dim, d.a.kqDecl]

/-- The accumulate ranges of a backward job. -/
def accStreams (d : Desc) : List Stream := d.streams.filter (fun x => x.use == uDQACC || x.use == uDKVACC)

/-- An accumulate range that overlaps one of a running job has the same declared values (R100). -/
def accSharedOk (s : State) (c : Nat) (d : Desc) : Bool :=
  (accStreams d).all (fun x => s.jobs.all (fun j => j.ctx != c || j.fault.isSome ||
    (accStreams j.desc).all (fun y =>
      !locsMeet ((wholeLocs s c d.epoch0 x).filter (fun l => l.1 == 0))
        ((wholeLocs s c j.desc.epoch0 y).filter (fun l => l.1 == 0)) ||
      (x.use == y.use && accDeclared d x == accDeclared j.desc y))))

/-- A sequence as a job of a context may name it (R252). -/
def seqUsable (s : State) (c seq : Nat) : Bool :=
  let d := seqDesc s seq
  bit d 12 && bits d 0 12 == c && !bit d 14 && !bit d 15 && !stackPoisoned s (seqDescAddr s seq) 64

/-- The check-2 part of R252. -/
def seqFormOk (s : State) (c : Nat) (d : Desc) (x : Stream) : Bool :=
  let q := seqDesc s (bits x.base 0 18)
  x.space != 2 || !seqUsable s c (bits x.base 0 18) ||
    (bits q 16 4 == x.fmt && bits q 20 3 == d.a.hdim && x.layer ≤ bits q 32 8 && x.kvg ≤ bits q 40 8)

/-- The buckets ascend strictly (R175). -/
def bucketsOk (d : Desc) : Bool := (d.buckets.zip (d.buckets.drop 1)).all (fun e => decide (e.1.kpad < e.2.kpad))

/-- Check 2 of R199. -/
def descOk (s : State) (c : Nat) (r : RawDesc) (image : List Byte) (seg : List Nat) : Bool :=
  let d := r.desc
  let kpads := if d.buckets.isEmpty then [d.p.kpad] else d.buckets.map (·.kpad)
  let attn := d.jtype != 3
  r.blocksOk && (!attn || (d.att.isSome && d.pos.isSome)) && (d.jtype == 2 || d.epi.isSome) && !d.streams.isEmpty &&
    (!attn || (d.a.hdim ≤ 4 && otherZero d && posFinite d.a.sigma && extentsOk d kpads && ropeOk d && bucketsOk d)) &&
    (d.jtype != 1 || forwardOk d kpads (features s)) && (d.jtype != 2 || backwardOk d) &&
    (d.sfuset == 0 || (features s).getLsbD 5) && d.pros.all (proOk d image) && (d.jtype == 2 || epiOk d image) &&
    segTableOk d seg && d.streams.all (streamOk1 d) && (List.range 27).all (useOnce d) && vecsOk d &&
    (List.range 27).all (fun u => match useNeed d u with
      | none => true
      | some b => (d.byUse u).isSome == b) &&
    (d.streams.filter (fun x => x.use == uLSE || x.use == uD)).all (rowsHeld d) && expsOk d && accPlaceOk s c d &&
    overlapOk s c d && accSharedOk s c d && d.streams.all (seqFormOk s c d)

/-! Check 4: the SFU image (R161 to R166). -/

/-- Whether a micro-instruction uses only what its opcode has (R162, R163). SPLIT reads IMM[1:0] alone, and its form 3
is none. -/
def microOk (slots w : Nat) : Bool :=
  let op := bits w 0 6
  let known := (1 ≤ op && op ≤ 0x10) || op == 0x1F
  known && (op != 0x0F || bit slots (bits w 15 3)) && (op != 0x10 || bits w 32 32 ≤ 7) && (op != 0x0D || bits w 32 2 ≤ 2)

/-- A slot descriptor that is loaded, and its segments' reserved bits (R161, R166). -/
def slotOk (img : List Byte) (k : Nat) : Bool :=
  let w := leNat ((img.drop (0x30 + 8 * k)).take 8)
  let wexp := sbits w 8 8
  1 ≤ bits w 0 8 && bits w 0 8 ≤ 128 && decide (-24 ≤ wexp) && decide (wexp ≤ 7) &&
    (f32 (BitVec.ofNat 32 (bits w 32 32))).isFin

/-- A defined function (R166). -/
def funOk (img : List Byte) (ninst f : Nat) : Bool :=
  let w := leNat ((img.drop (0x10 + 4 * f)).take 4)
  let entry := bits w 0 8
  let len := bits w 8 6
  let op (i : Nat) : Nat := bits (leNat ((img.drop (0x70 + 8 * (entry + i))).take 8)) 0 6
  1 ≤ len && len ≤ 32 && entry + len ≤ ninst &&
    (List.range len).all (fun i => (op i == 0x1F) == (i + 1 == len))

/-- R166 on an image. -/
def imageOk (img : List Byte) : Bool :=
  let h := leNat (img.take 16)
  let ninst := bits h 16 9
  let fns := bits h 32 8
  let slots := bits h 40 8
  bits h 0 16 == 1 && bits h 64 32 == crc32c ((img.drop 16).take 0x3860) && 1 ≤ ninst && ninst ≤ 256 &&
    zeroFields h [(25, 7), (48, 16), (96, 32)] &&
    (List.range 8).all (fun f =>
      bits (leNat ((img.drop (0x10 + 4 * f)).take 4)) 15 17 == 0 && (!bit fns f || funOk img ninst f)) &&
    (List.range 8).all (fun k =>
      bits (leNat ((img.drop (0x30 + 8 * k)).take 8)) 16 16 == 0 && (!bit slots k || slotOk img k)) &&
    (List.range 256).all (fun i => bits (leNat ((img.drop (0x70 + 8 * i)).take 8)) 19 13 == 0) &&
    (List.range ninst).all (fun i => microOk slots (leNat ((img.drop (0x70 + 8 * i)).take 8))) &&
    (List.range 1024).all (fun i => bits (leNat ((img.drop (0x870 + 12 * i)).take 12)) 84 12 == 0)

end Sys2Proof.Machine
end

