-- ==== Sys2Proof/Machine/Checks.lean ====
section
/-!
DEFINITION. Checks 5 to 14 of R199 on a job's programs.
-/
namespace Sys2Proof.Machine

/-- One issue of a command with its place in the program, the query tile in force and the epoch (R180, R198). -/
structure Iss where
  pos : Nat
  tpc : Nat
  w : Nat
  regs : List Nat
  qt : Nat
  epoch : Nat
  deriving DecidableEq, Repr

/-- Places, query tiles and epochs along an issue sequence. -/
def annotate : List Issue → Nat → Nat → Nat → List Iss
  | [], _, _, _ => []
  | i :: rest, pos, qt, ep =>
    let qt1 := if cOpc i.word = oSETQ then (tref i.word i.regs).toNat else qt
    let ep1 := if cOpc i.word = oEPOCH then bits i.word 64 32 else ep
    ⟨pos, i.tpc, i.word, i.regs, qt, ep⟩ :: annotate rest (pos + 1) qt1 ep1

/-- A program under check: its descriptor with the KPAD of its bucket entry, and its issues. -/
structure Scan where
  p : PProg
  d : Desc
  iss : List Iss
  deriving DecidableEq, Repr

def scanProg (d : Desc) (p : PProg) : Scan := ⟨p, d, annotate (expand p.cmds) 0 0 d.epoch0⟩

/-- A failure: program index, TPC. -/
abbrev Fail := Nat × Nat

/-- The failure of lowest program index, then lowest TPC (R199). -/
def minFail (fs : List Fail) : Option Fail :=
  fs.foldl (fun b f =>
    match b with
    | none => some f
    | some x => if f.1 < x.1 ∨ (f.1 = x.1 ∧ f.2 < x.2) then some f else some x) none

/-- A descriptor with the KPAD of a bucket entry (R195). -/
def Desc.withKpad (d : Desc) (k : Nat) : Desc := { d with pos := d.pos.map (fun p => { p with kpad := k }) }

/-! Check 5: PROG_BAD. -/

/-- TPCs of commands that consume a counter which an earlier command consumes from another queue. -/
def twoQueues : List (Nat × Nat) → List (Nat × Nat) → List Nat
  | _, [] => []
  | seen, (tpc, w) :: rest =>
    if waitsToken w then
      let k := queueOf w
      let more := twoQueues ((cWtok w, k) :: seen) rest
      if seen.any (fun e => e.1 == cWtok w && e.2 != k) then tpc :: more else more
    else twoQueues seen rest

/-- TPCs of EPOCH commands whose values are not EPOCH0 + 1, + 2 and so on (R198). -/
def epochErrs (iss : List Iss) : List Nat :=
  (iss.filter (fun i => cOpc i.w == oEPOCH && bits i.w 64 32 != i.epoch + 1)).map (·.tpc)

/-- TPCs of DMODE 4 DRAINs without an earlier DMODE 3 DRAIN of the same KT (R514). -/
def drainErrs (iss : List Iss) : List Nat :=
  (iss.filter (fun i => cOpc i.w == oDRAIN && bits i.w 75 3 == 4 &&
    !iss.any (fun k => k.pos < i.pos && cOpc k.w == oDRAIN && bits k.w 75 3 == 3 && tref k.w k.regs == tref i.w i.regs))).map
      (·.tpc)

/-- The part of check 2 on one program (R15): reserved fields and codes of its table entry, header and commands. -/
def reservedErrs (x : Scan) : List Nat :=
  (if x.p.clean then [] else [0]) ++ ((withTpc x.p.cmds).filter (fun e => !reservedOk e.2)).map (·.1)

/-- Check 5 on one program. -/
def progErrs (img : Stream → Bool) (x : Scan) : List Nat :=
  let cmds := x.p.cmds
  (if !x.p.clean || x.p.hdr.ncmd == 0 || x.p.hdr.ncmd == 2 ^ 24 - 1 then [0] else []) ++ endErrs cmds ++
    loopErrs (cmds.length + 1) (withTpc cmds) [] ++
    ((withTpc cmds).filter (fun e => !cmdOk x.d e.2)).map (·.1) ++
    twoQueues [] (withTpc cmds) ++ epochErrs x.iss ++ drainErrs x.iss ++
    (x.iss.filter (fun i => !cmdAt x.d img i.w i.regs i.qt)).map (·.tpc)

/-! Check 6: RESOURCE. -/

/-- The declared latency to a landing owner, when a path leads there (R263, R265). -/
def ownerLat (s : State) (u : UPath) : Nat :=
  match routeOf s u with
  | some (.path p) => bits (tget s.prom.paths p.val Link.down).cfg.toNat 16 9
  | _ => 0

/-- The long-haul bytes whose owners a path reaches, over every context (R287). -/
def longHaulBytes (s : State) (e0 : Nat) (p : LinkPort) : Nat :=
  (s.ctxs.flatMap (fun x => (x.2.landing.filter (fun e => e.2.valid && e.2.place == 1 &&
    !roleHere s (roleOf x.2 e0 e.2.owner) &&
    routeOf s (roleOf x.2 e0 e.2.owner).upath == some p)).map (fun e => nbufOf e.2 * e.2.len4k * 4096))).sum

/-- Whether the other end of a landing entry is reached over a PL2 path (R292). -/
def overPl2 (s : State) (r : Role) : Bool :=
  !roleHere s r && ((routeOf s r.upath).map (isPl2 s)).getD false

/-- R278, R287, R292 and R197 on one landing piece that a program reads or writes. -/
def landingOk (s : State) (c : Nat) (d : Desc) (role : Nat) (kind epoch : Nat) (e : Landing) : Bool :=
  let ctx := getCtx s c
  let owner := roleOf ctx epoch e.owner
  let sender := roleOf ctx epoch e.sender
  (if kind = 0 then e.owner == role else e.sender == role) &&
    (e.place == 0 || (features s).getLsbD 9) &&
    (epoch != d.epoch0 || (owner.valid && sender.valid)) &&
    (kind == 0 || roleHere s owner || ownerLat s owner.upath ≤ 20 || (e.place == 1 && e.nbufCode != 0)) &&
    (e.place == 0 || roleHere s owner || (match routeOf s owner.upath with
      | some (.path p) => decide (longHaulBytes s epoch (.path p) ≤ 2 ^ 32)
      | _ => true)) &&
    ((e.place == 0 && e.nbufCode == 0) || !overPl2 s (if kind = 0 then sender else owner))

/-- The landing pieces of an access. -/
def accPieces (s : State) (c : Nat) (a : Acc) : List LPart :=
  if a.x.space = 3 then
    (a.spans.getD []).flatMap (fun sp => landParts (getCtx s c).landing (a.x.base + sp.1) sp.2)
  else []

/-- Check 6 on one program of this member. -/
def resErrs (s : State) (c : Nat) (img : Stream → Bool) (x : Scan) : List Nat :=
  let ctx := getCtx s c
  let role := x.p.hdr.role
  let ok (r : Nat) : Bool := (roleOf ctx x.d.epoch0 r).valid
  (if ok role then [] else [0]) ++
    (x.iss.filter (fun i =>
      let as_ := cmdAccs x.d img i.w i.regs i.qt
      (cSkind i.w == 2 && i.epoch == x.d.epoch0 && !ok (cSdest i.w)) ||
      as_.any (fun a => (accPieces s c a).any (fun p => !landingOk s c x.d role a.kind i.epoch p.ent)) ||
      (cOpc i.w == oLOAD && as_.any (fun a => a.x.space == 2 && (a.spans.getD []).any (fun sp => x.d.p.kpad ≤ sp.1))) ||
      (cOpc i.w == oPREF && as_.any (fun a => a.kind == 0 && a.x.space == 2 &&
        x.d.p.kpad ≤ ((tref i.w i.regs).toNat + bits i.w 105 16 - 1) * tileRows x.d a.x.use)))).map
        (·.tpc)

/-- Whether a stream lies within the context's mappings and a named sequence may be read (R199, R207, R252, R394). -/
def streamHeld (s : State) (c kvalid : Nat) (x : Stream) : Bool :=
  let ctx := getCtx s c
  match x.space with
  | 0 => x.base + x.length ≤ viewLen ctx.regions
  | 1 => !reachesPrivate s x.base x.length && x.base + x.length ≤ 2 ^ 56
  | 3 => x.base + x.length ≤ landViewLen ctx.landing
  | 2 =>
    let seq := x.base % 2 ^ 18
    let q := seqDesc s seq
    seqUsable s c seq && bits q 288 16 != 65535 && kvalid ≤ seqVlen q x.layer
  | _ => x.base + x.length ≤ 2 ^ 56

/-- Streams that a program's commands access. -/
def scanStreams (img : Stream → Bool) (x : Scan) : List Stream :=
  (x.iss.flatMap (fun i => (cmdAccs x.d img i.w i.regs i.qt).map (·.x))).eraseDups

/-- Check 6 of R199, each program by the tables of the member that runs it (R343): a stream that only other members
access lies within their mappings, any other within those here. -/
def check6 (s : State) (c own : Nat) (d : Desc) (img : Stream → Bool) (xs : List Scan) : List Fail :=
  let far := xs.filter (fun x => x.p.hdr.member != own)
  let mine := (xs.filter (fun x => x.p.hdr.member == own)).flatMap (scanStreams img)
  let theirs := far.flatMap (scanStreams img)
  (if 16 * memberCount s < d.nprog then [(0, 0)] else []) ++
    (if (d.streams.filter (fun x => mine.contains x || !theirs.contains x)).all (streamHeld s c d.p.kvalid) then []
     else [(0, 0)]) ++
    xs.flatMap (fun x =>
      let t := memberState s c x.p.hdr.member
      (if memberCount s ≤ x.p.hdr.member then [(x.p.idx, 0)] else (resErrs t c img x).map (fun t => (x.p.idx, t))) ++
      (if x.p.hdr.member != own && (scanStreams img x).any (fun y => y.space != 2 && !streamHeld t c d.p.kvalid y) then
        [(0, 0)] else []))

/-! Checks 7 to 11. -/

/-- Extra operand streams (R139). -/
def extraStreams (d : Desc) : Nat :=
  (if d.e.gmode = 0 then 0 else 1) + (if d.e.res = 0 then 0 else 1) + (if bit d.p.mask 3 then 1 else 0)

/-- Bits set in a mask. -/
def popcount (m : BitVec 16) : Nat := ((List.range 16).filter (fun i => m.getLsbD i)).length

/-- The tiles and entries that R106 and R192 require of a program with products: Array 0, Array 1, feed. -/
def tileNeeds (d : Desc) : Nat × Nat × Nat :=
  let st := scoreTiles d
  let qd := ceilDiv (d.q * d.dim) 4096
  let kd := ceilDiv (d.k * d.dim) 4096
  if d.jtype = 1 then (2, qd + (if d.a.mode = 1 then ceilDiv d.q 64 else 0), 2 * st)
  else (3 * st + 2 * qd, st + 2 * kd, 6 * st)

/-- Check 9 on one program. -/
def capErrs (x : Scan) : List Nat :=
  let n := tileNeeds x.d
  let h := x.p.hdr
  let short := x.d.jtype != 3 && x.p.cmds.any (fun w => cOpc w == oMMA) &&
    (popcount h.acc0 < n.1 || popcount h.acc1 < n.2.1 || popcount h.feed < n.2.2)
  (if short then [0] else []) ++ (x.iss.filter (fun i => !masksHold x.d h i.w i.regs)).map (·.tpc)

/-- Check 10: two programs of one member on one Pavilion (R117). -/
def pavClash (xs : List Scan) : List Fail :=
  (xs.filter (fun x => xs.any (fun y => x.p.idx < y.p.idx && x.p.hdr.member == y.p.hdr.member &&
    x.p.hdr.pav == y.p.hdr.pav))).map (fun x => (x.p.idx, 0))

/-- Check 11: the image's range against the destinations (R160). -/
def imageClash (s : State) (c : Nat) (d : Desc) : Bool :=
  d.sfuImage != 0 && (d.streams.filter (fun x => isDest x.use)).any (fun x =>
    locsMeet (viewLocs (getCtx s c).regions d.sfuImage 0x3870) (wholeLocs s c d.epoch0 x))

/-! Checks 12 to 14. -/

/-- The plain writes of check 12: EPI, PART, COMB, FIN, ROWP, PREF and the dumps of DRAIN. -/
def plainWrite (w : Nat) (a : Acc) : Bool :=
  let o := cOpc w
  a.kind == 1 && (o == oEPI || o == oPART || o == oCOMB || o == oFIN || o == oROWP || o == oPREF ||
    (o == oDRAIN && a.x.use == uDUMP))

/-- A location of member i: the memories of two members are distinct, host memory apart. -/
def memberLoc (i : Nat) (l : Loc) : Loc := if 2 ≤ l.1 then l else (l.1 + 65536 * (i + 1), l.2)

/-- The member that a role names, if one of the binding does. -/
def roleMember (s : State) (r : Role) : Option Nat :=
  if !r.valid then none else (List.range (memberCount s)).find? (fun i => (memberState s 0 i).grove.upathSelf == r.upath)

/-- A landing piece that member m accesses, where its owner has it. -/
def pieceLocs (s : State) (c m : Nat) (d : Desc) (buf : Nat) (p : LPart) : List Loc :=
  let t := memberState s c m
  match roleMember s (roleOf (getCtx t c) d.epoch0 p.ent.owner) with
  | some k => (landLocs (memberState s c k) c d.epoch0 p buf).map (memberLoc k)
  | none => (landLocs t c d.epoch0 p buf).map (memberLoc m)

/-- The locations of an access at member m, in the landing buffers of its epoch. -/
def accLocs (s : State) (c m : Nat) (d : Desc) (i : Iss) (a : Acc) : List Loc :=
  let t := memberState s c m
  (a.spans.getD []).flatMap (fun sp =>
    if a.x.space = 2 then []
    else if a.x.space = 3 then
      (landParts (getCtx t c).landing (a.x.base + sp.1) sp.2).flatMap (fun p =>
        pieceLocs s c m d (i.epoch % nbufOf p.ent) p)
    else (streamLocs t c d.epoch0 allBufs a.x sp.1 sp.2).map (memberLoc m))

/-- What a program writes plainly: (place, TPC, locations). -/
def writesOf (s : State) (c : Nat) (img : Stream → Bool) (x : Scan) : List (Nat × Nat × List Loc) :=
  x.iss.flatMap (fun i => ((cmdAccs x.d img i.w i.regs i.qt).filter (plainWrite i.w)).map (fun a =>
    (i.pos, i.tpc, accLocs s c x.p.hdr.member x.d i a)))

/-- What a program reads. -/
def readsOf (s : State) (c : Nat) (img : Stream → Bool) (x : Scan) : List (Nat × Nat × List Loc) :=
  x.iss.flatMap (fun i => ((cmdAccs x.d img i.w i.regs i.qt).filter (fun a => a.kind == 0)).map (fun a =>
    (i.pos, i.tpc, accLocs s c x.p.hdr.member x.d i a)))

/-- Check 12. -/
def overlapErrs (s : State) (c : Nat) (img : Stream → Bool) (xs : List Scan) : List Fail :=
  xs.flatMap (fun x => (writesOf s c img x).filterMap (fun a =>
    if xs.any (fun y => x.p.idx < y.p.idx && (writesOf s c img y).any (fun b => locsMeet a.2.2 b.2.2))
    then some (x.p.idx, a.2.1) else none))

/-- A signal's name: (0, program, counter) or (1, flag, 0). -/
abbrev Sig := Nat × Nat × Nat

/-- Byte ranges that follow one another joined (R273). -/
def joinRanges : List (Nat × Nat) → List (Nat × Nat)
  | [] => []
  | a :: rest =>
    match joinRanges rest with
    | [] => [a]
    | b :: more => if a.1 + a.2 = b.1 then (a.1, a.2 + b.2) :: more else a :: b :: more

/-- The chunks of one issue by landing entry: how many for each LID (R273). -/
def chunkCounts (s : State) (c : Nat) (d : Desc) (img : Stream → Bool) (i : Iss) : List (Nat × Nat) :=
  let ctx := getCtx s c
  ((cmdAccs d img i.w i.regs i.qt).filter (fun a => a.kind != 0 && a.x.space == 3)).flatMap (fun a =>
    (joinRanges (a.spans.getD [])).flatMap (fun sp =>
      (landParts ctx.landing (a.x.base + sp.1) sp.2).map (fun p =>
        let lim := chunkLimit s (roleOf ctx i.epoch p.ent.owner).upath
        (p.lid, (cutAt lim (p.len / 32768 + 2) (p.start + p.inner) p.len).length))))

/-- The flags that a program's landing writes set, with the place of each (R282). -/
def landSignals (s : State) (c : Nat) (d : Desc) (img : Stream → Bool) :
    List Iss → Tbl Nat → Nat → List (Sig × Nat)
  | [], _, _ => []
  | i :: rest, seqs, ep =>
    let seqs0 := if i.epoch = ep then seqs else []
    let step (a : List (Sig × Nat) × Tbl Nat) (k : Nat × Nat) : List (Sig × Nat) × Tbl Nat :=
      let e := tget (getCtx s c).landing k.1 Landing.absent
      let n0 := tget a.2 k.1 0
      (a.1 ++ (List.range k.2).map (fun j => ((1, e.flag0 + (n0 + j) % 65536 % (e.flagnM1 + 1), 0), i.pos)),
        tset a.2 k.1 (n0 + k.2))
    let out := (chunkCounts s c d img i).foldl step ([], seqs0)
    out.1 ++ landSignals s c d img rest out.2 i.epoch

/-- The header signals of a program, each with its place and increment (R184). -/
def headSignals (xs : List Scan) (x : Scan) : List (Sig × Nat × Nat) :=
  x.iss.flatMap (fun i =>
    match cSkind i.w with
    | 1 => [((0, x.p.idx, cStok i.w), i.pos, tokenInc i.w)]
    | 2 => (xs.filter (fun y => y.p.hdr.role == cSdest i.w)).map (fun y => ((0, y.p.idx, cStok i.w), i.pos, tokenInc i.w))
    | 3 => [((1, setFlagOf i.w i.regs, 0), i.pos, 0)]
    | _ => [])

/-- What a program waits on, with the place of each wait (R183). -/
def waitsOf (x : Scan) : List (Sig × Nat) :=
  x.iss.flatMap (fun i =>
    (if waitsToken i.w then [(((0, x.p.idx, cWtok i.w) : Sig), i.pos)] else []) ++
      (if waitsFlag i.w then [(((1, waitFlag i.w i.regs, 0) : Sig), i.pos)] else []))

/-- Check 13 (UNORDERED). -/
def orderErrs (s : State) (c : Nat) (img : Stream → Bool) (xs : List Scan) : List Fail :=
  xs.flatMap (fun r =>
    let waits := waitsOf r
    let others := (xs.filter (fun y => y.p.idx != r.p.idx)).map (fun y =>
      (writesOf s c img y, (headSignals xs y).map (fun e => (e.1, e.2.1)) ++ landSignals (memberState s c y.p.hdr.member) c y.d img y.iss [] y.d.epoch0))
    (readsOf s c img r).filterMap (fun a =>
      let bad := others.any (fun o => o.1.any (fun b => locsMeet a.2.2 b.2.2 &&
        !waits.any (fun wt => wt.2 ≤ a.1 && o.2.any (fun sg => sg.1 == wt.1 && b.1 ≤ sg.2))))
      if bad then some (r.p.idx, a.2.1) else none))

/-- Check 14 (TOKEN_BALANCE). -/
def balanceErrs (xs : List Scan) : List Fail :=
  let sigs := xs.flatMap (headSignals xs)
  xs.flatMap (fun x => (List.range 64).filterMap (fun t =>
    let uses := x.iss.filter (fun i => waitsToken i.w && cWtok i.w == t)
    let units := (uses.map (fun i => tokenUnits i.w)).sum
    let got := ((sigs.filter (fun g => g.1 == (0, x.p.idx, t))).map (fun g => g.2.2)).sum
    if !x.p.hdr.tokExt.getLsbD t && got < units then
      some (x.p.idx, (uses.map (·.tpc)).foldl Nat.min (((uses.map (·.tpc)).headD 0)))
    else none))

/-! All checks in order. -/

/-- A refusal: status, program index, TPC. -/
abbrev Refused := Nat × Nat × Nat

/-- Fails with a status when a list of failures is not empty. -/
def failWith (st : Nat) (fs : List Fail) : Option Refused := (minFail fs).map (fun f => (st, f.1, f.2))

/-- Fails with a status on a condition that no program is tied to. -/
def failIf (st : Nat) (b : Bool) : Option Refused := if b then some (st, 0, 0) else none

/-- Whether a job asks for a feature that needs MB3 (R6, R83, R278, R341). -/
def needsMb3 (s : State) (c : Nat) (d : Desc) : Bool :=
  (getCtx s c).grove || (d.jtype == 1 && d.a.mode == 1) || d.streams.any (fun x => (streamLids s c x).any (fun e => e.place == 1))

/-- The programs of one bucket entry, or of the job, under check. -/
def scansOf (d : Desc) (alt : Nat × List PProg) : List Scan :=
  alt.2.map (scanProg (if d.buckets.isEmpty then d else d.withKpad alt.1))

/-- The image streams of a job. -/
def imgOf (s : State) (c : Nat) : Stream → Bool := plotImages s c

/-- The checks of R199 in order: the first that fails. -/
def admitChecks (s : State) (c own gen : Nat) (r : RawDesc) (i : AdmIn) : Option Refused :=
  let d := r.desc
  let alts := i.alts.map (scansOf d)
  let all := alts.flatten
  let img := imgOf s c
  let firstOf (f : List Scan → List Fail) : List Fail := alts.flatMap f
  let each (f : Scan → List Nat) : List Fail := all.flatMap (fun x => (f x).map (fun t => (x.p.idx, t)))
  (failIf stNEEDS_MB3 (gen < 3 && needsMb3 s c d)).or <|
  (failWith stBAD_DESCRIPTOR ((if descOk s c r i.image i.seg then [] else [(0, 0)]) ++ each reservedErrs)).or <|
  (failIf stLEN_OVER_BUCKET (!d.buckets.isEmpty && d.buckets.all (fun b => b.kpad < d.p.kvalid))).or <|
  (failIf stSFU_IMAGE (d.sfuImage != 0 && !imageOk i.image)).or <|
  (failWith stPROG_BAD (each (progErrs img))).or <|
  (failWith stRESOURCE (firstOf (check6 s c own d img))).or <|
  (failIf stCHAIN_STAT (d.jtype == 1 && d.e.enorm != 0)).or <|
  (failIf stCHAIN_STREAMS (3 ≤ extraStreams d)).or <|
  (failWith stACC_CAPACITY (each capErrs)).or <|
  (failWith stACC_CONFLICT (firstOf pavClash)).or <|
  (failIf stSFU_CONFLICT (imageClash s c d)).or <|
  (failWith stWRITE_OVERLAP (firstOf (overlapErrs s c img))).or <|
  (failWith stUNORDERED (firstOf (orderErrs s c img))).or <|
  failWith stTOKEN_BALANCE (firstOf balanceErrs)

/-- The checks that a member repeats on a forwarded job: 5, 6, 9 and 10 (R343), and the comparison of its own accumulate
ranges (R100). -/
def memberChecks (s : State) (c own : Nat) (r : RawDesc) (i : AdmIn) : Option Refused :=
  let d := r.desc
  let xs := (i.alts.map (scansOf d)).flatten
  let img := imgOf s c
  (failIf stBAD_DESCRIPTOR (!accSharedOk s c d)).or <|
  (failWith stPROG_BAD (xs.flatMap (fun x => (progErrs img x).map (fun t => (x.p.idx, t))))).or <|
  (failWith stRESOURCE (check6 s c own { d with nprog := 0 } img xs)).or <|
  (failWith stACC_CAPACITY (xs.flatMap (fun x => (capErrs x).map (fun t => (x.p.idx, t))))).or <|
  failWith stACC_CONFLICT (pavClash xs)

end Sys2Proof.Machine
end

