-- ==== Sys2Proof/Machine/Jobs.lean ====
section
/-!
DEFINITION. A job from its message to its record: admission's commit (R199, R250, R343), the end of a job (R250, R360,
R363 to R365, R395), and CTX_RESUME (R369).
-/
namespace Sys2Proof.Machine

/-- A write of Ixdon's own to stack memory. -/
def stackPut (a : Nat) (bs : List Byte) (s : State) : State :=
  mQueue true 0 true 0 a bs.length (extPut 0 a bs [] false s)

/-- HOLDS of a sequence changed (R237, R250). -/
def setHolds (seq n : Nat) (s : State) : State := stackPut (seqDescAddr s seq + 36) (leBytes 2 n) s

def holdsOf (s : State) (seq : Nat) : Nat := bits (seqDesc s seq) 288 16

/-- The snapshot of each SPACE 2 stream (R250). -/
def snapsOf (s : State) (d : Desc) : List Snap :=
  (d.streams.filter (fun x => x.space == 2)).map (fun x =>
    let seq := x.base % 2 ^ 18
    let q := seqDesc s seq
    ⟨x.sid, seq, BitVec.ofNat 32 (bits q 160 32), seqVlen q x.layer⟩)

/-- The bucket entry that KVALID selects (R81). -/
def bucketOf (d : Desc) : Nat := (d.buckets.findIdx? (fun b => d.p.kvalid ≤ b.kpad)).getD 0

/-- A raw descriptor with KVALID from the message (R354). -/
def withKvalid (m : Msg) (r : RawDesc) : RawDesc :=
  let w := m.bits.toNat
  if bit w 160 then
    { r with desc := { r.desc with pos := r.desc.pos.map (fun p => { p with kvalid := bits w 128 32 }) } }
  else r

/-- The normalisation vectors as they stand when a job is admitted (R141); none where they cannot be read, which the
job's start reports. -/
def normSnap (s : State) (j : Job) : List (Nat × Nat × List (BitVec 32)) :=
  match ((readVecs j.ctx j).exec s).1 with
  | .ok v => v
  | .error _ => []

/-- The job that admission commits. -/
def newJob (s : State) (c own : Nat) (m : Msg) (via : Option (Nat × UPath)) (r : RawDesc) (i : AdmIn) : Job :=
  let b := bucketOf r.desc
  let d := if r.desc.buckets.isEmpty then r.desc else r.desc.withKpad ((r.desc.buckets.getD b ⟨0, 0⟩).kpad)
  let progs := ((i.alts.getD (if r.desc.buckets.isEmpty then 0 else b) (0, [])).2).map (·.hdr)
  let ctx := getCtx s c
  let j : Job :=
  { ctx := c, jobseq := ctx.jobCount, tag := m.tag, gen := m.gen, member := own, desc := d, bucket := b, progs := progs
    snaps := snapsOf s d, holds := ((snapsOf s d).map (·.seq)).eraseDups, windows := []
    params := ⟨[], (List.range 128).map (fun k => tget ctx.angles k 0), i.seg, i.image⟩, paramsRead := false
    started := [], ended := [], fault := none, invalid := 0, accSat := 0, ovfConv := 0, repeats := 0, maskedRows := 0
    invFirst := none, oxb := [], preTok := [], maskedSeen := [], via := via
    peers := ((progs.map (·.member)).filter (· != own)).eraseDups
    untaken := ((progs.map (·.member)).filter (· != own)).eraseDups, halted := false, haltSent := false }
  { j with params := { j.params with vecs := normSnap s j } }

/-- The program indices of a job that run here. -/
def localProgs (j : Job) : List (Nat × ProgHdr) :=
  ((List.range j.progs.length).zip j.progs).filter (fun e => e.2.member == j.member)

/-- Commits an admission (R250, R382): windows, HOLDS, the waiting programs. -/
def commitJob (j : Job) (s : State) : State :=
  let (s1, ws) := openJobWins j.ctx j.desc s
  let s2 := j.holds.foldl (fun s q => setHolds q (holdsOf s q + 1) s) s1
  let s3 := { s2 with jobs := s2.jobs ++ [{ j with windows := ws.eraseDups }] }
  let s4 := (localProgs j).foldl (fun s e =>
    modPav e.2.pav (fun v => { v with waitq := v.waitq ++ [(j.ctx, j.jobseq, e.1)] }) s) s3
  traceEv 0 1 j.ctx 0 0 j.jobseq.toNat j.tag.toNat s4

/-- Whether admission must wait for a Kiosk (R381). -/
def kioskWait (s : State) (j : Job) : Bool := (localProgs j).any (fun e => coreState s (3 + e.2.pav) != 0)

/-- Refuses a job (R363, R364). -/
def refuseJob (c : Nat) (tag : BitVec 32) (f : Refused) (s : State) : State × Reply :=
  let seq := (getCtx s c).jobCount
  (traceEv 0 2 c 0 f.1 seq.toNat tag.toNat s, .done f.1 (refusedJobBody seq f.2.1 f.2.2))

/-- The slice of the program table that names a member, then the descriptor's blocks (R337, R343). -/
def jobSlice (j : Job) (member : Nat) (blocks : List Nat) : List Byte :=
  (j.progs.filter (fun h => h.member == member)).flatMap (fun h => leBytes 16 (h.addr + h.member * 2 ^ 64)) ++
    blocks.flatMap (leBytes 64)

/-- A job message as it is forwarded: its number stands in the payload bits [223:192] (log entry 33). -/
def numberedMsg (m : BitVec 512) (seq : BitVec 32) : BitVec 512 :=
  BitVec.ofNat 512 (setBits m.toNat 192 32 seq.toNat)

/-- Forwards a grove job to the members that run its programs. -/
def forwardJob (j : Job) (m : Msg) (blocks : List Nat) (s : State) : State :=
  match rootGrove s with
  | none => s
  | some g => j.peers.foldl (fun s i =>
      sendGrove g (memberPath s i) 7 (gfwdBody i 1 j.ctx (numberedMsg m.bits j.jobseq) (jobSlice j i blocks)) s) s

/-- JOB_SUBMIT (R199, R354, R511). -/
def jobAct : MsgAct := fun c _ m s =>
  let desc := bits m.bits.toNat 64 64
  let own := ownIndex s
  if (getCtx s c).grove && !(lostMembers s).isEmpty then refuseJob c m.tag (stMEMBER_LOST, (lostMembers s).headD 0, 0) s
  else if desc % 64 != 0 then refuseJob c m.tag (stBAD_DESCRIPTOR, 0, 0) s
  else
    match (readAdm c desc).exec s with
    | (.error _, s1) => refuseJob c m.tag (stRESOURCE, 0, 0) s1
    | (.ok i, s1) =>
      let r := withKvalid m i.raw
      match admitChecks s1 c own m.gen r i with
      | some f => refuseJob c m.tag f s1
      | none =>
        let j := newJob s1 c own m none r i
        match jobWinsBad s1 c j.desc with
        | some st => refuseJob c m.tag (st, 0, 0) s1
        | none =>
        if kioskWait s1 j then (s, .stay)
        else
          match (readBlocks c desc).exec s1 with
          | (.ok bl, _) => (forwardJob j m bl (commitJob j s1), .later)
          | (.error _, _) => (commitJob j s1, .later)

/-- JOB_SUBMIT. -/
def execJobSubmit (c : CtxId) (s : State) : Result := live (takeMsg c.val 0x01 jobAct) s

/-! The end of a job. -/

/-- INV_FIRST of R363. -/
def invFirstBits (e : Option EvKey) : Nat :=
  match e with
  | none => 2 ^ 64 - 1
  | some k => k.member % 2 ^ 16 + k.pav * 2 ^ 16 + k.tpc % 2 ^ 24 * 2 ^ 20 + k.row * 2 ^ 44 + k.col * 2 ^ 52 + k.kind * 2 ^ 60

/-- OUT_XBND slots (R365): −2048 where the stream is absent or nothing finite and nonzero was written. -/
def oxbBits (j : Job) : Nat := ((List.range 11).map (fun k => toField 12 (tget j.oxb k (-2048)) * 2 ^ (12 * k))).sum

/-- The bits of a job record from bit 64 on (R363). -/
def jobBody (j : Job) : Nat :=
  let f := j.fault.getD ⟨0, 0, 0, 255, 0, 0, 0⟩
  j.jobseq.toNat + j.invalid * 2 ^ 32 + j.accSat * 2 ^ 64 + j.ovfConv * 2 ^ 96 + invFirstBits j.invFirst * 2 ^ 128 +
    j.repeats * 2 ^ 192 + j.maskedRows * 2 ^ 224 + f.fmember * 2 ^ 256 + f.fpav * 2 ^ 272 + j.bucket * 2 ^ 276 +
    f.fsid * 2 ^ 280 + f.ftpc % 2 ^ 24 * 2 ^ 288 + f.fdet0 % 2 ^ 64 * 2 ^ 320 + f.fdet1 % 2 ^ 64 * 2 ^ 384 + oxbBits j * 2 ^ 448

/-- Whether every effect of a job is committed: a fault, or each of its programs here ended, and every member
reported. -/
def jobOver (j : Job) : Bool :=
  (j.fault.isSome || (localProgs j).all (fun e => j.ended.contains e.1)) && j.peers.isEmpty

/-- Takes a job's programs out of the Pavilions (R395). -/
def clearJob (c : Nat) (seq : BitVec 32) (s : State) : State :=
  (List.range 16).foldl (fun s p =>
    let s1 := bothSlots.foldl (fun s q =>
      match getProg s p q with
      | some g => if g.ctx == c && g.jobseq == seq then clearProg p q s else s
      | none => s) s
    modPav p (fun v => { v with
      waitq := v.waitq.filter (fun w => !(w.1 == c && w.2.1 == seq))
      saved := v.saved.filter (fun x => !(x.prog.ctx == c && x.prog.jobseq == seq)) }) s1) s

/-- The windows of a job that no other admitted job of its context uses (R217). -/
def jobWindows (s : State) (j : Job) : List Nat :=
  j.windows.filter (fun w => !s.jobs.any (fun k => k.ctx == j.ctx && k.jobseq != j.jobseq && k.windows.contains w))

/-- The 16 B of a log entry (R52). -/
def logBits (e : LogEnt) : Nat :=
  e.tpc % 2 ^ 24 + e.pav % 16 * 2 ^ 24 + e.kind % 16 * 2 ^ 28 + e.row % 256 * 2 ^ 32 + e.col % 256 * 2 ^ 40 +
    e.unit % 4 * 2 ^ 48 + e.job % 2 ^ 32 * 2 ^ 64 + e.member % 2 ^ 16 * 2 ^ 96

/-- What a member reports of a job to the leader that forwarded it (R337, R344): a halt, the entries of its exception
log, which the leader's log takes over, and the record. -/
def reportJob (c : Nat) (halted : Bool) (rec : List Byte) (s : State) : State :=
  let s1 := if halted then report 3 c rec s else s
  let log := (getCtx s1 c).log
  let s2 := if log.isEmpty then s1 else
    modCtx c (fun x => { x with log := [] }) (report 4 c (log.flatMap (fun e => leBytes 16 (logBits e))) s1)
  report 1 c rec s2

/-- The record of a job goes to its ring, or to the leader that forwarded the job (R343, R363). -/
def jobRecord (j : Job) (s : State) : State :=
  let r := mkRec j.gen 1 ((j.fault.map (·.status)).getD 0) j.tag (jobBody j)
  match j.via with
  | none => postRec j.ctx r s
  | some _ => reportJob j.ctx (j.fault.isSome && !j.halted) (leBytes 128 (r.bitsOf 0)) s

/-- The records of the CTX_RESUME messages that wait for the records of the jobs that halted the context, and in a grove
for the members' reports (R341, R369). -/
def releaseResume (c : Nat) (s : State) : State :=
  if s.jobs.any (fun j => j.ctx == c && j.fault.isSome) then s
  else
    let held (w : Waiter) : Bool := s.grove.fwd.any (fun f => f.waiter == w)
    let ws := (getCtx s c).resumeWait
    (ws.filter (fun w => !held w)).foldl (fun s w => finish w stOK (cmdBody 2 0 0 0 0) s)
      (modCtx c (fun x => { x with resumeWait := ws.filter held }) s)

/-- Ends a job: HOLDS falls, windows close, the Pavilions clear, chunks that wait for credits are dropped, and the
record is queued (R217, R250, R360, R395). -/
def endJob (j : Job) (s : State) : State :=
  let s1 := clearJob j.ctx j.jobseq s
  let s2 := (jobWindows s j).foldl (fun s w => closeWin w s) s1
  let s3 := j.holds.foldl (fun s q => setHolds q (holdsOf s q - 1) s) s2
  let s4 := { s3 with
    prom := { s3.prom with sends := s3.prom.sends.filter (fun e => !(e.2.ctx == j.ctx && e.2.jobseq == j.jobseq && !e.2.sent)) }
    jobs := s3.jobs.filter (fun k => !(k.ctx == j.ctx && k.jobseq == j.jobseq)) }
  let st := (j.fault.map (·.status)).getD 0
  releaseResume j.ctx (traceEv 0 3 j.ctx 0 st j.jobseq.toNat j.tag.toNat
    (jobRecord j s4))

/-- The message bits of a halt that a leader forwards: the STATUS stands where a record holds it, FDET0 follows, and the
job's number stands in bits [223:192] (log entry 33). -/
def haltMsg (st det : Nat) (seq : BitVec 32) : BitVec 512 :=
  BitVec.ofNat 512 (st * 2 ^ 16 + det % 2 ^ 64 * 2 ^ 64 + seq.toNat * 2 ^ 192)

/-- The leader of a grove passes a job's halt on, once: a halt goes to every member, since the grove context halts at
each; a refusal goes to the members that have still to report the job (R343, R344). -/
def tellHalt (j : Job) (s : State) : State :=
  match j.fault with
  | none => s
  | some f =>
    if j.haltSent || !(getCtx s j.ctx).grove || !leadsRoot s then s
    else
      forwardTell 3 j.ctx (haltMsg f.status f.fdet0 j.jobseq) (if f.status / 4096 = 2 then j.peers else otherMembers s)
        (modJob j.ctx j.jobseq (fun k => { k with haltSent := true }) s)

/-- JOB_COMPLETE's step: a halted grove job first halts at the other members (R344). -/
def completeJob (c : Nat) (seq : BitVec 32) (s : State) : State :=
  match findJob s c seq with
  | none => s
  | some j => if jobOver j then endJob j (tellHalt j s) else tellHalt j s

/-- The members where the context of a CTX_RESUME resumes beside this one: of a grove context, every member (R341,
R344). -/
def resumesAt (s : State) (c : Nat) : List Nat := if (getCtx s c).grove && leadsRoot s then otherMembers s else []

/-- CTX_RESUME (R369): ACTIVE again; the record follows those of the jobs that halted the context. -/
def resumeAct : MsgAct := fun c w m s =>
  if (getCtx s c).grove && leadsRoot s && !(lostMembers s).isEmpty then
    (s, .done stMEMBER_LOST (cmdBody 2 0 0 0 ((lostMembers s).headD 0)))
  else
    let s1 := modCtx c (fun x => { x with state := if x.state = .halted then .active else x.state, haltPending := false }) s
    let ms := resumesAt s c
    let s2 := if ms.isEmpty then s1 else forwardMsg w c m ms none none s1
    if s.jobs.any (fun j => j.ctx == c && j.fault.isSome) || !ms.isEmpty then
      (modCtx c (fun x => { x with resumeWait := x.resumeWait ++ [w] }) s2, .later)
    else (s1, .done stOK (cmdBody 2 0 0 0 0))

/-- CTX_RESUME. -/
def execCtxResume (c : CtxId) (s : State) : Result := live (takeMsg c.val 0x02 resumeAct) s

end Sys2Proof.Machine
end

