-- ==== Sys2Proof/Machine/Allotment.lean ====
section
/-!
DEFINITION. The Allotment (R231 to R260, R388, R515): plots and their counts, plot tables, charges, the seven operations,
ALT_CONFIG, ALT_QUOTA, copies on write, orphaned sequences, and prefetch.
-/
namespace Sys2Proof.Machine

/-! Metadata in stack memory (R233, R237, R238, R240). -/

/-- n bytes of stack memory set to 0 by Ixdon itself; cached lines of the range and its poison go. -/
def stackZero (a n : Nat) (s : State) : State :=
  if n = 0 then s
  else
    let hit (l : CacheLine) : Bool := l.space == 0 && rangesMeet a n (l.addr * 256) 256
    let s1 := (s.ter.lines.filter hit).foldl (fun s l => writeBack l s) s
    let whole (w : Nat) : Bool := decide (a ≤ 8 * w) && decide (8 * w + 8 ≤ a + n)
    { s1 with
      ter := { s1.ter with lines := s1.ter.lines.filter (fun l => !hit l) }
      ext := { s1.ext with
        stack := memZero s1.ext.stack a n
        stackPoison := s1.ext.stackPoison.filter (fun w => !whole w) } }

/-- A read of metadata: none when it delivers poison, which sets M_POISON (R260, R501). -/
def metaRead (s : State) (a n : Nat) : State × Option Nat :=
  let (s1, r) := fetchMem s 0 true 0 a n
  (s1, r.map leNat)

/-- The class of a plot index (R233). -/
def plotCls (p : Nat) : Nat := p / 2 ^ 24

/-- The address of a plot by its index. -/
def plotAt (s : State) (p : Nat) : Nat := plotAddr s (plotCls p) p

/-- One of three values by class. -/
def byClass (t : Nat × Nat × Nat) (c : Nat) : Nat :=
  match c with
  | 0 => t.1
  | 1 => t.2.1
  | _ => t.2.2

/-- Three values with that of a class changed. -/
def atClass (c : Nat) (f : Nat → Nat) (t : Nat × Nat × Nat) : Nat × Nat × Nat :=
  match c with
  | 0 => (f t.1, t.2)
  | 1 => (t.1, f t.2.1, t.2.2)
  | _ => (t.1, t.2.1, f t.2.2)

/-- The address of a plot's reference count (R233). -/
def rcAddr (s : State) (p : Nat) : Nat := byClass s.alt.rcBase (plotCls p) + 2 * (p % 2 ^ 24)

/-- A plot's stored reference count (R240). -/
def rcOf (s : State) (p : Nat) : Nat := leNat (extPeek s 0 (rcAddr s p) 2)

def setRc (p n : Nat) (s : State) : State := stackPut (rcAddr s p) (leBytes 2 n) s

/-- A table entry that names a plot or page (R238). -/
def entryOf (p : Nat) : Nat := p + 2 ^ 26

/-- Writes a table entry. -/
def putEntry (a e : Nat) (s : State) : State := stackPut a (leBytes 8 e) s

/-- Writes a descriptor (R237). -/
def putDesc (seq d : Nat) (s : State) : State := stackPut (seqDescAddr s seq) (leBytes 64 d) s

/-- Sets FAULT of a sequence (R260); a poisoned descriptor stays poisoned. -/
def setFault (seq : Nat) (s : State) : State :=
  let d := seqDesc s seq
  stackPut (seqDescAddr s seq + 1) (leBytes 1 (bits (setBits d 15 1 1) 8 8)) s

/-! Fields of a descriptor (R237). -/

def dCtx (d : Nat) : Nat := bits d 0 12
def dValid (d : Nat) : Bool := bit d 12
def dPersist (d : Nat) : Bool := bit d 13
def dOrphan (d : Nat) : Bool := bit d 14
def dFault (d : Nat) : Bool := bit d 15
def dFmt (d : Nat) : Nat := bits d 16 4
def dDim (d : Nat) : Nat := hdimOf (bits d 20 3)
def dClass (d : Nat) : Nat := bits d 23 2
def dL1Class (d : Nat) : Nat := bits d 25 2
def dLayers (d : Nat) : Nat := bits d 32 8 + 1
def dGroups (d : Nat) : Nat := bits d 40 8 + 1
def dLen (d : Nat) : Nat := bits d 64 32
def dPlen (d : Nat) : Nat := bits d 96 32
def dPlayers (d : Nat) : Nat := bits d 128 8
def dEpoch (d : Nat) : Nat := bits d 160 32
def dMaxlen (d : Nat) : Nat := bits d 192 32
def dRoot (d : Nat) : Nat := bits d 224 26
def dPin (d : Nat) : Nat := bits d 256 32
def dHolds (d : Nat) : Nat := bits d 288 16

/-- A descriptor with LEN, PLEN and PLAYERS. -/
def dWithLen (len plen players d : Nat) : Nat := setBits (setBits (setBits d 64 32 len) 96 32 plen) 128 8 players

/-- A descriptor after a commit that changes it: SEQ_EPOCH rises by 1 (R241). -/
def dBump (d : Nat) : Nat := setBits d 160 32 (dEpoch d + 1)

/-- A descriptor's change, with SEQ_EPOCH raised when a field changed (R241). -/
def dChange (d e : Nat) : Nat := if d = e then d else dBump e

/-- The table positions that have a plot: (block, pair, position), for each block below ceil(VLEN(l)/128) (R238). -/
def tablePos (d : Nat) : List (Nat × Nat × Nat) :=
  let np := seqPairs d
  (List.range (ceilDiv (Nat.max (dLen d) (dPlen d)) 128)).flatMap (fun j =>
    ((List.range np).filter (fun p => decide (j < ceilDiv (seqVlen d (p / dGroups d)) 128))).map (fun p => (j, p, j * np + p)))

/-- The address of level-1 entry k of a sequence. -/
def l1Addr (s : State) (d k : Nat) : Nat := plotAt s (dRoot d) + 8 * k

/-- The level-1 entries that name a page. -/
def l1Used (d : Nat) : List Nat := ((tablePos d).map (fun e => e.2.2 / 2048)).eraseDups

/-- The page that level-1 entry k names. -/
def pageOf (s : State) (d k : Nat) : Option Nat :=
  let e := leNat (extPeek s 0 (l1Addr s d k) 8)
  if bit e 26 then some (bits e 0 26) else none

/-- The plot at a table position. -/
def plotAtPos (s : State) (d i : Nat) : Option Nat :=
  match pageOf s d (i / 2048) with
  | none => none
  | some pg =>
    let e := leNat (extPeek s 0 (plotAt s pg + 8 * (i % 2048)) 8)
    if bit e 26 then some (bits e 0 26) else none

/-! Charges (R236, R388). A holder is a context, or 4,096 and an adoption group's number. -/

/-- Changes what a holder uses in a class. -/
def modUse (holder cls : Nat) (f : Nat → Nat) (s : State) : State :=
  if holder < 4096 then modCtx holder (fun x => { x with use := atClass cls f x.use }) s
  else { s with alt := { s.alt with groupUse := tmod s.alt.groupUse (holder - 4096) (0, 0, 0) (atClass cls f) } }

/-- The sequences whose descriptors are not 0, in order. -/
def seqsStored (s : State) : List Nat :=
  ((s.ext.stack.filter (fun e => decide (s.alt.descBase ≤ e.1) && decide (e.1 < s.alt.descBase + 0x1000000))).map
    (fun e => (e.1 - s.alt.descBase) / 64)).eraseDups

/-- The sequences of a context, wherever its index range now lies: valid, its own, not orphaned (R241, R249). -/
def ctxSeqs (s : State) (c : Nat) : List Nat :=
  (seqsStored s).filter (fun q =>
    let d := seqDesc s q
    dValid d && dCtx d == c && !dOrphan d)

/-- The sequences of an adoption group. -/
def groupSeqs (s : State) (g : Nat) : List Nat := (s.alt.groupOf.filter (fun e => e.2 == g)).map (·.1)

def holderSeqs (s : State) (h : Nat) : List Nat := if h < 4096 then ctxSeqs s h else groupSeqs s (h - 4096)

/-- The plots and pages that a sequence's table references (R236). -/
def seqPlots (s : State) (q : Nat) : List Nat :=
  let d := seqDesc s q
  if !dValid d then []
  else dRoot d :: (l1Used d).filterMap (pageOf s d) ++ (tablePos d).filterMap (fun e => plotAtPos s d e.2.2)

/-- What some sequences use, each plot once (R236). -/
def walkUse (s : State) (qs : List Nat) : Nat × Nat × Nat :=
  let ps := (qs.flatMap (seqPlots s)).eraseDups
  let n (c : Nat) : Nat := (ps.filter (fun p => plotCls p == c)).length
  (n 0, n 1, n 2)

/-- A plot is lost: ALT_LOST counts it (R260, R480, R515). -/
def countLost (s : State) : State :=
  setErr ebALT_LOST { s with alt := { s.alt with lost := Nat.min 0xFFFFFF (s.alt.lost + 1) } }

/-- One reference to a plot or page ends (R240). A poisoned count leaves it out of its pool and counts it once; its
charge ends when nothing of the holder names it (R236, R260). -/
def releasePlot (holder p : Nat) (s : State) : State :=
  match metaRead s (rcAddr s p) 2 with
  | (s1, some n) =>
    let s2 := setRc p (n - 1) s1
    if n ≤ 1 then modUse holder (plotCls p) (· - 1) s2 else s2
  | (s1, none) =>
    let s2 := if s1.alt.lostPlots.any (fun e => e.1 == p) then s1
      else countLost { s1 with alt := { s1.alt with lostPlots := s1.alt.lostPlots ++ [(p, 4096)] } }
    if (holderSeqs s2 holder).any (fun q => (seqPlots s2 q).contains p) then s2
    else modUse holder (plotCls p) (· - 1) s2

/-! Taking plots (R235, R236). -/

/-- Whether a plot stands in its pool: its count is 0 and does not read poisoned (R240, R260, log entry 106). -/
def plotFree (s : State) (p : Nat) : Bool := rcOf s p == 0 && !stackPoisoned s (rcAddr s p) 2

/-- The first free plot of a class from number i on. -/
def findFree (s : State) (cls n : Nat) : Nat → Nat → Option Nat
  | 0, _ => none
  | f + 1, i => if plotFree s (cls * 2 ^ 24 + i % n) then some (cls * 2 ^ 24 + i % n) else findFree s cls n f (i + 1)

/-- Takes a free plot of a class with count 1. Which one is not a result (R236). -/
def takePlot (cls : Nat) (s : State) : Option (Nat × State) :=
  let n := byClass s.alt.poolN cls
  match findFree s cls n n (Config.plotHint cls s.alt.picks) with
  | none => none
  | some p => some (p, setRc p 1 { s with alt := { s.alt with picks := s.alt.picks + 1 } })

/-- Takes one plot of each class of a list, in order. -/
def takePlots : List Nat → State → Option (List Nat × State)
  | [], s => some ([], s)
  | c :: cs, s =>
    match takePlot c s with
    | none => none
    | some (p, s1) =>
      match takePlots cs s1 with
      | none => none
      | some (ps, s2) => some (p :: ps, s2)

/-- Whether a context's quotas take some plots more (R236). -/
def quotaFits (s : State) (c : Nat) (cls : List Nat) : Bool :=
  let x := getCtx s c
  [0, 1, 2].all (fun k =>
    let n := (cls.filter (· == k)).length
    n == 0 || decide (byClass x.use k + n ≤ byClass x.quota k))

/-- Takes plots for a context: none when a quota or a pool cannot give them (R235, R236). -/
def grabPlots (c : Nat) (cls : List Nat) (s : State) : Option (List Nat × State) :=
  if quotaFits s c cls then takePlots cls s else none

/-- Charges plots to a context. -/
def chargePlots (c : Nat) (ps : List Nat) (s : State) : State :=
  ps.foldl (fun s p => modUse c (plotCls p) (· + 1) s) s

/-- A page of zeros: every entry invalid. -/
def clearPage (p : Nat) (s : State) : State := stackZero (plotAt s p) (classBytes (plotCls p)) s

/-! Operations run with a failure: a STATUS, and the sequence whose FAULT it sets (R260). -/

abbrev AltM := ExceptT (Nat × Option Nat) (StateM State)

def altFail {α : Type} (st : Nat) : AltM α := throw (st, none)

/-- The STATUS that stands for a wait (R245, R247): no record has it. -/
def altWaits : Nat := 0

/-- A read of metadata of sequence q: poison ends the operation with ALT_UE (R260). -/
def metaRd (fault : Option Nat) (a n : Nat) : AltM Nat := do
  let (s1, r) := metaRead (← get) a n
  set s1
  match r with
  | some v => pure v
  | none => throw (stALT_UE, fault)

def refuseIf (b : Bool) (st : Nat) : AltM Unit := if b then altFail st else pure ()

/-- Whether a context has an index in its range (R235). -/
def inRange (x : Ctx) (q : Nat) : Bool := decide (x.seqLo ≤ q) && decide (q < x.seqLo + x.seqN)

/-- Whether a stored descriptor is a live sequence of a context (R241). -/
def ownSeq (c d : Nat) : Bool := dValid d && dCtx d == c && !dOrphan d

/-- The descriptor of a sequence that the context owns: SEQ_RANGE, ALT_UE, SEQ_NONE in that order (R241, R242, R260). -/
def openSeq (c q : Nat) : AltM Nat := do
  let s ← get
  refuseIf (!inRange (getCtx s c) q) stSEQ_RANGE
  modify (descLookup q)
  let d ← metaRd (if ownSeq c (seqDesc s q) then some q else none) (seqDescAddr s q) 64
  refuseIf (!ownSeq c d) stSEQ_NONE
  pure d

/-- Takes plots or fails with NO_PLOTS. -/
def needPlots (c : Nat) (cls : List Nat) : AltM (List Nat) := do
  match grabPlots c cls (← get) with
  | none => altFail stNO_PLOTS
  | some (ps, s1) =>
    set s1
    pure ps

/-! SEQ_CREATE (R231, R239, R242). -/

/-- Whether a format and head dimension have a plot (R231). -/
def layoutOk (fmt hdim : Nat) : Bool :=
  1 ≤ fmt && fmt ≤ 9 && hdim ≤ 4 && plotBytes fmt (hdimOf hdim) ≤ 65536

/-- The class of a level-1 page (R239). -/
def l1ClassOf (pages : Nat) : Nat := if pages ≤ 2048 then 0 else if pages ≤ 4096 then 1 else 2

def seqCreate (c : Nat) (w : Nat) : AltM Nat := do
  let q := bits w 64 18
  let s ← get
  refuseIf (!inRange (getCtx s c) q) stSEQ_RANGE
  modify (descLookup q)
  let d0 ← metaRd (if ownSeq c (seqDesc s q) then some q else none) (seqDescAddr s q) 64
  refuseIf (dValid d0) stSEQ_BUSY
  let fmt := bits w 82 4
  let hdim := bits w 86 3
  refuseIf (!layoutOk fmt hdim) stBAD_LAYOUT
  let maxlen := bits w 128 32
  let pos := (bits w 89 8 + 1) * (bits w 97 8 + 1) * ceilDiv maxlen 128
  let pages := ceilDiv pos 2048
  refuseIf (decide (2 ^ 24 < pos) || decide (8192 < pages)) stTABLE_LIMIT
  let k := l1ClassOf pages
  let ps ← needPlots c [k]
  let root := ps.headD 0
  let d := c + 2 ^ 12 + fmt * 2 ^ 16 + hdim * 2 ^ 20 + plotClass fmt (hdimOf hdim) * 2 ^ 23 + k * 2 ^ 25 +
    bits w 89 8 * 2 ^ 32 + bits w 97 8 * 2 ^ 40 + 2 ^ 160 + maxlen * 2 ^ 192 + root * 2 ^ 224
  modify (fun s => putDesc q d (clearPage root (chargePlots c ps s)))
  pure q

/-! SEQ_APPEND (R243 to R245). -/

/-- What stands at a position that an append writes. -/
structure AppPos where
  block : Nat
  pair : Nat
  pos : Nat
  old : Option Nat
  shared : Bool
  deriving DecidableEq, Repr

/-- The positions that an append writes, their entries and counts read (R243, R245, R260). -/
def appendPositions (q d : Nat) (pairs blocks : List Nat) : AltM (List AppPos) :=
  (blocks.flatMap (fun j => pairs.map (fun p => (j, p)))).mapM (fun e => do
    let i := e.1 * seqPairs d + e.2
    let e1 ← metaRd (some q) (l1Addr (← get) d (i / 2048)) 8
    if bit e1 26 then
      let e2 ← metaRd (some q) (plotAt (← get) (bits e1 0 26) + 8 * (i % 2048)) 8
      if bit e2 26 then
        let n ← metaRd (some q) (rcAddr (← get) (bits e2 0 26)) 2
        pure ⟨e.1, e.2, i, some (bits e2 0 26), decide (1 < n)⟩
      else pure ⟨e.1, e.2, i, none, false⟩
    else pure ⟨e.1, e.2, i, none, false⟩)

/-- Bytes of a source segment for one pair (R244). -/
def segBytes (fmt dim ntok : Nat) : Nat :=
  2 * ntok * plotW fmt dim + (if isMx fmt then ntok * (dim / 32) + ntok / 32 * dim else 0)

/-- Whether an access in flight writes a Terrace range of a context's view: one in the access tables, or one that a tile
command has issued (R213, R244). -/
def sourceWritten (s : State) (c a n : Nat) : Bool :=
  let ls := partLines (viewParts (getCtx s c).regions a n)
  tableBusy s false ls ||
    (allProgs s).any (fun g => g.issued.any (fun i => linesMeet ls i.writes || linesMeet ls i.accs))

/-- The append source (R244): its bytes, or the failure of R207, R216, R229, of poison, or of a denial (R511). A Terrace
source waits for the writers in flight on it (R213). -/
def appendSource (c space a n : Nat) : AltM (List Byte) := do
  let s ← get
  if space = 0 then
    refuseIf (sourceWritten s c a n) altWaits
    match terRead s c a n with
    | (s1, .ok (bs, _)) =>
      set s1
      pure bs
    | (s1, .error f) =>
      set (if f.status = stUNFILLED_READ then
        modCounts c (fun k => { k with unfilledRead := satInc k.unfilledRead }) s1 else s1)
      altFail f.status
  else
    refuseIf (reachesPrivate s a n) stRESOURCE
    match extRead s c false 0 a n with
    | (s1, none) =>
      set s1
      altFail stRESOURCE
    | (s1, some (bs, pw)) =>
      set s1
      refuseIf (!pw.isEmpty) stALT_UE
      pure bs

/-- Copies bytes between plots with their poison (R245, R501). -/
def copyStack (src dst n : Nat) (s : State) : State :=
  let bs := extPeek s 0 src n
  let pw := (extPoisonIn s 0 src n).map (fun w => (8 * w + dst - src) / 8)
  let s1 := if pw.isEmpty then s else setErr ebM_POISON s
  mQueue true 0 true 0 dst n (extPut 0 dst bs pw false s1)

/-- Copies the slots below LEN of a shared plot, and the scale areas (R245). -/
def copyPlot (d block src dst : Nat) (s : State) : State :=
  let w := plotW (dFmt d) (dDim d)
  let keep := Nat.min 128 (dLen d - block * 128) * w
  let a := plotAt s src
  let b := plotAt s dst
  let s1 := copyStack (a + 128 * w) (b + 128 * w) keep (copyStack a b keep s)
  if isMx (dFmt d) then copyStack (a + 256 * w) (b + 256 * w) (8 * dDim d) s1 else s1

/-- Writes one pair's new slots of one block into its plot (R232, R243, R244): `seg` is the pair's segment. -/
def writeSlots (d block plot plen : Nat) (seg : List Byte) (s : State) : State :=
  let len := dLen d
  let ntok := plen - len
  let w := plotW (dFmt d) (dDim d)
  let dim := dDim d
  let t0 := Nat.max len (block * 128)
  let t1 := Nat.min plen (block * 128 + 128)
  let r0 := t0 - len
  let n := t1 - t0
  let slot := t0 - block * 128
  let a := plotAt s plot
  let cutB (o m : Nat) : List Byte := (seg.drop o).take m
  let s1 := stackPut (a + slot * w) (cutB (r0 * w) (n * w)) s
  let s2 := stackPut (a + 128 * w + slot * w) (cutB ((ntok + r0) * w) (n * w)) s1
  if isMx (dFmt d) then
    let ks := 2 * ntok * w
    let vs := ks + ntok * (dim / 32)
    let s3 := stackPut (a + 256 * w + slot * (dim / 32)) (cutB (ks + r0 * (dim / 32)) (n * (dim / 32))) s2
    stackPut (a + 256 * w + 4 * dim + slot / 32 * dim) (cutB (vs + r0 / 32 * dim) (n / 32 * dim)) s3
  else s2

/-- Whether a new length and layer range continue the sequence (R243): the new PLEN, or none. -/
def appendPlen (d ntok layer0 nl : Nat) : Option Nat :=
  if ntok = 0 ∨ dLayers d < layer0 + nl then none
  else if dPlayers d = 0 then (if layer0 = 0 then some (dLen d + ntok) else none)
  else if layer0 = dPlayers d ∧ dLen d + ntok = dPlen d then some (dPlen d)
  else none

/-- The descriptor after an append commits (R243). -/
def appendCommit (d plen players : Nat) : Nat :=
  dBump (if players = dLayers d then dWithLen plen plen 0 d else dWithLen (dLen d) plen players d)

/-- New level-2 pages for the level-1 entries that name none (R239). -/
def addPages (d : Nat) (ks pages : List Nat) (s : State) : State :=
  (ks.zip pages).foldl (fun s e => putEntry (l1Addr s d e.1) (entryOf e.2) (clearPage e.2 s)) s

/-- SEQ_APPEND: the sequence when it has committed, none when its copies wait for their swap (R243 to R245). -/
def seqAppend (c : Nat) (wt : Waiter) (w : Nat) : AltM (Option Nat) := do
  let q := bits w 64 18
  let d ← openSeq c q
  refuseIf (dFault d) stSEQ_FAULT
  let layer0 := bits w 82 8
  let nl := bits w 90 8 + 1
  let ntok := bits w 128 32
  match appendPlen d ntok layer0 nl with
  | none => altFail stAPPEND_ORDER
  | some plen =>
    refuseIf (decide (dMaxlen d < plen)) stSEQ_FULL
    refuseIf (isMx (dFmt d) && (dLen d % 32 != 0 || ntok % 32 != 0)) stAPPEND_ALIGN
    let pairs := (List.range (nl * dGroups d)).map (· + layer0 * dGroups d)
    let b0 := dLen d / 128
    let blocks := (List.range (ceilDiv plen 128 - b0)).map (· + b0)
    let ps ← appendPositions q d pairs blocks
    let s ← get
    let fresh := ps.filter (fun p => p.old.isNone)
    let copies := ps.filter (fun p => p.shared)
    let ks := ((ps.map (fun p => p.pos / 2048)).eraseDups).filter (fun k => (pageOf s d k).isNone)
    let cls := ks.map (fun _ => 0) ++ (fresh ++ copies).map (fun _ => dClass d)
    let _ ← needPlots c cls
    set s
    let n := segBytes (dFmt d) (dDim d) ntok
    let src ← appendSource c (bits w 98 1) (bits w 160 64) (n * pairs.length)
    let got ← needPlots c cls
    let pages := got.take ks.length
    let plots := got.drop ks.length
    let place := ((fresh ++ copies).zip plots).map (fun e => (e.1.pos, e.2))
    let s2 := chargePlots c (pages ++ plots.take fresh.length) (addPages d ks pages (← get))
    let s3 := (fresh.zip plots).foldl (fun s e =>
      match pageOf s d (e.1.pos / 2048) with
      | some pg => putEntry (plotAt s pg + 8 * (e.1.pos % 2048)) (entryOf e.2) s
      | none => s) s2
    let s4 := beginXfers (ps.length + copies.length) (copies.foldl (fun s p => copyPlot d p.block (p.old.getD 0) (tget place p.pos 0) s) s3)
    let s5 := ps.foldl (fun s p =>
      let dst := (place.lookup p.pos).getD (p.old.getD 0)
      writeSlots d p.block dst plen ((src.drop (n * (p.pair - layer0 * dGroups d))).take n) s) s4
    if copies.isEmpty then
      set (putDesc q (appendCommit d plen (layer0 + nl)) s5)
      pure (some q)
    else
      let swaps := copies.map (fun p =>
        (((pageOf s5 d (p.pos / 2048)).map (fun pg => plotAt s5 pg + 8 * (p.pos % 2048))).getD 0, p.old.getD 0,
          (place.lookup p.pos).getD 0))
      set (modCtx c (fun x => { x with altWait := some ⟨wt, q, swaps, dLen d, plen, layer0 + nl⟩ }) s5)
      pure none

/-! SEQ_FORK (R246). -/

/-- The plots of a table, their entries and counts read, with their counts (R246, R260). -/
def forkPlots (q d : Nat) : AltM (List (Nat × Nat)) := do
  let es ← (tablePos d).mapM (fun e => do
    let i := e.2.2
    let e1 ← metaRd (some q) (l1Addr (← get) d (i / 2048)) 8
    if bit e1 26 then
      let e2 ← metaRd (some q) (plotAt (← get) (bits e1 0 26) + 8 * (i % 2048)) 8
      if bit e2 26 then
        let n ← metaRd (some q) (rcAddr (← get) (bits e2 0 26)) 2
        pure [(bits e2 0 26, n)]
      else pure []
    else pure [])
  pure es.flatten

/-- The descriptor of CHILD (R246). -/
def childDesc (d root : Nat) : Nat :=
  let d1 := setBits (dWithLen (dLen d) (dLen d) 0 d) 160 32 1
  setBits (setBits (setBits (setBits d1 224 26 root) 256 32 0) 288 16 0) 13 1 0

def seqFork (c : Nat) (w : Nat) : AltM Nat := do
  let q := bits w 64 18
  let ch := bits w 82 18
  refuseIf (!inRange (getCtx (← get) c) ch) stSEQ_RANGE
  let d ← openSeq c q
  refuseIf (dFault d) stSEQ_FAULT
  let s ← get
  modify (descLookup ch)
  let d2 ← metaRd (if ownSeq c (seqDesc s ch) then some ch else none) (seqDescAddr s ch) 64
  refuseIf (dValid d2) stSEQ_BUSY
  refuseIf (dPlayers d != 0) stAPPEND_PENDING
  let ps ← forkPlots q d
  refuseIf (ps.any (fun e => decide (65535 ≤ e.2))) stFORK_LIMIT
  let s1 ← get
  let ks := (l1Used d).filter (fun k => (pageOf s1 d k).isSome)
  let got ← needPlots c (dL1Class d :: ks.map (fun _ => 0))
  let root := got.headD 0
  let d3 := childDesc d root
  modify (fun s =>
    let s2 := beginXfers ks.length (clearPage root (chargePlots c got s))
    let s3 := (ks.zip got.tail).foldl (fun s e =>
      let s4 := putEntry (plotAt s root + 8 * e.1) (entryOf e.2) s
      match pageOf s4 d e.1 with
      | some pg => copyStack (plotAt s4 pg) (plotAt s4 e.2) 16384 s4
      | none => s4) s2
    let s5 := ps.foldl (fun s e => setRc e.1 (rcOf s e.1 + 1) s) s3
    putDesc ch d3 s5)
  pure ch

/-! SEQ_TRUNCATE and SEQ_FREE (R247, R249, R515). -/

/-- The entries of blocks from jb on become invalid, and pages left without an entry are released; a poisoned entry is
dropped, and what it named stays out of its pool and charged (R247, R515). -/
def cutTable (holder d jb : Nat) (s : State) : State :=
  let ps := tablePos d
  let gone := ps.filter (fun e => decide (jb ≤ e.1))
  let ks := (gone.map (fun e => e.2.2 / 2048)).eraseDups
  ks.foldl (fun s k =>
    match metaRead s (l1Addr s d k) 8 with
    | (s1, none) => countLost (putEntry (l1Addr s1 d k) 0 s1)
    | (s1, some e1) =>
      if !bit e1 26 then s1
      else
        let pg := bits e1 0 26
        let s2 := (gone.filter (fun e => e.2.2 / 2048 == k)).foldl (fun s e =>
          let a := plotAt s pg + 8 * (e.2.2 % 2048)
          match metaRead s a 8 with
          | (s3, none) => countLost (putEntry a 0 s3)
          | (s3, some e2) => if bit e2 26 then releasePlot holder (bits e2 0 26) (putEntry a 0 s3) else s3) s1
        if ps.any (fun e => e.2.2 / 2048 == k && decide (e.1 < jb)) then s2
        else releasePlot holder pg (putEntry (l1Addr s2 d k) 0 s2)) s

/-- A sequence is freed: its table, its pages and its descriptor (R247); a poisoned descriptor drops the whole table
(R515). -/
def dropSeq (holder q : Nat) (s : State) : State :=
  match metaRead s (seqDescAddr s q) 64 with
  | (s1, none) => countLost (putDesc q 0 s1)
  | (s1, some d) => releasePlot holder (dRoot d) (putDesc q 0 (cutTable holder d 0 s1))

def seqTruncate (c : Nat) (w : Nat) : AltM Nat := do
  let q := bits w 64 18
  let n := bits w 128 32
  let s ← get
  refuseIf (!inRange (getCtx s c) q) stSEQ_RANGE
  modify (descLookup q)
  refuseIf (!ownSeq c (seqDesc s q)) stSEQ_NONE
  let d ← metaRd none (seqDescAddr s q) 64
  refuseIf (decide (dLen d < n)) stLEN_ABOVE
  refuseIf (decide (n < dPin d * 128)) stPINNED
  refuseIf (dHolds d != 0) altWaits
  modify (fun s => putDesc q (dChange d (dWithLen n n 0 d)) (cutTable c d (ceilDiv n 128) s))
  pure q

def seqFree (c : Nat) (w : Nat) : AltM Nat := do
  let q := bits w 64 18
  let s ← get
  refuseIf (!inRange (getCtx s c) q) stSEQ_RANGE
  modify (descLookup q)
  let d := seqDesc s q
  refuseIf (!ownSeq c d) stSEQ_NONE
  refuseIf (dPin d != 0 && !stackPoisoned s (seqDescAddr s q) 64) stPINNED
  refuseIf (dHolds d != 0) altWaits
  modify (dropSeq c q)
  pure q

/-! PLOT_PIN and PLOT_UNPIN (R242). -/

def plotPin (c : Nat) (w : Nat) : AltM Nat := do
  let q := bits w 64 18
  let n := bits w 96 32
  let d ← openSeq c q
  refuseIf (dFault d) stSEQ_FAULT
  refuseIf (decide (n < dPin d) || decide (ceilDiv (dLen d) 128 < n)) stPIN_RANGE
  modify (putDesc q (dChange d (setBits (setBits d 256 32 n) 13 1 (bits w 82 1))))
  pure q

/-- PLOT_UNPIN. On a sequence with FAULT, on which R260 lets only truncation and freeing act, it fails with SEQ_FAULT
where the other operations do (DEDUCED, log entry 107). -/
def plotUnpin (c : Nat) (w : Nat) : AltM Nat := do
  let q := bits w 64 18
  let n := bits w 96 32
  let d ← openSeq c q
  refuseIf (dFault d) stSEQ_FAULT
  refuseIf (decide (dPin d < n)) stPIN_RANGE
  let d1 := setBits d 256 32 n
  modify (putDesc q (dChange d (if n = 0 then setBits d1 13 1 0 else d1)))
  pure q

/-! Records (R241, R366, R504). -/

/-- The end of an operation: its record describes sequence q. -/
def altDone (c opc q st : Nat) (s : State) : State × Reply :=
  (traceEv 7 opc c 0 0 q (dEpoch (seqDesc s q)) s, .done st (altBody s q (getCtx s c).use))

/-- Runs an operation: a failure changes nothing but FAULT (R241, R260), a wait leaves the message on its ring (R248).
-/
def runAlt (m : AltM Nat) : MsgAct := fun c w msg s =>
  let q := bits msg.bits.toNat 64 18
  match (ExceptT.run m).run s with
  | (.ok r, s1) => altDone c w.opc r stOK s1
  | (.error e, s1) =>
    if e.1 = altWaits then (s, .stay)
    else altDone c w.opc q e.1 (match e.2 with
      | some f => setFault f s1
      | none => s1)

def seqCreateAct : MsgAct := fun c w m s => runAlt (seqCreate c m.bits.toNat) c w m s
def seqForkAct : MsgAct := fun c w m s => runAlt (seqFork c m.bits.toNat) c w m s
def seqTruncateAct : MsgAct := fun c w m s => runAlt (seqTruncate c m.bits.toNat) c w m s
def seqFreeAct : MsgAct := fun c w m s => runAlt (seqFree c m.bits.toNat) c w m s
def plotPinAct : MsgAct := fun c w m s => runAlt (plotPin c m.bits.toNat) c w m s
def plotUnpinAct : MsgAct := fun c w m s => runAlt (plotUnpin c m.bits.toNat) c w m s

def seqAppendAct : MsgAct := fun c w m s =>
  let q := bits m.bits.toNat 64 18
  match (ExceptT.run (seqAppend c w m.bits.toNat)).run s with
  | (.ok (some r), s1) => altDone c w.opc r stOK s1
  | (.ok none, s1) => (s1, .later)
  | (.error e, s1) =>
    if e.1 = altWaits then (s, .stay)
    else altDone c w.opc q e.1 (match e.2 with
      | some f => setFault f s1
      | none => s1)

def execSeqCreate (c : CtxId) (s : State) : Result := live (takeMsg c.val 0x10 seqCreateAct) s
def execSeqAppend (c : CtxId) (s : State) : Result := live (takeMsg c.val 0x11 seqAppendAct) s
def execSeqFork (c : CtxId) (s : State) : Result := live (takeMsg c.val 0x12 seqForkAct) s
def execSeqTruncate (c : CtxId) (s : State) : Result := live (takeMsg c.val 0x13 seqTruncateAct) s
def execSeqFree (c : CtxId) (s : State) : Result := live (takeMsg c.val 0x14 seqFreeAct) s
def execPlotPin (c : CtxId) (s : State) : Result := live (takeMsg c.val 0x15 plotPinAct) s
def execPlotUnpin (c : CtxId) (s : State) : Result := live (takeMsg c.val 0x16 plotUnpinAct) s

/-- Step 3 of R245 for a waiting append, once HOLDS is 0: each entry is replaced, the old count falls, the copies are
charged and the append commits. -/
def commitSwap (c : Nat) (s : State) : State :=
  match (getCtx s c).altWait with
  | none => s
  | some a =>
    let d := seqDesc s a.seq
    if dHolds d != 0 then s
    else
      let s1 := a.swaps.foldl (fun s e => releasePlot c e.2.1 (putEntry e.1 (entryOf e.2.2) s)) s
      let s2 := chargePlots c (a.swaps.map (fun e => e.2.2)) s1
      let s3 := putDesc a.seq (appendCommit d a.newPlen a.newPlayers) s2
      let s4 := modCtx c (fun x => { x with altWait := none }) s3
      match altDone c a.waiter.opc a.seq stOK s4 with
      | (s5, .done st body) => finish a.waiter st body s5
      | (s5, _) => s5

/-- COPY_ON_WRITE_SWAP (R245). -/
def execCopyOnWriteSwap (c : CtxId) (s : State) : Result := live (commitSwap c.val) s

/-! ALT_QUOTA (R235). -/

/-- The quotas of a class that other contexts hold, with the orphan charges (R235, R388). -/
def quotaSum (s : State) (c k : Nat) : Nat :=
  (s.ctxs.map (fun e => if e.1 = c then 0 else byClass e.2.quota k)).sum + (s.alt.groupUse.map (fun e => byClass e.2 k)).sum

/-- The refusals of R235. -/
def quotaBad (s : State) (c lo n : Nat) (q : Nat × Nat × Nat) : Bool :=
  s.ctxs.any (fun e => e.1 != c && decide (0 < n) && decide (0 < e.2.seqN) && rangesMeet lo n e.2.seqLo e.2.seqN) ||
    [0, 1, 2].any (fun k => decide (byClass s.alt.poolN k < quotaSum s c k + byClass q k) ||
      decide (byClass q k < byClass (getCtx s c).use k))

def altQuotaAct : MsgAct := fun c w m s =>
  let x := m.bits.toNat
  let q := (bits x 101 24, bits x 125 24, bits x 149 24)
  let pf := bits x 173 9
  if quotaBad s c (bits x 64 18) (bits x 82 19) q then (s, .done stBAD_QUOTA (cmdBody w.opc 0 0 0 0))
  else
    (modCtx c (fun y => { y with
      seqLo := bits x 64 18, seqN := bits x 82 19, quota := q, pfDepth := if pf = 0 then 8 else pf }) s,
     .done stOK (cmdBody w.opc 0 0 0 0))

/-- ALT_QUOTA (R235). -/
def execAltQuota (c : CtxId) (s : State) : Result := live (takeMsg c.val 0x0A altQuotaAct) s

/-! Parameter blocks (R356, R511). -/

/-- The fields of a block by width in bits, with their byte offsets and sizes (R356). -/
def pblkLayout : Nat → List Nat → List (Nat × Nat × Nat)
  | _, [] => []
  | o, w :: ws =>
    let n := if w ≤ 8 then 1 else if w ≤ 16 then 2 else if w ≤ 32 then 4 else 8
    let a := ceilDiv o n * n
    (a, n, w) :: pblkLayout (a + n) ws

/-- The length of a block. -/
def pblkLen (ws : List Nat) : Nat := (((pblkLayout 0 ws).getLast?).map (fun e => e.1 + e.2.1)).getD 0

/-- The arguments of a parameter block, or the STATUS that refuses it (R356, R511). -/
def readPblk (c : Nat) (priv : Bool) (a : Nat) (ws : List Nat) (s : State) : State × Except Nat (List Nat) :=
  if a % 64 != 0 then (s, .error stBAD_DESCRIPTOR)
  else
    let n := pblkLen ws
    match fetchMem s c priv 1 a n with
    | (s1, none) => (s1, .error stRESOURCE)
    | (s1, some bs) =>
      let v := leNat bs
      let lay := pblkLayout 0 ws
      let args := lay.map (fun e => bits v (8 * e.1) e.2.2)
      let packed := ((lay.zip args).map (fun e => e.2 <<< (8 * e.1.1))).sum
      if packed = v then (s1, .ok args) else (s1, .error stBAD_DESCRIPTOR)

/-- Whether any context exists. -/
def anyContext (s : State) : Bool := s.ctxs.any (fun e => e.2.state != .free)

/-! ALT_CONFIG (R234). -/

/-- The private ranges that are not the Allotment's. -/
def otherPrivate (s : State) : List (Nat × Nat) := privateRanges { s with alt := { s.alt with configured := false } }

/-- Pairwise overlap of ranges. -/
def anyOverlap : List (Nat × Nat) → Bool
  | [] => false
  | r :: rs => rs.any (fun x => rangesMeet r.1 r.2 x.1 x.2) || anyOverlap rs

/-- ALT_CONFIG's layout in force: every descriptor 0, every plot free, every count 0 (R234). -/
def altConfigure (a : Allot) (s : State) : State :=
  [(a.descBase, 0x1000000), (a.rcBase.1, a.poolN.1 * 2), (a.rcBase.2.1, a.poolN.2.1 * 2),
    (a.rcBase.2.2, a.poolN.2.2 * 2)].foldl (fun s r => stackZero r.1 r.2 s) { s with alt := a }

def altConfigAct : MsgAct := fun _ w m s =>
  let no (st : Nat) (s : State) : State × Reply := (s, .done st (cmdBody w.opc 0 0 0 0))
  match readPblk 0 true (bits m.bits.toNat 64 64) [64, 64, 64, 64, 24, 24, 24, 64, 64, 64] s with
  | (s1, .error st) => no st s1
  | (s1, .ok v) =>
    let g (k : Nat) : Nat := v.getD k 0
    let a : Allot := { s1.alt with
      configured := true, descBase := g 0, poolBase := (g 1, g 2, g 3), poolN := (g 4, g 5, g 6), rcBase := (g 7, g 8, g 9)
      lostPlots := [], groupOf := [], groupUse := [], dcache := [] }
    let mine := (altRanges { s1 with alt := a }).filter (fun r => decide (0 < r.2))
    let misaligned := g 0 % 4096 != 0 || g 1 % 16384 != 0 || g 2 % 32768 != 0 || g 3 % 65536 != 0 ||
      [7, 8, 9].any (fun k => g k % 4096 != 0)
    if anyContext s1 then no stMGMT_BUSY s1
    else if misaligned || anyOverlap mine ||
        mine.any (fun r => (otherPrivate s1).any (fun x => rangesMeet r.1 r.2 x.1 x.2)) then no stBAD_REGION s1
    else no stOK (altConfigure a s1)

/-- ALT_CONFIG (R234). -/
def execAltConfig (s : State) : Result := live (takeMsg mgmtCtx 0x85 altConfigAct) s

/-! Orphaned sequences (R249, R388). -/

/-- A context is freed: its sequences are freed, or truncated to their pins and orphaned as one group; its quotas return
(R249, R515). -/
def freeCtxSeqs (c : Nat) (s : State) : State :=
  let qs := ctxSeqs s c
  let keep (s : State) (q : Nat) : Bool := dPersist (seqDesc s q) && !stackPoisoned s (seqDescAddr s q) 64
  let kept := qs.filter (keep s)
  let s1 := qs.foldl (fun s q =>
    if kept.contains q then
      let d := seqDesc s q
      let n := Nat.min (dLen d) (dPin d * 128)
      putDesc q (dBump (setBits (dWithLen n n 0 d) 14 1 1)) (cutTable c d (ceilDiv n 128) s)
    else dropSeq c q s) s
  let s2 := modCtx c (fun x => { x with quota := (0, 0, 0), use := (0, 0, 0), seqLo := 0, seqN := 0, pfDepth := 8 }) s1
  if kept.isEmpty then s2
  else
    let g := s2.alt.nextGroup
    { s2 with alt := { s2.alt with
      nextGroup := g + 1
      groupOf := kept.foldl (fun t q => tset t q g) s2.alt.groupOf
      groupUse := tset s2.alt.groupUse g (walkUse s2 kept) } }

/-- The descriptor of an orphaned sequence with its group, or the STATUS of R388 or R260. -/
def openOrphan (q : Nat) : AltM (Nat × Nat) := do
  let s ← get
  match tget? s.alt.groupOf q with
  | none => altFail stSEQ_NONE
  | some g =>
    let d ← metaRd (some q) (seqDescAddr s q) 64
    pure (d, g)

def seqAdopt (w : Nat) : AltM Nat := do
  let q := bits w 64 18
  let c := bits w 82 12
  let (_, g) ← openOrphan q
  let s ← get
  let qs := groupSeqs s g
  let x := getCtx s c
  refuseIf (!qs.all (inRange x)) stSEQ_RANGE
  let gu := tget s.alt.groupUse g (0, 0, 0)
  refuseIf ([0, 1, 2].any (fun k => decide (byClass x.quota k < byClass x.use k + byClass gu k))) stNO_PLOTS
  let _ ← qs.mapM (fun y => metaRd (some y) (seqDescAddr s y) 64)
  modify (fun s =>
    let s1 := qs.foldl (fun s y => putDesc y (dBump (setBits (setBits (seqDesc s y) 14 1 0) 0 12 c)) s) s
    let s2 := [0, 1, 2].foldl (fun s k => modUse c k (· + byClass gu k) s) s1
    { s2 with alt := { s2.alt with
      groupOf := s2.alt.groupOf.filter (fun e => e.2 != g)
      groupUse := tdel s2.alt.groupUse g } })
  pure q

def seqAdoptAct : MsgAct := fun _ w m s =>
  let x := m.bits.toNat
  let q := bits x 64 18
  let c := bits x 82 12
  match (ExceptT.run (seqAdopt x)).run s with
  | (.ok _, s1) => (s1, .done stOK (altBody s1 q (getCtx s1 c).use))
  | (.error e, s1) =>
    let s2 := match e.2 with
      | some f => setFault f s1
      | none => s1
    (s2, .done e.1 (altBody s2 q (getCtx s2 w.ctx).use))

/-- SEQ_ADOPT (R388). -/
def execSeqAdopt (s : State) : Result := live (takeMsg mgmtCtx 0x8C seqAdoptAct) s

/-- Frees an orphaned sequence, pins included (R388); poison in its metadata fails it (R260). -/
def seqRelease (w : Nat) : AltM (Nat × Nat) := do
  let q := bits w 64 18
  let (d, g) ← openOrphan q
  let _ ← (l1Used d).mapM (fun k => do metaRd (some q) (l1Addr (← get) d k) 8)
  let s ← get
  let _ ← (tablePos d).mapM (fun e =>
    match pageOf s d (e.2.2 / 2048) with
    | some pg => metaRd (some q) (plotAt s pg + 8 * (e.2.2 % 2048)) 8
    | none => pure 0)
  modify (fun s =>
    let s1 := dropSeq (4096 + g) q s
    { s1 with alt := { s1.alt with groupOf := tdel s1.alt.groupOf q } })
  let s1 ← get
  if (groupSeqs s1 g).isEmpty then
    set { s1 with alt := { s1.alt with groupUse := tdel s1.alt.groupUse g } }
  pure (q, g)

def seqReleaseAct : MsgAct := fun _ _ m s =>
  let q := bits m.bits.toNat 64 18
  match (ExceptT.run (seqRelease m.bits.toNat)).run s with
  | (.ok r, s1) => (s1, .done stOK (altBody s1 q (tget s1.alt.groupUse r.2 (0, 0, 0))))
  | (.error e, s1) =>
    let s2 := match e.2 with
      | some f => setFault f s1
      | none => s1
    (s2, .done e.1 (altBody s2 q (tget s2.alt.groupUse ((tget? s2.alt.groupOf q).getD 0) (0, 0, 0))))

/-- SEQ_RELEASE (R388). -/
def execSeqRelease (s : State) : Result := live (takeMsg mgmtCtx 0x8D seqReleaseAct) s

/-! Prefetch (R255). -/

/-- The LOADs of SPACE 2 that a program has not issued, in its read order: those queued, then those of its text that are
not dispatched. -/
def loadsAhead (s : State) (g : Prog) : List (Nat × List Nat) :=
  let queued := (g.queues.flatMap (·.2)).filterMap (fun c =>
    if cOpc c.word.toNat = oLOAD then some (c.num, c.word.toNat, c.regs) else none)
  let text := (leWords 16 g.hdr.ncmd (match terCheck s g.ctx (g.hdr.addr + 32) (16 * g.hdr.ncmd) with
    | .ok ps => partBytes s.ter.mem ps
    | .error _ => []))
  let rest := ((expand text).drop g.nextNum).filterMap (fun i => if cOpc i.word = oLOAD then some (i.word, i.regs) else none)
  queued.map (·.2) ++ rest

/-- The plots that a LOAD reads, in order, as stack addresses with their lengths and their sequence (R231, R253). -/
def loadPlots (s : State) (j : Job) (w : Nat) (regs : List Nat) : List (Nat × Nat × Nat) :=
  match j.desc.stream (bits w 66 8) with
  | none => []
  | some x =>
    if x.space != 2 then []
    else
      let q := x.base % 2 ^ 18
      let d := seqDesc s q
      let n := tileRows j.desc x.use
      let t0 := (tref w regs).toNat * n
      let p := x.layer * dGroups d + x.kvg
      let vlen := seqVlen d x.layer
      ((List.range (ceilDiv (t0 + n) 128 - t0 / 128)).map (· + t0 / 128)).filterMap (fun b =>
        if b * 128 < vlen then (plotAtPos s d (b * seqPairs d + p)).map (fun k =>
          (plotAt s k, plotBytes x.fmt j.desc.dim, q)) else none)

/-- Whether the cached groups hold a plot whole. -/
def plotCached (s : State) (a n : Nat) : Bool :=
  (List.range (n / 256)).all (fun i => s.ter.lines.any (fun l => l.space == 0 && l.addr == a / 256 + i))

/-- Prefetches the next plot of a program that the cached groups do not hold, among the PF_DEPTH ahead of its next
unissued LOAD, once a transfer slot is free (R22, R255, R256). Without a group in cache mode prefetch does nothing. -/
def prefetchPlot (p : Nat) (q : PSlot) (s : State) : State :=
  match liveProg s p q with
  | none => s
  | some g =>
    match findJob s g.ctx g.jobseq with
    | none => s
    | some j =>
      if cachedGroups s = 0 ∨ 16384 ≤ xfersNow s then s
      else
        let ahead := ((loadsAhead s g).flatMap (fun l => loadPlots s j l.1 l.2)).eraseDups
        match (ahead.take (getCtx s g.ctx).pfDepth).find? (fun a => !plotCached s a.1 a.2.1) with
        | none => s
        | some (a, n, k) => mQueue false 0 true 0 a n (cacheFill 0 a n (beginXfers 1 (descLookup k s)))

/-- PLOT_PREFETCH (R255). -/
def execPlotPrefetch (p : PavId) (q : PSlot) (s : State) : Result := live (prefetchPlot p.val q) s

end Sys2Proof.Machine
end

