-- ==== Sys2Proof/Machine/Keys.lean ====
section
/-!
DEFINITION. Keys for exposed paths (R291, R411 to R415): the handshake of two instances' Lodges, key slots, their
replacement and retirement, and context halts that no command of a program raises.
-/
namespace Sys2Proof.Machine

/-! Halts of a context without a faulting command (R189, R291, R393). -/

/-- A halt that ends no job: the context becomes HALTED and its counts show it. -/
def haltCtxOnly (c st det : Nat) (s : State) : State :=
  let s1 := modCtx c (Ctx.halt s st []) s
  traceEv 1 1 c 0 st 0 det (setErr ebCTX_HALT s1)

/-- Halts some jobs of a context, or the context alone when none is named. -/
def haltSome (c : Nat) (f : RFault) (seqs : List (BitVec 32)) (s : State) : State :=
  if seqs.isEmpty then haltCtxOnly c f.status f.det0 s else seqs.foldl (fun s q => haltPlain c q f s) s

/-! Peers. -/

/-- The key slots that neither a key nor a handshake takes. -/
def freeKeySlots (s : State) : List Nat :=
  (List.range 256).filter (fun k => (tget? s.prom.keys k).isNone &&
    !s.prom.shakes.any (fun e => e.2.sendSlot == k || e.2.recvSlot == k))

/-- Whether a peer needs a first handshake: neither a key nor a handshake stands for it. -/
def needsShake (s : State) (u : UPath) : Bool :=
  !s.prom.keys.any (fun e => e.2.peer == u && e.2.send) && (tget? s.prom.shakes u.toNat).isNone

/-- Whether this instance is the initiator toward a peer (R411). -/
def initiates (s : State) (u : UPath) : Bool := s.grove.upathSelf.toNat < u.toNat

/-! Messages (R412). -/

/-- The KX1 layout. -/
def kxBody (s : State) (req slot purpose : Nat) : BitVec 1088 :=
  BitVec.ofNat 1088 ((Config.drbg req).toNat % 2 ^ 256 + (Config.ephemPub req).toNat * 2 ^ 256 +
    (if s.sys.testKeyUsed then 1 else 0) * 2 ^ 1024 + slot * 2 ^ 1040 + purpose * 2 ^ 1056)

/-- A certificate chain as it travels: a count, then each length and certificate (R412). -/
def chainBytes (ch : List (List Byte)) : List Byte :=
  leBytes 2 ch.length ++ ch.flatMap (fun c => leBytes 2 c.length ++ c)

/-- A signature as it travels: r then s, big-endian (R412). -/
def sigBytes (sig : BitVec 768) : List Byte := (leBytes 96 sig.toNat).reverse

/-- The measurements of the images of KIND 1 to 4 (R408). -/
def measurements (s : State) : List Nat := (List.range 4).map (fun i => tget s.sys.imageHash (i + 1) 0)

/-- Positions 0 to 3 of this instance's chain (R405, R406). -/
def myChain (s : State) : List (List Byte) := Config.ownChain s.sys.startMode (measurements s)

/-- A signature with the alias key, which the start mode and the Lodge image fix (R406). -/
def signAlias (s : State) (msg : List Byte) : BitVec 768 := Config.aliasSign s.sys.startMode (tget s.sys.imageHash 1 0) msg

def sendLctl (dst : UPath) (ltype : Nat) (body : List Byte) (s : State) : State := emit (.lctl dst ltype body) s

/-- The fused security version below which a kind of image is not accepted (R404, R462). -/
def minSvn (s : State) (kind : Nat) : Nat := bits (tget s.ext.fuses 18 0).toNat (8 * kind) 8

/-! Beginning and failing. -/

/-- KX1 of a handshake that this instance initiates (R411). -/
def sendKx1 (u : UPath) (s : State) : State :=
  match tget? s.prom.shakes u.toNat with
  | none => s
  | some h =>
    let req := s.free
    let body := leBytes 136 (kxBody s req h.recvSlot h.purpose).toNat
    let h1 := { h with step := 1, req := req, transcript := body }
    sendLctl u 0x20 body
      { s with free := s.free + 1, prom := { s.prom with shakes := tset s.prom.shakes u.toNat h1 } }

/-- Enters a handshake with a peer for a context; a handshake in progress takes the request in (R415). The instance
whose path is lower sends KX1; the other waits for it. -/
def startShake (u : UPath) (purpose : Nat) (c : Option Nat) (s : State) : State :=
  let add (l : List Nat) : List Nat := (l.filter (fun x => some x != c)) ++ c.toList
  match tget? s.prom.shakes u.toNat with
  | some h => { s with prom := { s.prom with shakes := tset s.prom.shakes u.toNat { h with ctxs := add h.ctxs } } }
  | none =>
    match freeKeySlots s with
    | a :: b :: _ =>
      let h : Shake := ⟨0, purpose, a, b, 0, 0, 0, [], add [], []⟩
      let s1 := { s with prom := { s.prom with shakes := tset s.prom.shakes u.toNat h } }
      if initiates s u && coreState s 0 == 0 then sendKx1 u s1 else s1
    | _ => s

/-- Contexts with a valid role on a peer in a loaded bank (R291, R414). -/
def ctxsNaming (s : State) (u : UPath) : List Nat :=
  (s.ctxs.filter (fun e => e.2.state != .free && (e.2.roles0 ++ e.2.roles1).any (fun r => r.2.valid && r.2.upath == u))).map
    (·.1)

/-- The jobs of a context that have a chunk for a peer in the send table. -/
def jobsToward (s : State) (c : Nat) (u : UPath) : List (BitVec 32) :=
  ((s.prom.sends.filter (fun e => e.2.ctx == c && e.2.dupath == u)).map (fun e => e.2.jobseq)).eraseDups

/-- A handshake fails (R291, R413): its keys go, and without an older key the contexts that need one halt with
KEY_FAIL. -/
def failShake (u : UPath) (s : State) : State :=
  match tget? s.prom.shakes u.toNat with
  | none => s
  | some h =>
    let s1 := { s with prom := { s.prom with
      keys := tdel (tdel s.prom.keys h.sendSlot) h.recvSlot
      shakes := tdel s.prom.shakes u.toNat } }
    if s1.prom.keys.any (fun e => e.2.peer == u && e.2.send) then s1
    else
      let cs := (h.ctxs ++ ctxsNaming s1 u).eraseDups
      cs.foldl (fun s c => haltSome c (plainFault stKEY_FAIL) (jobsToward s c u) s) s1

/-- KFAIL toward the peer, then the failure here (R412). -/
def rejectShake (u : UPath) (reason : Nat) (s : State) : State := failShake u (sendLctl u 0x25 (leBytes 4 reason) s)

/-- The peer's identity (R411): the reason of the first check that fails. -/
def identityBad (s : State) (chain : List (List Byte)) (msg : List Byte) (sig : BitVec 768) (keyId : Nat) : Option Nat :=
  if !Config.chainOk chain then some 1
  else if [1, 2, 3, 4].any (fun k => decide (Config.chainSvn chain k < minSvn s k)) then some 2
  else if keyId != (if s.sys.testKeyUsed then 1 else 0) then some 3
  else if !Config.ecdsaVerify (Config.chainKey chain) msg (sigBytes sig) then some 4
  else none

/-- A 6 B unit path in a key's info. -/
def pathBytes (u : UPath) : List Byte := leBytes 6 u.toNat

/-- One direction's key (R413): the info is "IXD3 path", the sender's path, the receiver's. -/
def pathKey (z : List Byte) (transcript : List Byte) (from_ to_ : UPath) : BitVec 256 :=
  Config.hkdf (Config.sha384 transcript) z
    ([0x49, 0x58, 0x44, 0x33, 0x20, 0x70, 0x61, 0x74, 0x68] ++ pathBytes from_ ++ pathBytes to_)

/-- Installs the keys of a handshake in its slots (R413). -/
def installKeys (u : UPath) (h : Shake) (s : State) : State :=
  let z := Config.ecdh h.req h.peerPub
  let me := s.grove.upathSelf
  let snd : KeySlot := ⟨u, true, pathKey z h.transcript me u, 0, h.peerSlot, false⟩
  let rcv : KeySlot := ⟨u, false, pathKey z h.transcript u me, 0, 0, false⟩
  { s with prom := { s.prom with keys := tset (tset s.prom.keys h.sendSlot snd) h.recvSlot rcv } }

/-- The grove messages that waited for a key toward a peer leave (R291, R336). -/
def sendSealed (u : UPath) (s : State) : State :=
  (s.prom.sealWait.filter (fun e => e.1 == u)).foldl (fun s e => emit (.grove e.1 e.2.1 e.2.2) s)
    { s with prom := { s.prom with sealWait := s.prom.sealWait.filter (fun e => e.1 != u) } }

/-- The new send key comes into force: older slots of the peer are old (R414), and the handshake is over. -/
def enterKeys (u : UPath) (s : State) : State :=
  match tget? s.prom.shakes u.toNat with
  | none => s
  | some h =>
    sendSealed u { s with prom := { s.prom with
      keys := s.prom.keys.map (fun e => (e.1,
        if e.2.peer = u ∧ e.1 ≠ h.sendSlot ∧ e.1 ≠ h.recvSlot then { e.2 with old := true } else e.2))
      shakes := tdel s.prom.shakes u.toNat } }

/-- A handshake for the grove messages toward a peer of a grove that is reached on an exposed route (R291, R336). -/
def shakeFor (u : UPath) (s : State) : State :=
  if exposedPeer s u && needsShake s u then startShake u 1 none s else s

/-- KRETIRE for old send slots with no chunk that has still to be acknowledged (R414). -/
def retireOld (u : UPath) (s : State) : State :=
  let busy (k : KeySlot) : Bool :=
    s.prom.sends.any (fun e => e.2.dupath == u && e.2.kslot == some k.peerSlot)
  (s.prom.keys.filter (fun e => e.2.peer == u && e.2.send && e.2.old && !busy e.2)).foldl (fun s e =>
    sendLctl u 0x24 (leBytes 4 (e.1 + e.2.peerSlot * 2 ^ 16)) { s with prom := { s.prom with keys := tdel s.prom.keys e.1 } }) s

/-- A pair of slots is erased when no loaded bank names the peer through an exposed path and no chunk under the key is
in flight (R414). -/
def eraseUnused (s : State) : State :=
  let peers := (s.prom.keys.map (fun e => e.2.peer)).eraseDups
  peers.foldl (fun s u =>
    if (exposedPeer s u && !(ctxsNaming s u).isEmpty) || s.prom.sends.any (fun e => e.2.dupath == u) ||
        (tget? s.prom.shakes u.toNat).isSome then s
    else { s with prom := { s.prom with keys := s.prom.keys.filter (fun e => e.2.peer != u) } }) s

/-! The messages received. Those that come while Lodge does not run wait for it (R381). -/

/-- What Lodge does with a message from src: while Lodge does not run the message waits. -/
def withLodge (src : UPath) (m : LodgeMsg) (f : State → State) (s : State) : State :=
  if coreState s 0 = 0 then f s else { s with sys := { s.sys with lodgeQ := s.sys.lodgeQ ++ [(src, m)] } }

/-- Whether a signed answer belongs to the run that a restart of Lodge superseded (R415): its signature holds over the
messages of that run up to it. DESIGN CHOICE: such an answer is dropped (log entry 123). -/
def ofOldRun (before : List Byte) (chain : List (List Byte)) (body : List Byte) (sig : BitVec 768) : Bool :=
  !before.isEmpty && Config.ecdsaVerify (Config.chainKey chain) (before ++ body) (sigBytes sig)

/-- KX1 at the responder: its slots are taken, and KX2 answers (R411). -/
def takeKx1 (src : UPath) (body : BitVec 1088) (s : State) : State :=
  if initiates s src then s
  else
    let w := body.toNat
    let s1 := startShake src (bits w 1056 32) none s
    match tget? s1.prom.shakes src.toNat with
    | none => sendLctl src 0x25 (leBytes 4 5) s1
    | some h =>
      if bits w 1024 8 != (if s.sys.testKeyUsed then 1 else 0) then rejectShake src 3 s1
      else
        let req := s1.free
        let kx1 := leBytes 136 w
        let kx2 := leBytes 136 (kxBody s1 req h.recvSlot (bits w 1056 32)).toNat ++ chainBytes (myChain s1)
        let sig := sigBytes (signAlias s (kx1 ++ kx2))
        let h1 := { h with step := 2, purpose := bits w 1056 32, peerSlot := bits w 1040 16, req := req
                           peerPub := BitVec.ofNat 768 (bits w 256 768), transcript := kx1 ++ kx2 ++ sig }
        sendLctl src 0x21 (kx2 ++ sig)
          { s1 with free := s1.free + 1, prom := { s1.prom with shakes := tset s1.prom.shakes src.toNat h1 } }

/-- KX1 (R411). -/
def execKx1 (src : UPath) (body : BitVec 1088) (s : State) : Result := live (withLodge src (.kx1 body) (takeKx1 src body)) s

/-- KX2 at the initiator: the responder is verified, the keys are derived, and KX3 answers (R411, R413). One that
comes after this instance's KX3 is of a run that the responder's Lodge began again, and it answers the same KX1 (R415;
log entry 64). -/
def takeKx2 (src : UPath) (body : BitVec 1088) (chain : List (List Byte)) (sig : BitVec 768) (s : State) : State :=
  match tget? s.prom.shakes src.toNat with
  | none => s
  | some h =>
    let w := body.toNat
    let kx1 := if h.step = 3 then h.transcript.take 136 else h.transcript
    let kx2 := leBytes 136 w ++ chainBytes chain
    if (h.step != 1 && h.step != 3) || ofOldRun (h.before.take 136) chain kx2 sig then s
    else
      match identityBad s chain (kx1 ++ kx2) sig (bits w 1024 8) with
      | some r => rejectShake src r s
      | none =>
        let t2 := kx1 ++ kx2 ++ sigBytes sig
        let kx3 := chainBytes (myChain s)
        let mine := sigBytes (signAlias s (t2 ++ kx3))
        let h1 := { h with step := 3, peerSlot := bits w 1040 16, peerPub := BitVec.ofNat 768 (bits w 256 768)
                           transcript := t2 ++ kx3 ++ mine }
        let s1 := { s with prom := { s.prom with shakes := tset s.prom.shakes src.toNat h1 } }
        sendLctl src 0x22 (kx3 ++ mine) (installKeys src h1 s1)

/-- KX2 (R411). -/
def execKx2 (src : UPath) (body : BitVec 1088) (chain : List (List Byte)) (sig : BitVec 768) (s : State) : Result :=
  live (withLodge src (.kx2 body chain sig) (takeKx2 src body chain sig)) s

/-- KX3 at the responder: the initiator is verified, the keys are installed and in force, and KDONE answers (R413). The
peer's KEY_ID was judged in its KX1. -/
def takeKx3 (src : UPath) (chain : List (List Byte)) (sig : BitVec 768) (s : State) : State :=
  match tget? s.prom.shakes src.toNat with
  | none => s
  | some h =>
    let kx3 := chainBytes chain
    if h.step != 2 || ofOldRun h.before chain kx3 sig then s
    else
      match identityBad s chain (h.transcript ++ kx3) sig (if s.sys.testKeyUsed then 1 else 0) with
      | some r => rejectShake src r s
      | none =>
        let h1 := { h with transcript := h.transcript ++ kx3 ++ sigBytes sig }
        let s1 := enterKeys src (installKeys src h1 s)
        retireOld src (sendLctl src 0x23 (leBytes 4 (h.sendSlot + h.recvSlot * 2 ^ 16)) s1)

/-- KX3 (R413). -/
def execKx3 (src : UPath) (chain : List (List Byte)) (sig : BitVec 768) (s : State) : Result :=
  live (withLodge src (.kx3 chain sig) (takeKx3 src chain sig)) s

/-- KDONE at the initiator: both sides hold the keys (R411, R414). -/
def takeKdone (src : UPath) (s : State) : State :=
  match tget? s.prom.shakes src.toNat with
  | none => s
  | some h => if h.step != 3 then s else retireOld src (enterKeys src s)

/-- KDONE (R411). -/
def execKdone (src : UPath) (_body : BitVec 32) (s : State) : Result := live (withLodge src .kdone (takeKdone src)) s

/-- KRETIRE: the receiver's old receive slot is erased (R414). -/
def takeKretire (src : UPath) (body : BitVec 32) (s : State) : State :=
  let k := bits body.toNat 16 16
  match tget? s.prom.keys k with
  | some e => if e.peer == src && !e.send && e.old then { s with prom := { s.prom with keys := tdel s.prom.keys k } } else s
  | none => s

/-- KRETIRE (R414). -/
def execKretire (src : UPath) (body : BitVec 32) (s : State) : Result := live (withLodge src (.kretire body) (takeKretire src body)) s

/-- KFAIL: the handshake ends with KEY_FAIL (R413). -/
def execKfail (src : UPath) (_body : BitVec 32) (s : State) : Result := live (withLodge src .kfail (failShake src)) s

/-- HANDSHAKE_TIMEOUT: a handshake not complete within 100 ms ends with KEY_FAIL, reason 6 (R412, R413). While Lodge
restarts the limit restarts with the handshake (R415). -/
def execHandshakeTimeout (peer : UPath) (s : State) : Result :=
  live (fun s =>
    if coreState s 0 = 0 ∧ (tget? s.prom.shakes peer.toNat).isSome then rejectShake peer 6 s else s) s

/-- Handshakes restart from KX1 once Lodge returns (R415): the initiator sends a new one, and a responder takes again
the one that it has answered. -/
def restartShakes (s : State) : State :=
  s.prom.shakes.foldl (fun s e =>
    let u : UPath := BitVec.ofNat 48 e.1
    let s1 := { s with prom := { s.prom with
      keys := tdel (tdel s.prom.keys e.2.sendSlot) e.2.recvSlot
      shakes := tset s.prom.shakes e.1 { e.2 with step := 0, transcript := [], before := e.2.transcript } } }
    if initiates s u then sendKx1 u s1
    else if e.2.step = 2 then takeKx1 u (BitVec.ofNat 1088 (leNat (e.2.transcript.take 136))) s1
    else s1) s

/-- Replaces a send key whose counter has reached 2^39 (R414). -/
def replaceKey (u : UPath) (s : State) : State :=
  match sendKey s u with
  | some (_, k) => if 2 ^ 39 ≤ k.nonce ∧ (tget? s.prom.shakes u.toNat).isNone then startShake u 2 none s else s
  | none => s

end Sys2Proof.Machine
end

