-- ==== Sys2Proof/Machine/Settings.lean ====
section
/-!
DEFINITION. The context commands that set what a context owns (R354): LOG_READ, REGION_SET, WIN_OPEN, WIN_CLOSE, ANGLE_SET,
ROLE_LOAD, LAND_SET and TER_GROUP_MODE.
-/
namespace Sys2Proof.Machine

/-- The record of a command that names no value. -/
def cmdDone (w : Waiter) (st : Nat) : Reply := .done st (cmdBody w.opc 0 0 0 0)

/-- The record of a command with RET0. -/
def cmdRet (w : Waiter) (st ret0 : Nat) : Reply := .done st (cmdBody w.opc ret0 0 0 0)

/-- A source that a context command names, in host memory, for the context (R354, R393, R511). -/
def readSrc (c a n : Nat) (s : State) : State × Option (List Byte) := fetchMem s c false 1 a n

/-! LOG_READ (R52). -/

/-- The 256 B of a context's log. -/
def logBytes (l : List LogEnt) : List Byte :=
  (List.range 16).flatMap (fun i => leBytes 16 (((l[i]?).map logBits).getD 0))

def logReadAct : MsgAct := fun c w m s =>
  let x := m.bits.toNat
  let ctx := getCtx s c
  match extWrite s c false 1 (bits x 64 64) (logBytes ctx.log) [] false with
  | (s1, false) => (s1, cmdDone w stRESOURCE)
  | (s1, true) =>
    (if bit x 128 then modCtx c (fun y => { y with log := [], logTotal := 0 }) s1 else s1, cmdRet w stOK ctx.logTotal)

/-- LOG_READ (R52, R511). -/
def execLogRead (c : CtxId) (s : State) : Result := live (takeMsg c.val 0x03 logReadAct) s

/-! REGION_SET (R205, R206, R395). -/

/-- A region-table entry from its bits (R205). -/
def parseRegion (w : Nat) : Region := ⟨bits w 0 17, bits w 18 18, bit w 36, bit w 37, bit w 38, bit w 39⟩

/-- The bank groups that n bytes from a physical offset on touch: group 8·slice + group (R202). -/
def groupsOf (a n : Nat) : List Nat := if n = 0 then [] else (List.range ((a + n - 1) / 2 ^ 22 + 1 - a / 2 ^ 22)).map (· + a / 2 ^ 22)

/-- Whether a physical range touches a group in cache mode. -/
def meetsCached (s : State) (a n : Nat) : Bool := (groupsOf a n).any (fun g => s.ter.cached.getLsbD g)

/-- The view ranges that an admitted job can reach: its SPACE 0 streams, its programs, and the buffers of the landing
entries of its SPACE 3 streams (R66, R176, R276). -/
def jobSpans (s : State) (j : Job) : List (Nat × Nat) :=
  ((j.desc.streams.filter (fun x => x.space == 0)).map (fun x => (x.base, x.length))) ++
    ((j.progs.filter (fun h => h.member == j.member)).map (fun h => (h.addr, 32 + 16 * h.ncmd))) ++
    (((jobLids s j.ctx j.desc).map (fun lid => tget (getCtx s j.ctx).landing lid Landing.absent)).filter
      (fun e => e.place == 0)).map (fun e => (e.loc4k * 4096, e.len4k * nbufOf e * 4096))

/-- Whether an admitted job of a context can reach entry k of its region table, as the table stands (R206). -/
def regionBusy (s : State) (c k : Nat) : Bool :=
  let t := (getCtx s c).regions
  let first := viewLen (t.filter (fun e => decide (e.1 < k)))
  let n := (tget t k Region.absent).len4k * 4096
  s.jobs.any (fun j => j.ctx == c && (jobSpans s j).any (fun r => rangesMeet r.1 r.2 first n))

/-- The refusals of R206. -/
def regionBad (s : State) (c k : Nat) (r : Region) : Bool :=
  let a := r.base4k * 4096
  let n := r.len4k * 4096
  regionBusy s c k ||
    (r.len4k != 0 &&
      (decide (2 ^ 29 < a + n) || meetsCached s a n || rangesMeet a n (s.band.terBase4k * 4096) (s.band.terLen4k * 4096) ||
        s.ctxs.any (fun e => e.2.regions.any (fun x =>
          !(e.1 == c && x.1 == k) && x.2.len4k != 0 && rangesMeet a n (x.2.base4k * 4096) (x.2.len4k * 4096)))))

/-- The part of an old range that leaves a context becomes 0 (R395). -/
def releaseRange (old new : Region) (t : Terrace) : Terrace :=
  let a := old.base4k * 4096
  let b := a + old.len4k * 4096
  let c := new.base4k * 4096
  let d := c + new.len4k * 4096
  if new.len4k = 0 ∨ b ≤ c ∨ d ≤ a then terClear a (b - a) t
  else terClear (Nat.max a d) (b - Nat.max a d) (terClear a (Nat.min b c - a) t)

/-- Fill tags of a region's granules: unfilled with FILLCHK, none without it (R215, R216). -/
def regionTags (r : Region) (t : Terrace) : Terrace :=
  let gs := (List.range r.len4k).map (· + r.base4k)
  let rest := t.unfilled.filter (fun g => !(decide (r.base4k ≤ g) && decide (g < r.base4k + r.len4k)))
  { t with unfilled := if r.fillchk then rest ++ gs else rest }

/-- Writes entry k of a context's region table. -/
def setRegion (c k : Nat) (r : Region) (s : State) : State :=
  let old := tget (getCtx s c).regions k Region.absent
  let s1 := { s with ter := regionTags r (releaseRange old r s.ter) }
  modCtx c (fun x => { x with regions := if r.len4k = 0 then tdel x.regions k else tset x.regions k r }) s1

def regionSetAct : MsgAct := fun c w m s =>
  let x := m.bits.toNat
  let r := parseRegion (bits x 128 64)
  let k := bits x 64 3
  if regionBad s c k r then (s, cmdDone w stBAD_REGION) else (setRegion c k r s, cmdDone w stOK)

/-- REGION_SET (R205). -/
def execRegionSet (c : CtxId) (s : State) : Result := live (takeMsg c.val 0x04 regionSetAct) s

/-! Windows of the driver (R217, R220, R455). -/

/-- The refusals of R217. -/
def windowBad (s : State) (c : Nat) (cls : BitVec 4) (off len : Nat) : Bool :=
  let t := (getCtx s c).regions
  len = 0 || !inRwin t (off * 4096) (len * 4096) ||
    (cls.getLsbD 3 && !(viewParts t (off * 4096) (len * 4096)).all (fun p => p.region.xwr))

/-- A window that can be opened: not open, not closing, not retired (R220). -/
def winFree (x : Window) : Bool := !x.isOpen && x.closing.isNone && !x.retired

/-- The grant to X-ports when a window that admits them opens (R455). -/
def grantX (w : Nat) (s : State) : State :=
  let x := getWin s w
  if x.wclass.getLsbD 3 then
    let n := Nat.min x.len4k 65535
    emit (.xcredit false x.ctx w x.gen.toNat n) (modWin w (fun y => { y with credits := y.credits + n }) s)
  else s

def winOpenAct : MsgAct := fun c w m s =>
  let x := m.bits.toNat
  let k := bits x 64 12
  let cls := BitVec.ofNat 4 (bits x 77 4)
  if windowBad s c cls (bits x 81 18) (bits x 99 18) then (s, cmdDone w stBAD_REGION)
  else if !winFree (getWin s k) then (s, cmdDone w stRESOURCE)
  else
    let s1 := grantX k (openWin k c (bit x 76) cls (bits x 81 18) (bits x 99 18) none s)
    (s1, cmdRet w stOK (getWin s1 k).gen.toNat)

/-- WIN_OPEN (R217). -/
def execWinOpen (c : CtxId) (s : State) : Result := live (takeMsg c.val 0x05 winOpenAct) s

def winCloseAct : MsgAct := fun c w m s =>
  let k := bits m.bits.toNat 64 12
  let x := getWin s k
  if !x.isOpen || x.ctx != c then (s, cmdDone w stRESOURCE)
  else
    let s1 := closeWin k s
    if x.inflight = 0 then (s1, cmdDone w stOK)
    else (modWin k (fun y => { y with closing := some w }) s1, .later)

/-- WIN_CLOSE (R220). -/
def execWinClose (c : CtxId) (s : State) : Result := live (takeMsg c.val 0x06 winCloseAct) s

/-- The close is reported once the last write that passed before it has committed (R220). -/
def closeDone (k : Nat) (s : State) : State :=
  let x := getWin s k
  match x.closing with
  | none => s
  | some w =>
    if x.inflight = 0 then finish w stOK (cmdBody w.opc 0 0 0 0) (modWin k (fun y => { y with closing := none }) s) else s

/-- WINDOW_CLOSE_COMPLETE (R220). -/
def execWindowCloseComplete (w : Fin 4096) (s : State) : Result := live (closeDone w.val) s

/-! ANGLE_SET (R127). -/

def angleSetAct : MsgAct := fun c w m s =>
  match readSrc c (bits m.bits.toNat 64 64) 512 s with
  | (s1, none) => (s1, cmdDone w stRESOURCE)
  | (s1, some bs) =>
    let t : Tbl (BitVec 32) := ((List.range 128).zip ((leWords 4 128 bs).map (BitVec.ofNat 32))).filter (fun e => e.2 != 0)
    (modCtx c (fun x => { x with angles := t }) s1, cmdDone w stOK)

/-- ANGLE_SET (R127). -/
def execAngleSet (c : CtxId) (s : State) : Result := live (takeMsg c.val 0x07 angleSetAct) s

/-! ROLE_LOAD (R196, R291). -/

def parseRole (w : Nat) : Role := ⟨BitVec.ofNat 48 (bits w 0 48), bits w 48 4, bit w 52, BitVec.ofNat 32 (bits w 64 32)⟩

/-- The peers of some roles that an exposed path reaches and that need a first handshake (R291). -/
def newPeers (s : State) (rs : List Role) : List UPath :=
  ((rs.filter (fun r => r.valid && exposedPeer s r.upath && needsShake s r.upath)).map (·.upath)).eraseDups

/-- Writes roles into a bank, and starts the handshakes that the peers need. -/
def loadRoles (c : Nat) (bank : Bool) (first : Nat) (rs : List Role) (s : State) : State :=
  let put (t : Tbl Role) : Tbl Role :=
    ((List.range rs.length).zip rs).foldl (fun t e => if e.2 = Role.absent then tdel t (first + e.1) else tset t (first + e.1) e.2) t
  let s1 := modCtx c (fun x => if bank then { x with roles1 := put x.roles1 } else { x with roles0 := put x.roles0 }) s
  let waiting := (rs.filter (fun r => r.valid && exposedPeer s r.upath && (sendKey s r.upath).isNone)).map (·.upath)
  eraseUnused (waiting.eraseDups.foldl (fun s u => startShake u 1 (some c) s) s1)

/-- The meaning of ROLE_LOAD: its source is read before N and FIRST are judged (R196, R511). -/
def roleLoadAct : MsgAct := fun c w m s =>
  let x := m.bits.toNat
  let first := bits x 65 12
  let n := bits x 77 13
  match readSrc c (bits x 128 64) (16 * n) s with
  | (s1, none) => (s1, cmdDone w stRESOURCE)
  | (s1, some bs) =>
    if n = 0 ∨ 4096 < n ∨ 4096 < first + n then (s1, cmdDone w stBAD_DESCRIPTOR)
    else
      let rs := (leWords 16 n bs).map parseRole
      if (freeKeySlots s1).length < 2 * (newPeers s1 rs).length then (s1, cmdDone w stRESOURCE)
      else (loadRoles c (bit x 64) first rs s1, cmdDone w stOK)

/-- ROLE_LOAD (R196). -/
def execRoleLoad (c : CtxId) (s : State) : Result := live (takeMsg c.val 0x08 roleLoadAct) s

/-! LAND_SET (R276, R277). -/

def parseLanding (w : Nat) : Landing :=
  ⟨bits w 0 12, bits w 12 12, bits w 24 1, bits w 25 2, bit w 27, bit w 28, bit w 29, bits w 32 21, bits w 64 44, bits w 108 12,
    bits w 120 8, bits w 128 16⟩

/-- A reserved field of R276 that is not 0. -/
def landingReserved (w : Nat) : Bool := !zeroFields w [(30, 2), (53, 11), (144, 112)]

/-- Defined landing entries of the instance. -/
def landingCount (s : State) : Nat := (s.ctxs.map (fun e => (e.2.landing.filter (fun x => x.2.valid)).length)).sum

/-- The refusals of R277 on an entry, with the limit of R276. -/
def landingBad (s : State) (c lid : Nat) (e : Landing) : Bool :=
  let n := nbufOf e * e.len4k
  let isNew := e.valid && !(tget (getCtx s c).landing lid Landing.absent).valid
  e.nbufCode == 3 || e.len4k == 0 || decide (2 ^ 20 < e.len4k) || e.epcred == 0 || decide (e.len4k < e.epcred) ||
    decide (65535 < nbufOf e * e.epcred) || decide (4095 < e.flag0 + e.flagnM1) || (e.acc && e.place == 1) ||
    (e.place == 0 && !inRwin (getCtx s c).regions (e.loc4k * 4096) (n * 4096)) ||
    (e.place == 1 && reachesPrivate s (e.loc4k * 4096) (n * 4096)) ||
    (isNew && decide (4096 ≤ landingCount s))

/-- Whether an admitted job of the context can reach a landing entry (R277). -/
def landingBusy (s : State) (c lid : Nat) : Bool := s.jobs.any (fun j => j.ctx == c && (jobLids s c j.desc).contains lid)

def landSetAct : MsgAct := fun c w m s =>
  let x := m.bits.toNat
  let lid := bits x 64 8
  match readSrc c (bits x 128 64) 32 s with
  | (s1, none) => (s1, cmdDone w stRESOURCE)
  | (s1, some bs) =>
    let v := leNat bs
    let e := parseLanding v
    if landingReserved v || landingBusy s1 c lid || landingBad s1 c lid e then (s1, cmdDone w stBAD_LANDING)
    else
      (modCtx c (fun y => { y with
        landing := if e = Landing.absent then tdel y.landing lid else tset y.landing lid e
        plotLids := y.plotLids.filter (· != lid) }) s1, cmdDone w stOK)

/-- LAND_SET (R276). -/
def execLandSet (c : CtxId) (s : State) : Result := live (takeMsg c.val 0x09 landSetAct) s

/-! TER_GROUP_MODE (R225 to R228). -/

/-- The groups in cache mode in the order of R225. -/
def cacheList (s : State) : List Nat := (List.range 128).filter (fun g => s.ter.cached.getLsbD g)

/-- The lines that a group holds (R225). -/
def groupLines (s : State) (g : Nat) : List CacheLine :=
  let l := cacheList s
  s.ter.lines.filter (fun x => l.getD (x.addr % l.length) 128 == g)

/-- The drain of some lines: dirty ones are written back, all are invalidated (R228). -/
def drainLines (ls : List CacheLine) (s : State) : State :=
  let s1 := ls.foldl (fun s l =>
    if l.dirty then mQueue true 0 true l.space (l.addr * 256) 256 (writeBack l s) else s) s
  { s1 with ter := { s1.ter with lines := s1.ter.lines.filter (fun l => !ls.contains l) } }

/-- Whether an admitted job can reach a group: through a region, or as a cache through memory that it reads or writes.
-/
def groupReached (s : State) (g : Nat) : Bool :=
  let cached := s.ter.cached.getLsbD g
  s.jobs.any (fun j =>
    (getCtx s j.ctx).regions.any (fun e => e.2.len4k != 0 && rangesMeet (e.2.base4k * 4096) (e.2.len4k * 4096) (g * 2 ^ 22) (2 ^ 22)) ||
      (cached && j.desc.streams.any (fun x => x.space == 1 || x.space == 2 || x.space == 3 || x.space == 4)))

/-- Whether a region or the staging pool lies on a group. -/
def groupMapped (s : State) (g : Nat) : Bool :=
  rangesMeet (g * 2 ^ 22) (2 ^ 22) (s.band.terBase4k * 4096) (s.band.terLen4k * 4096) ||
    s.ctxs.any (fun e => e.2.regions.any (fun x =>
      x.2.len4k != 0 && rangesMeet (x.2.base4k * 4096) (x.2.len4k * 4096) (g * 2 ^ 22) (2 ^ 22)))

/-- The switch of R228. When the number of cached groups changes, the lines of every group change their place under
R225, so all are drained. -/
def switchGroup (g : Nat) (toCache : Bool) (s : State) : State :=
  let was := s.ter.cached.getLsbD g
  if was && toCache then drainLines (groupLines s g) s
  else if was then
    let s1 := drainLines s.ter.lines s
    { s1 with ter := terClear (g * 2 ^ 22) (2 ^ 22) { s1.ter with cached := s1.ter.cached &&& ~~~(1#128 <<< g) } }
  else if toCache then
    let s1 := drainLines s.ter.lines s
    { s1 with ter := { s1.ter with cached := s1.ter.cached ||| (1#128 <<< g) } }
  else s

def terGroupModeAct : MsgAct := fun _ w m s =>
  let x := m.bits.toNat
  let g := bits x 64 4 * 8 + bits x 68 3
  if groupReached s g then (s, .stay)
  else if bit x 71 && groupMapped s g then (s, cmdDone w stBAD_REGION)
  else (switchGroup g (bit x 71) s, cmdDone w stOK)

/-- TER_GROUP_MODE (R228). -/
def execTerGroupMode (c : CtxId) (s : State) : Result := live (takeMsg c.val 0x0B terGroupModeAct) s

end Sys2Proof.Machine
end

