-- ==== Sys2Proof/Machine/Xport.lean ====
section
/-!
DEFINITION. Writes from outside through windows (R217 to R219), the X-ports (R221, R454, R455), and the Terrace's error
correction by the patrol scrubber and the write-back of corrected words (R229).
-/
namespace Sys2Proof.Machine

/-! Remote writes (R219). -/

/-- The count that a code of R219 raises. -/
def CtxCounts.window (st : Nat) (k : CtxCounts) : CtxCounts :=
  if st = stWINDOW_CLOSED then { k with windowClosed := satInc k.windowClosed }
  else if st = stWINDOW_CLASS then { k with windowClass := satInc k.windowClass }
  else if st = stWINDOW_RANGE then { k with windowRange := satInc k.windowRange }
  else { k with windowNocredit := satInc k.windowNocredit }

/-- The 4 KiB granules of a view that n bytes from an offset on touch. -/
def granuleCount (off n : Nat) : Nat := if n = 0 then 0 else (off + n - 1) / 4096 + 1 - off / 4096

/-- The checks of R219 on a write of context c: class bit, view range, one credit per granule. -/
def remoteCheck (x : Window) (c : Nat) (gen : BitVec 32) (cls off n : Nat) : Option Nat :=
  if !x.isOpen || x.gen != gen then some stWINDOW_CLOSED
  else if !x.wclass.getLsbD cls then some stWINDOW_CLASS
  else if x.ctx != c || off < x.off4k * 4096 || x.off4k * 4096 + x.len4k * 4096 < off + n then some stWINDOW_RANGE
  else if x.credits < granuleCount off n then some stWINDOW_NOCREDIT
  else none

/-- A dropped write counts in the error status of the window's owner. -/
def countWindow (x : Window) (st : Nat) (s : State) : State := modCounts x.ctx (CtxCounts.window st) s

/-! X-ports (R221). -/

/-- The slices that a range of lines lies in (R202). -/
def lineSlices (l : Nat × Nat) : List Nat :=
  if l.2 = 0 then [] else (List.range ((l.1 + l.2 - 1) / 2 ^ 17 + 1 - l.1 / 2 ^ 17)).map (· + l.1 / 2 ^ 17)

/-- Whether the access table of every slice has an entry for each of some ranges: it holds 256 (R212). -/
def tableRoom (s : State) (ls : List (Nat × Nat)) : Bool :=
  let held (k : Nat) (xs : List (Nat × Nat)) : Nat := (xs.filter (fun l => (lineSlices l).contains k)).length
  (List.range 16).all (fun k =>
    held k ls == 0 || decide (held k (s.ter.access.map (fun a => (a.line0, a.lines))) + Nat.min 256 (held k ls) ≤ 256))

/-- An access may be entered in the access tables: no conflict of R213, and room in each. -/
def tableFree (s : State) (write : Bool) (ls : List (Nat × Nat)) : Bool := !tableBusy s write ls && tableRoom s ls

/-- An X-port read once R207 and XRD let it, and the tables (R213, R216, R221); none while it must wait. -/
def tryXRead (r : XReq) (s : State) : Option State :=
  let t := (getCtx s r.ctx).regions
  let answer (st : Nat) (bs : List Byte) (s : State) : State := emit (.xresp r.port r.tag st bs) s
  let ps := viewParts t r.off r.len
  if viewLen t < r.off + r.len || !ps.all (fun p => p.region.xrd) then some (answer stTERRACE_BOUND [] s)
  else if !tableFree s false (partLines ps) then none
  else
    match terRead s r.ctx r.off r.len with
    | (s1, .ok (bs, _)) => some (answer stOK bs s1)
    | (s1, .error f) =>
      some (answer f.status [] (if f.status = stUNFILLED_READ then
        modCounts r.ctx (fun k => { k with unfilledRead := satInc k.unfilledRead }) s1 else s1))

/-- Runs of enabled bytes: (first byte, length). -/
def beRuns : Nat → List Bool → List (Nat × Nat)
  | _, [] => []
  | i, false :: bs => beRuns (i + 1) bs
  | i, true :: bs =>
    match beRuns (i + 1) bs with
    | [] => [(i, 1)]
    | (a, n) :: rest => if a = i + 1 then (i, n + 1) :: rest else (i, 1) :: (a, n) :: rest

/-- The enabled bytes of a write, placed in a context's view. -/
def maskedWrite (c off : Nat) (bs : List Byte) (en : List Bool) (s : State) : State :=
  (beRuns 0 en).foldl (fun s r => (terWrite s c (off + r.1) ((bs.drop r.1).take r.2) []).1) s

/-- The credits that a committed write replaces while its window is open at its GEN (R455): one message for each. -/
def replaceX (k n : Nat) (s : State) : State :=
  (List.range n).foldl (fun s _ =>
    let x := getWin s k
    emit (.xcredit false x.ctx k x.gen.toNat 1) (modWin k (fun y => { y with credits := y.credits + 1 }) s)) s

/-- An X-port write after the checks of R207, R213 and R219: it spends its credits, commits, and they are replaced; none
while it must wait. -/
def tryXWrite (r : XReq) (k : Nat) (gen : BitVec 32) (bs : List Byte) (en : List Bool) (s : State) : Option State :=
  let t := (getCtx s r.ctx).regions
  let answer (st : Nat) (s : State) : State := emit (.xresp r.port r.tag st []) s
  let x := getWin s k
  if viewLen t < r.off + r.len then some (answer stTERRACE_BOUND s)
  else if !tableFree s true (partLines (viewParts t r.off r.len)) then none
  else
    match remoteCheck x r.ctx gen 3 r.off r.len with
    | some st => some (answer st (countWindow x st s))
    | none =>
      let g := granuleCount r.off r.len
      let s1 := modWin k (fun y => { y with credits := y.credits - g }) s
      some (replaceX k g (answer stOK (maskedWrite r.ctx r.off bs en s1)))

/-- An X-port request: it has its effect, or waits at its mesh entry (R213). -/
def xAccess (r : XReq) (s : State) : State :=
  let done := match r.write with
    | none => tryXRead r s
    | some (k, gen, bs, en) => tryXWrite r k gen bs en s
  done.getD { s with ter := { s.ter with xwait := s.ter.xwait ++ [r] } }

/-- The X-port requests that wait are tried again, oldest first: a stalled access blocks no other (R213). -/
def wakeX (s : State) : State := s.ter.xwait.foldl (fun s r => xAccess r s) { s with ter := { s.ter with xwait := [] } }

/-- X_NARROW_READ (R221). -/
def execXNarrowRead (port : Fin 4) (c : CtxId) (word : Fin 67108864) (tag : Fin 64) (s : State) : Result :=
  live (xAccess ⟨port.val, tag.val, c.val, 8 * word.val, 8, none⟩) s

/-- X_BLOCK_READ (R221): lines + 1 whole lines. -/
def execXBlockRead (port : Fin 4) (c : CtxId) (line : Fin 2097152) (lines : Fin 16) (tag : Fin 64) (s : State) : Result :=
  live (xAccess ⟨port.val, tag.val, c.val, 256 * line.val, 256 * (lines.val + 1), none⟩) s

/-- Byte enables as a list. -/
def enables (n : Nat) (be : Nat) : List Bool := (List.range n).map (fun i => be.testBit i)

/-- X_NARROW_WRITE (R221). -/
def execXNarrowWrite (port : Fin 4) (c : CtxId) (word : Fin 67108864) (tag : Fin 64) (widx : Fin 4096) (gen : BitVec 32)
    (data : BitVec 64) (be : BitVec 8) (s : State) : Result :=
  live (xAccess ⟨port.val, tag.val, c.val, 8 * word.val, 8,
    some (widx.val, gen, leBytes 8 data.toNat, enables 8 be.toNat)⟩) s

/-- X_BLOCK_WRITE (R221): whole lines with their byte enables. -/
def execXBlockWrite (port : Fin 4) (c : CtxId) (line : Fin 2097152) (tag : Fin 64) (widx : Fin 4096) (gen : BitVec 32)
    (data : List (BitVec 2048)) (be : List (BitVec 256)) (s : State) : Result :=
  live (xAccess ⟨port.val, tag.val, c.val, 256 * line.val, 256 * data.length,
    some (widx.val, gen, data.flatMap (fun d => leBytes 256 d.toNat), be.flatMap (fun b => enables 256 b.toNat))⟩) s

/-! Error correction (R202, R229). -/

/-- The physical offset of line l of a bank of a slice: bank 8g + b is bank b of group g (R202). -/
def bankLine (slice bank l : Nat) : Nat := slice * 2 ^ 25 + bank / 8 * 2 ^ 22 + l * 2 ^ 11 + bank % 8 * 2 ^ 8

/-- The bank of a slice that holds a physical word. -/
def bankOfWord (w : Nat) : Nat := bits (wordByte w) 22 3 * 8 + bits (wordByte w) 8 3

/-- The scrubber reads the next line of a bank with its sideband word and corrects as a read does. -/
def scrubNext (slice bank : Nat) (s : State) : State :=
  let k := slice * 64 + bank
  let l := tget s.ter.scrub k 0
  let a := bankLine slice bank l
  let s1 := eccTouch (s.ter.flips.filter (fun e => wordIn a 256 e.1 || e.1 == sideWord (a / 256))) s
  { s1 with ter := { s1.ter with scrub := tset s1.ter.scrub k ((l + 1) % 2048) } }

/-- PATROL_SCRUB (R229). -/
def execPatrolScrub (slice : Fin 16) (bank : Fin 64) (s : State) : Result := live (scrubNext slice.val bank.val) s

/-- The oldest corrected word of a bank is written back: its flipped bit goes. -/
def writeBackWord (slice bank : Nat) (s : State) : State :=
  match s.ter.wback.find? (fun w => sliceOfWord w == slice && bankOfWord w == bank) with
  | none => s
  | some w => { s with ter := { s.ter with flips := tdel s.ter.flips w, wback := s.ter.wback.filter (· != w) } }

/-- SECDED_WRITEBACK (R229). -/
def execSecdedWriteback (slice : Fin 16) (bank : Fin 64) (s : State) : Result := live (writeBackWord slice.val bank.val) s

end Sys2Proof.Machine
end

