-- ==== Sys2Proof/Machine/Paths.lean ====
section
/-!
DEFINITION. Paths and G-ports (R262 to R272, R293, R294, R453, R491): their configuration, bring-up, retraining and failure,
the flits that they receive, and relaying.
-/
namespace Sys2Proof.Machine

/-! Writes of 8 B registers. -/

/-- Whether the byte enables cover a field in full (R351). -/
def covers (be : BitVec 8) (f : Nat × Nat) : Bool :=
  (List.range 8).all (fun i => be.getLsbD i || i < f.1 / 8 || (f.1 + f.2 - 1) / 8 < i)

/-- The bits of the fields that the byte enables cover in full. -/
def fieldMask (fs : List (Nat × Nat)) (be : BitVec 8) : BitVec 64 :=
  (fs.filter (covers be)).foldl (fun m f => m ||| BitVec.ofNat 64 ((2 ^ f.2 - 1) * 2 ^ f.1)) 0

/-- A register after a write to its fields: the others keep their value, reserved bits read 0 (R13, R351). -/
def writeFields (fs : List (Nat × Nat)) (old v : BitVec 64) (be : BitVec 8) : BitVec 64 :=
  let m := fieldMask fs be
  (old &&& ~~~m) ||| (v &&& m)

/-! PATH_CFG and PATH_RSTORE. -/

/-- The fields of PATH_CFG (R263) and PATH_RSTORE (R270). -/
def pathFields : List (Nat × Nat) := [(0, 1), (1, 1), (2, 1), (4, 4), (8, 3), (16, 9), (32, 16)]
def rstoreFields : List (Nat × Nat) := [(0, 36), (36, 20)]

def Link.en (l : Link) : Bool := l.cfg.getLsbD 0
def Link.pl2 (l : Link) : Bool := l.cfg.getLsbD 1
def Link.exposed (l : Link) : Bool := l.cfg.getLsbD 2

/-- The lanes of a path as a range of lane numbers (R262). -/
def Link.lanes (l : Link) : Nat × Nat := (l.lane0, l.width)

/-- The lane and the beat on which byte b of a path's flit stream goes (R262). -/
def Link.striped (l : Link) (b : Nat) : Nat × Nat := (l.lane0 + b / 32 % l.width, b / (32 * l.width))

/-- The bytes of stack memory behind an instance: 144 GiB (01_architecture.md). -/
def stackBytes : Nat := 144 * 2 ^ 30

/-- The settings that leave a path in FAIL with CFG_BAD (R263, R270, R292). -/
def cfgBad (s : State) (p : Fin 4) (l : Link) : Bool :=
  decide (4 < l.widthCode) || l.lane0 % l.width != 0 || decide (16 < l.lane0 + l.width) || (l.pl2 && l.exposed) ||
    (l.pl2 && decide (8 < l.width)) || decide (400 < l.latUs) ||
    s.prom.paths.any (fun e => e.1 != p.val && e.2.en && rangesMeet l.lane0 l.width e.2.lane0 e.2.width) ||
    (l.rsLen != 0 && (decide (stackBytes < l.rsBase + l.rsLen) ||
      (privateRanges { s with prom := { s.prom with paths := tdel s.prom.paths p.val } }).any (fun r =>
        rangesMeet l.rsBase l.rsLen r.1 r.2)))

/-- A link as bring-up finds it: nothing sent or received, counts at 0 (R264, R293, R491). -/
def Link.fresh (l : Link) : Link :=
  { l with
    awidth := 0, retrains := 0, replays := 0, lanesOk := 0, rowRetrains := 0, gotHello := false, gotHelloAck := false
    peer := 0, peerWidth := 0, txSeq := 0, rxSeq := 0, retry := [], replayRuns := 0, held := [], msgs := [], chunks := []
    turn := 0, seg := none, rxLast := none, rxOpen := [] }

/-- A C-port write of PATH_CFG (R263, R491). -/
def writePathCfg (p : Fin 4) (v : BitVec 64) (be : BitVec 8) (s : State) : State :=
  let port := LinkPort.path p
  let l := getLink s port
  let m := fieldMask pathFields be
  let new := writeFields pathFields l.cfg v be
  if l.en then
    let s1 := if m &&& ~~~(1#64) != 0 then setErr ebCFG_LOCKED s else s
    if new.getLsbD 0 then s1
    else linkState port lsDown 0 (setLink port { l with cfg := l.cfg &&& ~~~(1#64) } s1)
  else
    let l1 := { l with cfg := new }
    if !l1.en then setLink port l1 s
    else if cfgBad s p l1 then linkState port lsFail 1 (setLink port l1.fresh s)
    else linkState port lsTrain 0 (setLink port l1.fresh s)

/-- PATH_ENABLE (R263). -/
def execPathEnable (p : Fin 4) (v : BitVec 64) (be : BitVec 8) (s : State) : Result := running (writePathCfg p v be) s

/-- PATH_DISABLE (R491). -/
def execPathDisable (p : Fin 4) (v : BitVec 64) (be : BitVec 8) (s : State) : Result := running (writePathCfg p v be) s

/-- A C-port write of PATH_RSTORE (R270, R491). -/
def writePathRstore (p : Fin 4) (v : BitVec 64) (be : BitVec 8) (s : State) : State :=
  let l := getLink s (.path p)
  if l.en then setErr ebCFG_LOCKED s else setLink (.path p) { l with rstore := writeFields rstoreFields l.rstore v be } s

/-- PATH_RSTORE_WRITE (R270). -/
def execPathRstoreWrite (p : Fin 4) (v : BitVec 64) (be : BitVec 8) (s : State) : Result := running (writePathRstore p v be) s

/-! HELLO (R272, R293). -/

/-- The capability records of an instance, by ID and VERSION (R372, R373). -/
def capVersions : List (Nat × Nat) := (List.range 19).map (fun i => (i + 1, if i = 0 then 3 else 1))

/-- CAPSUM: CRC-32C over the ID and VERSION bytes (R272). -/
def capSum : Nat := crc32c (capVersions.flatMap (fun e => leBytes 2 e.1 ++ leBytes 1 e.2))

/-- The HELLO body (R272): CORE version 3, SFU_TABLES version 1. -/
def helloBody (s : State) (port : LinkPort) : BitVec 256 :=
  let l := getLink s port
  let own : Nat := match port with
    | .path _ => (if l.pl2 then 1 else 0) + l.widthCode * 2 + l.latUs * 2 ^ 4
    | .gport _ => 4 * 2
  BitVec.ofNat 256 (s.grove.upathSelf.toNat + own * 2 ^ 48 + 3 * 2 ^ 64 + 1 * 2 ^ 72 + capSum * 2 ^ 96)

/-- Sends HELLO or HELLO_ACK as the link's next link-control message (R272). -/
def sendHello (port : LinkPort) (ack : Bool) (s : State) : State :=
  emit (.helloMsg port ack (helloFlit (isPl2 s port) (getLink s port).mid ack (helloBody s port)))
    (modLink port (fun l => { l with mid := (l.mid + 1) % 2 ^ 16 }) s)

/-- A port enters HELLO and sends its first HELLO (R293). -/
def enterHello (port : LinkPort) (s : State) : State :=
  sendHello port false (linkState port lsHello 0 (modLink port (fun l => { l with gotHello := false, gotHelloAck := false }) s))

/-- Whether a valid route entry that names the port matches a partner's path (R272). -/
def peerExpected (s : State) (port : LinkPort) (u : UPath) : Bool :=
  s.prom.routes.any (fun e => e.1 < 64 && routeMatches e.2 u && routePort e.2 == port)

/-- The code of the largest width that the working lanes support from the first lane on (R294). -/
def workingCode (l : Link) : Option Nat :=
  ([4, 3, 2, 1, 0].filter (fun k => k ≤ l.widthCode)).find? (fun k =>
    (List.range (2 ^ k)).all (fun i => l.lanesOk.getLsbD (l.lane0 + i)))

/-- The width at which a port comes UP: the smallest of both WIDTH codes and what its lanes support (R272). -/
def upWidth (port : LinkPort) (l : Link) : Nat :=
  match port with
  | .path _ => Nat.min (Nat.min l.widthCode l.peerWidth) ((workingCode l).getD 0)
  | .gport _ => 4

/-- A port comes UP at its width; an instance whose path is all ones brings up no path (R272, R330). -/
def enterUp (port : LinkPort) (s : State) : State :=
  if s.grove.upathSelf == BitVec.allOnes 48 then s
  else linkState port lsUp 0 (modLink port (fun l => { l with awidth := upWidth port l }) s)

/-- A port leaves HELLO when it has received both messages: to SECURE on an exposed path, else UP (R272, R293). An
instance whose path is all ones brings up no path (R330). -/
def helloDone (port : LinkPort) (s : State) : State :=
  let l := getLink s port
  if l.gotHello && l.gotHelloAck && s.grove.upathSelf != BitVec.allOnes 48 then
    if exposedPort s port then linkState port lsSecure 0 s else enterUp port s
  else s

/-- What a partner's HELLO or HELLO_ACK says of it (R272). -/
def takeHelloBody (port : LinkPort) (ack : Bool) (body : BitVec 256) (s : State) : State :=
  let w := body.toNat
  let l := getLink s port
  let u : UPath := BitVec.ofNat 48 (bits w 0 48)
  let own : Bool := match port with
    | .path _ => l.pl2
    | .gport _ => false
  if bit w 48 != own then linkState port lsFail 5 s
  else if !peerExpected s port u then linkState port lsFail 6 s
  else helloDone port (setLink port { l with
    peer := u, peerWidth := bits w 49 3, gotHello := l.gotHello || !ack, gotHelloAck := l.gotHelloAck || ack } s)

/-- HELLO (R272). -/
def takeHello (port : LinkPort) (body : BitVec 256) (s : State) : State :=
  if (getLink s port).state = lsHello then takeHelloBody port false body (sendHello port true s) else s

def execHello (port : LinkPort) (body : BitVec 256) (s : State) : Result := live (takeHello port body) s

/-- HELLO_ACK (R272). -/
def takeHelloAck (port : LinkPort) (body : BitVec 256) (s : State) : State :=
  if (getLink s port).state = lsHello then takeHelloBody port true body s else s

def execHelloAck (port : LinkPort) (body : BitVec 256) (s : State) : Result := live (takeHelloAck port body) s

/-- HELLO_RESEND: every 10 µs in HELLO (R272). -/
def execHelloResend (port : LinkPort) (s : State) : Result :=
  live (fun s => if (getLink s port).state = lsHello then sendHello port false s else s) s

/-- A port in a state goes to FAIL with a cause. -/
def failFrom (port : LinkPort) (st cause : Nat) (s : State) : State :=
  if (getLink s port).state = st then linkState port lsFail cause s else s

/-- HELLO_TIMEOUT (R293). -/
def execHelloTimeout (port : LinkPort) (s : State) : Result := live (failFrom port lsHello 4) s

/-- SECURE_TIMEOUT (R293). -/
def execSecureTimeout (p : Fin 4) (s : State) : Result := live (failFrom (.path p) lsSecure 7) s

/-- TRAIN_TIMEOUT: NO_LOCK, or DESKEW when every lane has lock (R293). -/
def execTrainTimeout (p : Fin 4) (skew : Bool) (s : State) : Result :=
  live (failFrom (.path p) lsTrain (if skew then 3 else 2)) s

/-- RETRAIN_TIMEOUT (R294, R453). -/
def execRetrainTimeout (port : LinkPort) (s : State) : Result := live (failFrom port lsRetrain 8) s

/-- PATH_IDENTITY_KEY_CONFIRM: Lodge holds its path identity key, and the path leaves SECURE (R293). -/
def keyConfirmed (p : Fin 4) (s : State) : State :=
  if (getLink s (.path p)).state = lsSecure then enterUp (.path p) s else s

def execPathIdentityKeyConfirm (p : Fin 4) (s : State) : Result := live (keyConfirmed p) s

/-! Lanes (R293, R294). -/

/-- Lanes report lock: TRAIN ends when all have it, RETRAIN when the first lanes of some width have it. -/
def lanesLock (p : Fin 4) (lanes : BitVec 16) (s : State) : State :=
  let port := LinkPort.path p
  let l := { getLink s port with lanesOk := lanes }
  let s1 := setLink port l s
  let full : Bool := workingCode l == some l.widthCode
  if l.state = lsTrain ∧ full then enterHello port s1
  else if l.state = lsRetrain ∧ (workingCode l).isSome then enterUp port s1
  else s1

/-- LANE_LOCK_GAIN (R293). -/
def execLaneLockGain (p : Fin 4) (lanes : BitVec 16) (s : State) : Result := live (lanesLock p lanes) s

/-- An UP port retrains, its retry store kept; after three retrains in a row without an acknowledged flit it fails
(R294). -/
def enterRetrain (port : LinkPort) (s : State) : State :=
  let l := getLink s port
  if 3 ≤ l.rowRetrains then linkState port lsFail 8 s
  else linkState port lsRetrain 0 (setLink port { l with rowRetrains := l.rowRetrains + 1, replayRuns := 0 } s)

/-- The path of a lane. -/
def laneOwner (s : State) (lane : Nat) : Option (Fin 4) :=
  [0, 1, 2, 3].find? (fun p => let l := getLink s (.path p); l.en && l.lane0 ≤ lane && lane < l.lane0 + l.width)

/-- A lane loses lock (R294, R451). -/
def laneLost (lane : Nat) (s : State) : State :=
  match laneOwner s lane with
  | none => s
  | some p =>
    let port := LinkPort.path p
    let s1 := modLink port (fun l => { l with lanesOk := l.lanesOk &&& ~~~(1#16 <<< lane) }) s
    if (getLink s port).state = lsUp then enterRetrain port s1 else s1

/-- LANE_LOCK_LOSS (R294). -/
def execLaneLockLoss (lane : Fin 16) (s : State) : Result := live (laneLost lane.val) s

/-! G-ports (R453). -/

/-- G_UP rises: HELLO starts, from RETRAIN with the retry buffer and the numbers kept (R269, R453). -/
def gRises (g : Fin 4) (s : State) : State :=
  let port := LinkPort.gport g
  let l := getLink s port
  if l.up then s
  else
    let l1 := if l.state = lsRetrain then { l with up := true } else { l.fresh with up := true }
    enterHello port (setLink port l1 s)

/-- G_UP_RISE. -/
def execGUpRise (g : Fin 4) (s : State) : Result := live (gRises g) s

/-- G_UP falls: RETRAIN (R453). -/
def gFalls (g : Fin 4) (s : State) : State :=
  let port := LinkPort.gport g
  let l := getLink s port
  let s1 := setLink port { l with up := false } s
  if l.state = lsUp ∨ l.state = lsHello then enterRetrain port s1 else s1

/-- G_UP_FALL. -/
def execGUpFall (g : Fin 4) (s : State) : Result := live (gFalls g) s

/-! Receiving flits (R266 to R269, R272). -/

/-- The acknowledgement of a flit: flits up to ACKSEQ leave the retry store, and flits that waited for room follow
(R269). -/
def takeAck (port : LinkPort) (ackv : Bool) (ack : Nat) (s : State) : State :=
  let l := getLink s port
  let m := seqModulus (isPl2 s port)
  match l.retry with
  | [] => s
  | (n, _) :: _ =>
    let d := (ack + m - n % m) % m
    if ackv && decide (d < m / 2) then
      drainLink port (setLink port { l with retry := l.retry.drop (d + 1), rowRetrains := 0, replayRuns := 0 } s)
    else s

/-- NAK: every unacknowledged flit is replayed; sixteen replays of one flit without progress retrain the path, and a
replay that meets poison in the stack store ends it (R269, R270, R294). -/
def takeNak (port : LinkPort) (s : State) : State :=
  let l := getLink s port
  if l.retry.isEmpty then s
  else if replayPoisoned s port then linkState port lsFail 9 s
  else
    let l1 := { l with replays := BitVec.ofNat 32 (satAdd l.replays.toNat l.retry.length), replayRuns := l.replayRuns + 1 }
    let s1 := emit (.replay port (l.retry.map (fun e => refreshFlit (isPl2 s port) l.rxSeq e.2))) (setLink port l1 s)
    if 16 ≤ l1.replayRuns then enterRetrain port s1 else s1

/-- The port to which traffic for another instance is relayed (R266): a PL3 path or a G-port other than the one on which
it arrived; PL2 traffic is never relayed (R292). -/
def relayPort (s : State) (from_ : LinkPort) (u : UPath) : Option LinkPort :=
  if isPl2 s from_ then none
  else match routeOf s u with
    | none => none
    | some p => if p = from_ ∨ isPl2 s p = true then none else some p

/-- Whether a path names another instance. -/
def elsewhere (s : State) (u : UPath) : Bool := u != s.grove.upathSelf

/-- A 64 B header whose HCRC at bit `at_` matches (R274, R323). -/
def hcrcOk (at_ : Nat) (h : Nat) : Bool := crc32c (leBytes 64 (setBits h at_ 32 0)) == bits h at_ 32

/-- The bytes of the stream that follows a chunk's header, or a BAND chunk's, but for what only the data carries (R275,
R323). -/
def streamBytes (ftype : Nat) (h : Nat) : Nat :=
  if ftype = 1 then bits h 16 16 + 9 + (if bit h 11 then 32 else 0) + (if bit h 8 then 16 else 0)
  else if [1, 2, 7].contains (bits h 12 4) then bits h 32 16 + 9 + (if bit h 8 then 16 else 0)
  else 0

/-- What a relay still expected of a chunk does not come: what has arrived of it leaves, and its slot is free. -/
def closeRelay (src : LinkPort × Nat) (s : State) : State :=
  match tget? (getLink s src.1).rxOpen src.2 with
  | none => s
  | some (out, _) =>
    linkPut out (fun l => { l with chunks := l.chunks.filterMap (fun c =>
      if c.src = some src && !c.whole then (if c.flits.isEmpty then none else some { c with whole := true }) else some c) })
      (modLink src.1 (fun l => { l with rxOpen := tdel l.rxOpen src.2 }) s)

/-- A header flit of a chunk or a BAND chunk: its relay, where it has one (R266). -/
def relayHead (port : LinkPort) (ftype tslot pvb hat : Nat) (dst : UPath) (payload : List Byte) (s : State) : State :=
  let s0 := closeRelay (port, tslot) s
  if !elsewhere s dst then s0
  else match relayPort s port dst with
    | none => s0
    | some out =>
      let h := leNat (payload.take 64)
      let n := streamBytes ftype h
      if !hcrcOk hat h then countHdrErr port s0
      else
        linkPut out (fun l => { l with chunks := l.chunks ++ [⟨some (port, tslot), none, [⟨ftype, pvb, false, payload⟩], n == 0⟩] })
          (if n = 0 then s0 else modLink port (fun l => { l with rxOpen := tset l.rxOpen tslot (out, n, 0) }) s0)

/-- A data flit of a relayed chunk: passed on in the chunk's slot, which its last flit frees (R266). -/
def relayData (port : LinkPort) (tslot pvb : Nat) (payload : List Byte) (s : State) : State :=
  match tget? (getLink s port).rxOpen tslot with
  | none => s
  | some (out, n, got) =>
    let last : Bool := decide (pvb < flitPayload false) || got + pvb == n
    linkPut out (fun l => { l with chunks := l.chunks.map (fun c =>
      if c.src = some (port, tslot) && !c.whole then { c with flits := c.flits ++ [⟨2, pvb, false, payload⟩], whole := last } else c) })
      (modLink port (fun l => { l with
        rxOpen := if last then tdel l.rxOpen tslot else tset l.rxOpen tslot (out, n, got + pvb) }) s)

/-- Traffic for another instance that cannot be relayed goes back to the instance that sent it, with the first 64 B of
its payload (R266, R289; log entry 69). -/
def bounceAway (src : UPath) (payload : List Byte) (s : State) : State :=
  emit (.bounce src (BitVec.ofNat 512 (leNat (payload.take 64))) 0) s

/-- The body of a rebuilt message: of an encrypted one, the routing block and what its key opens; none where no key does
(R272, R290). -/
def openBody (s : State) (enc : Bool) (body : List Byte) : Option (List Byte) :=
  if !enc then some body
  else
    let rb := body.take 16
    let ks := leNat ((body.drop 24).take 4)
    match tget? s.prom.keys ks with
    | some k =>
      if k.send || k.peer != BitVec.ofNat 48 (leNat ((rb.drop 6).take 6)) then none
      else (Config.gcmOpen k.key (gcmIv (leNat ((body.drop 16).take 8)) ks) rb (body.drop 28)).map (fun m => rb ++ m)
    | none => none

/-- The relay of a link-control message that goes no further (R266, R272). -/
def closeMsg (port out : LinkPort) (s : State) : State :=
  linkPut out (fun l => { l with msgs := l.msgs.filterMap (fun m =>
    if m.src = some port && !m.whole then (if m.segs.isEmpty then none else some { m with whole := true }) else some m) }) s

/-- The message being rebuilt on a port is given up (R272). -/
def dropMsg (port : LinkPort) (s : State) : State :=
  let s1 := match (getLink s port).seg.bind (·.relayTo) with
    | some out => closeMsg port out s
    | none => s
  modLink port (fun l => { l with seg := none }) s1

/-- A segment of a link-control message: rebuilt or discarded by the rules of R272, and relayed where it names another
instance (R266). -/
def takeSegment (port : LinkPort) (pvb : Nat) (payload : List Byte) (s : State) : State :=
  let w := leNat (payload.take 16)
  let ltype := bits w 0 8
  let mid := bits w 16 16
  let k := bits w 32 12
  let mlen := bits w 64 32
  let last := bit w 44
  let known : Bool := ltype == 1 || ltype == 2 || ltype == 0x10 || (decide (0x20 ≤ ltype) && decide (ltype ≤ 0x25))
  let dst : UPath := BitVec.ofNat 48 (leNat ((payload.drop 16).take 6))
  let src : UPath := BitVec.ofNat 48 (leNat ((payload.drop 22).take 6))
  let away : Bool := decide (0x10 ≤ ltype) && elsewhere s dst
  let s0 := if k = 0 then dropMsg port s else s
  let cur : Option RxMsg := if k = 0 then some ⟨mid, 0, mlen, [], if away then relayPort s port dst else none⟩
    else (getLink s port).seg
  if !known then countHdrErr port (dropMsg port s0)
  else match cur with
    | none => countHdrErr port s0
    | some m =>
      let body := m.body ++ (payload.drop 16).take (pvb - 16)
      if m.mid != mid || m.next != k || m.mlen < body.length then countHdrErr port (dropMsg port s0)
      else
        let s1 := modLink port (fun l => { l with seg := if last then none else some { m with next := k + 1, body := body } }) s0
        let f : TxFlit := ⟨6, pvb, false, payload⟩
        match m.relayTo with
        | some out =>
          let grow (x : TxMsg) : TxMsg :=
            if x.src = some port && !x.whole then { x with segs := x.segs ++ [f], whole := last } else x
          let put (ms : List TxMsg) : List TxMsg := if k = 0 then ms ++ [⟨some port, [f], last⟩] else ms.map grow
          linkPut out (fun l => { l with msgs := put l.msgs }) s1
        | none =>
          if away then (if k = 0 then bounceAway src payload s1 else s1)
          else if last then
            match openBody s1 (bit w 45) body with
            | some b => modLink port (fun l => { l with rxLast := some (ltype, b) }) s1
            | none => s1
          else s1

/-- What the link layer does with an accepted flit: it relays traffic that names another instance, or bounces it (R266).
What is for this instance reaches it by the commands of the units that receive it (log entry 8), and those bounce the
chunks. The records of a PL2 link name no instance (R283). -/
def acceptFlit (port : LinkPort) (ftype tslot pvb : Nat) (payload : List Byte) (s : State) : State :=
  let pathAt (k : Nat) : UPath := BitVec.ofNat 48 (leNat ((payload.drop k).take 6))
  match ftype with
  | 1 => relayHead port 1 tslot pvb 416 (pathAt 4) payload s
  | 7 => if isPl2 s port then s else relayHead port 7 tslot pvb 384 (pathAt 64) payload s
  | 2 => relayData port tslot pvb payload s
  | 3 | 4 | 5 =>
    if !isPl2 s port && elsewhere s (pathAt 0) then
      match relayPort s port (pathAt 0) with
      | some out => pushFlit out ftype pvb false payload s
      | none => bounceAway (pathAt 6) payload s
    else s
  | 6 => takeSegment port pvb payload s
  | _ => s

/-- A flit arrives on a port that is UP (R268): one whose CRC fails or whose number is not the next is discarded and
answered with NAK. -/
def takeFlit (port : LinkPort) (flit : BitVec 2048) (s : State) : State :=
  let l := getLink s port
  let pl2 := isPl2 s port
  let m := seqModulus pl2
  let n := flitBytes pl2
  let bs := leBytes n flit.toNat
  let h := leNat (bs.take 8)
  let seq := bits h 8 16 + (if pl2 then 0 else bits h 50 7 * 2 ^ 16)
  let ack := bits h 24 16 + (if pl2 then 0 else bits h 57 7 * 2 ^ 16)
  if l.state != lsUp then s
  else if crc32c (bs.take (n - 4)) != leNat (bs.drop (n - 4)) || seq != l.rxSeq % m then
    emit (.nak port ((l.rxSeq + m - 1) % m)) s
  else
    let s1 := takeAck port (bit h 40) ack (setLink port { l with rxSeq := l.rxSeq + 1 } s)
    let s2 := if bit h 41 then takeNak port s1 else s1
    acceptFlit port (bits h 0 4) (bits h 4 4) (bits h 42 8) ((bs.drop 8).take (flitPayload pl2)) s2

/-- LINK_FLIT_RECEIVE (R268). -/
def execLinkFlitReceive (port : LinkPort) (flit : BitVec 2048) (s : State) : Result := live (takeFlit port flit) s

end Sys2Proof.Machine
end

