-- ==== Sys2Proof/Machine/Promenade.lean ====
section
/-!
DEFINITION. Chunks between instances (R273 to R292): their sending with credits and keys, the landing port's checks, landing,
acknowledgement, resends, bounces and timeouts.
-/
namespace Sys2Proof.Machine

/-! Headers (R274). -/

/-- A header field of w bits from bit lo on. -/
def hf (hdr : BitVec 512) (lo w : Nat) : Nat := bits hdr.toNat lo w

def chLen (h : BitVec 512) : Nat := hf h 16 16 + 1
def chDupath (h : BitVec 512) : UPath := BitVec.ofNat 48 (hf h 32 48)
def chSupath (h : BitVec 512) : UPath := BitVec.ofNat 48 (hf h 192 48)
def chCtx (h : BitVec 512) : Nat := hf h 92 12
def chRole (h : BitVec 512) : Nat := hf h 80 12
def chRepoch (h : BitVec 512) : BitVec 32 := BitVec.ofNat 32 (hf h 128 32)
def chEpoch (h : BitVec 512) : Nat := hf h 160 32
def chLoff (h : BitVec 512) : Nat := hf h 256 40
def chLid (h : BitVec 512) : Nat := hf h 332 8
def chStag (h : BitVec 512) : Nat := hf h 312 14
def chWidx (h : BitVec 512) : Nat := hf h 352 12
def chWgen (h : BitVec 512) : BitVec 32 := BitVec.ofNat 32 (hf h 384 32)

/-- Puts HCRC into a header whose field is 0 (R274, R323). -/
def sealHeader (at_ : Nat) (h : Nat) : BitVec 512 := BitVec.ofNat 512 (h + crc32c (leBytes 64 h) * 2 ^ at_)

/-- The header of a chunk in the send table (R274). -/
def chunkHeader (s : State) (stag : Nat) (e : SendEnt) (nonce : Nat) (pl2 enc : Bool) : Nat :=
  let b (x : Bool) (k : Nat) : Nat := if x then 2 ^ k else 0
  (if pl2 then 2 else 3) + b enc 8 + b e.acc 9 + b e.plot 10 + b (e.poison != 0) 11 + e.attempt * 2 ^ 12 +
    (e.data.length - 1) % 2 ^ 16 * 2 ^ 16 + e.dupath.toNat * 2 ^ 32 + e.drole * 2 ^ 80 + e.ctx * 2 ^ 92 +
    e.repoch.toNat * 2 ^ 128 + e.epoch % 2 ^ 32 * 2 ^ 160 + s.grove.upathSelf.toNat * 2 ^ 192 + e.srole * 2 ^ 240 +
    e.loff % 2 ^ 40 * 2 ^ 256 + e.cseq % 2 ^ 16 * 2 ^ 296 + stag % 2 ^ 14 * 2 ^ 312 + e.lid * 2 ^ 332 +
    (if enc then e.kslot.getD 0 else 0) * 2 ^ 340 + e.widx * 2 ^ 352 + e.wgen.toNat * 2 ^ 384 +
    (if enc then nonce else 0) * 2 ^ 448

/-- The tags of an accumulating chunk's words, 2 bits each, 8 B for each 256 B line (log entry 26). -/
def sideband (tags : List (BitVec 2)) : List Byte :=
  (cut 32 (tags.length / 32 + 1) tags).flatMap (fun l => leBytes 8 (l.foldr (fun t n => t.toNat + n * 4) 0))

/-- Payload, CRC-64, tags and poison map of a chunk (R275). -/
def chunkStream (e : SendEnt) : List Byte :=
  e.data ++ leBytes 8 (crc64 e.data) ++ sideband e.tags ++ (if e.poison = 0 then [] else leBytes 32 e.poison.toNat)

/-! Credits at the sender (R280). -/

/-- The key of the credits of a landing entry's buffer. -/
def credKey (c lid buf : Nat) : Nat := (c * 256 + lid) * 4 + buf

def bufOf (s : State) (c lid ep : Nat) : Nat := ep % nbufOf (tget (getCtx s c).landing lid Landing.absent)

/-- Whether two epochs agree: on PL2 in bits [15:0] only (R292). -/
def sameEpoch (pl2 : Bool) (a b : Nat) : Bool := if pl2 then a % 2 ^ 16 == b % 2 ^ 16 else a == b

/-- A CREDIT record replaces the count of its buffer with its epoch tag (R280, R283). -/
def takeCredit (rec : BitVec 128) (s : State) : State :=
  let w := rec.toNat
  let c := bits w 12 12
  let lid := bits w 24 8
  let ep := bits w 64 32
  let cr : SendCred := ⟨BitVec.ofNat 32 ep, bits w 96 16, bits w 0 12, BitVec.ofNat 32 (bits w 32 32)⟩
  { s with prom := { s.prom with creds := tset s.prom.creds (credKey c lid (bufOf s c lid ep)) cr } }

/-- CREDIT (R280). -/
def execCredit (_port : LinkPort) (_supath : UPath) (rec : BitVec 128) (s : State) : Result := live (takeCredit rec) s

/-- The credits that a chunk needs: one for each granule that it touches (R280). -/
def SendEnt.granules (e : SendEnt) : Nat := granuleCount e.loff e.data.length

/-- The credits that a chunk can take now. -/
def creditFor (s : State) (e : SendEnt) : Option (Nat × SendCred) :=
  let k := credKey e.ctx e.lid (bufOf s e.ctx e.lid e.epoch)
  match tget? s.prom.creds k with
  | some c => if sameEpoch (isPl2 s e.port) c.epoch.toNat e.epoch && decide (e.granules ≤ c.n) then some (k, c) else none
  | none => none

/-- Whether an earlier chunk of the same destination and landing entry has still to enter a slot (R271). -/
def sendBlocked (s : State) (stag : Nat) (e : SendEnt) : Bool :=
  s.prom.sends.any (fun x => x.1 != stag && !x.2.sent && x.2.dupath == e.dupath && x.2.ctx == e.ctx && x.2.lid == e.lid &&
    lexLt [x.2.epoch, x.2.cseq] [e.epoch, e.cseq])

def mapProgs (f : Prog → Prog) (s : State) : State :=
  { s with pavs := s.pavs.map (fun e => (e.1, { e.2 with progA := e.2.progA.map f, progB := e.2.progB.map f })) }

def renameChunk (old new : Nat) (g : Prog) : Prog :=
  { g with issued := g.issued.map (fun i => { i with chunks := i.chunks.map (fun k => if k = old then new else k) }) }

def dropChunk (k : Nat) (g : Prog) : Prog :=
  { g with issued := g.issued.map (fun i => { i with chunks := i.chunks.filter (· != k) }) }

/-- A chunk's fault halts its sending context with the command that wrote it (R189, R495). -/
def haltSend (e : SendEnt) (f : RFault) (s : State) : State :=
  let at_ (q : PSlot) : Option (Prog × Nat) :=
    match getProg s e.pav q with
    | some g =>
      if g.ctx == e.ctx && g.jobseq == e.jobseq then
        (g.issued.find? (fun i => i.cmd.num == e.num)).map (fun i => (g, i.cmd.tpc))
      else none
    | none => none
  match findJob s e.ctx e.jobseq with
  | none => s
  | some _ =>
    match (at_ .a).or (at_ .b) with
    | some (g, tpc) => haltProg e.pav g tpc f s
    | none => haltPlain e.ctx e.jobseq f s

/-- The oldest chunk that waits for a free entry takes entry k, on the route of that moment; one that then has no route
is not sent, and halts its sender (R265, R273). -/
def fillEntry (k : Nat) : Nat → State → State
  | 0, s => s
  | n + 1, s =>
    match s.prom.sends.find? (fun e => 16384 ≤ e.1) with
    | none => s
    | some (w, e) =>
      let rest := { s with prom := { s.prom with sends := tdel s.prom.sends w } }
      match routeOf s e.dupath with
      | none => fillEntry k n (mapProgs (dropChunk w) (haltSend e (plainFault stNO_ROUTE) rest))
      | some p => mapProgs (renameChunk w k) { rest with
          prom := { rest.prom with sends := tset rest.prom.sends k { e with port := p, kslot := entryKey s e.dupath } } }

/-- Entry k of the send table becomes free, and a chunk that waits takes it (R273). -/
def freeSend (k : Nat) (s : State) : State :=
  let s1 := mapProgs (dropChunk k) { s with prom := { s.prom with sends := tdel s.prom.sends k } }
  fillEntry k s1.prom.sends.length s1

/-! CHUNK_SEND. -/

/-- The key of a chunk on an exposed path (R290, R414): that of its entry into the send table, else the one in force. -/
def chunkKey (s : State) (e : SendEnt) : Option (Nat × KeySlot) :=
  match e.kslot with
  | some k => s.prom.keys.find? (fun x => x.2.peer == e.dupath && x.2.send && x.2.peerSlot == k)
  | none => sendKey s e.dupath

/-- A chunk enters a transmit slot with its credits taken, and leaves (R280, R290). -/
def sendChunk (stag : Nat) (s : State) : State :=
  match tget? s.prom.sends stag with
  | none => s
  | some e =>
    if e.sent || 16384 ≤ stag || (getLink s e.port).state != lsUp || sendBlocked s stag e then s
    else match creditFor s e with
      | none => s
      | some (k, c) =>
        let pl2 := isPl2 s e.port
        let taken (s : State) : State :=
          { s with prom := { s.prom with creds := tset s.prom.creds k { c with n := c.n - e.granules } } }
        let e1 := { e with sent := true, credits := e.granules, widx := c.widx, wgen := c.wgen }
        let put (e : SendEnt) (s : State) : State := { s with prom := { s.prom with sends := tset s.prom.sends stag e } }
        if exposedPort s e.port then
          match chunkKey s e with
          | none => s
          | some (i, key) =>
            if 2 ^ 40 - 1 ≤ key.nonce then s
            else
              let e2 := { e1 with kslot := some key.peerSlot, nonce := key.nonce }
              let h := chunkHeader s stag e2 key.nonce pl2 true
              let body := Config.gcmSeal key.key (gcmIv key.nonce key.peerSlot) (leBytes 64 h) (chunkStream e2)
              let s1 := { s with prom := { s.prom with keys := tset s.prom.keys i { key with nonce := key.nonce + 1 } } }
              replaceKey e.dupath (emit (.chunk e.port (sealHeader 416 h) body) (put e2 (taken s1)))
        else
          let h := chunkHeader s stag e1 0 pl2 false
          emit (.chunk e.port (sealHeader 416 h) (chunkStream e1)) (put e1 (taken s))

/-- CHUNK_SEND (R280). -/
def execChunkSend (stag : Fin 16384) (s : State) : Result := live (sendChunk stag.val) s

/-! Ends at the sender (R284, R289, R295). -/

/-- The status of a CACK code (R283). -/
def cackStatus (k : Nat) : Nat :=
  [stOK, stCHUNK_CRC, stCHUNK_AUTH, stWINDOW_CLOSED, stWINDOW_CLASS, stWINDOW_RANGE, stWINDOW_NOCREDIT, stLAND_UE].getD k 0

/-- Credits that a CACK returns go back under the same tag (R280). -/
def returnCredits (e : SendEnt) (n : Nat) (s : State) : State :=
  let k := credKey e.ctx e.lid (bufOf s e.ctx e.lid e.epoch)
  match tget? s.prom.creds k with
  | some c =>
    if sameEpoch (isPl2 s e.port) c.epoch.toNat e.epoch then
      { s with prom := { s.prom with creds := tset s.prom.creds k { c with n := c.n + n } } }
    else s
  | none => s

/-- What follows the end of a chunk: an old key without chunks is retired, unused slots are erased (R414). -/
def chunkGone (e : SendEnt) (s : State) : State :=
  if e.kslot.isSome then eraseUnused (retireOld e.dupath s) else s

/-- The detail of a code that a CACK carries (R364). -/
def cackDetail (e : SendEnt) (k : Nat) : Nat := if 3 ≤ k then e.widx + e.wgen.toNat * 2 ^ 32 else 0

/-- A CACK record: the chunk retires, is sent again, or halts its sender (R280, R283, R284, R285). -/
def takeCack (rec : BitVec 128) (s : State) : State :=
  let w := rec.toNat
  let stag := bits w 0 14
  let k := bits w 16 8
  match tget? s.prom.sends stag with
  | none => s
  | some e =>
    if !e.sent || 7 < k then s
    else
      let s1 := returnCredits e (bits w 24 16) s
      if k = 0 then chunkGone e (freeSend stag s1)
      else if k ≤ 2 ∧ e.attempt < 2 then
        { s1 with prom := { s1.prom with sends := tset s1.prom.sends stag { e with sent := false, attempt := e.attempt + 1 } } }
      else chunkGone e (freeSend stag (haltSend e ⟨cackStatus k, 255, cackDetail e k, 0⟩ s1))

/-- CACK (R284). -/
def execCack (rec : BitVec 128) (s : State) : Result := live (takeCack rec) s

/-- A chunk without a CACK after CACK_TO, or whose path is in FAIL (R284, R295). -/
def chunkTimedOut (stag : Nat) (s : State) : State :=
  match tget? s.prom.sends stag with
  | none => s
  | some e =>
    if e.sent || (getLink s e.port).state == lsFail then chunkGone e (freeSend stag (haltSend e (plainFault stCHUNK_TIMEOUT) s))
    else s

/-- CHUNK_TIMEOUT (R284). -/
def execChunkTimeout (stag : Fin 16384) (s : State) : Result := live (chunkTimedOut stag.val) s

/-- A bounced chunk halts its sender (R289). -/
def chunkBounced (hdr : BitVec 512) (rxEpoch : BitVec 32) (s : State) : State :=
  match tget? s.prom.sends (chStag hdr) with
  | none => s
  | some e =>
    if e.sent && e.ctx == chCtx hdr then
      chunkGone e (freeSend (chStag hdr) (haltSend e (misrouted (chRole hdr) (chRepoch hdr) rxEpoch) s))
    else s

/-! The landing port (R281, R282, R289, R290). -/

/-- A CACK record (R283). -/
def cackRecord (stag st nret : Nat) : BitVec 128 := BitVec.ofNat 128 (stag + st * 2 ^ 16 + nret * 2 ^ 24)

def sendCack (hdr : BitVec 512) (st nret : Nat) (s : State) : State :=
  emit (.cackRec (chSupath hdr) (cackRecord (chStag hdr) st nret)) s

/-- The current epoch of a landing owner: that of the program that holds the role, else the last that it entered. -/
def ownerEpoch (s : State) (c role lid : Nat) : Option Nat :=
  match roleHolder s c role none with
  | some (_, _, ep) => some ep
  | none => if (landWin s c lid).isSome then tget? s.prom.landEpoch (c * 256 + lid) else none

/-- The owner's current role epoch (R289). -/
def ownerRepoch (s : State) (c role lid : Nat) : Option (BitVec 32) :=
  (ownerEpoch s c role lid).map (fun ep => (roleOf (getCtx s c) ep role).repoch)

/-- The start of a landing entry in its context's landing view (R276). -/
def entryStart (t : Tbl Landing) (lid : Nat) : Nat :=
  ((t.filter (fun e => e.2.valid && decide (e.1 < lid))).map (fun e => e.2.len4k * 4096)).sum

/-- Where a chunk lands: the byte of its first payload byte in the view or in stack memory (R282). -/
def landAt (s : State) (hdr : BitVec 512) : Nat :=
  let c := getCtx s (chCtx hdr)
  let e := tget c.landing (chLid hdr) Landing.absent
  (e.loc4k + chEpoch hdr % nbufOf e * e.len4k) * 4096 + (chLoff hdr - entryStart c.landing (chLid hdr))

/-- The epoch that a chunk names, at or after the owner's: on PL2 by its bits [15:0] only (R292). -/
def epochFrom (pl2 : Bool) (cur ep : Nat) : Nat :=
  if pl2 then cur + (ep % 2 ^ 16 + 2 ^ 16 - cur % 2 ^ 16) % 2 ^ 16 else ep

/-- The checks of R219 on a chunk, with one credit of its buffer for each granule (R279, R281). A landing outside the
context's view (R207) fails check 3. -/
def landCheck (s : State) (pl2 : Bool) (hdr : BitVec 512) : Option Nat :=
  let c := chCtx hdr
  let ctx := getCtx s c
  let e := tget ctx.landing (chLid hdr) Landing.absent
  let x := getWin s (chWidx hdr)
  let start := entryStart ctx.landing (chLid hdr)
  let cur := (ownerEpoch s c (chRole hdr) (chLid hdr)).getD (chEpoch hdr)
  let ep := epochFrom pl2 cur (chEpoch hdr)
  if !x.isOpen || x.gen != chWgen hdr then some stWINDOW_CLOSED
  else if !x.wclass.getLsbD 1 then some stWINDOW_CLASS
  else if x.landing != some (c, chLid hdr) || chLoff hdr < start ||
      start + e.len4k * 4096 < chLoff hdr + chLen hdr ||
      (e.place == 0 && decide (viewLen ctx.regions < landAt s hdr + chLen hdr)) then some stWINDOW_RANGE
  else if ep < cur || cur + nbufOf e ≤ ep ||
      tget x.bufCred (ep % nbufOf e) 0 < granuleCount (chLoff hdr) (chLen hdr) then some stWINDOW_NOCREDIT
  else none

/-- The code of a status of R219 in a CACK (R283). -/
def windowCode (st : Nat) : Nat :=
  if st = stWINDOW_CLOSED then 3 else if st = stWINDOW_CLASS then 4 else if st = stWINDOW_RANGE then 5 else 6

/-- The lines that a chunk writes, in the Terrace (R212). -/
def landLines (s : State) (hdr : BitVec 512) : List (Nat × Nat) :=
  let ctx := getCtx s (chCtx hdr)
  let e := tget ctx.landing (chLid hdr) Landing.absent
  if e.place = 0 then partLines (viewParts ctx.regions (landAt s hdr) (chLen hdr)) else []

/-- Whether two headers are attempts of one chunk. -/
def sameHeader (hdr x : BitVec 512) : Bool :=
  chStag x == chStag hdr && chSupath x == chSupath hdr && chCtx x == chCtx hdr && chLid x == chLid hdr &&
    hf x 296 16 == hf hdr 296 16 && chEpoch x == chEpoch hdr

/-- The landing of the same chunk's earlier attempt. -/
def sameChunk (hdr : BitVec 512) (w : LandWriter) : Bool := sameHeader hdr w.hdr

/-- A writer of the landing port leaves: its access-table entries go and its window has one write less in flight (R212,
R220). -/
def dropWriter (w : LandWriter) (s : State) : State :=
  let ter := w.lines.foldl (fun t l => { t with access := t.access.erase ⟨1, !hf w.hdr 9 1 != 0, hf w.hdr 9 1 != 0, l.1, l.2⟩ }) s.ter
  modWin (chWidx w.hdr) (fun x => { x with inflight := x.inflight - 1 })
    { s with ter := ter, prom := { s.prom with landing := s.prom.landing.filter (· != w) } }

/-- Credits of a chunk that failed go back to its buffer while its window is open at its generation (R284). -/
def refundCredits (hdr : BitVec 512) (n : Nat) (s : State) : State :=
  let e := tget (getCtx s (chCtx hdr)).landing (chLid hdr) Landing.absent
  let x := getWin s (chWidx hdr)
  if x.isOpen && x.gen == chWgen hdr then
    let cred := tmod x.bufCred (chEpoch hdr % nbufOf e) 0 (· + n)
    modWin (chWidx hdr) (fun x => { x with bufCred := cred, credits := sumCred cred }) s
  else s

/-- Whether a chunk must be encrypted: it arrived on an exposed path, or the route to its sender is one (R290). -/
def mustBeSealed (s : State) (port : LinkPort) (hdr : BitVec 512) : Bool :=
  exposedPort s port || exposedPeer s (chSupath hdr)

/-- A chunk's header at the landing port: checks 1 to 3, then its writer (R281, R282). A chunk that the access tables
do not take waits at its port (R213). -/
def chunkArrives (port : LinkPort) (hdr : BitVec 512) (s : State) : State :=
  let c := chCtx hdr
  let pl2 := isPl2 s port
  let away := elsewhere s (chDupath hdr)
  let misrouted_ (ep : BitVec 32) (s : State) : State :=
    emit (.bounce (chSupath hdr) hdr ep) (modCounts c (fun k => { k with misroutedIn := satInc k.misroutedIn }) s)
  if !hcrcOk 416 hdr.toNat then countHdrErr port s
  else if away then (if (relayPort s port (chDupath hdr)).isSome then s else misrouted_ 0 s)
  else
    let rep := ownerRepoch s c (chRole hdr) (chLid hdr)
    let prior := s.prom.landing.find? (sameChunk hdr)
    let cleared (s : State) : State :=
      let s1 := { s with prom := { s.prom with landWait := s.prom.landWait.filter (fun x => !sameHeader hdr x.hdr) } }
      match prior with
      | some w => dropWriter w s1
      | none => s1
    if (rep.map (fun r => !sameEpoch pl2 r.toNat (chRepoch hdr).toNat)).getD false then misrouted_ (rep.getD 0) (cleared s)
    else if hf hdr 8 1 = 0 ∧ mustBeSealed s port hdr = true then sendCack hdr 2 0 s
    else match landCheck s pl2 hdr with
      | some st => sendCack hdr (windowCode st) 0 (modCounts (getWin s (chWidx hdr)).ctx (CtxCounts.window st) (cleared s))
      | none =>
        let s0 := cleared s
        let ls := landLines s0 hdr
        let acc := hf hdr 9 1 != 0
        if s0.ter.access.any (fun a => linesMeet ls [(a.line0, a.lines)] && !(acc && a.acc)) || !tableRoom s0 ls then
          { s0 with prom := { s0.prom with landWait := s0.prom.landWait ++ [⟨port, hdr, none⟩] } }
        else
          let g := granuleCount (chLoff hdr) (chLen hdr)
          let e := tget (getCtx s0 c).landing (chLid hdr) Landing.absent
          let buf := chEpoch hdr % nbufOf e
          let cred := tmod (getWin s0 (chWidx hdr)).bufCred buf 0 (· - g)
          let s1 := modWin (chWidx hdr) (fun x =>
            { x with bufCred := cred, credits := sumCred cred, inflight := x.inflight + 1 }) s0
          { s1 with
            ter := { s1.ter with access := s1.ter.access ++ ls.map (fun l => ⟨1, !acc, acc, l.1, l.2⟩) }
            prom := { s1.prom with landing := s1.prom.landing ++ [⟨hdr, c, chLid hdr, buf, g, port, ls⟩] } }

/-- CHUNK_ARRIVAL (R281). -/
def execChunkArrival (port : LinkPort) (hdr : BitVec 512) (s : State) : Result := live (chunkArrives port hdr) s

/-- The payload, tags and poison map of a stream that passes check 4, or the code of its failure: 2 AUTH, 1 CRC (R275,
R281). -/
def openStream (s : State) (hdr : BitVec 512) (stream : List Byte) : Except Nat (List Byte × List (BitVec 2) × BitVec 256) :=
  let n := chLen hdr
  let plain : Option (List Byte) :=
    if hf hdr 8 1 = 0 then some stream
    else
      let ks := hf hdr 340 12
      match tget? s.prom.keys ks with
      | some k =>
        if k.send || k.peer != chSupath hdr then none
        else Config.gcmOpen k.key (gcmIv (hf hdr 448 64) ks) (leBytes 64 (setBits hdr.toNat 416 32 0)) stream
      | none => none
  match plain with
  | none => .error 2
  | some bs =>
    let data := bs.take n
    let rest := bs.drop (n + 8)
    let pois := hf hdr 11 1 != 0
    let side := rest.take (rest.length - (if pois then 32 else 0))
    let map := BitVec.ofNat 256 (if pois then leNat (rest.drop side.length) else 0)
    let tags := (List.range (4 * side.length)).map (fun i => BitVec.ofNat 2 (bits (leNat side) (2 * i) 2))
    if leNat ((bs.drop n).take 8) != crc64 data then .error 1 else .ok (data, tags, map)

/-- The bytes of a payload whose lines a poison map marks, by offset (R285). -/
def mapBad (n : Nat) (map : BitVec 256) : List Int :=
  ((List.range (ceilDiv n 8)).filter (fun w => map.getLsbD (8 * w / 256))).map (fun w => ((8 * w : Nat) : Int))

/-- The job whose program holds a landing owner's role. -/
def ownerJob (s : State) (c role : Nat) : Option (BitVec 32) := (roleHolder s c role none).map (fun h => h.1.jobseq)

/-- A landing's fault halts the owning context (R229, R284). -/
def haltOwner (hdr : BitVec 512) (st : Nat) (s : State) : State :=
  let c := chCtx hdr
  match ownerJob s c (chRole hdr) with
  | some q => haltPlain c q (plainFault st) s
  | none => haltCtxOnly c st 0 s

/-- How a landing ended: committed, a code for its CACK, or a fault of the owning context with its code. -/
inductive Landed where
  | done
  | dropped (code : Nat)
  | faulted (status code : Nat)
  deriving DecidableEq, Repr

/-- Writes a payload to its place (R222, R282, R285, R287). An accumulate-write passes unfilled granules by, counted,
and faults where it met poison (R216, R229); a landing that no longer lies in the view is dropped (R207); one that the
surroundings deny is not committed (R393), and its CACK carries LAND_UE (log entry 105). -/
def landPayload (hdr : BitVec 512) (data : List Byte) (tags : List (BitVec 2)) (map : BitVec 256) (s : State) :
    State × Landed :=
  let c := chCtx hdr
  let e := tget (getCtx s c).landing (chLid hdr) Landing.absent
  let a := landAt s hdr
  let bad := mapBad data.length map
  if e.place != 0 then
    match extWrite s c false 0 a data (badWords a data.length bad) false with
    | (s1, true) => (s1, .done)
    | (s1, false) => (s1, .faulted stRESOURCE 7)
  else if viewLen (getCtx s c).regions < a + data.length then
    (modCounts (getWin s (chWidx hdr)).ctx (CtxCounts.window stWINDOW_RANGE) s, .dropped 5)
  else if hf hdr 9 1 != 0 then
    let ws := leWords 8 (data.length / 8) data
    let (s1, hole, ue) := terAdd s c a ((List.range ws.length).map (fun i => ⟨BitVec.ofNat 64 (ws.getD i 0), tags.getD i 0⟩))
    (if hole.isSome then modCounts c (fun k => { k with unfilledRead := satInc k.unfilledRead }) s1 else s1,
      if ue then .faulted stTERRACE_UE 7 else .done)
  else (markBad c a data.length bad (terWrite s c a data tags).1, .done)

/-- The end of a chunk whose writer stands at the landing port: check 4, then the landing, its flag and its CACK, or a
CACK that asks for a resend (R281, R282, R284, R285). The stream of a chunk that waits for the access tables waits with
it. -/
def landEnd (hdr : BitVec 512) (stream : List Byte) (s : State) : State :=
  match s.prom.landing.find? (fun w => w.hdr == hdr) with
  | none => { s with prom := { s.prom with landWait := s.prom.landWait.map (fun x =>
      if x.hdr == hdr then { x with stream := some stream } else x) } }
  | some w =>
    match openStream s hdr stream with
    | .error k =>
      let s1 := sendCack hdr k w.granules (refundCredits hdr w.granules s)
      if hf hdr 12 2 < 2 then s1 else haltOwner hdr (cackStatus k) (dropWriter w s1)
    | .ok (data, tags, map) =>
      let c := chCtx hdr
      let e := tget (getCtx s c).landing (chLid hdr) Landing.absent
      let (s1, r) := landPayload hdr data tags map s
      let s2 := dropWriter w s1
      match r with
      | .faulted st k => haltOwner hdr st (sendCack hdr k 0 s2)
      | .dropped k => sendCack hdr k 0 s2
      | .done =>
        let lids (x : Ctx) : List Nat := x.plotLids.filter (· != chLid hdr) ++ (if hf hdr 10 1 != 0 then [chLid hdr] else [])
        sendCack hdr 0 0 (setFlag c (e.flag0 + hf hdr 296 16 % (e.flagnM1 + 1)) (modCtx c (fun x => { x with plotLids := lids x }) s2))

/-- Tries the chunks that wait at their landing ports again, n times over, oldest first (R213). -/
def wakeLanding : Nat → State → State
  | 0, s => s
  | n + 1, s => wakeLanding n (s.prom.landWait.foldl (fun s x =>
      let s1 := chunkArrives x.port x.hdr { s with prom := { s.prom with landWait := s.prom.landWait.filter (· != x) } }
      match x.stream with
      | some bs => landEnd x.hdr bs s1
      | none => s1) s)

/-- Accesses that waited for the access tables go on where they now can (R213). -/
def wakeTables (s : State) : State := wakeX (wakeLanding s.prom.landWait.length s)

def chunkRetires (hdr : BitVec 512) (stream : List Byte) (s : State) : State := wakeTables (landEnd hdr stream s)

/-- CHUNK_RETIRE (R282). -/
def execChunkRetire (_port : LinkPort) (hdr : BitVec 512) (stream : List Byte) (s : State) : Result :=
  live (chunkRetires hdr stream) s

end Sys2Proof.Machine
end

