-- ==== Sys2Proof/Machine/BandTree.lean ====
section
/-!
DEFINITION. What a collective computes: element formats (R301, R307), the canonical tree of a communicator (R299), node
arithmetic on the main path and in exact mode (R307 to R309), the finishing of a root value (R307, R310, R317), and the
layouts of each OP (R302, R313, R319, R320).
-/
namespace Sys2Proof.Machine

/-! Operations (R301). -/

def opAllReduce : Nat := 1
def opReduceScatter : Nat := 2
def opAllGather : Nat := 3
def opBroadcast : Nat := 4
def opReduce : Nat := 5
def opAllToAll : Nat := 6
def opBarrier : Nat := 7

/-- Whether an OP reduces. -/
def opReduces (op : Nat) : Bool := op == 1 || op == 2 || op == 5

/-- The format of DTYPE (R301); INT32 has none. -/
def dtypeFmt : Nat → Fmt
  | 1 => .bf16
  | 2 => .fp16
  | 3 => .e4m3
  | 4 => .e5m2
  | _ => .e8m23

/-- Bytes of an element. -/
def dtypeBytes : Nat → Nat
  | 1 => 2
  | 2 => 2
  | 3 => 1
  | 4 => 1
  | _ => 4

/-- A leaf: the element's exact value on the grid 2^−149, a NaN with cause 1, or the INT32 value (R307, R308, R309). -/
def leafOf (dtype code : Nat) : AV :=
  if dtype = 5 then .fin (sext 32 code)
  else match (dtypeFmt dtype).dec code with
    | .fin m e => .fin (if e < -149 then 0 else m * (2 ^ (e + 149).toNat : Nat))
    | .inf neg => .inf neg
    | .nan => .nan 1

/-! Partials on links (R308, R309). -/

/-- A partial as a binary32 or INT32 word. -/
def partCode (dtype : Nat) (v : AV) : Nat :=
  match v with
  | .fin t => if dtype = 5 then toField 32 t else (Fmt.e8m23.enc (.fin t 1 (-149))).1
  | .inf neg => (Fmt.e8m23.infCode neg).1
  | .nan c => 0x7FC00000 + c

/-- The partial that a word holds. -/
def partOf (dtype code : Nat) : AV :=
  if dtype = 5 then .fin (sext 32 code)
  else match leafOf 0 code with
    | .nan _ => .nan (if code % 4 = 3 then 3 else 1)
    | v => v

/-- An X320 word of 48 B (R309). -/
def x320Code (v : AV) : Nat :=
  match v with
  | .fin t => toField 320 t
  | .inf neg => (if neg then 2 else 1) * 2 ^ 320
  | .nan c => 3 * 2 ^ 320 + c * 2 ^ 322

def x320Of (w : Nat) : AV :=
  match bits w 320 2 with
  | 0 => .fin (sext 320 (bits w 0 320))
  | 1 => .inf false
  | 2 => .inf true
  | _ => .nan (bits w 322 2)

/-! Node arithmetic. -/

/-- rne32 of a value on the grid (R307, R308): beyond the binary32 range it is an infinity. -/
def round32 (v : AV) : AV :=
  match v with
  | .fin t => leafOf 0 (Fmt.e8m23.enc (.fin t 1 (-149))).1
  | x => x

/-- Whether a ≤ b, for values that are not NaN. -/
def AV.le (a b : AV) : Bool :=
  match a, b with
  | .inf true, _ => true
  | _, .inf false => true
  | .fin x, .fin y => decide (x ≤ y)
  | _, _ => false

/-- The larger or smaller of two values; a NaN wins, with the smaller cause of two (R308). -/
def AV.pick (larger : Bool) (a b : AV) : AV :=
  match a, b with
  | .nan c, .nan d => .nan (Nat.min c d)
  | .nan c, _ => .nan c
  | _, .nan d => .nan d
  | _, _ => if a.le b = larger then b else a

/-- One node (R307 to R309). -/
def nodeOp (dtype redop : Nat) (exact : Bool) (a b : AV) : AV :=
  if redop = 2 then a.pick true b
  else if redop = 3 then a.pick false b
  else if dtype = 5 then
    match a, b with
    | .fin x, .fin y => .fin (sext 32 (toField 32 (x + y)))
    | _, _ => a.combine b
  else if exact then a.combine b
  else round32 (a.combine b)

/-- The split rule of R85 over items of which some are absent (R299, R317): a node with one child passes it on. -/
def splitEval {α : Type} (f : α → α → α) : Nat → List (Option α) → Option α
  | 0, _ => none
  | _ + 1, [] => none
  | _ + 1, [x] => x
  | k + 1, xs =>
    let h := 2 ^ (xs.length - 1).log2
    match splitEval f k (xs.take h), splitEval f k (xs.drop h) with
    | some a, some b => some (f a b)
    | some a, none => some a
    | none, y => y

/-- A node over lists of elements. -/
def nodeVals (dtype redop : Nat) (exact : Bool) (a b : List AV) : List AV := List.zipWith (nodeOp dtype redop exact) a b

/-! The canonical tree (R298, R299). -/

/-- The id of a member at a level: 1 grove, 2 tray, 3 rack, 4 site. -/
def CMember.id (m : CMember) : Nat → Nat
  | 1 => m.grove
  | 2 => m.tray
  | 3 => m.rack
  | _ => m.site

/-- Whether two ranks agree at every level above k. -/
def sameAbove (k : Nat) (a b : CMember) : Bool := ((List.range 5).filter (fun l => k < l)).all (fun l => a.id l == b.id l)

/-- Maximal runs of ranks that agree at every level above k, as (first, last). -/
def runsAbove (k : Nat) : Nat → List CMember → List (Nat × Nat)
  | _, [] => []
  | i, m :: ms =>
    match runsAbove k (i + 1) ms, ms with
    | (a, b) :: rest, n :: _ => if a = i + 1 ∧ sameAbove k m n = true then (i, b) :: rest else (i, i) :: (a, b) :: rest
    | _, _ => [(i, i)]

/-- The ranks over which the call of stage k that reaches rank r runs. -/
def spanOf (ms : List CMember) (k r : Nat) : Nat × Nat :=
  ((runsAbove k 0 ms).find? (fun p => p.1 ≤ r && r ≤ p.2)).getD (r, r)

/-- The parts of the stage node of stage k that reaches rank r (R299): single ranks at k = 0, runs of the level below
otherwise. -/
def partsOf (ms : List CMember) (k r : Nat) : List (Nat × Nat) :=
  let sp := spanOf ms k r
  if k = 0 then (List.range (sp.2 + 1 - sp.1)).map (fun i => (sp.1 + i, sp.1 + i))
  else (runsAbove (k - 1) 0 ms).filter (fun p => sp.1 ≤ p.1 && p.2 ≤ sp.2)

/-- The part of that stage node that holds rank r. -/
def ownPart (ms : List CMember) (k r : Nat) : Nat × Nat :=
  ((partsOf ms k r).find? (fun p => p.1 ≤ r && r ≤ p.2)).getD (r, r)

/-- Whether rank r takes part in the exchange of its stage node of stage k: as the representative of its part (R312). -/
def takesPart (ms : List CMember) (k r : Nat) : Bool :=
  1 < (partsOf ms k r).length && (ownPart ms k r).1 == r

/-- The stages in which rank r takes part. -/
def stagesOf (ms : List CMember) (r : Nat) : List Nat := (List.range 5).filter (fun k => takesPart ms k r)

/-- The representatives of r's stage node of stage k, without r. -/
def peersAt (ms : List CMember) (k r : Nat) : List Nat := ((partsOf ms k r).map (·.1)).filter (· != r)

/-- The stage of the tree's root, where the communicator has more than one rank. -/
def rootStage (ms : List CMember) : Option Nat :=
  ([4, 3, 2, 1, 0].filter (fun k => spanOf ms k 0 == (0, ms.length - 1))).find? (fun k => 1 < (partsOf ms k 0).length)

/-- The canonical tree over the parts of a call, from the values of single ranks (R299). -/
def treeEval {α : Type} (f : α → α → α) (ms : List CMember) (leaf : Nat → Option α) : Nat → Nat → Option α
  | 0, r => splitEval f 33000 ((partsOf ms 0 r).map (fun p => leaf p.1))
  | k + 1, r => splitEval f 33000 ((partsOf ms (k + 1) r).map (fun p => treeEval f ms leaf k p.1))

/-! Staged values. -/

/-- n values of a node from element a on, when all have been staged. -/
def gatherVals (ps : List Staged) (lo hi : Nat) : Nat → Nat → Nat → Option (List AV)
  | _, _, 0 => some []
  | 0, _, _ + 1 => none
  | fuel + 1, a, n + 1 =>
    match ps.find? (fun p => p.lo == lo && p.hi == hi && p.first ≤ a && a < p.first + p.vals.length) with
    | none => none
    | some p =>
      let xs := (p.vals.drop (a - p.first)).take (n + 1)
      (gatherVals ps lo hi fuel (a + xs.length) (n + 1 - xs.length)).map (fun ys => xs ++ ys)

def stagedVals (ps : List Staged) (lo hi a n : Nat) : Option (List AV) := gatherVals ps lo hi (ps.length + 1) a n

/-- n finished elements from element a on, when all have been staged. -/
def gatherFinals (ps : List FinPiece) : Nat → Nat → Nat → Option (List FinEl)
  | _, _, 0 => some []
  | 0, _, _ + 1 => none
  | fuel + 1, a, n + 1 =>
    match ps.find? (fun p => p.first ≤ a && a < p.first + p.els.length) with
    | none => none
    | some p =>
      let xs := (p.els.drop (a - p.first)).take (n + 1)
      (gatherFinals ps fuel (a + xs.length) (n + 1 - xs.length)).map (fun ys => xs ++ ys)

def finalEls (ps : List FinPiece) (a n : Nat) : Option (List FinEl) := gatherFinals ps (ps.length + 1) a n

/-! Finishing (R307, R309, R310). -/

/-- A root value divided and rounded, before its conversion: its value and its OVF_CONV events. -/
def rootValue (redop : Nat) (exact : Bool) (n : Nat) (v : AV) : XV × Nat :=
  match v with
  | .nan _ => (.nan, 0)
  | .inf neg => (.inf neg, 0)
  | .fin t =>
    if redop = 1 then
      let (c, o) := Fmt.e8m23.enc (.fin t (Nat.max n 1) (-149))
      (Fmt.e8m23.val c, if o then 1 else 0)
    else if exact && redop == 0 then
      let (c, o) := Fmt.e8m23.enc (.fin t 1 (-149))
      (Fmt.e8m23.val c, if o then 1 else 0)
    else (.fin t 1 (-149), 0)

/-- The element that a root value becomes (R55, R307, R309, R310). -/
def finishVal (dtype redop : Nat) (exact : Bool) (n : Nat) (v : AV) : FinEl :=
  if dtype = 5 then
    match v with
    | .fin t => ⟨toField 32 t, false, 0⟩
    | _ => ⟨0, false, 0⟩
  else
    let (x, o) := rootValue redop exact n v
    let (c, p) := (dtypeFmt dtype).enc x
    ⟨c, v == .nan 3, o + (if p then 1 else 0)⟩

/-! Layouts (R302, R313, R321). -/

/-- Elements of the contribution, which the reduction ranges over (R302, R311). -/
def Slot.space (t : Slot) (n : Nat) : Nat := if t.op = opReduceScatter then t.count * n else t.count

/-- The contribution's size in bytes (R311). -/
def Slot.size (t : Slot) (n : Nat) : Nat := t.space n * dtypeBytes t.dtype

/-- Elements of the source at rank r. -/
def Slot.srcElems (t : Slot) (n r : Nat) : Nat :=
  if t.op = opReduceScatter then t.count * n
  else if t.op = opBroadcast then (if r = t.root then t.count else 0)
  else if t.op = opAllToAll then n * t.scap
  else if t.op = opBarrier then 0
  else t.count

/-- Elements of the destination at rank r. -/
def Slot.dstElems (t : Slot) (n r : Nat) : Nat :=
  if t.op = opAllGather ∨ t.op = opAllToAll then t.count * n
  else if t.op = opReduce then (if r = t.root then t.count else 0)
  else if t.op = opBarrier then 0
  else t.count

/-- The element of the reduction at which rank r's destination begins. -/
def Slot.dstFirst (t : Slot) (r : Nat) : Nat := if t.op = opReduceScatter then r * t.count else 0

/-- Elements of a chunk of 2^CHUNK·4 KiB (R301, R321). -/
def Slot.chunkElems (t : Slot) : Nat := 2 ^ t.chunk * 4096 / dtypeBytes t.dtype

/-- Chunks of n elements. -/
def Slot.chunksOf (t : Slot) (n : Nat) : Nat := ceilDiv n t.chunkElems

/-- The elements [first, first + n) of chunk k of m elements. -/
def Slot.chunkSpan (t : Slot) (m k : Nat) : Nat × Nat := (k * t.chunkElems, Nat.min m ((k + 1) * t.chunkElems) - k * t.chunkElems)

/-- The shard of a rank in the direct algorithm, as [first, end) (R313). -/
def Slot.shard (t : Slot) (n q : Nat) : Nat × Nat :=
  if t.op = opReduceScatter then (q * t.count, (q + 1) * t.count) else (q * t.count / n, (q + 1) * t.count / n)

/-- The elements that rank r sends to rank j of a count (R319). -/
def Slot.sentOf (t : Slot) (c : Int) : Nat := Nat.min (Nat.min c.toNat t.scap) t.count

end Sys2Proof.Machine
end

