-- ==== Sys2Proof/Machine/Bandstand.lean ====
section
/-!
DEFINITION. Bandstand (R297 to R328): communicators, launches and their checks, the matching of JOINs, exchanges of the tree and
the direct algorithm, deadline mode, output chunks and flags, digests and completion.
-/
namespace Sys2Proof.Machine

/-! Access. -/

def getComm (s : State) (cid : Nat) : Option Comm := tget? s.band.comms cid

def modComm (cid : Nat) (f : Comm → Comm) (s : State) : State :=
  match getComm s cid with
  | none => s
  | some c => { s with band := { s.band with comms := tset s.band.comms cid (f c) } }

def modSlot (i : Nat) (f : Slot → Slot) (s : State) : State :=
  match tget? s.band.slots i with
  | none => s
  | some t => { s with band := { s.band with slots := tset s.band.slots i (f t) } }

/-- A slot that runs, with its communicator. -/
def liveSlot (s : State) (i : Nat) : Option (Slot × Comm) :=
  match tget? s.band.slots i with
  | some t => if t.ended.isSome then none else (getComm s t.cid).map (fun c => (t, c))
  | none => none

/-- The slot of a name (R304). -/
def slotOf (s : State) (cid seq : Nat) : Option Nat := (s.band.slots.find? (fun e => e.2.cid == cid && e.2.seq == seq)).map (·.1)

/-! Headers and sending (R323). -/

def bhKind (h : BitVec 512) : Nat := hf h 12 4
def bhStage (h : BitVec 512) : Nat := hf h 16 3
def bhCid (h : BitVec 512) : Nat := hf h 48 10
def bhSeq (h : BitVec 512) : Nat := hf h 64 32
def bhEpoch (h : BitVec 512) : BitVec 32 := BitVec.ofNat 32 (hf h 96 32)
def bhSrank (h : BitVec 512) : Nat := hf h 128 15
def bhElem0 (h : BitVec 512) : Nat := hf h 160 32
def bhChidx (h : BitVec 512) : Nat := hf h 192 32
def bhSig (h : BitVec 512) : BitVec 64 := BitVec.ofNat 64 (hf h 256 64)

/-- A member's signature (R314). -/
def signature (t : Slot) (cepoch : BitVec 32) : BitVec 64 :=
  BitVec.ofNat 64 (crc64 (leBytes 32 (t.op + t.dtype * 2 ^ 4 + t.redop * 2 ^ 8 + (if t.exact then 1 else 0) * 2 ^ 10 +
    t.dlmode * 2 ^ 11 + t.cid * 2 ^ 16 + t.seq * 2 ^ 32 + t.count * 2 ^ 64 + t.root * 2 ^ 96 + cepoch.toNat * 2 ^ 128)))

/-- Sends one Bandstand chunk to a rank: its header, and its payload with CRC-64 and trailer, encrypted where the
route is exposed; DATA, RESULT and MAP enter the digest (R290, R323, R324). A chunk other than ABORT and BUSY that has
no route is not sent, and its context halts with NO_ROUTE (R265, R295). -/
def sendBand (c : Comm) (cid seq kind stage dst elem0 chidx sig jcred : Nat) (x320 : Bool) (payload trailer : List Byte)
    (s : State) : State :=
  let u := ((c.members[dst]?).map (·.upath)).getD 0
  let data := kind = 1 ∨ kind = 2 ∨ kind = 7
  let plain := payload ++ leBytes 8 (crc64 payload) ++ trailer
  let head (enc ks n : Nat) : Nat :=
    3 + enc * 2 ^ 8 + (if x320 then 1 else 0) * 2 ^ 9 + kind * 2 ^ 12 + stage * 2 ^ 16 + (payload.length - 1) % 2 ^ 16 * 2 ^ 32 +
      cid * 2 ^ 48 + seq * 2 ^ 64 + c.cepoch.toNat * 2 ^ 96 + c.myrank * 2 ^ 128 + dst * 2 ^ 144 + elem0 % 2 ^ 32 * 2 ^ 160 +
      chidx % 2 ^ 32 * 2 ^ 192 + sig % 2 ^ 64 * 2 ^ 256 + jcred % 2 ^ 32 * 2 ^ 320 + ks * 2 ^ 352 + n * 2 ^ 448
  let note (s : State) : State :=
    match slotOf s cid seq with
    | none => s
    | some i => modSlot i (fun t => { t with txDig := t.txDig ++ [⟨dst, stage, chidx, BitVec.ofNat 64 (crc64 payload)⟩] }) s
  if (routeOf s u).isNone && kind != 5 && kind != 6 then haltCtxOnly c.ctx stNO_ROUTE 0 s
  else if !data then emit (.band u (sealHeader 384 (head 0 0 0)) []) s
  else if exposedPeer s u then
    match takeNonce u s with
    | none => s
    | some (ks, key, n, s1) =>
      let h := head 1 ks n
      note (replaceKey u (emit (.band u (sealHeader 384 h) (Config.gcmSeal key (gcmIv n ks) (leBytes 64 h) plain)) s1))
  else note (emit (.band u (sealHeader 384 (head 0 0 0)) plain) s)

/-- Elements of w bytes in a chunk of at most 64 KiB behind a prefix of p bytes (R323). -/
def perChunk (p w : Nat) : Nat := Nat.max ((65536 - p) / Nat.max w 1) 1

/-- Chunks of n elements of w bytes; without elements one chunk (log entry 27). -/
def chunksFor (p w n : Nat) : Nat := Nat.max (ceilDiv n (perChunk p w)) 1

/-- Sends a stream to its rank, cut into chunks of at most 64 KiB. -/
def sendEls (c : Comm) (t : Slot) (b : BandStream) (s : State) : State :=
  let per := perChunk b.pre.length (((b.els.head?).map (·.length)).getD 1)
  let ps := cut per (b.els.length / per + 1) b.els
  let n := if b.trailer.isEmpty then 0 else per
  if ps.isEmpty then sendBand c t.cid t.seq b.kind b.stage b.dst b.elem0 b.base b.sig 0 b.x320 b.pre [] s
  else ((List.range ps.length).zip ps).foldl (fun s e =>
    sendBand c t.cid t.seq b.kind b.stage b.dst (b.elem0 + e.1 * per) (b.base + e.1) b.sig 0 b.x320 (b.pre ++ e.2.flatten)
      ((b.trailer.drop (e.1 * per)).take n) s) s

/-- Whether the key toward every rank of a list is in force where its route is exposed (R291). -/
def keysReady (s : State) (c : Comm) (rs : List Nat) : Bool :=
  rs.all (fun r => match (c.members[r]?).map (·.upath) with
    | some u => !exposedPeer s u || (takeNonce u s).isSome
    | none => true)

/-! Partners (R305, R306, R312, R313). -/

/-- Every rank but this one. -/
def others (c : Comm) : List Nat := (List.range c.nmemb).filter (· != c.myrank)

/-- Whether a collective runs on direct exchanges (R311, R313). -/
def Slot.straight (t : Slot) : Bool := t.direct && t.op != opBarrier

/-- The ranks from which this member receives data in its first exchange, to which it sends its JOIN (R305). -/
def firstPeers (c : Comm) (t : Slot) : List Nat :=
  if t.straight then
    if t.op = opBroadcast then (if c.myrank = t.root then [] else [t.root]) else others c
  else match (stagesOf c.members c.myrank).head? with
    | some k => peersAt c.members k c.myrank
    | none => []

/-- Whether rank q sends its JOIN to this member: in the tree a representative whose first exchange is at a lower
stage does not (R305, R312). -/
def joinsMe (c : Comm) (t : Slot) (q : Nat) : Bool :=
  t.straight || (stagesOf c.members q).head? == (stagesOf c.members c.myrank).head?

/-- The ranks to which the root result goes down from this member: every rank of its part, those of a reduce that do not
write it too, whose signatures it verifies (R312, R315). -/
def downPeers (c : Comm) : List Nat :=
  match rootStage c.members with
  | none => []
  | some k =>
    if k = 0 || !takesPart c.members k c.myrank then []
    else
      let p := ownPart c.members k c.myrank
      (List.range (p.2 + 1 - p.1)).map (· + p.1) |>.filter (· != c.myrank)

/-- Every rank with which a member exchanges (R306). -/
def partners (c : Comm) (t : Slot) : List Nat :=
  if t.straight then others c
  else
    let up := (stagesOf c.members c.myrank).flatMap (fun k => peersAt c.members k c.myrank)
    let rep := match rootStage c.members with
      | some k => if takesPart c.members k c.myrank then [] else [(ownPart c.members k c.myrank).1]
      | none => []
    ((up ++ downPeers c ++ rep).filter (· != c.myrank)).eraseDups

/-! Ending (R306, R315, R325). -/

/-- The output chunks of a collective that carry no flag hold undefined contents once it has timed out or been
aborted: free bytes (R28, R306; log entry 110). -/
def spoilOutputs (t : Slot) (c : Comm) (s : State) : State :=
  let m := t.dstElems c.nmemb c.myrank
  let e := dtypeBytes t.dtype
  ((List.range (t.chunksOf m)).filter (fun k => !t.written.contains k)).foldl (fun s k =>
    let sp := t.chunkSpan m k
    let (bs, s1) := freeBytes (sp.2 * e) s
    let a := t.dst + sp.1 * e
    if t.dstSpace = 0 then (terWrite s1 t.ctx a bs []).1 else extPut 0 a bs [] false s1) s

/-- The output chunks of a slot leave the access tables (R212). -/
def dropOutputs (t : Slot) (s : State) : State :=
  let ls := t.outOpen.flatMap (·.2)
  { s with ter := { s.ter with access := ls.foldl (fun a l => a.erase ⟨2, true, false, l.1, l.2⟩) s.ter.access } }

/-- A collective ends at this member; ABORT goes out with a status where one is given. After a mismatch no output has
been written (R315). -/
def endSlot (i st : Nat) (abort : Option Nat) (s : State) : State :=
  match liveSlot s i with
  | none => s
  | some (t, c) =>
    let s1 := modSlot i (fun t => { t with
      ended := some st, endedAt := s.sys.time, staged := [], finals := [], blocks := [], owed := [], outOpen := [] })
      (dropOutputs t s)
    let s2 := if abort.isSome && st != stSIGNATURE_MISMATCH then spoilOutputs t c s1 else s1
    let s3 := traceEv 4 2 t.ctx 0 st t.cid t.seq s2
    let s4 := match abort with
      | none => s3
      | some a => (partners c t).foldl (fun s r => sendBand c t.cid t.seq 5 0 r a 0 0 0 false [] [] s) s3
    if t.outOpen.isEmpty then s4 else wakeTables s4

/-- The digest over a list of chunks in ascending order of (rank, stage, index) (R324). -/
def foldDigest (d : BitVec 64) (es : List DigEnt) : BitVec 64 :=
  (sortBy (fun a b => !lexLt [b.rank, b.stage, b.chidx] [a.rank, a.stage, a.chidx]) es).foldl (fun d e =>
    BitVec.ofNat 64 (crc64 (leBytes 8 d.toNat ++ leBytes 8 e.crc.toNat))) d

/-- The maps as a deadline result knows them (R317, R318): whether each rank is present. -/
def rankMap (c : Comm) (t : Slot) : Option (List Bool) :=
  let ms := c.members
  let sites := partsOf ms 4 0
  let s4 : Option (BitVec 64) := if sites.length ≤ 1 then some 1 else tget? t.maps 4
  match s4 with
  | none => none
  | some m4 =>
    let rows := ((List.range sites.length).zip sites).map (fun e =>
      let ranks := List.range (e.2.2 + 1 - e.2.1)
      if !m4.getLsbD e.1 then some (ranks.map (fun _ => false))
      else
        let racks := partsOf ms 3 e.2.1
        if t.dlmode < 2 || racks.length ≤ 1 then some (ranks.map (fun _ => true))
        else (tget? t.siteMaps e.1).map (fun m3 => ranks.map (fun j =>
          ((List.range racks.length).zip racks).any (fun k => m3.getLsbD k.1 && k.2.1 ≤ e.2.1 + j && e.2.1 + j ≤ k.2.2))))
    if rows.all Option.isSome then some (rows.flatMap (fun x => x.getD [])) else none

/-- The present count and the S4 map of a record (R318, R325). -/
def presentOf (c : Comm) (t : Slot) : Nat × Nat :=
  if t.dlmode = 0 then (c.nmemb, 2 ^ 64 - 1)
  else ((((rankMap c t).getD []).filter id).length, ((tget? t.maps 4).getD (if (partsOf c.members 4 0).length ≤ 1 then 1 else 0)).toNat)

/-- The bits of a collective record from bit 64 on (R367). -/
def collBody (c : Comm) (t : Slot) : Nat :=
  let p := presentOf c t
  t.seq + t.cid * 2 ^ 32 + (if t.direct then 1 else 0) * 2 ^ 42 + t.invalid * 2 ^ 64 + t.ovf * 2 ^ 96 +
    (t.invFirst.getD (2 ^ 64 - 1)) % 2 ^ 64 * 2 ^ 128 + t.dropped % 2 ^ 64 * 2 ^ 192 + (t.dropFirst.getD 0xFFFF) * 2 ^ 256 +
    p.1 * 2 ^ 272 + p.2 * 2 ^ 288 + c.sent.toNat * 2 ^ 352 + c.recv.toNat * 2 ^ 416

/-- Folds the ended collective of lowest SEQ of a communicator, once none of lower SEQ runs, and queues its record,
whose writing frees its slot (R304, R324, R325). The record of a forwarded launch leaves at once; that of a context
which is freed without its host is not awaited (R387). -/
def foldNext (cid : Nat) (s : State) : State :=
  let mine := s.band.slots.filter (fun e => e.2.cid == cid && !e.2.folded)
  let low := mine.foldl (fun b e => match b with
    | none => some e
    | some x => if e.2.seq < x.2.seq then some e else some x) (none : Option (Nat × Slot))
  match low, getComm s cid with
  | some (i, t), some c =>
    match t.ended with
    | none => s
    | some st =>
      let c1 := { c with
        sent := if st = 0 then foldDigest c.sent t.txDig else c.sent
        recv := if st = 0 then foldDigest c.recv t.rxDig else c.recv
        covered := t.seq }
      let s1 := { s with band := { s.band with comms := tset s.band.comms cid c1 } }
      let x := getCtx s t.ctx
      if t.waiter.via.isSome || (x.state == .quiescing && x.destroyWait.isNone) then
        finish t.waiter st (collBody c1 t) { s1 with band := { s1.band with slots := tdel s1.band.slots i } }
      else
        let r := mkRec t.waiter.gen 3 st t.waiter.tag (collBody c1 t)
        postRec t.waiter.ctx { r with slot := some i } (modSlot i (fun t => { t with folded := true }) s1)
  | _, _ => s


/-! Memory of a collective. -/

/-- Reads n bytes of a space for a collective (R213, R321): the bytes, nothing yet, or the status that ends it. -/
inductive BandRead where
  | got (bs : List Byte)
  | wait
  | bad (st : Nat)
  deriving DecidableEq, Repr

def bandRead (ctx space a n : Nat) (s : State) : State × BandRead :=
  if space = 0 then
    if tableBusy s false (partLines (viewParts (getCtx s ctx).regions a n)) then (s, .wait)
    else match terRead s ctx a n with
      | (s1, .ok (bs, _)) => (s1, .got bs)
      | (s1, .error f) =>
        (if f.status = stUNFILLED_READ then modCounts ctx (fun k => { k with unfilledRead := satInc k.unfilledRead }) s1 else s1,
          .bad (if f.status = stUNFILLED_READ then stUNFILLED_READ else stTERRACE_UE))
  else match extRead s ctx false 0 a n with
    | (s1, none) => (haltCtxOnly ctx stRESOURCE 0 s1, .wait)
    | (s1, some (bs, pw)) => (s1, if pw.isEmpty then .got bs else .bad stTERRACE_UE)

/-- Whether a write of a collective can enter the access tables now (R212, R213). -/
def bandFree (s : State) (ctx space a n : Nat) : Bool :=
  space != 0 || tableFree s true (partLines (viewParts (getCtx s ctx).regions a n))

/-- Writes bytes to a space for a collective; false where the surroundings deny it (R393). -/
def bandWrite (ctx space a : Nat) (bs : List Byte) (s : State) : State × Bool :=
  if space = 0 then ((terWrite s ctx a bs []).1, true)
  else match extWrite s ctx false 0 a bs [] false with
    | (s1, true) => (s1, true)
    | (s1, false) => (haltCtxOnly ctx stRESOURCE 0 s1, false)

/-! Completion (R318, R320, R325). -/

/-- What a rank's AUX_OUT receives, once it is known: the received counts, or the rank map. -/
def auxBytes (c : Comm) (t : Slot) : Option (List Byte) :=
  if t.op = opAllToAll then
    if (List.range c.nmemb).all (fun r => (tget? t.rxCounts r).isSome) then
      some ((List.range c.nmemb).flatMap (fun r => leBytes 4 (tget t.rxCounts r 0)))
    else none
  else if t.dlmode != 0 then
    (rankMap c t).map (fun m => leBytes (ceilDiv c.nmemb 8) ((((List.range m.length).zip m).map (fun e => if e.2 then 2 ^ e.1 else 0)).sum))
  else some []

/-- The marker of a stage's unit that carries no element: a signature alone (log entry 27). -/
def tokenUnit : Nat := 2 ^ 48

/-- The units of work at a stage of the tree, by number: chunks of the reduction, chunks of each rank's block whose
values pass through, or the blocks of an all-to-all by source and destination (R311, R312). -/
def unitsAt (c : Comm) (t : Slot) (k : Nat) : List Nat :=
  let sp := spanOf c.members k c.myrank
  let w := t.chunksOf t.count
  if opReduces t.op then List.range (t.chunksOf (t.space c.nmemb))
  else if t.op = opAllToAll then
    (List.range (sp.2 + 1 - sp.1)).flatMap (fun j => (List.range c.nmemb).map (fun d => (sp.1 + j) * 2 ^ 16 + d))
  else if t.op = opAllGather then
    (List.range (sp.2 + 1 - sp.1)).flatMap (fun j => (List.range w).map (fun i => (sp.1 + j) * 2 ^ 32 + i))
  else if t.op = opBroadcast ∧ sp.1 ≤ t.root ∧ t.root ≤ sp.2 then (List.range w).map (fun i => t.root * 2 ^ 32 + i)
  else [tokenUnit]

/-- Whether a member has done its part of the exchanges. -/
def dutiesDone (c : Comm) (t : Slot) : Bool :=
  let r := c.myrank
  let reads : Bool := (List.range (t.chunksOf (t.srcElems c.nmemb r))).all (fun k => t.srcRead.contains k) && t.owed.isEmpty
  let stages := stagesOf c.members r
  if t.straight then
    reads && (!opReduces t.op || (let sh := t.shard c.nmemb r
      (List.range (t.chunksOf (t.space c.nmemb))).all (fun w =>
        let sp := t.chunkSpan (t.space c.nmemb) w
        !rangesMeet sp.1 sp.2 sh.1 (sh.2 - sh.1) || t.evald.contains (0, w))))
  else if t.dlmode != 0 then
    stages.all (fun k => some k != rootStage c.members || (unitsAt c t k).all (fun u => t.evald.contains (k, u)))
  else reads && stages.all (fun k => (unitsAt c t k).all (fun u => t.evald.contains (k, u)))

/-- Whether every signature that this member's result rests on has been verified: it holds a root result, or has itself
compared the JOINs of all ranks (R315). -/
def allVerified (c : Comm) (t : Slot) : Bool :=
  t.rootDone || (t.straight && opReduces t.op && (others c).all (fun r => t.joined.contains r))

/-- The finished elements [a, a + n) of this member's destination, when they are known. -/
def outputEls (c : Comm) (t : Slot) (a n : Nat) : Option (List FinEl) :=
  if opReduces t.op && !t.straight then
    let cnt : Option Nat := if t.dlmode = 0 then some c.nmemb else (rankMap c t).map (fun m => (m.filter id).length)
    match cnt with
    | none => none
    | some k => (stagedVals t.staged 0 (c.nmemb - 1) (t.dstFirst c.myrank + a) n).map
        (fun vs => vs.map (finishVal t.dtype t.redop t.exact k))
  else if t.op = opAllToAll then
    let xs := (List.range n).map (fun j =>
      let e := a + j
      match tget? t.rxCounts (e / t.count) with
      | none => none
      | some k => if k ≤ e % t.count then some ⟨0, false, 0⟩ else (finalEls t.finals e 1).bind List.head?)
    if xs.all Option.isSome then some (xs.filterMap id) else none
  else finalEls t.finals (t.dstFirst c.myrank + a) n

/-- Where an output chunk lies, and its bytes. -/
def outSpan (c : Comm) (t : Slot) (k : Nat) : Nat × Nat :=
  let sp := t.chunkSpan (t.dstElems c.nmemb c.myrank) k
  (t.dst + sp.1 * dtypeBytes t.dtype, sp.2 * dtypeBytes t.dtype)

/-- An output chunk in the Terrace whose elements are known enters the slice access tables as one writer, where they
take it (R212, R321). -/
def openOutput (i k : Nat) (s : State) : State :=
  match liveSlot s i with
  | none => s
  | some (t, c) =>
    let sp := t.chunkSpan (t.dstElems c.nmemb c.myrank) k
    let a := outSpan c t k
    let ls := partLines (viewParts (getCtx s t.ctx).regions a.1 a.2)
    if t.dstSpace != 0 || !t.rootDone || t.written.contains k || (tget? t.outOpen k).isSome ||
        (outputEls c t sp.1 sp.2).isNone || !tableFree s true ls then s
    else modSlot i (fun t => { t with outOpen := tset t.outOpen k ls })
      { s with ter := { s.ter with access := s.ter.access ++ ls.map (fun l => ⟨2, true, false, l.1, l.2⟩) } }

def openOutputs (i : Nat) (s : State) : State :=
  match liveSlot s i with
  | none => s
  | some (t, c) => (List.range (t.chunksOf (t.dstElems c.nmemb c.myrank))).foldl (fun s k => openOutput i k s) s

/-- A member that has written all and done its part writes AUX_OUT and completes (R315, R325). -/
def completeSlot (i : Nat) (s : State) : State :=
  match liveSlot s i with
  | none => s
  | some (t, c) =>
    let outs := List.range (t.chunksOf (t.dstElems c.nmemb c.myrank))
    if !outs.all (fun k => t.written.contains k) || !allVerified c t || !dutiesDone c t then s
    else match auxBytes c t with
      | none => s
      | some bs =>
        if bs.isEmpty then endSlot i stOK none s
        else if !bandFree s t.ctx t.dstSpace t.auxOut bs.length then s
        else match bandWrite t.ctx t.dstSpace t.auxOut bs s with
          | (s1, true) => endSlot i stOK none s1
          | (s1, false) => s1

/-- What follows a change of a slot: its output chunks enter the access tables, and it completes when nothing is left.
-/
def tryComplete (i : Nat) (s : State) : State := completeSlot i (openOutputs i s)

/-! Deadline mode (R316 to R318). -/

/-- Whether a stage holds a reduction back (R316). -/
def deadlineAt (t : Slot) (k : Nat) : Bool := (k == 4 && t.dlmode != 0) || (k == 3 && t.dlmode == 2)

/-- Whether a part's result is complete at its representative. -/
def partDone (c : Comm) (t : Slot) (k : Nat) : Bool :=
  let p := ownPart c.members k c.myrank
  (stagedVals t.staged p.1 p.2 0 (t.space c.nmemb)).isSome

/-- The index of a rank's part in its stage node. -/
def partIndex (c : Comm) (k r : Nat) : Nat := ((partsOf c.members k r).takeWhile (fun p => !(p.1 ≤ r && r ≤ p.2))).length

/-- The site of this member, as an index among sites. -/
def siteIndex (c : Comm) : Nat := partIndex c 4 c.myrank

/-- Chunks of an exchange of stage k with each of its peers: the member's own contribution at its first stage, part
results above it. -/
def exchangeChunks (c : Comm) (t : Slot) (k : Nat) : Nat :=
  let w := if t.exact then 48 else if (stagesOf c.members c.myrank).head? == some k then dtypeBytes t.dtype else 4
  ((List.range (t.chunksOf (t.space c.nmemb))).map (fun u => chunksFor 0 w (t.chunkSpan (t.space c.nmemb) u).2)).sum

/-- A site's representative tells the others its S3 map (R318, log entry 27). -/
def shareSiteMap (i : Nat) (s : State) : State :=
  match liveSlot s i with
  | none => s
  | some (t, c) =>
    match tget? t.maps 3 with
    | some m3 =>
      let s1 := modSlot i (fun t => { t with siteMaps := tset t.siteMaps (siteIndex c) m3 }) s
      if takesPart c.members 4 c.myrank then
        (peersAt c.members 4 c.myrank).foldl (fun s r =>
          sendBand c t.cid t.seq 7 4 r 0 (exchangeChunks c t 4) 0 0 false (leBytes 8 m3.toNat) [] s) s1
      else s1
    | none => s

/-- The decider fixes the present map of its stage node: every part ready, or the deadline past and its own part
complete; DECIDE goes to every representative (R316). -/
def tryDecide (i k : Nat) (s : State) : State :=
  match liveSlot s i with
  | none => s
  | some (t, c) =>
    let parts := partsOf c.members k c.myrank
    let decider := (parts.head?.map (·.1)) == some c.myrank
    let here (j : Nat) : Bool := t.ready.contains (k, j)
    let all_ := (List.range parts.length).all here
    if !deadlineAt t k || !decider || parts.length ≤ 1 || (tget? t.maps k).isSome then s
    else if all_ || (t.expired.contains k && here 0) then
      let m := BitVec.ofNat 64 (((List.range parts.length).filter here).map (2 ^ ·)).sum
      let s1 := modSlot i (fun t => { t with maps := tset t.maps k m }) s
      let s2 := (peersAt c.members k c.myrank).foldl (fun s r => sendBand c t.cid t.seq 4 k r 0 0 m.toNat 0 false [] [] s) s1
      if k = 3 then shareSiteMap i s2 else s2
    else s

/-- READY of this member's parts that have become complete (R316). -/
def sendReady (i : Nat) (s : State) : State :=
  [3, 4].foldl (fun s k =>
    match liveSlot s i with
    | none => s
    | some (t, c) =>
      if !deadlineAt t k || !takesPart c.members k c.myrank || t.readySent.contains k || !partDone c t k then s
      else
        let s1 := modSlot i (fun t => { t with readySent := t.readySent ++ [k] }) s
        match (partsOf c.members k c.myrank).head? with
        | some (d, _) =>
          if d = c.myrank then
            tryDecide i k (modSlot i (fun t => { t with ready := t.ready ++ [(k, 0)] }) s1)
          else sendBand c t.cid t.seq 3 k d 0 0 0 0 false [] [] s1
        | none => s1) s

/-! Reading sources (R312, R313, R319, R321). -/

/-- The pieces of source elements [a, a + n) that travel: rank, first source element, first element at the receiver,
elements, and the count that an all-to-all block carries. -/
structure Piece where
  dst : Nat
  from_ : Nat
  elem0 : Nat
  n : Nat
  sig : Nat
  deriving DecidableEq, Repr

/-- The overlap of [a, a + n) with [b, e). -/
def overlapOf (a n b e : Nat) : Nat × Nat :=
  let lo := Nat.max a b
  (lo, Nat.min (a + n) e - lo)

def piecesOf (c : Comm) (t : Slot) (cnts : List Int) (a n : Nat) : List Piece :=
  let r := c.myrank
  let whole (q e0 : Nat) : Piece := ⟨q, a, e0 + a, n, 0⟩
  if t.op = opAllToAll then
    (List.range c.nmemb).flatMap (fun j =>
      let sent := t.sentOf (cnts.getD j 0)
      let b := j * t.scap
      let o := overlapOf a n b (b + sent)
      if o.2 != 0 ∨ (a ≤ b ∧ b < a + n) then [⟨j, o.1, r * t.count + (o.1 - b), o.2, sent⟩] else [])
  else if t.straight then
    if opReduces t.op then
      (others c).filterMap (fun q =>
        let sh := t.shard c.nmemb q
        let o := overlapOf a n sh.1 sh.2
        if o.2 = 0 then none else some ⟨q, o.1, o.1, o.2, 0⟩)
    else (others c).map (fun q => whole q (if t.op = opAllGather then r * t.count else 0))
  else (firstPeers c t).map (fun q => whole q (if t.op = opAllGather then r * t.count else 0))

/-- The size of an element on a link at a member's first exchange (R309, R312, R313), and of the prefix of its chunks.
-/
def srcWidth (t : Slot) : Nat := if t.exact && !t.straight then 48 else dtypeBytes t.dtype
def srcPrefix (t : Slot) : Nat := if t.op == opAllToAll && !t.straight then 12 else 0

/-- The prefix of a block's chunks in the tree: source rank, destination rank, count (log entry 27). -/
def blkPrefix (src dst cnt : Nat) : List Byte := leBytes 4 src ++ leBytes 4 dst ++ leBytes 4 cnt

/-- The chunks that source chunk k sends to rank q. -/
def srcChunks (c : Comm) (t : Slot) (cnts : List Int) (q k : Nat) : Nat :=
  let sp := t.chunkSpan (t.srcElems c.nmemb c.myrank) k
  (((piecesOf c t cnts sp.1 sp.2).filter (fun p => p.dst == q || srcPrefix t != 0)).map (fun p =>
    chunksFor (srcPrefix t) (srcWidth t) p.n)).sum

/-- What this member stages of its own source: leaves of a reduction, or finished elements. -/
def stageOwn (c : Comm) (t : Slot) (cnts : List Int) (a : Nat) (codes : List Nat) (t1 : Slot) : Slot :=
  let r := c.myrank
  let fin (x : Nat) : FinEl := ⟨x, false, 0⟩
  if opReduces t.op then { t1 with staged := t1.staged ++ [⟨r, r, a, codes.map (leafOf t.dtype)⟩] }
  else if t.op = opAllToAll then
    let sent := t.sentOf (cnts.getD r 0)
    let o := overlapOf a codes.length (r * t.scap) (r * t.scap + sent)
    { t1 with
      blocks := if t.straight then t1.blocks else t1.blocks ++ (piecesOf c t cnts a codes.length).map (fun p =>
        ⟨r, p.dst, p.sig, p.elem0 - r * t.count, (codes.drop (p.from_ - a)).take p.n⟩)
      rxCounts := tset t1.rxCounts r sent
      finals := if o.2 = 0 then t1.finals
        else t1.finals ++ [⟨r * t.count + (o.1 - r * t.scap), ((codes.drop (o.1 - a)).take o.2).map fin⟩] }
  else { t1 with finals := t1.finals ++ [⟨(if t.op = opAllGather then r * t.count else 0) + a, codes.map fin⟩] }

/-- The send counts of an all-to-all (R319), and what it drops (R320). -/
def readCounts (i : Nat) (t : Slot) (c : Comm) (s : State) : State × Option (List Int) :=
  if t.op != opAllToAll then (s, some [])
  else match t.sendCounts with
    | some l => (s, some l)
    | none =>
      match bandRead t.ctx t.srcSpace t.auxIn (4 * c.nmemb) s with
      | (s1, .got bs) =>
        let l := (leWords 4 c.nmemb bs).map (fun w => sext 32 w)
        let lost (x : Int) : Nat := x.toNat - t.sentOf x
        (modSlot i (fun t => { t with
          sendCounts := some l, dropped := (l.map lost).sum
          dropFirst := (List.range c.nmemb).find? (fun j => lost (l.getD j 0) != 0) }) s1, some l)
      | (s1, .wait) => (s1, none)
      | (s1, .bad st) => (endSlot i st (some st) s1, none)

/-- With a single rank, or when every JOIN of a straight exchange is verified, the output may be written (R315). -/
def markRoot (i : Nat) (s : State) : State :=
  match liveSlot s i with
  | none => s
  | some (t, c) =>
    let owner : Bool := t.straight && !(t.op == opBroadcast && c.myrank != t.root) && (others c).all (fun r => t.joined.contains r)
    if c.nmemb ≤ 1 || (owner && (!opReduces t.op || t.rootDone)) then modSlot i (fun t => { t with rootDone := true }) s else s

/-- Sends a part of this member's contribution, with its credits (R322). -/
def sendData (i : Nat) (b : BandStream) (s : State) : State :=
  match liveSlot s i with
  | none => s
  | some (t, c) =>
    let bytes := (b.els.map (·.length)).sum
    sendEls c t b (modSlot i (fun t => { t with credits := tmod t.credits b.dst 0 (· - ceilDiv bytes 4096) }) s)

/-- What source chunk k sends: each piece to its rank, or in the tree to every representative of the first stage node.
-/
def srcStreams (c : Comm) (t : Slot) (cnts : List Int) (k : Nat) (codes : List Nat) : List BandStream :=
  let sp := t.chunkSpan (t.srcElems c.nmemb c.myrank) k
  let x320 := t.exact && !t.straight
  let bytes (x : Nat) : List Byte := if x320 then leBytes 48 (x320Code (leafOf t.dtype x)) else leBytes (dtypeBytes t.dtype) x
  let stage := if t.straight then 0 else ((stagesOf c.members c.myrank).head?).getD 0
  let kind := if t.op == opBroadcast && t.straight then 2 else 1
  let ps := piecesOf c t cnts sp.1 sp.2
  let els (p : Piece) : List (List Byte) := ((codes.drop (p.from_ - sp.1)).take p.n).map bytes
  let base (q : Nat) : Nat := ((List.range k).map (srcChunks c t cnts q)).sum
  if srcPrefix t != 0 then
    (firstPeers c t).flatMap (fun q => ((List.range ps.length).zip ps).map (fun e =>
      let p := e.2
      let before := ((ps.take e.1).map (fun x => chunksFor 12 (srcWidth t) x.n)).sum
      ⟨1, stage, q, p.elem0 - c.myrank * t.count, base q + before, 0, false, blkPrefix c.myrank p.dst p.sig, els p, []⟩))
  else (ps.filter (fun p => p.dst != c.myrank)).map (fun p =>
    ⟨kind, stage, p.dst, p.elem0, base p.dst, if kind = 2 then (signature t c.cepoch).toNat else p.sig, x320, [], els p, []⟩)

/-- Bandstand reads source chunk k and sends what its peers need (R312, R313, R321). Direct data waits until its
receivers have joined; in the tree what goes to a peer whose JOIN is still to come waits for it. -/
def readSource (i k : Nat) (s : State) : State :=
  match liveSlot s i with
  | none => s
  | some (t, c) =>
    let m := t.srcElems c.nmemb c.myrank
    let flag := t.sflag0 + k % t.nflag
    if t.chunksOf m ≤ k || t.srcRead.contains k || (t.swait && !(getCtx s t.ctx).flags.getLsbD flag) then s
    else match readCounts i t c s with
      | (s1, none) => s1
      | (s1, some cnts) =>
        let sp := t.chunkSpan m k
        let e := dtypeBytes t.dtype
        let to_ := (if srcPrefix t != 0 then firstPeers c t else (piecesOf c t cnts sp.1 sp.2).map (·.dst)).filter (· != c.myrank)
        if (t.straight && !to_.all (fun q => t.joined.contains q)) || !keysReady s1 c to_ then s1
        else match bandRead t.ctx t.srcSpace (t.src + sp.1 * e) (sp.2 * e) s1 with
          | (s2, .wait) => s2
          | (s2, .bad st) => endSlot i st (some st) s2
          | (s2, .got bs) =>
            let codes := leWords e sp.2 bs
            let bs := srcStreams c t cnts k codes
            let ready (b : BandStream) : Bool := t.joined.contains b.dst || !joinsMe c t b.dst
            let s3 := modSlot i (fun t1 => stageOwn c t cnts sp.1 codes { t1 with
              srcRead := t1.srcRead ++ [k], owed := t1.owed ++ bs.filter (fun b => !ready b) }) s2
            tryComplete i (markRoot i (sendReady i ((bs.filter ready).foldl (fun s b => sendData i b s) s3)))

/-- BAND_SOURCE_READ (R321). -/
def execBandSourceRead (slot : Fin 64) (k : Nat) (s : State) : Result := live (readSource slot.val k) s

/-! Evaluating nodes (R312, R313, R315 to R317). -/

/-- The signatures that must be verified before a stage node is evaluated: every other representative's, in deadline
mode of the present parts (R315, R316). -/
def stageVerified (c : Comm) (t : Slot) (k : Nat) : Bool :=
  (peersAt c.members k c.myrank).all (fun r => t.joined.contains r || t.verified.contains r ||
    (deadlineAt t k && !((tget? t.maps k).getD 0).getLsbD (partIndex c k r)))

/-- The result of a stage node over elements [a, a + n), when every part that counts has staged them. -/
def stageResult (c : Comm) (t : Slot) (k a n : Nat) : Option (List AV) :=
  let parts := partsOf c.members k c.myrank
  let held : Option (BitVec 64) := if deadlineAt t k then tget? t.maps k else some (BitVec.allOnes 64)
  match held with
  | none => none
  | some m =>
    let vals := ((List.range parts.length).zip parts).map (fun e =>
      let on : Bool := !deadlineAt t k || m.getLsbD e.1
      (on, if on then stagedVals t.staged e.2.1 e.2.2 a n else none))
    if vals.any (fun v => v.1 && v.2.isNone) then none
    else splitEval (nodeVals t.dtype t.redop t.exact) 33000 (vals.map (·.2))

/-- A partial's bytes on a link. -/
def partialBytes (t : Slot) (v : AV) : List Byte :=
  if t.exact then leBytes 48 (x320Code v) else leBytes 4 (partCode t.dtype v)

/-- The next stage in which this member takes part. -/
def nextStage (c : Comm) (k : Nat) : Option Nat := (stagesOf c.members c.myrank).find? (fun j => k < j)

/-- The part of elements [a, a + n) that a rank below needs of the root result: its own block in a reduce-scatter. -/
def downSpan (t : Slot) (q a n : Nat) : Nat × Nat :=
  if t.op = opReduceScatter then overlapOf a n (q * t.count) ((q + 1) * t.count) else (a, n)

/-- The chunks of unit w of a reduction that go down to rank q, and those of a part result that go up. -/
def downChunks (c : Comm) (t : Slot) (q w : Nat) : Nat :=
  let sp := t.chunkSpan (t.space c.nmemb) w
  let n := (downSpan t q sp.1 sp.2).2
  if n = 0 then 0 else chunksFor 0 (if t.exact then 48 else 4) n

def upChunks (c : Comm) (t : Slot) (w : Nat) : Nat :=
  chunksFor 0 (if t.exact then 48 else 4) (t.chunkSpan (t.space c.nmemb) w).2

/-- The maps that travel down with a deadline result: the S4 map, then the S3 map of each present site (R318). -/
def mapBytes (c : Comm) (t : Slot) : List Byte :=
  let m4 := (tget? t.maps 4).getD 1
  leBytes 8 m4.toNat ++ (List.range (partsOf c.members 4 0).length).flatMap (fun j =>
    if m4.getLsbD j then leBytes 8 ((tget? t.siteMaps j).getD 1).toNat else [])

/-- One unit of a reduction at a stage. -/
def evalUnit (i k w : Nat) (s : State) : State :=
  match liveSlot s i with
  | none => s
  | some (t, c) =>
    let sp := t.chunkSpan (t.space c.nmemb) w
    match stageResult c t k sp.1 sp.2 with
    | none => s
    | some vs =>
      let node := spanOf c.members k c.myrank
      let s1 := modSlot i (fun t => { t with
        staged := t.staged ++ [⟨node.1, node.2, sp.1, vs⟩]
        evald := t.evald ++ [(k, w)]
        rootDone := t.rootDone || node == (0, c.nmemb - 1) }) s
      let sig := (signature t c.cepoch).toNat
      match nextStage c k with
      | some j =>
        let base := ((List.range w).map (upChunks c t)).sum
        (peersAt c.members j c.myrank).foldl (fun s q =>
          sendEls c t ⟨2, j, q, sp.1, base, sig, t.exact, [], vs.map (partialBytes t), []⟩ s) s1
      | none => (downPeers c).foldl (fun s q =>
          let o := downSpan t q sp.1 sp.2
          let base := ((List.range w).map (downChunks c t q)).sum
          if o.2 = 0 then s
          else sendEls c t ⟨2, k, q, o.1, base, sig, t.exact, [],
            ((vs.drop (o.1 - sp.1)).take o.2).map (partialBytes t), []⟩ s) s1

/-- The count of an all-to-all's block and its elements, when all of them are here. -/
def blockOf (t : Slot) (src dst : Nat) : Option (Nat × List Nat) :=
  let mine := t.blocks.filter (fun b => b.src == src && b.dst == dst)
  match mine.head? with
  | none => none
  | some b =>
    (finalEls (mine.map (fun x => ⟨x.first, x.els.map (fun y => ⟨y, false, 0⟩)⟩)) 0 b.cnt).map (fun xs => (b.cnt, xs.map (·.code)))

/-- A unit of values that pass through a stage, when it is here: its first element, what stands before its chunks'
elements, and the elements. -/
def passEls (t : Slot) (u : Nat) : Option (Nat × List Byte × List Nat) :=
  if u = tokenUnit then some (0, [], [])
  else if t.op = opAllToAll then
    (blockOf t (u / 2 ^ 16) (u % 2 ^ 16)).map (fun b => (0, blkPrefix (u / 2 ^ 16) (u % 2 ^ 16) b.1, b.2))
  else
    let sp := t.chunkSpan t.count (u % 2 ^ 32)
    let first := (if t.op = opAllGather then u / 2 ^ 32 * t.count else 0) + sp.1
    (finalEls t.finals first sp.2).map (fun xs => (first, [], xs.map (·.code)))

/-- The chunks of such a unit. -/
def passChunks (t : Slot) (u : Nat) : Option Nat := (passEls t u).map (fun x => chunksFor x.2.1.length (dtypeBytes t.dtype) x.2.2.length)

/-- Whether a unit goes down to rank q: of an all-to-all, its own blocks. -/
def passTo (t : Slot) (u q : Nat) : Bool := t.op != opAllToAll || u == tokenUnit || u % 2 ^ 16 == q

/-- One unit of values that pass through a stage, in the order of the units. -/
def passUnit (i k u : Nat) (s : State) : State :=
  match liveSlot s i with
  | none => s
  | some (t, c) =>
    let whole := spanOf c.members k c.myrank == (0, c.nmemb - 1)
    let earlier := (unitsAt c t k).takeWhile (· != u)
    match passEls t u, earlier.all (fun v => (passChunks t v).isSome) with
    | some (first, pre, xs), true =>
      let s1 := modSlot i (fun t => { t with evald := t.evald ++ [(k, u)], rootDone := t.rootDone || whole }) s
      let (j, to_) : Nat × List Nat := match nextStage c k with
        | some j => (j, peersAt c.members j c.myrank)
        | none => (k, if whole then (downPeers c).filter (passTo t u) else [])
      let up := (nextStage c k).isSome
      to_.foldl (fun s q =>
        let base := ((earlier.filter (fun v => up || passTo t v q)).map (fun v => (passChunks t v).getD 0)).sum
        sendEls c t ⟨2, j, q, first, base, (signature t c.cepoch).toNat, false, pre, xs.map (leBytes (dtypeBytes t.dtype)), []⟩ s) s1
    | _, _ => s

/-- One unit of an owner's shard in the direct algorithm (R313). -/
def ownUnit (i w : Nat) (s : State) : State :=
  match liveSlot s i with
  | none => s
  | some (t, c) =>
    let sp := t.chunkSpan (t.space c.nmemb) w
    let sh := t.shard c.nmemb c.myrank
    let o := overlapOf sp.1 sp.2 sh.1 sh.2
    let leaf (r : Nat) : Option (Option (List AV)) := some (stagedVals t.staged r r o.1 o.2)
    if o.2 = 0 || t.evald.contains (0, w) || !(List.range c.nmemb).all (fun r => ((leaf r).bind id).isSome) then s
    else match treeEval (nodeVals t.dtype t.redop t.exact) c.members (fun r => (leaf r).bind id) 4 0 with
      | none => s
      | some vs =>
        let els := vs.map (finishVal t.dtype t.redop t.exact c.nmemb)
        let s1 := modSlot i (fun t => { t with
          finals := t.finals ++ [⟨o.1, els⟩], evald := t.evald ++ [(0, w)], rootDone := true }) s
        let to_ : List Nat := if t.op = opAllReduce then others c
          else if t.op = opReduce then (others c).filter (· == t.root) else []
        let own (v : Nat) : Nat :=
          let p := t.chunkSpan (t.space c.nmemb) v
          let o := overlapOf p.1 p.2 sh.1 sh.2
          if o.2 = 0 then 0 else chunksFor 0 (dtypeBytes t.dtype) o.2
        to_.foldl (fun s q =>
          let sent := ((List.range (t.chunksOf (t.srcElems c.nmemb c.myrank))).map (srcChunks c t [] q)).sum
          sendEls c t ⟨2, 0, q, o.1, sent + ((List.range w).map own).sum, (signature t c.cepoch).toNat, false, [],
            els.map (fun x => leBytes (dtypeBytes t.dtype) x.code),
            els.map (fun x => BitVec.ofNat 8 ((if x.inv then 1 else 0) + x.ovf * 2))⟩ s) s1

/-- The maps go down once they and the result are known (R318). -/
def sendMaps (i k : Nat) (s : State) : State :=
  match liveSlot s i with
  | none => s
  | some (t, c) =>
    if t.dlmode = 0 || some k != rootStage c.members || (rankMap c t).isNone || t.evald.contains (k, tokenUnit) ||
        !(unitsAt c t k).all (fun u => t.evald.contains (k, u)) then s
    else (downPeers c).foldl (fun s q => sendBand c t.cid t.seq 7 k q 0
        ((List.range (t.chunksOf (t.space c.nmemb))).map (downChunks c t q)).sum 0 0 false (mapBytes c t) [] s)
      (modSlot i (fun t => { t with evald := t.evald ++ [(k, tokenUnit)] }) s)

/-- Bandstand evaluates what it can of its stage node of stage k (R312, R313). -/
def evaluateStage (i k : Nat) (s : State) : State :=
  match liveSlot s i with
  | none => s
  | some (t, c) =>
    if !keysReady s c (partners c t) then s
    else if t.straight then
      if !opReduces t.op || !(others c).all (fun r => t.joined.contains r) then s
      else tryComplete i ((List.range (t.chunksOf (t.space c.nmemb))).foldl (fun s w => ownUnit i w s) s)
    else if !takesPart c.members k c.myrank || !stageVerified c t k then s
    else
      let us := (unitsAt c t k).filter (fun u => !t.evald.contains (k, u))
      let s1 := us.foldl (fun s u => if opReduces t.op then evalUnit i k u s else passUnit i k u s) s
      tryComplete i (sendMaps i k (sendReady i s1))

/-- BAND_NODE_EVALUATE (R312). -/
def execBandNodeEvaluate (slot : Fin 64) (stage : Fin 5) (s : State) : Result := live (evaluateStage slot.val stage.val) s

/-- DEADLINE_EXPIRY (R316). The map is fixed when the TCLK ends: a READY of the same TCLK counts (R328). -/
def execDeadlineExpiry (slot : Fin 64) (stage : Fin 5) (s : State) : Result :=
  live (modSlot slot.val (fun t =>
    if deadlineAt t stage.val && t.ended.isNone then { t with expiring := t.expiring ++ [stage.val] } else t)) s

/-- COLL_TIMEOUT (R306). The collective ends when the TCLK ends: a completion of the same TCLK wins (R328). -/
def execCollTimeout (slot : Fin 64) (s : State) : Result :=
  live (modSlot slot.val (fun t => if t.ended.isNone then { t with due := true } else t)) s

/-- The end of a TCLK for one slot (R328): deadlines that have passed in it hold, then the collective that has not
completed within its own ends. -/
def settleSlot (i : Nat) (s : State) : State :=
  let s1 := [3, 4].foldl (fun s k => tryDecide i k s)
    (modSlot i (fun t => { t with expired := t.expired ++ t.expiring, expiring := [] }) s)
  match liveSlot s1 i with
  | some (t, _) => if t.due then endSlot i stCOLL_TIMEOUT (some stCOLL_TIMEOUT) s1 else s1
  | none => s1

/-- The end of a TCLK in Bandstand. -/
def settleBand (s : State) : State := s.band.slots.foldl (fun s e => settleSlot e.1 s) s

/-! Output chunks (R310, R315, R320, R321). -/

/-- Whether output chunk k may commit: it stands in the access tables, or they take it now; once the collective's
deadline has passed in this TCLK, only as the last (R306, R321, R328). -/
def mayCommit (s : State) (c : Comm) (t : Slot) (k : Nat) : Bool :=
  let n := t.chunksOf (t.dstElems c.nmemb c.myrank)
  let a := outSpan c t k
  decide (k < n) && !t.written.contains k && t.rootDone &&
    (!t.due || (List.range n).all (fun j => j == k || t.written.contains j)) &&
    ((tget? t.outOpen k).isSome || bandFree s t.ctx t.dstSpace a.1 a.2)

/-- Output chunk k commits: its events count, its flag is set, and it leaves the access tables (R310, R321). -/
def outputChunk (i k : Nat) (s : State) : State :=
  match liveSlot s i with
  | none => s
  | some (t, c) =>
    let sp := t.chunkSpan (t.dstElems c.nmemb c.myrank) k
    if !mayCommit s c t k then s
    else match outputEls c t sp.1 sp.2 with
      | none => s
      | some els =>
        match bandWrite t.ctx t.dstSpace (outSpan c t k).1 (els.flatMap (fun x => leBytes (dtypeBytes t.dtype) x.code)) s with
        | (s1, false) => s1
        | (s1, true) =>
          let inv := (els.filter (fun x => x.inv)).length
          let at_ := (els.takeWhile (fun x => !x.inv)).length
          let first (o : Option Nat) : Option Nat :=
            if inv = 0 then o else some (Nat.min (o.getD (sp.1 + at_)) (sp.1 + at_))
          let s2 := modSlot i (fun t => { t with
            written := t.written ++ [k], outOpen := tdel t.outOpen k
            invalid := satAdd t.invalid inv, invFirst := first t.invFirst, ovf := satAdd t.ovf ((els.map (·.ovf)).sum) }) s1
          let s3 := setFlag t.ctx (t.flag0 + k % t.nflag) s2
          match tget? t.outOpen k with
          | none => tryComplete i s3
          | some ls => tryComplete i (wakeTables (dropOutputs { t with outOpen := [(k, ls)] } s3))

/-- OUTPUT_CHUNK_RETIRE (R321). -/
def execOutputChunkRetire (slot : Fin 64) (k : Nat) (s : State) : Result := live (outputChunk slot.val k) s

/-! Chunks that arrive (R305, R315, R316, R323). -/

/-- A chunk for a name that is not launched yet waits for the launch (log entry 28). -/
def keepEarly (e : BandEarly) (c : Comm) (s : State) : State :=
  if bhSeq e.hdr ≤ c.lastSeq then s
  else { s with band := { s.band with early := s.band.early.filter (· != e) ++ [e] } }

/-- The checks that every Bandstand chunk meets at its landing port: HCRC, destination, communicator and epoch. -/
def bandEnter (port : LinkPort) (src : UPath) (hdr : BitVec 512) (f : Comm → State → State) (s : State) : State :=
  if !hcrcOk 384 hdr.toNat then countHdrErr port s
  else match getComm s (bhCid hdr) with
    | none => emit (.bounce src hdr 0) s
    | some c =>
      if hf hdr 144 15 != c.myrank then s
      else if c.cepoch != bhEpoch hdr then
        emit (.bounce src hdr c.cepoch)
          (modCounts c.ctx (fun k => { k with misroutedIn := satInc k.misroutedIn }) s)
      else f c s

/-- A JOIN or RESULT whose signature is not the member's own ends the collective at every member (R315). -/
def checkSig (c : Comm) (i : Nat) (hdr : BitVec 512) (good : State → State) (s : State) : State :=
  match liveSlot s i with
  | none => s
  | some (t, _) =>
    if bhSig hdr != signature t c.cepoch then endSlot i stSIGNATURE_MISMATCH (some stSIGNATURE_MISMATCH) s else good s

/-- What waited for a rank's JOIN is sent. -/
def sendOwed (i r : Nat) (s : State) : State :=
  match liveSlot s i with
  | none => s
  | some (t, _) => (t.owed.filter (fun b => b.dst == r)).foldl (fun s b => sendData i b s)
      (modSlot i (fun t => { t with owed := t.owed.filter (fun b => b.dst != r) }) s)

/-- A JOIN for a slot: matched, with its credits (R305, R322). -/
def matchJoin (c : Comm) (i : Nat) (hdr : BitVec 512) (s : State) : State :=
  checkSig c i hdr (fun s => tryComplete i (markRoot i (sendOwed i (bhSrank hdr) (modSlot i (fun t => { t with
    joined := if t.joined.contains (bhSrank hdr) then t.joined else t.joined ++ [bhSrank hdr]
    credits := tset t.credits (bhSrank hdr) (hf hdr 320 32) }) s)))) s

/-- A JOIN (R305). -/
def takeJoin (hdr : BitVec 512) (c : Comm) (s : State) : State :=
  match slotOf s (bhCid hdr) (bhSeq hdr) with
  | some i => matchJoin c i hdr s
  | none =>
    if bhSeq hdr ≤ c.lastSeq then s
    else if s.band.pend.length < 4096 then
      let e : BandPend := ⟨bhCid hdr, bhSeq hdr, bhSrank hdr, false, hdr⟩
      { s with band := { s.band with pend := s.band.pend.filter (· != e) ++ [e] } }
    else sendBand c (bhCid hdr) (bhSeq hdr) 6 0 (bhSrank hdr) 0 0 0 0 false [] [] s

/-- BAND_JOIN (R305). -/
def execBandJoin (port : LinkPort) (src : UPath) (hdr : BitVec 512) (s : State) : Result := live (bandEnter port src hdr (takeJoin hdr)) s

/-- The status with which a member ends on an ABORT (R306, R328). -/
def abortStatus (st : Nat) : Nat := if st = stCOLL_TIMEOUT then stPEER_ABORT else st

/-- An ABORT overrides a completion of the same TCLK (R328): it is forwarded, and the status is its own. -/
def overrideEnd (i : Nat) (hdr : BitVec 512) (c : Comm) (s : State) : State :=
  match tget? s.band.slots i with
  | some t =>
    if t.ended == some stOK && t.endedAt == s.sys.time && !t.folded then
      (partners c t).foldl (fun s r => sendBand c t.cid t.seq 5 0 r (bhElem0 hdr) 0 0 0 false [] [] s)
        (modSlot i (fun t => { t with ended := some (abortStatus (bhElem0 hdr)) }) s)
    else s
  | none => s

/-- An ABORT: forwarded and obeyed, or kept for a name that is not launched, in the pending table or, where that is
full, before it (R305, R306, R315; log entry 28). -/
def takeAbort (port : LinkPort) (src : UPath) (hdr : BitVec 512) (c : Comm) (s : State) : State :=
  match slotOf s (bhCid hdr) (bhSeq hdr) with
  | some i =>
    if (liveSlot s i).isSome then endSlot i (abortStatus (bhElem0 hdr)) (some (bhElem0 hdr)) s else overrideEnd i hdr c s
  | none =>
    if bhSeq hdr ≤ c.lastSeq then s
    else if 4096 ≤ s.band.pend.length then keepEarly ⟨port, src, hdr, []⟩ c s
    else
      let e : BandPend := ⟨bhCid hdr, bhSeq hdr, bhSrank hdr, true, hdr⟩
      { s with band := { s.band with pend := s.band.pend.filter (· != e) ++ [e] } }

/-- BAND_ABORT (R306). -/
def execBandAbort (port : LinkPort) (src : UPath) (hdr : BitVec 512) (s : State) : Result := live (bandEnter port src hdr (takeAbort port src hdr)) s

/-- BUSY: the JOIN is repeated later (R305). -/
def takeBusy (hdr : BitVec 512) (_c : Comm) (s : State) : State :=
  match slotOf s (bhCid hdr) (bhSeq hdr) with
  | some i => modSlot i (fun t => { t with busy := t.busy.filter (· != bhSrank hdr) ++ [bhSrank hdr] }) s
  | none => s

/-- BAND_BUSY (R305). -/
def execBandBusy (port : LinkPort) (src : UPath) (hdr : BitVec 512) (s : State) : Result := live (bandEnter port src hdr (takeBusy hdr)) s

/-- READY reaches the decider (R316). -/
def takeReady (port : LinkPort) (src : UPath) (hdr : BitVec 512) (c : Comm) (s : State) : State :=
  match slotOf s (bhCid hdr) (bhSeq hdr) with
  | some i =>
    let k := bhStage hdr
    let j := partIndex c k (bhSrank hdr)
    tryDecide i k (modSlot i (fun t =>
      if t.ended.isSome || (tget? t.maps k).isSome || t.ready.contains (k, j) then t else { t with ready := t.ready ++ [(k, j)] }) s)
  | none => keepEarly ⟨port, src, hdr, []⟩ c s

/-- BAND_READY (R316). -/
def execBandReady (port : LinkPort) (src : UPath) (hdr : BitVec 512) (s : State) : Result := live (bandEnter port src hdr (takeReady port src hdr)) s

/-- DECIDE fixes a map at a representative; that of stage S3 is its site's (R316, R318). -/
def takeDecide (port : LinkPort) (src : UPath) (hdr : BitVec 512) (c : Comm) (s : State) : State :=
  match slotOf s (bhCid hdr) (bhSeq hdr) with
  | some i =>
    let k := bhStage hdr
    modSlot i (fun t =>
      if (tget? t.maps k).isSome || !deadlineAt t k then t
      else { t with
        maps := tset t.maps k (bhSig hdr)
        siteMaps := if k = 3 then tset t.siteMaps (siteIndex c) (bhSig hdr) else t.siteMaps }) s
  | none => keepEarly ⟨port, src, hdr, []⟩ c s

/-- BAND_DECIDE (R316). -/
def execBandDecide (port : LinkPort) (src : UPath) (hdr : BitVec 512) (s : State) : Result := live (bandEnter port src hdr (takeDecide port src hdr)) s

/-- The payload and trailer of a Bandstand chunk that passes its checks, or 1 CRC, 2 AUTH (R290, R323). -/
def openBand (s : State) (port : LinkPort) (u : UPath) (hdr : BitVec 512) (empty_ : Bool) (stream : List Byte) :
    Except Nat (List Byte × List Byte) :=
  let n := if empty_ then 0 else hf hdr 32 16 + 1
  let plain : Option (List Byte) :=
    if hf hdr 8 1 = 0 then (if exposedPort s port || exposedPeer s u then none else some stream)
    else match tget? s.prom.keys (hf hdr 352 12) with
      | some k => if k.send || k.peer != u then none
        else Config.gcmOpen k.key (gcmIv (hf hdr 448 64) (hf hdr 352 12)) (leBytes 64 (setBits hdr.toNat 384 32 0)) stream
      | none => none
  match plain with
  | none => .error 2
  | some bs => if leNat ((bs.drop n).take 8) != crc64 (bs.take n) then .error 1 else .ok (bs.take n, bs.drop (n + 8))

/-- A chunk with a payload for a running slot: its checks, its place in the digest, then its use. A third failure of one
chunk ends the collective (R284, R323, R324). One for a name that is not launched yet waits. -/
def bandPayload (port : LinkPort) (src : UPath) (hdr : BitVec 512) (stream : List Byte) (empty_ : Slot → Bool)
    (f : Nat → Slot → List Byte → List Byte → State → State) (c : Comm) (s : State) : State :=
  match slotOf s (bhCid hdr) (bhSeq hdr) with
  | none => keepEarly ⟨port, src, hdr, stream⟩ c s
  | some i =>
    match liveSlot s i with
    | none => s
    | some (t, _) =>
      let r := bhSrank hdr
      let u := ((c.members[r]?).map (·.upath)).getD 0
      let key := (r, bhStage hdr, bhChidx hdr)
      match openBand s port u hdr (empty_ t) stream with
      | .error k =>
        let st := if k = 1 then stCHUNK_CRC else stCHUNK_AUTH
        if 2 ≤ (t.fails.filter (· == key)).length then endSlot i st (some st) s
        else modSlot i (fun t => { t with fails := t.fails ++ [key] }) s
      | .ok (bs, tr) =>
        let d : DigEnt := ⟨r, bhStage hdr, bhChidx hdr, BitVec.ofNat 64 (crc64 bs)⟩
        f i t bs tr (modSlot i (fun t => { t with rxDig := t.rxDig ++ [d] }) s)

/-- Elements of w bytes. -/
def elsOf (w : Nat) (bs : List Byte) : List Nat := leWords w (bs.length / Nat.max w 1) bs

/-- A chunk of an all-to-all's block in the tree: kept for its way on, and at its destination taken (R311, R320). -/
def takeBlock (c : Comm) (i : Nat) (t : Slot) (a : Nat) (bs : List Byte) (s : State) : State :=
  let w (k : Nat) : Nat := leNat ((bs.drop (4 * k)).take 4)
  let els := elsOf (dtypeBytes t.dtype) (bs.drop 12)
  let here : Bool := w 1 == c.myrank
  modSlot i (fun t => { t with
    blocks := t.blocks ++ [⟨w 0, w 1, w 2, a, els⟩]
    finals := if here && !els.isEmpty then t.finals ++ [⟨w 0 * t.count + a, els.map (fun x => ⟨x, false, 0⟩)⟩] else t.finals
    rxCounts := if here then tset t.rxCounts (w 0) (w 2) else t.rxCounts }) s

/-- A contribution or block of another rank (R312, R313, R320). -/
def useData (hdr : BitVec 512) (c : Comm) (i : Nat) (t : Slot) (bs _tr : List Byte) (s : State) : State :=
  let r := bhSrank hdr
  let a := bhElem0 hdr
  let fin (x : Nat) : FinEl := ⟨x, false, 0⟩
  let s1 :=
    if opReduces t.op then
      let vs := if hf hdr 9 1 != 0 then (elsOf 48 bs).map x320Of else (elsOf (dtypeBytes t.dtype) bs).map (leafOf t.dtype)
      modSlot i (fun t => { t with staged := t.staged ++ [⟨r, r, a, vs⟩] }) s
    else if srcPrefix t != 0 then takeBlock c i t a bs s
    else
      modSlot i (fun t => { t with
        finals := if bs.isEmpty then t.finals else t.finals ++ [⟨a, (elsOf (dtypeBytes t.dtype) bs).map fin⟩]
        rxCounts := if t.op = opAllToAll then tset t.rxCounts r (hf hdr 256 64) else t.rxCounts }) s
  tryComplete i s1

/-- BAND_DATA (R323). -/
def takeData (port : LinkPort) (src : UPath) (hdr : BitVec 512) (stream : List Byte) (c : Comm) (s : State) : State :=
  bandPayload port src hdr stream (fun t => t.straight && t.op == opAllToAll && hf hdr 256 64 == 0) (useData hdr c) c s

def execBandData (port : LinkPort) (src : UPath) (hdr : BitVec 512) (stream : List Byte) (s : State) : Result :=
  live (bandEnter port src hdr (takeData port src hdr stream)) s

/-- A part result, or a result on its way down or from an owner (R312, R313, R315). -/
def useResult (hdr : BitVec 512) (c : Comm) (i : Nat) (t : Slot) (bs tr : List Byte) (s : State) : State :=
  let r := bhSrank hdr
  let a := bhElem0 hdr
  let k := bhStage hdr
  let exchange := !t.straight && takesPart c.members k c.myrank
  let e := dtypeBytes t.dtype
  checkSig c i hdr (fun s =>
    let node : Nat × Nat := if exchange then ownPart c.members k r else (0, c.nmemb - 1)
    let fin (x : Nat × Byte) : FinEl := ⟨x.1, x.2.toNat % 2 == 1, x.2.toNat / 2⟩
    let codes := elsOf e bs
    let s1 := modSlot i (fun t =>
      let t1 := { t with
        verified := t.verified.filter (· != r) ++ [r]
        rootDone := t.rootDone || !exchange }
      if bs.isEmpty || srcPrefix t != 0 then t1
      else if opReduces t.op && !t.straight then
        let vs := if hf hdr 9 1 != 0 then (elsOf 48 bs).map x320Of else (elsOf 4 bs).map (partOf t.dtype)
        { t1 with staged := t1.staged ++ [⟨node.1, node.2, a, vs⟩] }
      else { t1 with finals := t1.finals ++ [⟨a, (codes.zip (tr ++ List.replicate codes.length 0)).map fin⟩] }) s
    tryComplete i (if srcPrefix t != 0 && !bs.isEmpty then takeBlock c i t a bs s1 else s1)) s

/-- Whether a RESULT carries no element: a barrier's, or that of a part of a broadcast without the root. -/
def resultEmpty (c : Comm) (hdr : BitVec 512) (t : Slot) : Bool :=
  let sender := spanOf c.members (bhStage hdr - 1) (bhSrank hdr)
  t.op == opBarrier || (t.op == opBroadcast && !t.straight && takesPart c.members (bhStage hdr) c.myrank &&
    !(sender.1 ≤ t.root && t.root ≤ sender.2))

/-- BAND_RESULT (R323). -/
def takeResult (port : LinkPort) (src : UPath) (hdr : BitVec 512) (stream : List Byte) (c : Comm) (s : State) : State :=
  bandPayload port src hdr stream (resultEmpty c hdr) (useResult hdr c) c s

def execBandResult (port : LinkPort) (src : UPath) (hdr : BitVec 512) (stream : List Byte) (s : State) : Result :=
  live (bandEnter port src hdr (takeResult port src hdr stream)) s

/-- The maps of a deadline result: a site's S3 map at another site's representative, or all maps on the way down
(R318). -/
def useMap (hdr : BitVec 512) (c : Comm) (i : Nat) (_t : Slot) (bs _tr : List Byte) (s : State) : State :=
  let ws := (elsOf 8 bs).map (BitVec.ofNat 64)
  if bhStage hdr = 4 ∧ takesPart c.members 4 c.myrank = true then
    tryComplete i (sendMaps i 4 (modSlot i (fun t =>
      { t with siteMaps := tset t.siteMaps (partIndex c 4 (bhSrank hdr)) (ws.headD 0) }) s))
  else
    let m4 := ws.headD 0
    let sites := (List.range (partsOf c.members 4 0).length).filter (fun j => m4.getLsbD j)
    tryComplete i (modSlot i (fun t => { t with
      maps := tset t.maps 4 m4
      siteMaps := (sites.zip (ws.drop 1)).foldl (fun m e => tset m e.1 e.2) t.siteMaps }) s)

/-- BAND_MAP (R318). -/
def takeMap (port : LinkPort) (src : UPath) (hdr : BitVec 512) (stream : List Byte) (c : Comm) (s : State) : State :=
  bandPayload port src hdr stream (fun _ => false) (useMap hdr c) c s

def execBandMap (port : LinkPort) (src : UPath) (hdr : BitVec 512) (stream : List Byte) (s : State) : Result :=
  live (bandEnter port src hdr (takeMap port src hdr stream)) s

/-- A bounced Bandstand chunk ends its sender's collective with MISROUTED (R323). -/
def bandBounced (hdr : BitVec 512) (s : State) : State :=
  match slotOf s (bhCid hdr) (bhSeq hdr) with
  | some i => endSlot i stMISROUTED (some stMISROUTED) s
  | none => s

/-- BOUNCE_RECEIVE (R289, R323): the header's own checksum says which kind of chunk it is. -/
def execBounceReceive (hdr : BitVec 512) (rxEpoch : BitVec 32) (s : State) : Result :=
  live (fun s => if hcrcOk 416 hdr.toNat then chunkBounced hdr rxEpoch s
    else if hcrcOk 384 hdr.toNat then bandBounced hdr s else s) s

/-! Launching (R300 to R305, R322). -/

/-- 4 KiB round-up. -/
def up4k (n : Nat) : Nat := ceilDiv n 4096 * 4096

/-- The staging set aside for one sender, and the whole need (R322). -/
def stageNeed (c : Comm) (t : Slot) : Nat × Nat :=
  let n := c.nmemb
  let el := if t.exact then 48 else dtypeBytes t.dtype
  if t.straight then
    let part := ceilDiv (t.size n) n
    let sh := t.shard n c.myrank
    (up4k part, t.size n + part + (n - 1) * up4k part + (if t.exact then 48 * (sh.2 - sh.1) else 0))
  else
    let own := t.space n * el
    let fs := (stagesOf c.members c.myrank).map (fun k => (partsOf c.members k c.myrank).length - 1)
    (up4k own, own + up4k own * fs.sum)

/-- What is free of the pool's Terrace part and of the whole pool (R322). -/
def terFree (s : State) : Nat := s.band.terLen4k * 4096 - (s.band.slots.map (fun e => e.2.stageTer)).sum

def poolFree (s : State) : Nat :=
  (s.band.terLen4k * 4096 + s.band.stkLen) - (s.band.slots.map (fun e => e.2.stageBytes)).sum

/-- The ranges of a launch by space: source, destination, AUX_IN, AUX_OUT (R301, R303). -/
def collRanges (c : Comm) (t : Slot) : List (Nat × Nat × Nat) :=
  let n := c.nmemb
  let e := dtypeBytes t.dtype
  let aux := if t.op = opAllToAll then 4 * n else if t.dlmode != 0 then ceilDiv n 8 else 0
  [(t.srcSpace, t.src, t.srcElems n c.myrank * e), (t.dstSpace, t.dst, t.dstElems n c.myrank * e),
    (t.srcSpace, t.auxIn, if t.op = opAllToAll then 4 * n else 0), (t.dstSpace, t.auxOut, aux)]

/-- Whether two of them overlap. -/
def rangesClash : List (Nat × Nat × Nat) → Bool
  | [] => false
  | r :: rs => rs.any (fun x => x.1 == r.1 && rangesMeet r.2.1 r.2.2 x.2.1 x.2.2) || rangesClash rs

/-- Whether a range lies within the context's mappings (R303 check 5, R394). -/
def collRangeOk (s : State) (ctx : Nat) (r : Nat × Nat × Nat) : Bool :=
  r.2.2 == 0 || (if r.1 = 0 then decide (r.2.1 + r.2.2 ≤ viewLen (getCtx s ctx).regions)
    else decide (r.2.1 + r.2.2 ≤ 2 ^ 56) && !reachesPrivate s r.2.1 r.2.2)

/-- The most parts of a stage node of a stage. -/
def mostParts (ms : List CMember) (k : Nat) : Nat :=
  ((runsAbove k 0 ms).map (fun p => (partsOf ms k p.1).length)).foldl Nat.max 0

/-- Check 3 of R303. -/
def collBad (s : State) (c : Comm) (d : Nat) (t : Slot) : Bool :=
  !zeroFields d [(26, 6), (111, 1), (148, 12), (480, 32)] || t.op = 0 || 7 < t.op || 5 < t.dtype || 2 < t.dlmode || 4 < t.chunk ||
    (!opReduces t.op && t.redop != 0) || (t.redop == 1 && t.dtype == 5) || (t.exact && !opReduces t.op) ||
    (t.exact && !(features s).getLsbD 0xC) ||
    (t.dlmode != 0 && (!(features s).getLsbD 0xB || t.redop != 1 || !opReduces t.op || t.auxOut == 0 ||
      64 < mostParts c.members 4 || (t.dlmode == 2 && 64 < mostParts c.members 3))) ||
    c.nmemb ≤ t.root || (t.count == 0 && t.op != opBarrier) || (t.count != 0 && t.op == opBarrier) ||
    (t.op == opAllToAll && (t.scap == 0 || t.auxIn == 0 || t.auxOut == 0)) ||
    4095 < t.flag0 + (t.nflag - 1) || (t.swait && 4095 < t.sflag0 + (t.nflag - 1)) || rangesClash (collRanges c t)

/-- A slot from its descriptor (R301, R311). -/
def parseColl (w : Waiter) (ctx d : Nat) : Slot :=
  { cid := bits d 0 10, ctx := ctx, waiter := w, op := bits d 10 4, dtype := bits d 14 4, redop := bits d 18 2, exact := bit d 20
    dlmode := bits d 21 2, srcSpace := bits d 23 1, dstSpace := bits d 24 1, swait := bit d 25, seq := bits d 32 32
    count := bits d 64 32, root := bits d 96 15, flag0 := bits d 112 12, chunk := bits d 124 4, nflag := bits d 128 8 + 1
    sflag0 := bits d 136 12, dl4 := bits d 160 16, dl3 := bits d 176 16, src := bits d 192 64, dst := bits d 256 64
    auxIn := bits d 320 64, auxOut := bits d 384 64, scap := bits d 448 32, direct := false, stageBytes := 0, stageTer := 0
    joined := [], verified := [], busy := [], credits := [], owed := [], srcRead := [], staged := [], finals := [], blocks := []
    evald := [], rootDone := false, readySent := [], ready := [], expired := [], expiring := [], due := false, maps := []
    siteMaps := [], sendCounts := none, rxCounts := [], outOpen := [], written := []
    invalid := 0, invFirst := none, ovf := 0, dropped := 0, dropFirst := none, txDig := [], rxDig := []
    fails := [], ended := none, endedAt := 0, folded := false }

/-- The code of R303 that refuses a launch. -/
def launchCheck (s : State) (w : Waiter) (ctx d : Nat) (t : Slot) : Except Nat Comm :=
  if t.dlmode != 0 && w.gen < 3 then .error stNEEDS_MB3
  else match getComm s t.cid with
    | none => .error stNO_COMM
    | some c =>
      if c.ctx != ctx then .error stNO_COMM
      else if collBad s c d t then .error stBAD_COLL
      else if t.seq ≤ c.lastSeq then .error stSEQ_ORDER
      else if !(collRanges c t).all (collRangeOk s ctx) then .error stRESOURCE
      else if 64 ≤ s.band.slots.length || poolFree s < (stageNeed c t).2 then .error stNO_SLOT
      else .ok c

/-- JOIN to one rank, with the credits of its staging (R305, R322). -/
def sendJoin (c : Comm) (t : Slot) (dst : Nat) (s : State) : State :=
  sendBand c t.cid t.seq 0 (((stagesOf c.members c.myrank).head?).getD 0) dst 0 0 (signature t c.cepoch).toNat
    ((stageNeed c t).1 / 4096) false [] [] s

/-- What waited for a launch is taken, by its KIND. -/
def takeEarly (c : Comm) (s : State) (e : BandEarly) : State :=
  match bhKind e.hdr with
  | 1 => takeData e.port e.src e.hdr e.stream c s
  | 2 => takeResult e.port e.src e.hdr e.stream c s
  | 3 => takeReady e.port e.src e.hdr c s
  | 4 => takeDecide e.port e.src e.hdr c s
  | 7 => takeMap e.port e.src e.hdr e.stream c s
  | _ => s

/-- An accepted launch: its slot, with the Terrace part of the pool filled first, its JOINs, and what the pending
table and the landing ports hold for its name (R304, R305, R322). -/
def launchColl (c : Comm) (t0 : Slot) (s : State) : State :=
  let i := ((List.range 64).find? (fun k => (tget? s.band.slots k).isNone)).getD 0
  let direct := decide (c.treeMax * 4096 < t0.size c.nmemb) && t0.dlmode == 0
  let t1 := { t0 with direct := direct }
  let need := (stageNeed c t1).2
  let t := { t1 with stageBytes := need, stageTer := Nat.min need (terFree s) }
  let named (h : BitVec 512) : Bool := bhCid h == t.cid && bhSeq h == t.seq && bhEpoch h == c.cepoch
  let pend := s.band.pend.filter (fun e => named e.hdr)
  let early := s.band.early.filter (fun e => named e.hdr)
  let s1 := { s with band := { s.band with
    slots := tset s.band.slots i t
    pend := s.band.pend.filter (fun e => !named e.hdr)
    early := s.band.early.filter (fun e => !named e.hdr) } }
  let s2 := traceEv 4 1 t.ctx 0 0 t.cid t.seq (modComm t.cid (fun c => { c with lastSeq := t.seq }) s1)
  match (pend.map (·.hdr) ++ early.map (·.hdr)).find? (fun h => bhKind h == 5) with
  | some h => endSlot i (bhElem0 h) none s2
  | none =>
    let s3 := (firstPeers c t).foldl (fun s r => sendJoin c t r s) s2
    let s4 := tryComplete i (markRoot i (pend.foldl (fun s e => matchJoin c i e.hdr s) s3))
    early.foldl (takeEarly c) s4

def collLaunchAct : MsgAct := fun ctx w m s =>
  let a := bits m.bits.toNat 64 64
  match readSrc ctx a 64 s with
  | (s1, none) => (s1, .done stRESOURCE 0)
  | (s1, some bs) =>
    let d := leNat bs
    let t0 := parseColl w ctx d
    let t := match getComm s1 t0.cid with
      | some c => { t0 with direct := decide (c.treeMax * 4096 < t0.size c.nmemb) && t0.dlmode == 0 }
      | none => t0
    match launchCheck s1 w ctx d t with
    | .error st => (s1, .done st (t.seq + t.cid * 2 ^ 32))
    | .ok c => (launchColl c t s1, .later)

/-- COLL_LAUNCH (R300). -/
def execCollLaunch (c : CtxId) (s : State) : Result := live (takeMsg c.val 0x20 collLaunchAct) s

def bandDigestAct : MsgAct := fun ctx w m s =>
  match getComm s (bits m.bits.toNat 64 10) with
  | some c =>
    if c.ctx = ctx then (s, .done stOK (cmdBody w.opc c.sent.toNat c.recv.toNat c.covered 0)) else (s, cmdDone w stNO_COMM)
  | none => (s, cmdDone w stNO_COMM)

/-- BAND_DIGEST (R324). -/
def execBandDigest (c : CtxId) (s : State) : Result := live (takeMsg c.val 0x21 bandDigestAct) s

/-- JOIN_RETRY: a JOIN that BUSY answered is sent again (R305). -/
def retryJoin (i r : Nat) (s : State) : State :=
  match liveSlot s i with
  | some (t, c) =>
    if t.busy.contains r then sendJoin c t r (modSlot i (fun t => { t with busy := t.busy.filter (· != r) }) s) else s
  | none => s

/-- JOIN_RETRY. -/
def execJoinRetry (slot : Fin 64) (rank : Fin 32768) (s : State) : Result := live (retryJoin slot.val rank.val) s

/-- PENDING_EXPIRY (R305). -/
def execPendingExpiry (cid : Fin 1024) (seq : BitVec 32) (rank : Fin 32768) (s : State) : Result :=
  live (fun s => { s with band := { s.band with
    pend := s.band.pend.filter (fun e => !(e.cid == cid.val && e.seq == seq.toNat && e.rank == rank.val))
    early := s.band.early.filter (fun e =>
      !(bhKind e.hdr == 5 && bhCid e.hdr == cid.val && bhSeq e.hdr == seq.toNat && bhSrank e.hdr == rank.val)) } }) s

/-- The collectives of a context that is destroyed (R325). -/
def abortColls (c : Nat) (s : State) : State :=
  (s.band.slots.filter (fun e => e.2.ctx == c && e.2.ended.isNone)).foldl (fun s e =>
    endSlot e.1 stCOLL_ABORTED (some stPEER_ABORT) s) s

/-! Management commands (R297, R298, R322, R394). -/

def bandConfigAct : MsgAct := fun _ w m s =>
  let x := m.bits.toNat
  let tb := bits x 64 17
  let tl := bits x 81 18
  let sb := bits x 128 64
  let sl := bits x 192 64
  let a := tb * 4096
  let n := tl * 4096
  let others_ := privateRanges { s with band := { s.band with stkLen := 0 } }
  if decide (2 ^ 29 < a + n) || (n != 0 && (meetsCached s a n || s.ctxs.any (fun e => e.2.regions.any (fun r =>
      rangesMeet a n (r.2.base4k * 4096) (r.2.len4k * 4096))))) ||
      decide (2 ^ 56 < sb + sl) || others_.any (fun r => rangesMeet sb sl r.1 r.2) then (s, cmdDone w stBAD_REGION)
  else ({ s with band := { s.band with terBase4k := tb, terLen4k := tl, stkBase := sb, stkLen := sl } }, cmdDone w stOK)

/-- BAND_CONFIG (R322). -/
def execBandConfig (s : State) : Result := live (takeMsg mgmtCtx 0x86 bandConfigAct) s

/-- A member table entry (R298). -/
def parseMember (w : Nat) : CMember := ⟨BitVec.ofNat 48 (bits w 0 48), bits w 48 12, bits w 64 8, bits w 72 8, bits w 80 8, bits w 88 8⟩

/-- Whether the units of a level form one contiguous run each (R298). -/
def contiguous (ms : List CMember) : Bool :=
  [3, 2, 1, 0].all (fun k => let rs := (runsAbove k 0 ms).filterMap (fun p => ms[p.1]?)
    (List.range rs.length).all (fun i => (List.range i).all (fun j =>
      match rs[i]?, rs[j]? with
      | some a, some b => !sameAbove k a b
      | _, _ => true)))

/-- The refusals of R298. -/
def commBad (s : State) (cid n my ctx tree : Nat) (raw : List Nat) : Bool :=
  let ms := raw.map parseMember
  n == 0 || 32768 < n || n ≤ my || (256 < tree && tree != 0x1FF) || (getComm s cid).isSome || 1024 ≤ s.band.comms.length ||
    raw.any (fun w => !zeroFields w [(60, 4), (96, 32)]) || (ms.map (·.upath)).eraseDups.length != ms.length ||
    !contiguous ms || [0, 1, 2, 3, 4].any (fun k => 256 < mostParts ms k) ||
    !(match ms[my]? with
      | some e => e.upath == s.grove.upathSelf && e.ctx == ctx
      | none => false)

def commCreateAct : MsgAct := fun _ w m s =>
  match readPblk 0 true (bits m.bits.toNat 64 64) [10, 32, 16, 15, 12, 64, 9, 16] s with
  | (s1, .error st) => (s1, cmdDone w st)
  | (s1, .ok args) =>
    let g (i : Nat) : Nat := args.getD i 0
    let n := g 2
    match fetchMem s1 0 true 0 (g 5) (16 * Nat.min n 32768) with
    | (s2, none) => (s2, cmdDone w stRESOURCE)
    | (s2, some bs) =>
      let raw := leWords 16 (Nat.min n 32768) bs
      if commBad s2 (g 0) n (g 3) (g 4) (g 6) raw then (s2, cmdDone w stCOMM_BAD)
      else
        let c : Comm := ⟨BitVec.ofNat 32 (g 1), n, g 3, g 4, raw.map parseMember, if g 6 = 0x1FF then 16 else g 6,
          if g 7 = 0 then 2000 else g 7, 0, 0, 0, 0⟩
        ({ s2 with band := { s2.band with comms := tset s2.band.comms (g 0) c } }, cmdDone w stOK)

/-- COMM_CREATE (R297). -/
def execCommCreate (s : State) : Result := live (takeMsg mgmtCtx 0x87 commCreateAct) s

def commDestroyAct : MsgAct := fun _ w m s =>
  let cid := bits m.bits.toNat 64 10
  if (getComm s cid).isNone then (s, cmdDone w stNO_COMM)
  else if s.band.slots.any (fun e => e.2.cid == cid) then (s, cmdDone w stCOMM_BUSY)
  else ({ s with band := { s.band with
    comms := tdel s.band.comms cid
    pend := s.band.pend.filter (fun e => e.cid != cid)
    early := s.band.early.filter (fun e => bhCid e.hdr != cid) } }, cmdDone w stOK)

/-- COMM_DESTROY (R298). -/
def execCommDestroy (s : State) : Result := live (takeMsg mgmtCtx 0x88 commDestroyAct) s

end Sys2Proof.Machine
end

