-- ==== Sys2Proof/Machine/Power.lean ====
section
/-!
DEFINITION. Power, thermal sensing and ACLK changes (R417 to R434, R457 to R459): the grant arbiter, revocation, Pumphouse's
loops and forecast, the words of the P-port, and the idle tick of TCLK.
-/
namespace Sys2Proof.Machine

/-! The account (R417, R418, R433). -/

/-- Fuse word n (R462). -/
def fuseWord (s : State) (n : Nat) : Nat := (tget s.ext.fuses n 0).toNat

/-- The fused value of quantity q: 0 the base, 1 to 3 the classes (R417, R462). -/
def fusedValue (s : State) (q : Nat) : Nat := bits (fuseWord s 19) (16 * q) 16

/-- The coefficient of a class at the ACLK in force, in units of 10 mA, rounded up; the base is not scaled (R417). -/
def classCost (s : State) (cls : Nat) : Nat :=
  if cls = 0 then 0 else ceilDiv (s.power.coefs.getD cls 0 * s.power.aclkMhz) 4000

def baseCost (s : State) : Nat := s.power.coefs.getD 0 0

/-- The class that the account holds for a Pavilion: the class granted, or after a revocation what the MMA commands in
its arrays still need (R421). -/
def accountClass (s : State) (p : Nat) : Nat :=
  let n := (busyArrays s p).eraseDups.length
  Nat.max (getPav s p).leave (if 2 ≤ n then 3 else if n = 1 then 2 else 0)

/-- The account in units of 10 mA (R417). -/
def account (s : State) : Nat := baseCost s + ((List.range 16).map (fun p => classCost s (accountClass s p))).sum

/-- The account once every revoked Pavilion has finished its commands. -/
def grantedAccount (s : State) : Nat := baseCost s + ((List.range 16).map (fun p => classCost s (getPav s p).leave)).sum

/-- The effective budget in units of 10 mA: the smallest of the four values of R418; 0 before the first budget and
after a trip (R418, R428). -/
def effBudget (s : State) : Nat :=
  let w := s.power
  if w.noBudget || w.trip then 0
  else
    let a := Nat.min (w.pBudget * 100) (w.pCap * 100)
    let b := if w.drvCap = 0 then a else Nat.min a (w.drvCap * 100)
    match w.working with
    | none => b
    | some x => Nat.min b x

/-! Granting and revoking (R419 to R422). -/

/-- One revocation: the highest class, of the highest Pavilion, steps down until the account fits (R421, R503, R504). -/
def stepDown (s : State) (p budget : Nat) : Nat → Nat → Nat
  | 0, c => c
  | f + 1, c =>
    if c = 0 ∨ grantedAccount s + classCost s c ≤ budget + classCost s (getPav s p).leave then c
    else stepDown s p budget f (c - 1)

/-- The Pavilion of highest class, and of highest index among those. -/
def topPav (s : State) : Nat :=
  (List.range 16).foldl (fun b p => if (getPav s b).leave ≤ (getPav s p).leave then p else b) 0

def revokeOne (budget : Nat) (s : State) : State :=
  let p := topPav s
  let old := (getPav s p).leave
  let new := stepDown s p budget 3 old
  traceEv 6 1 0 p 0 old new (perfEvent p 0x10 1 (setLeave p new s))

/-- Revokes until the account fits the budget or no grant is left (R421). -/
def revokeTo (budget : Nat) : Nat → State → State
  | 0, s => s
  | f + 1, s =>
    if grantedAccount s ≤ budget ∨ (getPav s (topPav s)).leave = 0 then s else revokeTo budget f (revokeOne budget s)

/-- Grants that the effective budget no longer holds are revoked (R421). -/
def revoke (s : State) : State := revokeTo (effBudget s) 16 s

/-- The ceiling of the ramp allowance: RAMP·1 µs (R419). -/
def rampCeiling (w : Power) : Nat := 2000 * w.pRamp

/-- The pending requests of one round from Pavilion lastPav + 1 on: the first that fails a test ends the round (R420).
-/
def grantRound : List Nat → State → State
  | [], s => s
  | p :: ps, s =>
    let v := getPav s p
    if v.leaveReq ≤ v.leave then grantRound ps s
    else
      let rise := classCost s v.leaveReq - classCost s (accountClass s p)
      if effBudget s < account s + rise ∨ s.power.allowance < 20 * rise then s
      else
        let s1 := modPav p (fun v => { v with leaveReq := 0 }) (setLeave p v.leaveReq s)
        grantRound ps { s1 with power := { s1.power with allowance := s1.power.allowance - 20 * rise, lastPav := p } }

/-- The order of a round (R420). -/
def roundOrder (last : Nat) : List Nat := (List.range 16).map (fun i => (last + 1 + i) % 16)

/-- The arbiter's work in a TCLK: no class is granted while NOBUDGET or TRIP stands (R418, R420, R428). -/
def arbitrate (s : State) : State :=
  if s.power.noBudget || s.power.trip then s else grantRound (roundOrder s.power.lastPav) (revoke s)

/-- LEAVE_GRANT (R420). -/
def execLeaveGrant (s : State) : Result := live arbitrate s

/-! Samples (R424). -/

/-- A sample of quantity q, in units of 10 mA at 4.0 GHz: 64 of them set the quantity to the largest plus 3%, never
above the fused value; one above it restores that value (R424). -/
def takeSample (q x : Nat) (s : State) : State :=
  let w := s.power
  let fz := fusedValue s q
  if fz < x then
    setErr ebCOEF_EXCEED { s with power := { w with
      coefExc := satInc w.coefExc, coefs := w.coefs.set q fz, fused := w.fused ||| (1#4 <<< q), samples := tset w.samples q [] } }
  else
    let l := tget w.samples q [] ++ [x]
    let kept := l.drop (l.length - 64)
    if kept.length < 64 then { s with power := { w with samples := tset w.samples q kept } }
    else { s with power := { w with
      samples := tset w.samples q kept
      coefs := w.coefs.set q (Nat.min fz (ceilDiv (kept.foldl Nat.max 0 * 103) 100))
      fused := w.fused &&& ~~~(1#4 <<< q) } }

/-- Whether a MEAS word has arrived within the last 100 µs (R457). -/
def measFresh (s : State) : Bool :=
  match s.power.measAt with
  | none => false
  | some t => decide ((s.sys.time - t).toNat ≤ 200000)

/-- The measured current in units of 10 mA. -/
def measCurrent (s : State) : Nat := bits s.power.meas.toNat 0 16

/-- The difference of two currents. -/
def stepOf (a b : Nat) : Nat := if a ≤ b then b - a else a - b

/-- A MEAS word (R457): PWR_MEAS, and a class sample when exactly one grant began or ended since the last word (R424).
-/
def takeMeas (w : BitVec 64) (s : State) : State :=
  let v := w.toNat
  if bits v 0 4 != 2 then s
  else
    let cur := bits v 4 16
    let new : BitVec 32 := BitVec.ofNat 32 (cur + bits v 20 16 * 2 ^ 16)
    let put (s : State) : State :=
      { s with power := { s.power with meas := new, measAt := some s.sys.time, grants := [] } }
    match s.power.grants with
    | [c] =>
      if c = 0 || !measFresh s || coreState s 1 != 0 then put s
      else put (takeSample c (ceilDiv (stepOf (measCurrent s) cur * 4000) s.power.aclkMhz) s)
    | _ => put s

/-- MEAS (R424, R457). -/
def execMeas (w : BitVec 64) (s : State) : Result := running (takeMeas w) s

/-! The forecast (R425, R458). -/

/-- Amperes, rounded up, in a field of 12 bits. -/
def amps (x : Nat) : Nat := Nat.min (ceilDiv x 100) 4095

/-- The forecast's three values in A (R425). -/
def forecast (s : State) : Nat × Nat × Nat :=
  let acc := account s
  let hi := Nat.min (effBudget s) (acc + ceilDiv s.power.allowance 20 + s.power.pRamp * 1000)
  let asked := ((List.range 16).map (fun p =>
    let v := getPav s p
    if v.leave < v.leaveReq then classCost s v.leaveReq else 0)).sum
  (amps hi, amps (acc + asked), amps (baseCost s))

/-- Publishes the forecast while Pumphouse runs (R425). -/
def publish (s : State) : State :=
  if coreState s 1 != 0 then s
  else
    let f := forecast s
    { s with power := { s.power with fcstHi := f.1, fcstExp := f.2.1, fcstLo := f.2.2 } }

/-- An FCST word: while Pumphouse restarts the hardware repeats the last one with STALE set (R425, R458). -/
def fcstWord (s : State) : BitVec 64 :=
  BitVec.ofNat 64 (1 + s.power.fcstHi * 2 ^ 4 + s.power.fcstExp * 2 ^ 16 + s.power.fcstLo * 2 ^ 28 +
    (if coreState s 1 = 1 then 1 else 0) * 2 ^ 40)

def sendFcst (s : State) : State :=
  if coreState s 1 = 0 ∨ coreState s 1 = 1 then let s1 := publish s; emit (.pword (fcstWord s1)) s1 else s

/-- FCST (R425). -/
def execFcst (s : State) : Result := running sendFcst s

/-! Pumphouse's loops (R423, R427). -/

/-- The power loop: a base sample in a period without a change of grant, the working budget, the forecast (R423,
R424). -/
def powerLoop (s : State) : State :=
  if coreState s 1 != 0 then s
  else
    let held := account s - baseCost s
    let s1 := if s.power.quiet && measFresh s then takeSample 0 (measCurrent s - held) s else s
    let top := s1.power.pBudget * 100
    let work := if s1.power.noBudget then none
      else if s1.power.throttle then some (Nat.min top (s1.power.working.getD top)) else some top
    publish (revoke { s1 with power := { s1.power with working := work, quiet := true } })

/-- POWER_LOOP (R423). -/
def execPowerLoop (s : State) : Result := running powerLoop s

/-- A sensor's last reading in units of 0.25 °C; none when it was invalid (R486). -/
def tempOf (s : State) (n : Nat) : Option Int :=
  let v := (tget s.power.temps n 0).toNat
  if bit v 12 then none else some (sbits v 0 12)

/-- The readings of every sensor. -/
def allTemps (s : State) : List Int := (List.range 24).filterMap (tempOf s)

/-- The thermal loop: the working budget falls by 2%, or rises by 1% until it reaches the P-port's budget (R427). -/
def thermalLoop (s : State) : State :=
  let w := s.power
  let top := w.pBudget * 100
  let cur := w.working.getD top
  let hot : Int := 4 * (w.throttleC : Int)
  if coreState s 1 != 0 then s
  else if (allTemps s).any (fun t => decide (hot ≤ t)) then
    revoke { s with power := { w with working := some (cur * 98 / 100), throttle := true } }
  else if w.throttle && (allTemps s).all (fun t => decide (t < hot - 12)) then
    let up := Nat.min top (cur + Nat.max 1 (ceilDiv cur 100))
    { s with power := { w with working := some up, throttle := decide (up < top) } }
  else s

/-- THERMAL_LOOP (R427). -/
def execThermalLoop (s : State) : Result := running thermalLoop s

/-- TRIP_C as it acts (R426). -/
def tripLimit (s : State) : Nat := Nat.min s.power.tripC (bits (fuseWord s 18) 40 8)

/-- Every grant is revoked, the highest class and Pavilion first (R421, R428). -/
def revokeAll (s : State) : State :=
  (List.range 16).foldl (fun s _ =>
    let p := topPav s
    let old := (getPav s p).leave
    if old = 0 then s else traceEv 6 1 0 p 0 old 0 (perfEvent p 0x10 1 (setLeave p 0 s))) s

/-- A thermal trip: the budget is 0 A, every grant is revoked, TRIP and THERM_TRIP are latched (R428). -/
def thermTrip (s : State) : State :=
  revokeAll (setErr ebTHERM_TRIP
    { s with power := { s.power with trip := true }, sys := { s.sys with thermTrip := true } })

/-- A reading of sensor n; the third invalid one in a row counts as reaching TRIP_C (R427, R428). -/
def readSensor (n : Nat) (reading : BitVec 12) (invalid : Bool) (s : State) : State :=
  let run := if invalid then tget s.power.badRun n 0 + 1 else 0
  let s1 := { s with power := { s.power with
    temps := tset s.power.temps n (BitVec.ofNat 13 (reading.toNat + (if invalid then 4096 else 0)))
    badRun := tset s.power.badRun n run } }
  if (!invalid && decide (4 * (tripLimit s : Int) ≤ reading.toInt)) || 3 ≤ run then thermTrip s1 else s1

/-- SENSOR_READ (R427). -/
def execSensorRead (n : Fin 24) (reading : BitVec 12) (invalid : Bool) (s : State) : Result :=
  running (readSensor n.val reading invalid) s

/-! Words of the P-port (R457, R458). -/

/-- A budget and a RAMP, where it is not 0, come into force (R418, R419, R457). -/
def adoptBudget (budget ramp : Nat) (s : State) : State :=
  let p := { s.power with
    noBudget := false, pBudget := budget, nextBudget := none, pRamp := if ramp = 0 then s.power.pRamp else ramp }
  { s with power := { p with allowance := Nat.min p.allowance (rampCeiling p) } }

/-- A budget that waited for Pumphouse comes into force (R381). -/
def adoptWaiting (s : State) : State :=
  match s.power.nextBudget with
  | none => s
  | some (b, r) => revoke (adoptBudget b r s)

/-- A BUDGET word: budget and cap together, RAMP unless 0; the fall applies before any request (R418, R422, R457). The
cap acts in hardware; the budget and RAMP wait while Pumphouse does not run (R381, R423). -/
def takeBudget (w : BitVec 64) (s : State) : State :=
  let v := w.toNat
  if bits v 0 4 != 1 then s
  else
    let ramp := bits v 28 8
    let s1 := { s with power := { s.power with pCap := bits v 16 12, lastBudget := w } }
    if coreState s 1 = 0 then revoke (adoptBudget (bits v 4 12) ramp s1)
    else
      let kept := if ramp = 0 then (s.power.nextBudget.map (·.2)).getD 0 else ramp
      revoke { s1 with power := { s1.power with nextBudget := some (bits v 4 12, kept) } }

/-- BUDGET (R418). -/
def execBudget (w : BitVec 64) (s : State) : Result := running (takeBudget w) s

/-- An ACLKF word announces the frequency after the coming change (R457). -/
def takeAclkf (w : BitVec 64) (s : State) : State :=
  if bits w.toNat 0 4 != 3 then s else { s with power := { s.power with aclkNext := bits w.toNat 4 12 } }

/-- ACLKF (R457). -/
def execAclkf (w : BitVec 64) (s : State) : Result := running (takeAclkf w) s

/-- A rise of ACLK_REQ: dispatch stops and ACLK_ACK is asserted, a trip or not (R434, R459). -/
def aclkRises (s : State) : State :=
  if s.power.aclkChg then s else emit (.aclkAck true) { s with power := { s.power with aclkChg := true } }

/-- ACLK_REQ_RISE (R434). -/
def execAclkReqRise (s : State) : Result := running aclkRises s

/-- A fall of ACLK_REQ: ACLK_ACK falls, the coefficients are rescaled and dispatch resumes (R433, R434). -/
def aclkFalls (s : State) : State :=
  if !s.power.aclkChg then s
  else emit (.aclkAck false) (revoke { s with power := { s.power with aclkChg := false, aclkMhz := s.power.aclkNext } })

/-- ACLK_REQ_FALL (R434). -/
def execAclkReqFall (s : State) : Result := running aclkFalls s

/-- A TEMP word (R458). -/
def tempWord (s : State) (n : Nat) : BitVec 64 :=
  BitVec.ofNat 64 (2 + n * 2 ^ 4 + (tget s.power.temps n 0).toNat * 2 ^ 9)

/-- TEMP (R458). -/
def execTemp (n : Fin 24) (s : State) : Result := running (fun s => emit (.pword (tempWord s n.val)) s) s

/-- A STATUS word (R458). -/
def statusWord (s : State) : BitVec 64 :=
  let f (b : Bool) : Nat := if b then 1 else 0
  BitVec.ofNat 64 (3 + f s.power.throttle * 2 ^ 4 + f s.power.trip * 2 ^ 5 + f s.power.noBudget * 2 ^ 6 +
    amps (account s) * 2 ^ 7)

/-- STATUS (R458). -/
def execStatus (s : State) : Result := running (fun s => emit (.pword (statusWord s)) s) s

/-! The idle tick (log entry 9). -/

/-- A TCLK in which no command arrives: TIME counts and the ramp allowance rises (R419, R476), and the
events of the last TCLK are past (R14). Nothing counts in reset. -/
def idleTick (s : State) : State :=
  match s.sys.phase with
  | .inReset => s
  | .destroyed => s
  | _ =>
    { s with
      sys := { s.sys with time := s.sys.time + 1, errNow := 0, base := countBase s }
      power := { s.power with allowance := Nat.min (rampCeiling s.power) (s.power.allowance + s.power.pRamp) } }

end Sys2Proof.Machine
end

