-- ==== Sys2Proof/Machine/Cores.lean ====
section
/-!
DEFINITION. Firmware cores and their images (R378 to R383, R404 to R408, R437, R438, R478, R479, R482): image checks,
restarts, watchdogs.
-/
namespace Sys2Proof.Machine

/-! Images (R407, R408). -/

/-- The firmware range (R437). -/
def fwAddr (s : State) : Nat := s.sys.fwBase * 0x100000

/-- Where the image of a KIND stands, and where Lodge keeps its copy (R437). -/
def imageAddr (s : State) (kind : Nat) : Nat := fwAddr s + (kind - 1) * 0x100000
def copyAddr (s : State) (kind : Nat) : Nat := fwAddr s + 0x400000 + (kind - 1) * 0x100000

/-- A header's 512 bytes, and the body that it names (R407). -/
def imageHead (s : State) (a : Nat) : List Byte := extPeek s 0 a 512
def imageBody (s : State) (a : Nat) : List Byte := extPeek s 0 (a + 512) (bits (leNat (imageHead s a)) 96 32)

/-- The fused SHA-384 of the signing key that KEY_ID names (R404, R462). -/
def fusedKey (s : State) (keyId : Nat) : Option Nat :=
  let at_ (n : Nat) : Nat := ((List.range 6).map (fun i => fuseWord s (n + i) * 2 ^ (64 * i))).sum
  if keyId = 0 then some (at_ 6) else if keyId = 1 then some (at_ 12) else none

/-- The fields of an image header that are reserved (R407). -/
def imageReserved : List (Nat × Nat) := [(48, 16), (128, 384), (896, 128), (1792, 256), (2816, 1280)]

/-- The number of the first check of R408 that an image fails. -/
def imageCheck (s : State) (kind a : Nat) : Option Nat :=
  let head := imageHead s a
  let h := leNat head
  let key := bits h 36 4
  if bits h 0 32 != 0x3349584C || bits h 32 4 != kind || imageReserved.any (fun f => bits h f.1 f.2 != 0) then some 1
  else if fusedKey s key != some (Config.sha384 ((head.drop 128).take 96)) then some 2
  else if !(key == 0 || ((fuseWord s 18).testBit 0 && (s.sys.startMode == 1 || s.sys.startMode == 2))) then some 3
  else if bits h 40 8 < minSvn s kind then some 4
  else if !Config.ecdsaVerify ((head.drop 128).take 96) (head.take 256) ((head.drop 256).take 96) then some 5
  else if bits h 512 384 != Config.sha384 (imageBody s a) then some 6
  else none

/-- The image's measurement: the SHA-384 of its header (R408). -/
def measurement (s : State) (a : Nat) : Nat := Config.sha384 (imageHead s a)

/-- Whether a copy still matches the measurement taken at start-up, header and body (R380). -/
def copyOk (s : State) (kind : Nat) : Bool :=
  let a := copyAddr s kind
  measurement s a == tget s.sys.imageHash kind 0 && bits (leNat (imageHead s a)) 512 384 == Config.sha384 (imageBody s a)

/-- The KIND of the image that a core runs (R407). -/
def kindOf (core : Nat) : Nat := if core = 0 then 1 else if core = 1 then 3 else if core = 2 then 2 else 4

/-- The cores that an image is for, the lowest first. -/
def coresOf (kind : Nat) : List Nat :=
  if kind = 1 then [0] else if kind = 2 then [2] else if kind = 3 then [1] else (List.range 16).map (· + 3)

/-- FW_FAIL with its detail (R480, R482). -/
def fwFail (kind check core : Nat) (s : State) : State :=
  setErr ebFW_FAIL { s with sys := { s.sys with fwFailDet := BitVec.ofNat 64 (kind + check * 2 ^ 4 + core * 2 ^ 8) } }

/-! Restarts (R380 to R383). -/

def setCore (c st : Nat) (s : State) : State := { s with sys := { s.sys with coreSts := tset s.sys.coreSts c st } }

/-- A core's restart begins. -/
def beginRestart (c cause : Nat) (w : Option Waiter) (s : State) : State :=
  let s1 := setCore c 1 { s with sys := { s.sys with
    coreCause := tset s.sys.coreCause c cause
    restartWaiter := match w with
      | none => s.sys.restartWaiter
      | some x => s.sys.restartWaiter ++ [(c, x)] } }
  traceEv 5 1 0 0 0 c cause s1

/-- The record of a CORE_RESTART. -/
def restartRecord (w : Waiter) (st : Nat) (s : State) : State := finish w st (cmdBody w.opc 0 0 0 0) s

/-- A request to restart a core: CORE_BUSY for a core that is already restarting; while Lodge does not run, a request
for another core waits for it (R383, R478). -/
def requestRestart (c cause : Nat) (w : Option Waiter) (s : State) : State :=
  if coreState s c = 1 then
    match w with
    | none => s
    | some x => restartRecord x stCORE_BUSY s
  else if c != 0 && coreState s 0 != 0 then
    { s with sys := { s.sys with coreWait := s.sys.coreWait ++ [(c, cause, w)] } }
  else beginRestart c cause w s

/-- The restarts that waited for Lodge, in order. -/
def releaseWaiting (s : State) : State :=
  s.sys.coreWait.foldl (fun s e => requestRestart e.1 e.2.1 e.2.2 s) { s with sys := { s.sys with coreWait := [] } }

/-- CORE_RESTART commands of a core end with a status. -/
def endRestart (c st : Nat) (s : State) : State :=
  (s.sys.restartWaiter.filter (fun e => e.1 == c)).foldl (fun s e => restartRecord e.2 st s)
    { s with sys := { s.sys with restartWaiter := s.sys.restartWaiter.filter (fun e => e.1 != c) } }

/-- A watchdog's expiry counts and restarts the core (R379, R483). -/
def watchdog (c : Nat) (s : State) : State :=
  if coreState s c != 0 then s
  else
    let n := tget s.sys.wdog c 0
    requestRestart c 1 none
      (setErr ebFW_WATCHDOG { s with sys := { s.sys with wdog := tset s.sys.wdog c (Nat.min 0xFFFF (n + 1)) } })

/-- WATCHDOG_EXPIRY (R379). -/
def execWatchdogExpiry (core : Fin 19) (s : State) : Result := live (watchdog core.val) s

/-- CORE_RESTART (R355, R380). -/
def coreRestartAct : MsgAct := fun _ w m s =>
  let c := bits m.bits.toNat 64 5
  if 19 ≤ c then (s, .done stBAD_DESCRIPTOR (cmdBody w.opc 0 0 0 0)) else (requestRestart c 0 (some w) s, .later)

def execCoreRestart (s : State) : Result := live (takeMsg mgmtCtx 0x8F coreRestartAct) s

/-- A write of CORE_RST: each named core in ascending order, Lodge first (R478). A bit of a core that is restarting, or
that waits for Lodge, is ignored. -/
def writeCoreRst (v : BitVec 64) (be : BitVec 8) (s : State) : State :=
  if be.toNat % 8 != 7 then s
  else
    (List.range 19).foldl (fun s c =>
      if v.getLsbD c && !s.sys.coreWait.any (fun e => e.1 == c) then requestRestart c 2 none s else s) s

/-- CORE_RST (R478). -/
def execCoreRst (v : BitVec 64) (be : BitVec 8) (s : State) : Result := live (writeCoreRst v be) s

end Sys2Proof.Machine
end

