-- ==== Sys2Proof/Machine/Registers.lean ====
section
/-!
DEFINITION. The control window (R349 to R351, R371 to R373, R471 to R494): what each register reads, and writes by access
code (R13, R14), doorbells and heartbeats.
-/
namespace Sys2Proof.Machine

/-! Reads: each group answers a number, 0 for an offset that holds no register (R444). -/

/-- A flag as a bit. -/
def b01 (b : Bool) : Nat := if b then 1 else 0

/-- Word w of the capability list from 0040h on (R371, R475). -/
def capWord (s : State) (w : Nat) : Nat :=
  if !s.sys.capv then 0
  else
    let l := capList s
    match l[w / 2]? with
    | none => 0
    | some x =>
      if w % 2 = 0 then x.id + x.version % 2 ^ 8 * 2 ^ 16 + x.flags % 2 ^ 32 * 2 ^ 32
      else (if w / 2 + 1 = l.length then 0 else 0x40 + 0x10 * (w / 2 + 1)) + x.value % 2 ^ 32 * 2 ^ 32

/-- Identification (R474). -/
def regIdent (s : State) (o : Nat) : Nat :=
  let v (x : Nat) : Nat := if s.sys.capv then x else 0
  if o = 0x00 then 0x330A3D1EF
  else if o = 0x08 then
    b01 s.sys.capv + b01 ((rootGrove s).isSome && leadsRoot s) * 2 + b01 ((rootGrove s).isSome && !leadsRoot s) * 4
  else if o = 0x10 then v (fuseWord s 20)
  else if o = 0x18 then v (fuseWord s 21)
  else if o = 0x20 then v ((tget s.sys.fwver 1 0).toNat + (tget s.sys.fwver 2 0).toNat * 2 ^ 32)
  else if o = 0x28 then v ((tget s.sys.fwver 3 0).toNat + (tget s.sys.fwver 4 0).toNat * 2 ^ 32)
  else if 0x40 ≤ o then capWord s ((o - 0x40) / 8)
  else 0

/-- STATE of a context's doorbell (R350). -/
def ctxStateCode : CtxState → Nat
  | .free => 0
  | .active => 1
  | .halted => 2
  | .orphan => 3
  | .quiescing => 4

/-- A doorbell's two words (R350). -/
def bellWord (r : Ring) (st : Nat) (hi : Bool) : Nat :=
  if hi then r.sqHead + r.cqTail * 2 ^ 32 + st * 2 ^ 56 + b01 r.ien * 2 ^ 59 else r.sqTail + r.cqHead * 2 ^ 32

/-- The management mailbox (R349); MHB is write only. -/
def regMgmt (s : State) (o : Nat) : Nat :=
  let r := s.mgmt.ring
  if o = 0x1000 then r.sqBase
  else if o = 0x1008 then r.cqBase
  else if o = 0x1010 then
    r.sqLog2 + r.cqLog2 * 2 ^ 5 + b01 s.mgmt.en * 2 ^ 10 + b01 s.mgmt.ready * 2 ^ 11 + s.sys.mode * 2 ^ 12
  else if o = 0x1020 then bellWord r s.mgmt.mdbState false
  else if o = 0x1028 then bellWord r s.mgmt.mdbState true
  else 0

/-- The lowest member index lost, and how many (R476). -/
def lostWord (g : GroveSt) : Nat :=
  match g.lost with
  | [] => 0
  | x :: xs => xs.foldl Nat.min x + g.lost.length * 2 ^ 16

/-- The grove that GROVE_STS reports: the outermost formed one, else the one in formation (R477). -/
def shownGrove (s : State) : Option GroveSt := (rootGrove s).or s.grove.forming

/-- GROVE_STS (R477). -/
def groveSts (s : State) : Nat :=
  match shownGrove s with
  | none => 0
  | some g =>
    g.gstate + g.glevel * 2 ^ 3 + b01 (g.leader == s.grove.upathSelf) * 2 ^ 6 + b01 (rootGrove s).isSome * 2 ^ 7 +
      g.members.length % 2 ^ 8 * 2 ^ 8 + g.ninst % 2 ^ 16 * 2 ^ 16 + g.gepoch.toNat * 2 ^ 32

/-- Global configuration and status (R476 to R479). -/
def regGlobal (s : State) (o : Nat) : Nat :=
  if o = 0x2000 then s.sys.ctxswLo.toNat
  else if o = 0x2008 then s.sys.ctxswHi.toNat
  else if o = 0x2010 then s.grove.upathSelf.toNat
  else if o = 0x2018 then groveSts s
  else if o = 0x2020 then ((shownGrove s).map (fun g => g.leader.toNat)).getD 0xFFFFFFFFFFFF
  else if o = 0x2028 then ((shownGrove s).map lostWord).getD 0
  else if o = 0x2038 then ((List.range 19).map (fun c => coreState s c * 2 ^ (2 * c))).sum
  else if o = 0x2040 then s.sys.time.toNat
  else if o = 0x2050 then bits s.ter.cached.toNat 0 64
  else if o = 0x2058 then bits s.ter.cached.toNat 64 64
  else 0

/-- The six words of a context's error status (R484). -/
def cesWord (k : CtxCounts) (i : Nat) : Nat :=
  match i with
  | 0 => k.flagRepeat + k.unfilledRead * 2 ^ 32
  | 1 => k.windowClosed + k.windowClass * 2 ^ 32
  | 2 => k.windowRange + k.windowNocredit * 2 ^ 32
  | 3 => k.misroutedIn + k.sqOvf * 2 ^ 32
  | 4 => k.badToken + k.accSat * 2 ^ 32
  | 5 => k.lastHalt + k.halts * 2 ^ 32
  | _ => 0

/-- Errors, counts and interrupts (R480 to R485). -/
def regErrors (s : State) (o : Nat) : Nat :=
  if o = 0x4000 then s.sys.errSts.toNat
  else if o = 0x4008 then s.sys.errMask.toNat
  else if o = 0x4010 then s.sys.fwFailDet.toNat
  else if 0x4020 ≤ o ∧ o ≤ 0x4040 then
    let c := (o - 0x4020) / 8 * 4
    ((List.range 4).map (fun i => if c + i < 19 then tget s.sys.wdog (c + i) 0 * 2 ^ (16 * i) else 0)).sum
  else if o = 0x4048 then s.sys.groveStaleCnt
  else if 0x4080 ≤ o ∧ o < 0x4100 then
    let k := (o - 0x4080) / 8
    tget s.sys.eccCorr k 0 + tget s.sys.eccPois k 0 * 2 ^ 32
  else if o = 0x4100 then s.sys.cesSel
  else if 0x4108 ≤ o ∧ o ≤ 0x4130 then cesWord (getCtx s s.sys.cesSel).counts ((o - 0x4108) / 8)
  else if 0x4200 ≤ o ∧ o ≤ 0x4278 then bits s.sys.irqPend.toNat (64 * ((o - 0x4200) / 8)) 64
  else 0

/-- Power (R426, R486), at offsets from 02_0000h. ACCOUNT reads its reset value until start-up has released Pumphouse.
-/
def regPower (s : State) (o : Nat) : Nat :=
  let w := s.power
  if o = 0x00 then w.drvCap + w.throttleC * 2 ^ 16 + w.tripC * 2 ^ 24
  else if o = 0x08 then
    Nat.min (effBudget s / 100) 4095 + (if s.sys.phase = .up then amps (account s) else 0) * 2 ^ 12 + amps (baseCost s) * 2 ^ 24 + w.fcstHi * 2 ^ 36 +
      w.pRamp * 2 ^ 48 + b01 (coreState s 1 == 1) * 2 ^ 56 + bits w.fused.toNat 1 3 * 2 ^ 57 + b01 w.trip * 2 ^ 60 +
      b01 w.throttle * 2 ^ 61 + b01 w.aclkChg * 2 ^ 62 + b01 w.noBudget * 2 ^ 63
  else if o = 0x10 then ((List.range 4).map (fun q => w.coefs.getD q 0 % 2 ^ 16 * 2 ^ (16 * q))).sum
  else if o = 0x18 then w.meas.toNat
  else if o = 0x20 then bits w.lastBudget.toNat 4 12 + bits w.lastBudget.toNat 16 12 * 2 ^ 12 + bits w.lastBudget.toNat 28 8 * 2 ^ 24
  else if o = 0x28 then w.aclkMhz
  else if o = 0x30 then w.coefExc
  else if 0x100 ≤ o ∧ o < 0x1C0 then (tget w.temps ((o - 0x100) / 8) 0).toNat
  else 0

/-- STATE of a program (R488): the first queue, in the order of R181, whose head waits. -/
def progState (s : State) (p : Nat) (g : Prog) : Nat :=
  if g.halted then 5
  else match findJob s g.ctx g.jobseq with
    | none => 0
    | some j =>
      ((List.range 5).filterMap (fun k => headOf g k)).head?.elim 0 (fun c => headWait s p j g c)

/-- PROGA or PROGB (R488). -/
def progWord (s : State) (p : Nat) (o : Option Prog) (hi : Bool) : Nat :=
  match o with
  | none => 0
  | some g =>
    if hi then g.jobseq.toNat + g.epoch % 2 ^ 32 * 2 ^ 32
    else g.ctx + 2 ^ 12 + g.jtype * 2 ^ 13 + progState s p g * 2 ^ 15 + g.lastTpc % 2 ^ 24 * 2 ^ 18

/-- Token counters 4k to 4k + 3 (R488). -/
def tokWord (o : Option Prog) (k : Nat) : Nat :=
  match o with
  | none => 0
  | some g => ((List.range 4).map (fun i => tget g.tok (4 * k + i) 0 % 2 ^ 16 * 2 ^ (16 * i))).sum

/-- The union of the masks of the programs held (R489). -/
def maskUnion (gs : List Prog) (f : ProgHdr → BitVec 16) : Nat := (gs.foldl (fun m g => m ||| f g.hdr) 0#16).toNat

/-- Pavilion p's window (R487 to R489). -/
def regPav (s : State) (p o : Nat) : Nat :=
  let v := getPav s p
  let gs := [v.progA, v.progB].filterMap id
  let queued (k : Nat) : Nat := (gs.map (fun g => (tget g.queues k []).length)).sum
  if o = 0x00 then
    gs.length + v.leave * 2 ^ 2 + b01 (decide (v.leave < v.leaveReq)) * 2 ^ 4 + b01 (coreState s (3 + p) == 1) * 2 ^ 5 +
      v.kq * 2 ^ 6 + Nat.min 255 ((v.waitq.map (fun w => (w.1, w.2.1))).eraseDups).length * 2 ^ 13
  else if o = 0x10 then progWord s p v.progA false
  else if o = 0x18 then progWord s p v.progA true
  else if o = 0x20 then progWord s p v.progB false
  else if o = 0x28 then progWord s p v.progB true
  else if o = 0x30 then
    Nat.min 64 (sbUsed s p) + ((List.range 5).map (fun k => queued k % 16 * 2 ^ (7 + 4 * k))).sum
  else if o = 0x38 then maskUnion gs (·.acc0) + maskUnion gs (·.acc1) * 2 ^ 16 + maskUnion gs (·.feed) * 2 ^ 32
  else if 0x100 ≤ o ∧ o < 0x140 then (tget v.perfSel ((o - 0x100) / 8) 0).toNat
  else if 0x140 ≤ o ∧ o < 0x180 then (tget v.perfCnt ((o - 0x140) / 8) 0).toNat
  else if 0x200 ≤ o ∧ o < 0x280 then tokWord v.progA ((o - 0x200) / 8)
  else if 0x280 ≤ o ∧ o < 0x300 then tokWord v.progB ((o - 0x280) / 8)
  else 0

/-- Free plots of a class, and those charged to orphaned sequences (R490). -/
def poolWord (s : State) (cls : Nat) : Nat :=
  let free := ((List.range (byClass s.alt.poolN cls)).filter (fun i =>
    rcOf s (cls * 2 ^ 24 + i) == 0 && !s.alt.lostPlots.any (fun e => e.1 == cls * 2 ^ 24 + i))).length
  free % 2 ^ 24 + (s.alt.groupUse.map (fun e => byClass e.2 cls)).sum % 2 ^ 24 * 2 ^ 24

/-- The Allotment (R490), at offsets from 08_0000h. The transfers in flight are those of this TCLK. -/
def regAllot (s : State) (o : Nat) : Nat :=
  let a := s.alt
  let cfg := [a.descBase, a.poolBase.1, a.poolBase.2.1, a.poolBase.2.2, a.rcBase.1, a.rcBase.2.1, a.rcBase.2.2]
  if o = 0x00 then xfersNow s + b01 a.configured * 2 ^ 15
  else if 0x08 ≤ o ∧ o < 0x20 then (if a.configured then poolWord s ((o - 8) / 8) else 0)
  else if o = 0x20 then a.lost
  else if o = 0x28 then a.dcHits.toNat + a.dcMiss.toNat * 2 ^ 32
  else if 0x40 ≤ o ∧ o < 0x78 then cfg.getD ((o - 0x40) / 8) 0
  else if o = 0x78 then a.poolN.1 + a.poolN.2.1 * 2 ^ 24
  else if o = 0x80 then a.poolN.2.2
  else 0

/-- STATE, CAUSE, RETRAINS and REPLAYS of a link (R264, R491). -/
def linkWord (l : Link) : Nat := l.state + l.cause * 2 ^ 8 + l.retrains.toNat * 2 ^ 16 + l.replays.toNat * 2 ^ 32

/-- The Promenade (R491, R492), at offsets from 09_0000h. -/
def regProm (s : State) (o : Nat) : Nat :=
  if o < 0x80 then
    let l := tget s.prom.paths (o / 0x20) Link.down
    match o % 0x20 / 8 with
    | 0 => l.cfg.toNat
    | 1 => linkWord l + l.awidth * 2 ^ 3
    | 2 => l.hdrErr
    | _ => l.rstore.toNat
  else if o < 0xC0 then
    let l := tget s.prom.gports ((o - 0x80) / 0x10) Link.down
    if o % 0x10 = 0 then linkWord l else l.hdrErr
  else if 0x100 ≤ o ∧ o < 0x300 then (tget s.prom.routes ((o - 0x100) / 8) 0).toNat
  else if o = 0x300 then Nat.min 16384 s.prom.sends.length + s.prom.keys.length * 2 ^ 15
  else 0

/-- Bandstand (R493), at offsets from 0A_0000h. -/
def regBand (s : State) (o : Nat) : Nat :=
  let b := s.band
  if o = 0x00 then b.slots.length + b.pend.length * 2 ^ 7 + b.comms.length * 2 ^ 20
  else if o = 0x08 then b.terBase4k + b.terLen4k * 2 ^ 17
  else if o = 0x10 then b.stkBase
  else if o = 0x18 then b.stkLen
  else if 0x1000 ≤ o ∧ o < 0x1400 then
    match tget? b.slots ((o - 0x1000) / 0x10) with
    | none => 0
    | some x =>
      if o % 0x10 = 0 then
        x.cid + x.ctx * 2 ^ 10 + 2 ^ 22 + b01 x.direct * 2 ^ 23 + x.op * 2 ^ 24 + x.seq % 2 ^ 32 * 2 ^ 32
      else x.written.length % 2 ^ 32
  else 0

/-- Whether the debug range acts (R494). -/
def debugOpen (s : State) : Bool := s.sys.mode == 1 || s.sys.mode == 2

/-- Trace and Terrace inspection (R494), at offsets from 10_0000h. -/
def regDebug (s : State) (o : Nat) : Nat :=
  if !debugOpen s then 0
  else if o = 0x00 then s.trace.cfg.toNat
  else if o = 0x08 then s.trace.next + b01 s.trace.wrapped * 2 ^ 12 + b01 s.trace.stopped * 2 ^ 13
  else if o = 0x100 then s.ter.dbgAddr
  else if o = 0x108 then s.ter.dbgData.toNat
  else if o = 0x110 then s.ter.dbgSide.toNat
  else if o = 0x118 then b01 s.ter.dbgPoison + b01 s.ter.dbgCorr * 2
  else if 0x100000 ≤ o ∧ o < 0x140000 then
    bits (tget s.trace.buf ((o - 0x100000) / 64) 0).toNat (64 * (o % 64 / 8)) 64
  else 0

/-- The register at a control-window offset (R471). -/
def regRead (s : State) (o : Nat) : Nat :=
  if o < 0x1000 then regIdent s o
  else if o < 0x2000 then regMgmt s o
  else if o < 0x4000 then regGlobal s o
  else if o < 0x10000 then regErrors s o
  else if o < 0x20000 then
    let c := (o - 0x10000) / 16
    bellWord (getCtx s c).ring (ctxStateCode (getCtx s c).state) (o % 16 == 8)
  else if o < 0x40000 then regPower s (o - 0x20000)
  else if o < 0x80000 then regPav s ((o - 0x40000) / 0x4000) (o % 0x4000)
  else if o < 0x90000 then regAllot s (o - 0x80000)
  else if o < 0xA0000 then regProm s (o - 0x90000)
  else if o < 0x100000 then regBand s (o - 0xA0000)
  else regDebug s (o - 0x100000)

/-! Output levels (R450, R459, R460). -/

/-- IRQ_ERR (R460, R481). -/
def irqErr (s : State) : Bool := s.sys.errSts &&& ~~~s.sys.errMask != 0

/-- IRQ_MGMT (R460): from READY until EN is set, and while the management completion ring holds an unconsumed record. -/
def irqMgmt (s : State) : Bool := s.mgmt.ready && (!s.mgmt.en || s.mgmt.ring.cqTail != s.mgmt.ring.cqHead)

/-- THERM_TRIP (R459). -/
def thermTripPin (s : State) : Bool := s.sys.thermTrip

/-- L_PL2 of a lane group (R450): its path has PROTO = 1. -/
def laneGroupPl2 (s : State) (g : Nat) : Bool :=
  s.prom.paths.any (fun e => e.2.en && e.2.pl2 && rangesMeet e.2.lane0 e.2.width (4 * g) 4)

/-- L_TRAIN of a lane (R450): its path is in TRAIN or RETRAIN. -/
def laneTrain (s : State) (i : Nat) : Bool :=
  s.prom.paths.any (fun e => e.2.en && (e.2.state == lsTrain || e.2.state == lsRetrain) && rangesMeet e.2.lane0 e.2.width i 1)

/-! Writes. -/

/-- A written value over the fields that byte enables cover (R13, R351). -/
def newValue (s : State) (o : Nat) (fs : List (Nat × Nat)) (v : BitVec 64) (be : BitVec 8) : Nat :=
  (writeFields fs (BitVec.ofNat 64 (regRead s o)) v be).toNat

/-- A doorbell's low word: a SQ_TAIL more than the ring ahead of SQ_HEAD, or behind it, makes the write ignored
(R351). -/
def ringLo (r : Ring) (v : BitVec 64) (be : BitVec 8) : Option Ring :=
  let x := (writeFields [(0, 24), (32, 24)] (BitVec.ofNat 64 (r.sqTail + r.cqHead * 2 ^ 32)) v be).toNat
  if covers be (0, 24) && decide (2 ^ r.sqLog2 < posDiff (bits x 0 24) r.sqHead) then none
  else some { r with sqTail := bits x 0 24, cqHead := bits x 32 24 }

/-- A doorbell write (R350, R351). -/
def writeBell (c : Nat) (hi : Bool) (v : BitVec 64) (be : BitVec 8) (s : State) : State :=
  if hi then (if covers be (59, 1) then modRing c (fun r => { r with ien := v.getLsbD 59 }) s else s)
  else
    match ringLo (ringAt s c) v be with
    | some r => modRing c (fun _ => r) s
    | none =>
      let s1 := if c = mgmtCtx then s else modCounts c (fun k => { k with sqOvf := satInc k.sqOvf }) s
      setErr ebSQ_OVF s1

/-- DOORBELL_WRITE (R351). -/
def execDoorbellWrite (m : Mbox) (hi : Bool) (v : BitVec 64) (be : BitVec 8) (s : State) : Result :=
  running (writeBell (mboxCtx m) hi v be) s

/-- A heartbeat: the deadline counts from now (R384). -/
def heartbeat (s : State) : State := { s with mgmt := { s.mgmt with hbAt := s.sys.time } }

/-- MHB (R384). -/
def execMhb (_v : BitVec 64) (s : State) : Result := running heartbeat s

/-- MCFG (R349): setting EN restarts both rings at position 0. -/
def writeMcfg (v : BitVec 64) (be : BitVec 8) (s : State) : State :=
  let x := newValue s 0x1010 [(0, 5), (5, 5), (10, 1)] v be
  let r := { s.mgmt.ring with sqLog2 := bits x 0 5, cqLog2 := bits x 5 5 }
  let r1 := if bit x 10 && !s.mgmt.en then { r with sqTail := 0, sqHead := 0, cqHead := 0, cqTail := 0 } else r
  { s with mgmt := { s.mgmt with en := bit x 10, ring := r1 } }

/-- MCFG_WRITE (R349). -/
def execMcfgWrite (v : BitVec 64) (be : BitVec 8) (s : State) : Result := running (writeMcfg v be) s

/-- CTXSW_CFG (R394, R396, R476): ignored with CFG_LOCKED while a context exists, or where the save pool would overlap
another private range. -/
def writeCtxsw (hi : Bool) (v : BitVec 64) (be : BitVec 8) (s : State) : State :=
  let lo1 := if hi then s.sys.ctxswLo else writeFields [(0, 16), (16, 9)] s.sys.ctxswLo v be
  let hi1 := if hi then writeFields [(0, 52)] s.sys.ctxswHi v be else s.sys.ctxswHi
  let base := bits hi1.toNat 0 52 * 4096
  let len := bits lo1.toNat 16 9 * 0x200000
  let others := privateRanges { s with sys := { s.sys with ctxswLo := 0, ctxswHi := 0 } }
  if anyContext s || others.any (fun r => rangesMeet base len r.1 r.2) then setErr ebCFG_LOCKED s
  else { s with sys := { s.sys with ctxswLo := lo1, ctxswHi := hi1 } }

/-- CTXSW_CFG_WRITE (R476). -/
def execCtxswCfgWrite (hi : Bool) (v : BitVec 64) (be : BitVec 8) (s : State) : Result := running (writeCtxsw hi v be) s

/-- The bits of the bytes that are enabled. -/
def byteMask (be : BitVec 8) : BitVec 64 := fieldMask ((List.range 8).map (fun i => (8 * i, 8))) be

/-- The bits of ERR_STS and ERR_MASK (R480, R481). -/
def errBits : BitVec 64 := 0x3FFFF

def writeErrMask (v : BitVec 64) (be : BitVec 8) (s : State) : State :=
  let m := byteMask be &&& errBits
  { s with sys := { s.sys with errMask := (s.sys.errMask &&& ~~~m) ||| (v &&& m) } }

/-- ERR_MASK_WRITE (R481). -/
def execErrMaskWrite (v : BitVec 64) (be : BitVec 8) (s : State) : Result := running (writeErrMask v be) s

/-- ERR_STS: each 1 clears its bit, unless an event sets the bit in the same TCLK (R13, R14, R480). -/
def clearErrSts (v : BitVec 64) (be : BitVec 8) (s : State) : State :=
  { s with sys := { s.sys with errSts := s.sys.errSts &&& ~~~(v &&& byteMask be &&& errBits &&& ~~~s.sys.errNow) } }

/-- A counter field written: the value it holds, the value written and the events of the TCLK, at most cap (R14,
R472); and the value that later events of the TCLK count from. A field whose bytes are not all enabled keeps both. -/
def countField (cur base : Nat) (f : Nat × Nat) (cap : Nat) (v : BitVec 64) (be : BitVec 8) : Nat × Nat :=
  if covers be f then (Nat.min cap (bits v.toNat f.1 f.2 + (cur - base)), bits v.toNat f.1 f.2) else (cur, base)

/-- The same for the two 32-bit halves of a word of counts. -/
def countHalves (cur base : Nat × Nat) (v : BitVec 64) (be : BitVec 8) : (Nat × Nat) × (Nat × Nat) :=
  let a := countField cur.1 base.1 (0, 32) 0xFFFFFFFF v be
  let b := countField cur.2 base.2 (32, 32) 0xFFFFFFFF v be
  ((a.1, b.1), (a.2, b.2))

/-- The base of R14 changed. -/
def modBase (f : CountBase → CountBase) (s : State) : State := { s with sys := { s.sys with base := f s.sys.base } }

/-- TRACE_CFG (R494, R506): setting EN from 0 to 1 clears TRACE_PTR. -/
def writeTrace (v : BitVec 64) (be : BitVec 8) (s : State) : State :=
  if !debugOpen s then s
  else
    let x := writeFields [(0, 1), (1, 1), (8, 8)] s.trace.cfg v be
    let t := { s.trace with cfg := x }
    { s with trace := if x.getLsbD 0 && !s.trace.cfg.getLsbD 0 then { t with next := 0, wrapped := false, stopped := false } else t }

/-- TRACE_CFG_WRITE (R506). -/
def execTraceCfgWrite (v : BitVec 64) (be : BitVec 8) (s : State) : Result := running (writeTrace v be) s

/-- PERF_SEL_k of Pavilion p (R489). -/
def writePerfSel (p k : Nat) (v : BitVec 64) (be : BitVec 8) (s : State) : State :=
  modPav p (fun x => { x with perfSel := tset x.perfSel k (writeFields [(0, 8), (8, 1)] (tget x.perfSel k 0) v be) }) s

/-- PERF_SEL_WRITE (R489). -/
def execPerfSelWrite (p : PavId) (k : Fin 8) (v : BitVec 64) (be : BitVec 8) (s : State) : Result :=
  running (writePerfSel p.val k.val v be) s

/-- One narrow access at DBG_TADDR: it corrects and counts as any read, and latches word, sideband and status (R204,
R229, R494). -/
def debugAccess (s : State) : State :=
  if !debugOpen s then s
  else
    let w := s.ter.dbgAddr / 8
    let mine (x : Nat) : Bool := x == w || x == sideWord (w / 32)
    let s1 := eccTouch (s.ter.flips.filter (fun e => mine e.1)) s
    let side := ((List.range 32).map (fun i => (tget s1.ter.tags (w / 32 * 32 + i) 0).toNat * 4 ^ i)).sum
    { s1 with ter := { s1.ter with
      dbgData := BitVec.ofNat 64 (leNat (memRead s1.ter.mem (8 * w) 8))
      dbgSide := BitVec.ofNat 64 side
      dbgPoison := s1.ter.poison.any mine
      dbgCorr := s.ter.flips.any (fun e => mine e.1 && e.2 == 1) } }

/-- DBG_TDATA_READ (R494). -/
def execDbgTdataRead (s : State) : Result := running debugAccess s

/-- The counts of a word of a context's error status replaced (R472, R484); LAST_HALT is read only. -/
def putCes (i a b : Nat) (k : CtxCounts) : CtxCounts :=
  match i with
  | 0 => { k with flagRepeat := a, unfilledRead := b }
  | 1 => { k with windowClosed := a, windowClass := b }
  | 2 => { k with windowRange := a, windowNocredit := b }
  | 3 => { k with misroutedIn := a, sqOvf := b }
  | 4 => { k with badToken := a, accSat := b }
  | _ => { k with halts := b }

/-- The counts in a context's word of error status (R484). -/
def cesPair (i : Nat) (k : CtxCounts) : Nat × Nat :=
  match i with
  | 0 => (k.flagRepeat, k.unfilledRead)
  | 1 => (k.windowClosed, k.windowClass)
  | 2 => (k.windowRange, k.windowNocredit)
  | 3 => (k.misroutedIn, k.sqOvf)
  | 4 => (k.badToken, k.accSat)
  | _ => (0, k.halts)

/-- A write of word i of the selected context's error status. -/
def writeCes (i : Nat) (v : BitVec 64) (be : BitVec 8) (s : State) : State :=
  let c := s.sys.cesSel
  let k := (getCtx s c).counts
  let b := tget s.sys.base.ces c k
  let n := countHalves (cesPair i k) (cesPair i b) v be
  modBase (fun x => { x with ces := tset x.ces c (putCes i n.2.1 n.2.2 b) }) (modCounts c (putCes i n.1.1 n.1.2) s)

/-- A write of the ECC counts of slice k (R472, R483). -/
def writeEcc (k : Nat) (v : BitVec 64) (be : BitVec 8) (s : State) : State :=
  let b := s.sys.base
  let n := countHalves (tget s.sys.eccCorr k 0, tget s.sys.eccPois k 0) (tget b.eccCorr k 0, tget b.eccPois k 0) v be
  modBase (fun x => { x with eccCorr := tset x.eccCorr k n.2.1, eccPois := tset x.eccPois k n.2.2 })
    { s with sys := { s.sys with eccCorr := tset s.sys.eccCorr k n.1.1, eccPois := tset s.sys.eccPois k n.1.2 } }

/-- A write of core c's watchdog count, field i of its word (R472, R482). -/
def writeWdog (c i : Nat) (v : BitVec 64) (be : BitVec 8) (s : State) : State :=
  if 19 ≤ c then s
  else
    let n := countField (tget s.sys.wdog c 0) (tget s.sys.base.wdog c 0) (16 * i, 16) 0xFFFF v be
    modBase (fun x => { x with wdog := tset x.wdog c n.2 }) { s with sys := { s.sys with wdog := tset s.sys.wdog c n.1 } }

/-- Writes below 01_0000h that no other row has (R349, R480 to R484). -/
def writeLow (o : Nat) (v : BitVec 64) (be : BitVec 8) (s : State) : State :=
  let x (fs : List (Nat × Nat)) : Nat := newValue s o fs v be
  if o = 0x1000 then { s with mgmt := { s.mgmt with ring := { s.mgmt.ring with sqBase := x [(12, 52)] } } }
  else if o = 0x1008 then { s with mgmt := { s.mgmt with ring := { s.mgmt.ring with cqBase := x [(12, 52)] } } }
  else if o = 0x1010 then writeMcfg v be s
  else if o = 0x1020 then writeBell mgmtCtx false v be s
  else if o = 0x1028 then writeBell mgmtCtx true v be s
  else if o = 0x1030 then heartbeat s
  else if o = 0x2000 then writeCtxsw false v be s
  else if o = 0x2008 then writeCtxsw true v be s
  else if o = 0x2030 then writeCoreRst v be s
  else if o = 0x4000 then clearErrSts v be s
  else if o = 0x4008 then writeErrMask v be s
  else if 0x4020 ≤ o ∧ o ≤ 0x4040 then
    (List.range 4).foldl (fun s i => writeWdog ((o - 0x4020) / 8 * 4 + i) i v be s) s
  else if o = 0x4048 then
    let n := countField s.sys.groveStaleCnt s.sys.base.groveStale (0, 32) 0xFFFFFFFF v be
    modBase (fun b => { b with groveStale := n.2 }) { s with sys := { s.sys with groveStaleCnt := n.1 } }
  else if 0x4080 ≤ o ∧ o < 0x4100 then writeEcc ((o - 0x4080) / 8) v be s
  else if o = 0x4100 then { s with sys := { s.sys with cesSel := x [(0, 12)] } }
  else if 0x4108 ≤ o ∧ o ≤ 0x4130 then
    writeCes ((o - 0x4108) / 8) v be s
  else s

/-- A write of PATH_ERR or G_ERR (R491). -/
def writeHdrErr (p : LinkPort) (v : BitVec 64) (be : BitVec 8) (s : State) : State :=
  let k := match p with
    | .path i => i.val
    | .gport i => 4 + i.val
  let n := countField (getLink s p).hdrErr (tget s.sys.base.hdrErr k 0) (0, 32) 0xFFFFFFFF v be
  modBase (fun b => { b with hdrErr := tset b.hdrErr k n.2 }) (modLink p (fun l => { l with hdrErr := n.1 }) s)

/-- Writes of the Promenade's registers (R491, R492), at offsets from 09_0000h. -/
def writeProm (o : Nat) (v : BitVec 64) (be : BitVec 8) (s : State) : State :=
  if o < 0x80 then
    let p : Fin 4 := Fin.ofNat 4 (o / 0x20)
    match o % 0x20 / 8 with
    | 0 => writePathCfg p v be s
    | 1 => s
    | 2 => writeHdrErr (.path p) v be s
    | _ => writePathRstore p v be s
  else if o < 0xC0 then (if o % 0x10 = 8 then writeHdrErr (.gport (Fin.ofNat 4 ((o - 0x80) / 0x10))) v be s else s)
  else if 0x100 ≤ o ∧ o < 0x300 then
    let i := (o - 0x100) / 8
    let new := writeFields [(0, 48), (48, 3), (51, 2), (53, 1)] (tget s.prom.routes i 0) v be
    { s with prom := { s.prom with routes := tset s.prom.routes i new } }
  else s

/-- PERF_CNT_k of Pavilion p written (R14, R489); a performance count wraps. -/
def writePerfCnt (p k : Nat) (v : BitVec 64) (be : BitVec 8) (s : State) : State :=
  if covers be (0, 48) then
    let base := tget (tget s.sys.base.perf p []) k 0
    let w := BitVec.ofNat 48 (bits v.toNat 0 48)
    modBase (fun b => { b with perf := tmod b.perf p [] (fun t => tset t k w) })
      (modPav p (fun y => { y with perfCnt := tset y.perfCnt k (w + (tget y.perfCnt k 0 - base)) }) s)
  else s

/-- A register write at an offset (R13, R472). -/
def regWrite (o : Nat) (v : BitVec 64) (be : BitVec 8) (s : State) : State :=
  let x (fs : List (Nat × Nat)) : Nat := newValue s o fs v be
  if o < 0x10000 then writeLow o v be s
  else if o < 0x20000 then writeBell ((o - 0x10000) / 16) (o % 16 == 8) v be s
  else if o = 0x20000 then
    let n := x [(0, 12), (16, 8), (24, 8)]
    revoke { s with power := { s.power with drvCap := bits n 0 12, throttleC := bits n 16 8, tripC := bits n 24 8 } }
  else if o = 0x20030 then
    let n := countField s.power.coefExc s.sys.base.coefExc (0, 32) 0xFFFFFFFF v be
    modBase (fun b => { b with coefExc := n.2 }) { s with power := { s.power with coefExc := n.1 } }
  else if o < 0x40000 then s
  else if o < 0x80000 then
    let p := (o - 0x40000) / 0x4000
    let r := o % 0x4000
    if 0x100 ≤ r ∧ r < 0x140 then writePerfSel p ((r - 0x100) / 8) v be s
    else if 0x140 ≤ r ∧ r < 0x180 then
      writePerfCnt p ((r - 0x140) / 8) v be s
    else s
  else if o = 0x80020 then
    let n := countField s.alt.lost s.sys.base.altLost (0, 24) 0xFFFFFF v be
    modBase (fun b => { b with altLost := n.2 }) { s with alt := { s.alt with lost := n.1 } }
  else if o = 0x80028 then
    let half (lo cur base : Nat) : Nat × Nat :=
      if covers be (lo, 32) then ((bits v.toNat lo 32 + cur + (2 ^ 32 - base)) % 2 ^ 32, bits v.toNat lo 32) else (cur, base)
    let h := half 0 s.alt.dcHits.toNat s.sys.base.dcHits
    let m := half 32 s.alt.dcMiss.toNat s.sys.base.dcMiss
    modBase (fun x => { x with dcHits := h.2, dcMiss := m.2 })
      { s with alt := { s.alt with dcHits := BitVec.ofNat 32 h.1, dcMiss := BitVec.ofNat 32 m.1 } }
  else if 0x90000 ≤ o ∧ o < 0xA0000 then writeProm (o - 0x90000) v be s
  else if o = 0x100000 then writeTrace v be s
  else if o = 0x100100 ∧ debugOpen s then { s with ter := { s.ter with dbgAddr := x [(3, 26)] } }
  else s

/-- REGISTER_WRITE (R13). -/
def execRegisterWrite (word : Fin 524288) (v : BitVec 64) (be : BitVec 8) (s : State) : Result :=
  running (regWrite (8 * word.val) v be) s

/-! The end of a TCLK (log entry 9). -/

/-- A TCLK in which no command arrives: the idle tick, then what Bandstand settles at its end (R328). -/
def quietTclk (s : State) : State :=
  let s1 := idleTick s
  if s1.sys.phase = .up then effect settleBand s1 else s1

end Sys2Proof.Machine
end

