-- ==== Sys2Proof/Machine/Lifecycle.lean ====
section
/-!
DEFINITION. The life of attachments and contexts (R338, R341, R369, R370, R375 to R377, R384 to R391, R395): attaching, creating,
destroying, orphaning and adopting; modes, register access by message, attestation; and the rows whose end may free a
context.
-/
namespace Sys2Proof.Machine

/-! Ending the jobs of a context. -/

/-- The jobs of a context. -/
def jobsOf (s : State) (c : Nat) : List Job := s.jobs.filter (fun j => j.ctx == c)

/-- A running job halts, and ends at once unless members of a grove have still to report it (R189, R344, R370). -/
def cancelJob (st : Nat) (s : State) (j : Job) : State :=
  let s1 := if j.fault.isNone then haltPlain j.ctx j.jobseq (plainFault st) s else s
  match findJob s1 j.ctx j.jobseq with
  | some k => if k.peers.isEmpty then endJob k s1 else s1
  | none => s1

def cancelJobs (c st : Nat) (s : State) : State := (jobsOf s c).foldl (cancelJob st) s

/-! Freeing a context (R249, R325, R370, R395). -/

/-- The windows of a context close (R220). -/
def closeWins (c : Nat) (s : State) : State :=
  (s.ter.windows.filter (fun e => e.2.isOpen && e.2.ctx == c)).foldl (fun s e => closeWin e.1 s) s

/-- The regions of a context leave it and become 0 (R395). -/
def dropRegions (c : Nat) (s : State) : State :=
  (getCtx s c).regions.foldl (fun s e => setRegion c e.1 Region.absent s) s

/-- What a context owns is cleared: its collectives end, its sequences are treated, its windows close, its tables are
reset (R370 steps 2 to 4). -/
def clearCtx (c : Nat) (s : State) : State :=
  let s1 := if (getCtx s c).altWait.isSome then commitSwap c s else s
  let s2 := dropRegions c (closeWins c (freeCtxSeqs c (abortColls c s1)))
  let s3 := modCtx c (fun x => { x with
    landing := [], plotLids := [], flags := 0, roles0 := [], roles1 := [], angles := [], log := [], logTotal := 0
    counts := CtxCounts.zero, jobCount := 0 }) s2
  eraseUnused { s3 with prom := { s3.prom with
    creds := s3.prom.creds.filter (fun e => e.1 / 1024 != c)
    landEpoch := s3.prom.landEpoch.filter (fun e => e.1 / 256 != c) } }

/-- The context becomes FREE; its ring stays where records that it holds are still to be written (R361). -/
def freeCtx (c : Nat) (s : State) : State :=
  let x := getCtx s c
  modCtx c (fun _ => { Ctx.free with ring := x.ring, ivec := x.ivec }) s

/-- A context that is being freed: once its jobs have ended it is cleared, and once its collectives have their records
it becomes FREE. The record of CTX_DESTROY follows every record of the context, and every member's report (R341,
R370). -/
def settleCtx (c : Nat) (s : State) : State :=
  if (getCtx s c).state != .quiescing || !(jobsOf s c).isEmpty then s
  else
    let s1 := clearCtx c s
    let x := getCtx s1 c
    if s1.band.slots.any (fun e => e.2.ctx == c) then s1
    else match x.destroyWait with
      | none => freeCtx c s1
      | some w =>
        if !x.ring.held.isEmpty || s1.grove.fwd.any (fun f => f.waiter == w) then s1
        else finish w stOK (cmdBody w.opc 0 0 0 0) (freeCtx c s1)

/-- Every context that is being freed. -/
def settleAll (s : State) : State :=
  (s.ctxs.filter (fun e => e.2.state == .quiescing)).foldl (fun s e => settleCtx e.1 s) s

/-- A context begins to be freed: its jobs halt with a status (R370, R387). -/
def quiesce (c st : Nat) (w : Option Waiter) (s : State) : State :=
  let s1 := modCtx c (fun x => { x with state := .quiescing, destroyWait := w }) (cancelJobs c st s)
  settleCtx c s1

/-! The rows whose end may free a context. -/

/-- JOB_COMPLETE (R360, R363). -/
def execJobComplete (c : CtxId) (jobseq : BitVec 32) (s : State) : Result :=
  live (fun s => settleCtx c.val (completeJob c.val jobseq s)) s

/-- COMPLETION_RECORD_WRITE (R360). -/
def execCompletionRecordWrite (m : Mbox) (s : State) : Result := live (fun s => settleAll (writeRecord (mboxCtx m) s)) s

/-- DIGEST_FOLD (R324). -/
def execDigestFold (cid : Fin 1024) (s : State) : Result := live (fun s => settleAll (foldNext cid.val s)) s

/-! Attachments (R338, R374 to R376, R384 to R387). -/

/-- The lowest and the highest host-interface major of the CORE record that this instance presents (R373). -/
def majors (s : State) : Nat × Nat :=
  match (capList s).find? (fun x => x.id == 1) with
  | some x => (bits x.value 0 8, bits x.value 8 8)
  | none => (1, 0)

/-- Whether a host-interface major fails R375. -/
def versionBad (s : State) (maj : Nat) : Bool := s.sys.mode == 0 && (decide (maj < (majors s).1) || decide ((majors s).2 < maj))

/-- The negotiated major (R375). -/
def negotiated (s : State) (maj : Nat) : Nat := Nat.max (majors s).1 (Nat.min (majors s).2 maj)

/-- The root leader's path, which a refused attach carries (R338). -/
def rootLeader (s : State) : Nat := ((rootGrove s).map (fun g => g.leader.toNat)).getD 0

def attachAct : MsgAct := fun _ w m s =>
  let x := m.bits.toNat
  let maj := bits x 64 8
  let hb := bits x 88 16
  let gr := bits x 104 16
  let feat := if m.gen < 2 then 0x0001000E else bits x 128 32
  let mask := maskOf (capList s) &&& BitVec.ofNat 32 feat
  if s.mgmt.mdbState = 1 then (s, cmdDone w stMGMT_BUSY)
  else if !bindsHost s then (s, cmdRet w stGROVE_MEMBER (rootLeader s))
  else if versionBad s maj then (s, cmdDone w stVERSION_REFUSED)
  else
    let g := { s.mgmt with
      mdbState := 1, attachNo := s.mgmt.attachNo + 1, hbMs := if hb = 0 then 500 else hb, graceS := if gr = 0 then 60 else gr
      hbAt := s.sys.time, hostId := BitVec.ofNat 64 (bits x 160 64), major := negotiated s maj, minor := 0, fmask := mask }
    ({ s with mgmt := g }, cmdRet w stOK (negotiated s maj + mask.toNat * 2 ^ 32))

/-- ATTACH (R375). -/
def execAttach (s : State) : Result := live (takeMsg mgmtCtx 0x80 attachAct) s

/-- The contexts bound to the attachment become ORPHAN (R385). -/
def orphanBound (s : State) : State :=
  { s with ctxs := s.ctxs.map (fun e =>
      if e.2.bound == s.mgmt.attachNo && (e.2.state == .active || e.2.state == .halted) then
        (e.1, { e.2 with state := .orphan, haltPending := e.2.state == .halted })
      else e) }

/-- The attachment ends: with it the negotiated set (R376, R385, R387). -/
def endAttach (st : Nat) (s : State) : State :=
  let s1 := orphanBound s
  { s1 with mgmt := { s1.mgmt with mdbState := st, fmask := 0 } }

def detachAct : MsgAct := fun _ w _ s => (endAttach 0 s, cmdDone w stOK)

/-- DETACH (R387). -/
def execDetach (s : State) : Result := live (takeMsg mgmtCtx 0x81 detachAct) s

/-- The deadline passes, unless a heartbeat stands in the same TCLK (R384, R385). -/
def deadline (s : State) : State :=
  if s.mgmt.mdbState = 1 ∧ s.mgmt.hbAt ≠ s.sys.time then setErr ebHOST_LOST (endAttach 3 s) else s

/-- HEARTBEAT_DEADLINE (R385). -/
def execHeartbeatDeadline (s : State) : Result := live deadline s

/-! Creating, destroying and adopting contexts (R341, R370, R386, R390, R391). -/

/-- Forwards a management command on a grove context to every other member, and waits for their reports (R341, R342). -/
def forwardCtxCmd (w : Waiter) (c : Nat) (msg : BitVec 512) (body : Nat) (s : State) : State :=
  let ms := otherMembers s
  if ms.isEmpty then s
  else forwardTell 2 c msg ms { s with grove := { s.grove with fwd := s.grove.fwd ++ [⟨w, ms, none, some (0, body), []⟩] } }

/-- A ring's base or size that breaks check 3 of R390. -/
def ringsBad (sq cq l1 l2 : Nat) : Bool :=
  decide (l1 < 6) || decide (16 < l1) || decide (l2 < 6) || decide (16 < l2) || sq % 4096 != 0 || cq % 4096 != 0 ||
    rangesMeet sq (16 * 2 ^ l1) cq (16 * 2 ^ l2)

/-- Rings installed at position 0 (R350). -/
def Ring.install (r : Ring) (sq cq l1 l2 : Nat) : Ring :=
  { r with sqBase := sq, cqBase := cq, sqLog2 := l1, cqLog2 := l2, sqTail := 0, sqHead := 0, cqHead := 0, cqTail := 0 }

/-- A token: a random value that is neither 0 nor one drawn before (R391). -/
def freshToken (used : List Nat) (raw : Nat) : Nat :=
  if raw != 0 && !used.contains raw then raw
  else ((List.range (used.length + 2)).find? (fun t => t != 0 && !used.contains t)).getD 1

/-- The context that CTXREQ selects: the lowest free one for 1000h (R355, R390). -/
def pickCtx (s : State) (req : Nat) : Option Nat :=
  if req = 0x1000 then (List.range 4096).find? (fun c => (getCtx s c).state == .free)
  else if (getCtx s req).state == .free then some req else none

/-- A new context (R390). -/
def freshCtx (old : Ring) (bound : Nat) (grove : Bool) (token ivec maj : Nat) (sq cq l1 l2 : Nat) : Ctx :=
  { Ctx.free with
    state := .active, ring := { Ring.empty.install sq cq l1 l2 with ien := old.ien, held := old.held }, ivec := ivec
    token := BitVec.ofNat 64 token, grove := grove, hifMaj := maj, bound := bound }

def ctxCreateAct : MsgAct := fun _ w m s =>
  let x := m.bits.toNat
  let req := bits x 64 13
  let grove := bit x 77
  let sq := bits x 128 64
  let cq := bits x 192 64
  let l1 := bits x 88 5
  let l2 := bits x 93 5
  let maj := bits x 104 8
  if grove && m.gen < 3 then (s, cmdDone w stNEEDS_MB3)
  else if versionBad s maj then (s, cmdDone w stVERSION_REFUSED)
  else if ringsBad sq cq l1 l2 || decide (0x1000 < req) then (s, cmdDone w stBAD_DESCRIPTOR)
  else if grove && !(lostMembers s).isEmpty then (s, .done stMEMBER_LOST (cmdBody w.opc 0 0 0 ((lostMembers s).headD 0)))
  else match pickCtx s req with
    | none => (s, cmdDone w stRESOURCE)
    | some c =>
      let t := freshToken s.sys.tokens ((Config.drbg s.free).toNat % 2 ^ 64)
      let new := freshCtx (getCtx s c).ring s.mgmt.attachNo grove t (bits x 78 10) maj sq cq l1 l2
      let s1 := modCtx c (fun _ => new) { s with free := s.free + 1, sys := { s.sys with tokens := s.sys.tokens ++ [t] } }
      let body := cmdBody w.opc t c 0 0
      if grove && !(otherMembers s).isEmpty then (forwardCtxCmd w c m.bits body s1, .later) else (s1, .done stOK body)

/-- CTX_CREATE (R390). -/
def execCtxCreate (s : State) : Result := live (takeMsg mgmtCtx 0x82 ctxCreateAct) s

def ctxDestroyAct : MsgAct := fun _ w m s =>
  let c := bits m.bits.toNat 64 12
  let x := getCtx s c
  if x.state = .quiescing then (s, cmdDone w stNOT_ORPHAN)
  else if x.state = .free then (s, cmdDone w stRESOURCE)
  else
    let s1 := if x.grove then forwardCtxCmd w c m.bits (cmdBody w.opc 0 0 0 0) s else s
    (quiesce c stCTX_DESTROYED (some w) s1, .later)

/-- CTX_DESTROY (R370). -/
def execCtxDestroy (s : State) : Result := live (takeMsg mgmtCtx 0x83 ctxDestroyAct) s

/-- The rings that a CTX_REATTACH installs: sizes and bases of an MB3 message whose bases are not 0 (R355). -/
def newRings (m : Msg) : Option (Nat × Nat × Nat × Nat) :=
  let x := m.bits.toNat
  let sq := bits x 192 64
  let cq := bits x 256 64
  if m.gen < 3 ∨ sq = 0 ∨ cq = 0 then none else some (sq, cq, bits x 320 5, bits x 325 5)

def ctxReattachAct : MsgAct := fun _ w m s =>
  let x := m.bits.toNat
  let c := bits x 64 12
  let k := getCtx s c
  let adopt (r : Ring) : State :=
    modCtx c (fun y => { y with
      bound := s.mgmt.attachNo, ring := r, state := if y.haltPending then .halted else .active }) s
  if k.state != .orphan then (s, cmdDone w stNOT_ORPHAN)
  else if k.token.toNat != bits x 128 64 then
    (modCounts c (fun n => { n with badToken := satInc n.badToken }) s, cmdDone w stBAD_TOKEN)
  else match newRings m with
    | none => (adopt k.ring, cmdDone w stOK)
    | some (sq, cq, l1, l2) =>
      if ringsBad sq cq l1 l2 then (s, cmdDone w stBAD_DESCRIPTOR) else (adopt (k.ring.install sq cq l1 l2), cmdDone w stOK)

/-- CTX_REATTACH (R386). -/
def execCtxReattach (s : State) : Result := live (takeMsg mgmtCtx 0x84 ctxReattachAct) s

/-- The bits of a CTX_DESTROY message, for a grove context whose grace ends (R341, R387). -/
def destroyMsg (c : Nat) : BitVec 512 := BitVec.ofNat 512 (1 + 0x83 * 2 ^ 8 + c * 2 ^ 64)

/-- The grace period of an orphaned context ends (R387). -/
def graceEnds (c : Nat) (s : State) : State :=
  let x := getCtx s c
  if x.state != .orphan then s
  else
    let s1 := if x.grove then
        forwardCtxCmd ⟨true, mgmtCtx, 1, 0, 0, none⟩ c (destroyMsg c) 0 s
      else s
    quiesce c stHOST_LOST none s1

/-- GRACE_EXPIRY (R387). -/
def execGraceExpiry (c : CtxId) (s : State) : Result := live (graceEnds c.val) s

/-! Modes, registers by message, attestation (R377, R409, R473). -/

/-- The meaning of MODE_SET: an accepted one posts the record whose writing sets the mode (R377). -/
def modeSetAct : MsgAct := fun _ w m s =>
  let v := bits m.bits.toNat 64 3
  if 4 ≤ v then (s, cmdDone w stBAD_DESCRIPTOR)
  else if s.sys.mode != 1 || anyContext s || ((v == 0 || v == 3) && s.sys.testKeyUsed) then (s, cmdDone w stMODE_LOCKED)
  else (postRec mgmtCtx { mkRec w.gen 4 stOK w.tag (cmdBody w.opc 0 0 0 0) with mode := some v } s, .later)

/-- MODE_SET (R377). -/
def execModeSet (s : State) : Result := live (takeMsg mgmtCtx 0x8E modeSetAct) s

/-- The refusal of a register access by message (R473). -/
def mregBad (s : State) (o : Nat) : Option Nat :=
  if o % 8 != 0 || (0x1000 ≤ o && o < 0x2000) || (0x10000 ≤ o && o < 0x20000) then some stBAD_DESCRIPTOR
  else if 0x100000 ≤ o && !debugOpen s then some stMODE_LOCKED
  else none

def mregReadAct : MsgAct := fun _ w m s =>
  let o := bits m.bits.toNat 64 22
  match mregBad s o with
  | some st => (s, cmdDone w st)
  | none =>
    let s1 := if o = 0x100108 then debugAccess s else s
    (s1, cmdRet w stOK (regRead s1 o % 2 ^ 64))

/-- MREG_READ (R473). -/
def execMregRead (s : State) : Result := live (takeMsg mgmtCtx 0x90 mregReadAct) s

def mregWriteAct : MsgAct := fun _ w m s =>
  let o := bits m.bits.toNat 64 22
  match mregBad s o with
  | some st => (s, cmdDone w st)
  | none => (regWrite o (BitVec.ofNat 64 (bits m.bits.toNat 128 64)) 0xFF s, cmdDone w stOK)

/-- MREG_WRITE (R473). -/
def execMregWrite (s : State) : Result := live (takeMsg mgmtCtx 0x91 mregWriteAct) s

/-- The grove certificate of a root grove leader (R347, R409). -/
def slotOneCert (s : State) : List Byte := if leadsRoot s then ((rootGrove s).map (·.cert)).getD [] else []

/-- The fuse state that measurement block 5 hashes: the MIN_SVN values, TESTKEY_EN and the key hashes (R410, R462).
DESIGN CHOICE: in this order, four bytes, one byte and 48 bytes each (log entry 118). -/
def fuseState (s : State) : List Byte :=
  let w := fuseWord s 18
  leBytes 4 (bits w 8 32) ++ leBytes 1 (bits w 0 1) ++ (List.range 12).flatMap (fun i => leBytes 8 (fuseWord s (6 + i)))

/-- The measurement blocks 1 to 7 of R410. DESIGN CHOICE: the places of the values in the eight bytes of blocks 6 and
7; the hardware revision is the STEPPING of R474 (log entry 118). -/
def measBlocks (s : State) : List (List Byte) :=
  (measurements s).map (leBytes 48) ++
    [leBytes 48 (Config.sha384 (fuseState s)),
     leBytes 1 s.sys.startMode ++ leBytes 1 s.sys.mode ++ leBytes 1 s.sys.startMode ++ leBytes 5 s.sys.fwBase,
     leBytes 4 1 ++ leBytes 4 0]

/-- The meaning of SPDM: its request is read, and a response that cannot be written refuses it (R409, R511). -/
def spdmAct : MsgAct := fun _ w m s =>
  let x := m.bits.toNat
  let len := bits x 128 16
  let max := bits x 144 16
  if coreState s 0 != 0 then (s, .stay)
  else match fetchMem s mgmtCtx true 1 (bits x 64 64) len with
    | (s1, none) => (s1, cmdDone w stRESOURCE)
    | (s1, some req) =>
      if len < 4 || 4096 < len || max < 4096 then (s1, cmdDone w stBAD_DESCRIPTOR)
      else
        let hist := s1.sys.spdm ++ [req]
        let rsp := (Config.spdmResponse hist (myChain s1) s1.sys.certsOk (slotOneCert s1) (measBlocks s1) s1.free).take max
        let s2 := { s1 with free := s1.free + 1, sys := { s1.sys with spdm := hist } }
        match extWrite s2 0 true 1 (bits x 160 64) rsp [] false with
        | (s3, true) => (s3, cmdRet w stOK rsp.length)
        | (_, false) => (s1, cmdDone w stRESOURCE)

/-- SPDM (R409). -/
def execSpdm (s : State) : Result := live (takeMsg mgmtCtx 0x92 spdmAct) s

end Sys2Proof.Machine
end

