-- ==== Sys2Proof/Machine/Forming.lean ====
section
/-!
DEFINITION. Groves (R329 to R337, R340, R345, R347): unit paths, forming, confirmation, heartbeats, loss, and the order and epoch
of grove messages.
-/
namespace Sys2Proof.Machine

/-! Unit paths (R329, R330). -/

/-- The six levels of a path, the outermost first. -/
def levels (u : UPath) : List Nat := (List.range 6).map (fun i => bits u.toNat (40 - 8 * i) 8)

/-- The depth of a path: the levels before the first FFh. -/
def pathDepth (u : UPath) : Nat := ((levels u).takeWhile (fun x => x != 255)).length

/-- Below its depth a path holds FFh at every level. -/
def pathOk (u : UPath) : Bool := ((levels u).drop (pathDepth u)).all (fun x => x == 255)

def groveSetPathAct : MsgAct := fun _ w m s =>
  let u : UPath := BitVec.ofNat 48 (bits m.bits.toNat 64 48)
  if anyContext s || !s.grove.formed.isEmpty || s.prom.paths.any (fun e => e.2.state == lsUp) then (s, cmdDone w stGROVE_BUSY)
  else if !pathOk u then (s, cmdDone w stGROVE_BAD)
  else ({ s with grove := { s.grove with upathSelf := u } }, cmdDone w stOK)

/-- GROVE_SET_PATH (R330). -/
def execGroveSetPath (s : State) : Result := live (takeMsg mgmtCtx 0x89 groveSetPathAct) s

/-! Groves of this instance. -/

/-- Whether two records stand for one grove: its prefix and length. -/
def GroveSt.same (a b : GroveSt) : Bool := a.gprefix == b.gprefix && a.glevel == b.glevel

/-- A grove with the groves that this instance has formed inside it. -/
def groveChain (s : State) (g : GroveSt) : List GroveSt :=
  if s.grove.formed.any (GroveSt.same g) then s.grove.formed.dropWhile (fun h => !g.same h) else g :: s.grove.formed

/-- The path of instance i of a grove. -/
def instPath (s : State) (g : GroveSt) (i : Nat) : UPath := pathOfMember (groveChain s g) i

/-- The other instances of a grove that are not lost. -/
def reachable (s : State) (g : GroveSt) : List UPath :=
  ((((List.range g.ninst).filter (fun i => !g.lost.contains i)).map (instPath s g)).filter (· != s.grove.upathSelf)).eraseDups

def leads (s : State) (g : GroveSt) : Bool := g.leader == s.grove.upathSelf

/-- Replaces a grove's record. -/
def putGrove (g : GroveSt) (s : State) : State :=
  { s with grove := { s.grove with
    forming := s.grove.forming.map (fun h => if g.same h then g else h)
    formed := s.grove.formed.map (fun h => if g.same h then g else h) } }

/-- Whether a grove that this instance forms or belongs to holds a path. -/
def knownPeer (s : State) (u : Nat) : Bool :=
  (s.grove.forming.toList ++ s.grove.formed).any (fun g =>
    pathPrefix g.glevel g.gprefix == pathPrefix g.glevel (BitVec.ofNat 48 u))

/-- The messages to and from an instance outside every grove are numbered afresh (R337). -/
def settleChannel (s : State) : State :=
  let keep (t : Tbl Nat) : Tbl Nat := t.filter (fun e => knownPeer s e.1)
  { s with grove := { s.grove with
    txSeq := keep s.grove.txSeq, rxSeq := keep s.grove.rxSeq, ackedSeq := keep s.grove.ackedSeq
    unacked := s.grove.unacked.filter (fun e => knownPeer s e.1) } }

/-! Receiving (R336, R337, R345). -/

def ghPrefix (h : BitVec 128) : UPath := BitVec.ofNat 48 (bits h.toNat 0 48)
def ghLevel (h : BitVec 128) : Nat := bits h.toNat 48 3
def ghType (h : BitVec 128) : Nat := bits h.toNat 56 8
def ghEpoch (h : BitVec 128) : BitVec 32 := BitVec.ofNat 32 (bits h.toNat 64 32)
def ghSeq (h : BitVec 128) : Nat := bits h.toNat 96 32

/-- The grove that a header names, in formation or formed. -/
def namedGrove (s : State) (h : BitVec 128) : Option GroveSt :=
  (s.grove.forming.toList ++ s.grove.formed).find? (fun g => g.gprefix == ghPrefix h && g.glevel == ghLevel h)

/-- A message with a stale GEPOCH is discarded and counted (R336, R480, R483). -/
def countStale (s : State) : State :=
  setErr ebGROVE_STALE { s with sys := { s.sys with groveStaleCnt := satInc s.sys.groveStaleCnt } }

/-- A peer has been heard. -/
def hear (g : GroveSt) (src : UPath) (s : State) : State :=
  putGrove { g with heard := g.heard.filter (· != src) ++ [src] } s

/-- Whether a peer of a grove has been declared lost. -/
def peerLost (s : State) (g : GroveSt) (src : UPath) : Bool :=
  (g.gstate == 4 && g.leader == src) || g.lost.any (fun i => instPath s g i == src)

/-- Where a message stands in the order of its pair of instances: none when it is a duplicate or comes too early. -/
def inOrder (src : UPath) (h : BitVec 128) (s : State) : Option State :=
  let n := ghSeq h
  let last := tget s.grove.rxSeq src.toNat 0
  if n = 0 then some s
  else if n = last + 1 then some { s with grove := { s.grove with rxSeq := tset s.grove.rxSeq src.toNat n } }
  else none

/-- Takes a grove message of a type: one of another GEPOCH, or of a grove that this instance has not, is discarded and
counted; the others are taken in order, from a peer that is not lost (R336, R345). -/
def takeGrove (src : UPath) (h : BitVec 128) (gtype : Nat) (f : GroveSt → State → State) (s : State) : State :=
  if ghType h != gtype then s
  else
    let stale := countStale ((inOrder src h s).getD s)
    match namedGrove s h, inOrder src h s with
    | none, _ => stale
    | some g, none => if g.gepoch != ghEpoch h then stale else s
    | some g, some s1 =>
      if g.gepoch != ghEpoch h then stale
      else if peerLost s1 g src then s1
      else f g (hear g src s1)

/-! Forming (R331 to R335). -/

/-- A member table entry (R333). -/
def parseGMember (w : Nat) : GMember := ⟨BitVec.ofNat 48 (bits w 0 48), bit w 48, bit w 49, bits w 64 16, BitVec.allOnes 48, [], none, none⟩

/-- The index of an entry at level GLEVEL + 1 (R331). -/
def memberIdx (lv : Nat) (e : GMember) : Nat := bits e.upath.toNat (40 - 8 * lv) 8

/-- Entries in ascending index (R335, R339). -/
def sortMembers (lv : Nat) (es : List GMember) : List GMember :=
  sortBy (fun a b => decide (memberIdx lv a ≤ memberIdx lv b)) es

/-- The formed grove that this instance leads and that an entry names. -/
def ownGrove (s : State) (lv : Nat) (e : GMember) : Option GroveSt :=
  match rootGrove s with
  | none => none
  | some h => if e.isGrove && leads s h && h.gprefix == e.upath && h.glevel == lv + 1 then some h else none

/-- Whether an entry is this candidate's own. -/
def isOwn (s : State) (lv : Nat) (e : GMember) : Bool :=
  if e.isGrove then (ownGrove s lv e).isSome else e.upath == s.grove.upathSelf

/-- The leader instance of a member: the instance itself, the leader of this instance's own grove, or the instance of
index 00h at every level below the prefix of a grove that the candidate does not belong to (log entry 38). -/
def leaderOf (s : State) (lv : Nat) (e : GMember) : UPath :=
  if !e.isGrove then e.upath
  else match ownGrove s lv e with
    | some h => h.leader
    | none => BitVec.ofNat 48 (pathPrefix (lv + 1) e.upath * 2 ^ (40 - 8 * lv))

/-- The leader of a table: that of its lowest-indexed ELIGIBLE member (R335). -/
def electLeader (s : State) (lv : Nat) (es : List GMember) : Option UPath :=
  (es.find? (·.eligible)).map (leaderOf s lv)

/-- The arguments of GROVE_FORM and its table. -/
structure FormArgs where
  level : Nat
  gprefix : UPath
  epoch : BitVec 32
  formMs : Nat
  ghbMs : Nat
  table : List Byte
  raw : List Nat
  members : List GMember
  deriving DecidableEq, Repr

/-- Check 2 of R334. -/
def formBad (s : State) (a : FormArgs) : Bool :=
  let es := a.members
  decide (5 < a.level) || pathDepth a.gprefix != a.level || !pathOk a.gprefix || es.isEmpty ||
    a.raw.any (fun w => bits w 50 14 != 0 || bits w 80 48 != 0) ||
    es.any (fun e => pathDepth e.upath != a.level + 1 || !pathOk e.upath || (e.isGrove && decide (5 ≤ a.level)) ||
      pathPrefix a.level e.upath != pathPrefix a.level a.gprefix || (!e.isGrove && e.ninst != 1) ||
      (isOwn s a.level e && e.isGrove && (ownGrove s a.level e).map (·.ninst) != some e.ninst)) ||
    (es.map (memberIdx a.level)).eraseDups.length != es.length || !es.any (·.eligible) ||
    decide (32768 < (es.map (·.ninst)).sum) || !es.any (isOwn s a.level) || a.ghbMs == 1

/-- Check 3 of R334, of this instance and, as it knows them, of the members of the grove that it leads: their contexts
are its own grove contexts (R341), and their communicators are those that they have reported (log entry 40). -/
def formBusy (s : State) (a : FormArgs) : Bool :=
  anyContext s || !s.band.comms.isEmpty || s.grove.comms.any (fun e => e.2 != 0) || s.grove.formed.any (fun h => decide (h.glevel ≤ a.level))

/-- A formation (R335). -/
def newForming (a : FormArgs) (lead : UPath) (w : Waiter) : GroveSt :=
  { gstate := 1, glevel := a.level, gprefix := a.gprefix, gepoch := a.epoch, members := a.members, table := a.table
    formMs := if a.formMs = 0 then 1000 else a.formMs, ghbMs := if a.ghbMs = 0 then 10 else a.ghbMs, leader := lead
    myIndex := none, ninst := (a.members.map (·.ninst)).sum, tableCrc := BitVec.ofNat 64 (crc64 a.table), hellos := []
    nonces := [], devs := [], cert := [], lost := [], heard := [], waiter := some w }

/-- A formation ends here without a grove: no state changes but its own (R335, R340). -/
def failHere (st : Nat) (g : GroveSt) (s : State) : State :=
  let s1 := settleChannel { s with
    grove := { s.grove with forming := none }, sys := { s.sys with capv := true } }
  match g.waiter with
  | none => s1
  | some w => finish w st (cmdBody w.opc 0 0 0 0) s1

/-- The leader instances of the members, beside this one. -/
def candidates (s : State) (g : GroveSt) : List UPath :=
  ((g.members.map (fun e => if e.lead != BitVec.allOnes 48 then e.lead else leaderOf s g.glevel e)).filter
    (· != s.grove.upathSelf)).eraseDups

/-- The member index that a failure of a peer carries: its place in the table, FFFFh when it has none (R337). -/
def failIndex (s : State) (g : GroveSt) (u : UPath) : Nat :=
  if g.members.any (fun e => e.holds g.glevel u) then indexOfPath u (groveChain s g) else 0xFFFF

/-- GFAIL to some peers. -/
def sendFail (g : GroveSt) (st idx : Nat) (us : List UPath) (s : State) : State :=
  us.foldl (fun s u => sendGrove g u 5 (leBytes 2 st ++ leBytes 2 idx) s) s

/-- A formation fails everywhere: its leader tells every candidate, another candidate tells the leader. -/
def failEverywhere (st idx : Nat) (g : GroveSt) (s : State) : State :=
  let us := if leads s g then candidates s g else [g.leader]
  failHere st g (sendFail g st idx us s)

/-- Formation completes once every member has sent a matching GHELLO and has confirmed its identity (R335, R347). -/
def tryForm (g : GroveSt) (s : State) : State :=
  let own (e : GMember) : Bool := isOwn s g.glevel e
  let ready (e : GMember) : Bool := own e || (g.hellos.contains e.lead && (tget? g.devs e.lead.toNat).isSome)
  if !leads s g || !g.members.all ready then s
  else
    let device := (myChain s).getD 2 []
    let certs := g.members.flatMap (fun e =>
      if own e then (if e.isGrove then ((rootGrove s).map (·.cert)).getD device else device)
      else (if e.isGrove then e.cert else none).getD (tget g.devs e.lead.toNat []))
    let cert := Config.groveCert (leBytes 6 g.gprefix.toNat ++ leBytes 4 g.gepoch.toNat ++ leBytes 2 g.ninst ++ g.table ++ certs)
    let new := { g with gstate := 2, cert := cert, waiter := none }
    let s1 := { s with
      grove := { s.grove with forming := none, formed := new :: s.grove.formed }, sys := { s.sys with capv := true } }
    let s2 := (reachable s1 new).foldl (fun s u =>
      shakeFor u (sendGrove new u 4 (leBytes 2 g.ninst ++ leBytes 2 cert.length ++ cert) s)) s1
    match g.waiter with
    | none => s2
    | some w => finish w stOK (cmdBody w.opc 0 0 0 0) s2

/-- GHELLO's fields (R337). -/
def helloFields (s : State) (g : GroveSt) : List Byte :=
  let e := g.members.find? (isOwn s g.glevel)
  leBytes 8 g.tableCrc.toNat ++ leBytes 2 ((e.map (·.ninst)).getD 1) ++ leBytes 1 (b01 ((e.map (·.isGrove)).getD false))

/-! The resource state of a GREPORT of kind 2, whose layout the spec leaves open (R337; log entry 40): entries of a 1 B
tag, a 2 B index, a 2 B length and the bytes of their value. -/

/-- An entry. -/
def stEntry (tag idx : Nat) (v : List Byte) : List Byte := leBytes 1 tag ++ leBytes 2 idx ++ leBytes 2 v.length ++ v

/-- The entries of a resource state. -/
def stParse : Nat → List Byte → List (Nat × Nat × List Byte)
  | 0, _ => []
  | n + 1, bs =>
    if bs.length < 5 then []
    else
      let h := leNat (bs.take 5)
      (bits h 0 8, bits h 8 16, (bs.drop 5).take (bits h 24 16)) :: stParse n (bs.drop (5 + bits h 24 16))

/-- The tags: a region, a landing entry, a role of bank 0, of bank 1, the communicators, an instance of a member
grove, a capability record, the grove's certificate, the beginning of a context's tables, a job taken. -/
def tgRegion : Nat := 0
def tgLanding : Nat := 1
def tgRole0 : Nat := 2
def tgRole1 : Nat := 3
def tgComms : Nat := 4
def tgInst : Nat := 5
def tgCap : Nat := 6
def tgCert : Nat := 7
def tgTables : Nat := 8
def tgTaken : Nat := 9

/-- The 16 B of a capability record without its NEXT field (R371). -/
def capBits (x : CapRec) : Nat := x.id % 2 ^ 16 + x.version % 2 ^ 8 * 2 ^ 16 + x.flags % 2 ^ 32 * 2 ^ 32 + x.value % 2 ^ 32 * 2 ^ 96

def parseCap (w : Nat) : CapRec := ⟨bits w 0 16, bits w 16 8, bits w 32 32, bits w 96 32⟩

/-- What a candidate reports of itself beside its GHELLO: its capability list, and the instances and the certificate
of the grove that it leads. -/
def candidateState (s : State) (g : GroveSt) : List Byte :=
  let caps := (capList s).flatMap (fun x => stEntry tgCap 0 (leBytes 16 (capBits x)))
  match (g.members.find? (isOwn s g.glevel)).bind (ownGrove s g.glevel) with
  | none => caps
  | some h => caps ++ (List.range h.ninst).flatMap (fun i => stEntry tgInst i (leBytes 6 (instPath s h i).toNat)) ++
      stEntry tgCert 0 h.cert

/-- The leader takes what a candidate reports of itself. -/
def takeCandidate (src : UPath) (es : List (Nat × Nat × List Byte)) (g : GroveSt) : GroveSt :=
  let of_ (t : Nat) : List (List Byte) := (es.filter (fun e => e.1 == t)).map (fun e => e.2.2)
  { g with members := g.members.map (fun m =>
      if !m.holds g.glevel src then m
      else { m with
        insts := (of_ tgInst).map (fun b => BitVec.ofNat 48 (leNat b)), cert := (of_ tgCert).head?
        caps := if (of_ tgCap).isEmpty then none else some ((of_ tgCap).map (fun b => parseCap (leNat b))) }) }

/-- Whether a member has reported a list without GROVE (R334 check 4). -/
def lacksGrove (g : GroveSt) : Option GMember :=
  g.members.find? (fun m => (m.caps.map (fun l => !l.any (fun x => x.id == 0x0D))).getD false)

/-- A candidate enters a formation: the capability list is invalid from here on (R335, R340). -/
def beginForm (g : GroveSt) (s : State) : State :=
  let s0 := settleChannel { s with grove := { s.grove with forming := none } }
  let s1 := { s0 with grove := { s0.grove with forming := some g }, sys := { s0.sys with capv := false } }
  if leads s1 g then tryForm g s1
  else
    let s2 := shakeFor g.leader (sendGrove g g.leader 1 (helloFields s1 g) s1)
    sendGrove g g.leader 8 (greportBody (failIndex s1 g s1.grove.upathSelf) 2 0 (candidateState s g)) s2

/-- A refused candidate fails the formation at every member (R334). -/
def refuseForm (a : FormArgs) (w : Waiter) (st : Nat) (s : State) : State × Reply :=
  match electLeader s a.level a.members with
  | none => (s, cmdDone w st)
  | some u =>
    let g := newForming a u w
    (sendFail g st (failIndex s g s.grove.upathSelf) (if u == s.grove.upathSelf then candidates s g else [u]) s, cmdDone w st)

/-- The leader records a GHELLO whose table and epoch match, and challenges the member; a differing one fails the
formation, of two epochs the smaller one, and one of a larger epoch waits for its GROVE_FORM (R335, R347). -/
def helloHere (src : UPath) (h : BitVec 128) (crc : BitVec 64) (g : GroveSt) (s : State) : State :=
  if (ghEpoch h).toNat < g.gepoch.toNat then
    sendFail { g with gepoch := ghEpoch h } stGROVE_MISMATCH (failIndex s g src) [src] s
  else if g.gepoch != ghEpoch h then
    let s1 := failEverywhere stGROVE_MISMATCH (failIndex s g src) g s
    { s1 with grove := { s1.grove with early := s1.grove.early.filter (fun e => e.1 != src) ++ [(src, h, crc)] } }
  else if g.tableCrc != crc then failEverywhere stGROVE_MISMATCH (failIndex s g src) g s
  else if !g.members.any (fun e => e.holds g.glevel src) then s
  else
    let nonce : BitVec 256 := BitVec.ofNat 256 (Config.drbg s.free).toNat
    let g1 := { g with
      hellos := g.hellos.filter (· != src) ++ [src], nonces := tset g.nonces src.toNat nonce
      members := g.members.map (fun e => if e.holds g.glevel src then { e with lead := src } else e) }
    sendGrove g1 src 2 (leBytes 32 nonce.toNat) (putGrove g1 { s with free := s.free + 1 })

/-- A GHELLO for a formation that this instance has not begun waits for its GROVE_FORM, the newest of each sender
(R335). -/
def holdHello (src : UPath) (h : BitVec 128) (crc : BitVec 64) (s : State) : State :=
  { s with grove := { s.grove with early := s.grove.early.filter (fun e => e.1 != src) ++ [(src, h, crc)] } }

/-- GHELLO at an instance: for the formation in progress, of a grove that is formed already, or early. -/
def takeGhello (src : UPath) (h : BitVec 128) (crc : BitVec 64) (s : State) : State :=
  if ghType h != 1 then s
  else match s.grove.forming.filter (fun g => g.gprefix == ghPrefix h && g.glevel == ghLevel h) with
    | none => if (namedGrove s h).isSome then countStale ((inOrder src h s).getD s) else holdHello src h crc s
    | some g =>
      if !leads s g then s
      else match inOrder src h s with
        | none => s
        | some s1 => helloHere src h crc g s1

/-- The GHELLO messages that came before this instance's GROVE_FORM are taken (R335). -/
def takeHeld (s : State) : State :=
  s.grove.early.foldl (fun s e => takeGhello e.1 e.2.1 e.2.2 s) { s with grove := { s.grove with early := [] } }

def groveFormAct : MsgAct := fun _ w m s =>
  match readPblk mgmtCtx true (bits m.bits.toNat 64 64) [3, 48, 32, 8, 64, 16, 16] s with
  | (s1, .error st) => (s1, cmdDone w st)
  | (s1, .ok v) =>
    let n := v.getD 3 0
    match fetchMem s1 mgmtCtx true 0 (v.getD 4 0) (16 * n) with
    | (s2, none) => (s2, cmdDone w stRESOURCE)
    | (s2, some tab) =>
      let raw := leWords 16 n tab
      let lv := v.getD 0 0
      let a : FormArgs :=
        { level := lv, gprefix := BitVec.ofNat 48 (v.getD 1 0), epoch := BitVec.ofNat 32 (v.getD 2 0), formMs := v.getD 5 0
          ghbMs := v.getD 6 0, table := tab, raw := raw, members := sortMembers lv (raw.map parseGMember) }
      if m.gen < 3 then refuseForm a w stNEEDS_MB3 s2
      else if formBad s2 a then refuseForm a w stGROVE_BAD s2
      else if formBusy s2 a then refuseForm a w stGROVE_BUSY s2
      else
        let g := newForming a ((electLeader s2 lv a.members).getD (BitVec.allOnes 48)) w
        match s2.grove.forming with
        | none => (takeHeld (beginForm g s2), .later)
        | some h =>
          if !g.same h then (s2, cmdDone w stGROVE_BUSY)
          else if h.gepoch.toNat < g.gepoch.toNat then
            (takeHeld (beginForm g (failEverywhere stGROVE_MISMATCH 0xFFFF h s2)), .later)
          else (s2, cmdDone w stGROVE_MISMATCH)

/-- GROVE_FORM (R332 to R335). -/
def execGroveForm (s : State) : Result := live (takeMsg mgmtCtx 0x8A groveFormAct) s

/-- GHELLO (R335). -/
def execGhello (src : UPath) (hdr : BitVec 128) (crc : BitVec 64) (_ninst : BitVec 16) (_kind : Bool) (s : State) : Result :=
  live (takeGhello src hdr crc) s

/-- What a member signs of its identity (R337). -/
def confMsg (g : GroveSt) (nonce : BitVec 256) : List Byte :=
  leBytes 6 g.gprefix.toNat ++ leBytes 4 g.gepoch.toNat ++ leBytes 32 nonce.toNat ++ leBytes 8 g.tableCrc.toNat

/-- A member answers the leader's challenge (R347). -/
def takeGchal (src : UPath) (nonce : BitVec 256) (g : GroveSt) (s : State) : State :=
  if g.leader != src || g.gstate != 1 then s
  else sendGrove g src 3 (chainBytes (myChain s) ++ sigBytes (signAlias s (confMsg g nonce))) s

/-- GCHAL (R347). -/
def execGchal (src : UPath) (hdr : BitVec 128) (nonce : BitVec 256) (s : State) : Result :=
  live (takeGrove src hdr 2 (fun g => withLodge src (.gchal hdr nonce) (takeGchal src nonce g))) s

/-- The leader's Lodge verifies a member: a failure fails formation (R347). -/
def takeGconf (src : UPath) (chain : List (List Byte)) (sig : BitVec 768) (g : GroveSt) (s : State) : State :=
  match tget? g.nonces src.toNat with
  | none => s
  | some n =>
    if !leads s g || g.gstate != 1 then s
    else if !Config.chainOk chain || !Config.ecdsaVerify (Config.chainKey chain) (confMsg g n) (sigBytes sig) then
      failEverywhere stGROVE_MISMATCH (failIndex s g src) g s
    else
      let g1 := { g with devs := tset g.devs src.toNat (chain.getD 2 []) }
      tryForm g1 (putGrove g1 s)

/-- GCONF (R347). -/
def execGconf (src : UPath) (hdr : BitVec 128) (chain : List (List Byte)) (sig : BitVec 768) (s : State) : Result :=
  live (takeGrove src hdr 3 (fun g =>
    withLodge src (.gconf hdr chain sig) (fun s => takeGconf src chain sig ((namedGrove s hdr).getD g) s))) s

/-- A member learns that its grove is formed, and its GROVE_FORM completes (R335). -/
def takeGformed (src : UPath) (ninst : BitVec 16) (cert : List Byte) (g : GroveSt) (s : State) : State :=
  if g.leader != src || g.gstate != 1 then s
  else
    let new := { g with gstate := 2, ninst := ninst.toNat, cert := cert, waiter := none, heard := [src] }
    let s1 := { s with
      grove := { s.grove with forming := none, formed := new :: s.grove.formed }, sys := { s.sys with capv := true } }
    match g.waiter with
    | none => s1
    | some w => finish w stOK (cmdBody w.opc 0 0 0 0) s1

/-- An instance inside a member grove learns of the grove around it (R335). -/
def joinOuter (src : UPath) (h : BitVec 128) (ninst : BitVec 16) (cert : List Byte) (s : State) : State :=
  match rootGrove s with
  | none => s
  | some r =>
    if leads s r || r.glevel ≤ ghLevel h || pathPrefix (ghLevel h) s.grove.upathSelf != pathPrefix (ghLevel h) (ghPrefix h) then s
    else
      let new : GroveSt :=
        { gstate := 2, glevel := ghLevel h, gprefix := ghPrefix h, gepoch := ghEpoch h, members := [], table := [], formMs := 0
          ghbMs := 10, leader := src, myIndex := none, ninst := ninst.toNat, tableCrc := 0, hellos := [], nonces := [], devs := []
          cert := cert, lost := [], heard := [src], waiter := none }
      { s with grove := { s.grove with formed := new :: s.grove.formed } }

def takeGformedMsg (src : UPath) (h : BitVec 128) (ninst : BitVec 16) (cert : List Byte) (s : State) : State :=
  if ghType h = 4 && (namedGrove s h).isNone then
    match inOrder src h s with
    | none => s
    | some s1 => joinOuter src h ninst cert s1
  else takeGrove src h 4 (takeGformed src ninst cert) s

/-- GFORMED (R335). -/
def execGformed (src : UPath) (hdr : BitVec 128) (ninst : BitVec 16) (cert : List Byte) (s : State) : Result :=
  live (takeGformedMsg src hdr ninst cert) s

/-- Formation is still incomplete after FORM_MS (R335). -/
def formTimeout (s : State) : State :=
  match s.grove.forming with
  | none => s
  | some g => failEverywhere stGROVE_INCOMPLETE 0xFFFF g s

/-- GROVE_INCOMPLETE (R335). -/
def execGroveIncomplete (s : State) : Result := live formTimeout s

/-! Heartbeats and acknowledgements (R337, R345). -/

/-- GHB: the peer has been heard (R345). -/
def execGhb (src : UPath) (hdr : BitVec 128) (s : State) : Result := live (takeGrove src hdr 6 (fun _ s => s)) s

/-- A heartbeat goes to every member instance from the leader, and to the leader from every other (R345). -/
def sendBeats (s : State) : State :=
  let s1 := s.grove.formed.foldl (fun s g =>
    if leads s g then (reachable s g).foldl (fun s u => sendGrove g u 6 [] s) s
    else if g.gstate = 4 then s
    else sendGrove g g.leader 6 [] s) s
  { s1 with grove := { s1.grove with formed := s1.grove.formed.map (fun g => { g with heard := [] }) } }

/-- GHB_SEND (R345). -/
def execGhbSend (s : State) : Result := live sendBeats s

/-- GACK frees what the peer has received in order (R337). -/
def takeGack (src : UPath) (n : BitVec 32) (s : State) : State :=
  { s with grove := { s.grove with unacked := s.grove.unacked.filter (fun e => !(e.1 == src.toNat && decide (e.2 ≤ n.toNat))) } }

/-- GACK (R337). -/
def execGack (src : UPath) (hdr : BitVec 128) (gseq : BitVec 32) (s : State) : Result :=
  live (takeGrove src hdr 9 (fun _ => takeGack src gseq)) s

/-- A grove in which a peer and this instance exchange messages. -/
def sharedGrove (s : State) (peer : UPath) : Option GroveSt :=
  (s.grove.forming.toList ++ s.grove.formed).find? (fun g => g.leader == peer || leads s g)

/-- GACK to a peer whose messages stand unacknowledged (R337). -/
def sendAck (peer : UPath) (s : State) : State :=
  let n := tget s.grove.rxSeq peer.toNat 0
  match sharedGrove s peer with
  | none => s
  | some g =>
    if n ≤ tget s.grove.ackedSeq peer.toNat 0 then s
    else sendGrove g peer 9 (leBytes 4 n) { s with grove := { s.grove with ackedSeq := tset s.grove.ackedSeq peer.toNat n } }

/-- GACK_SEND (R337). -/
def execGackSend (peer : UPath) (s : State) : Result := live (sendAck peer) s

end Sys2Proof.Machine
end

