-- ==== Sys2Proof/Machine/Groves.lean ====
section
/-!
DEFINITION. Work across a formed grove (R341 to R346): what a member does with a message that its leader forwards, what the leader
does with a report, loss of a member or of the leader, and dissolution.
-/
namespace Sys2Proof.Machine

/-! A forwarded message at a member (R341 to R343). -/

/-- A message of 512 bits as a ring would give it (R352, R353). -/
def msgOf (b : BitVec 512) : Msg :=
  let x := b.toNat
  ⟨bits x 0 2, bits x 8 8, bits x 16 16, BitVec.ofNat 32 (bits x 32 32), b⟩

/-- The context commands that a leader forwards. -/
def ctxActOf (opc : Nat) : Option MsgAct :=
  match opc with
  | 0x02 => some resumeAct
  | 0x03 => some logReadAct
  | 0x04 => some regionSetAct
  | 0x05 => some winOpenAct
  | 0x06 => some winCloseAct
  | 0x07 => some angleSetAct
  | 0x08 => some roleLoadAct
  | 0x09 => some landSetAct
  | 0x0A => some altQuotaAct
  | 0x0B => some terGroupModeAct
  | 0x10 => some seqCreateAct
  | 0x11 => some seqAppendAct
  | 0x12 => some seqForkAct
  | 0x13 => some seqTruncateAct
  | 0x14 => some seqFreeAct
  | 0x15 => some plotPinAct
  | 0x16 => some plotUnpinAct
  | 0x20 => some collLaunchAct
  | 0x21 => some bandDigestAct
  | _ => none

/-- A number that no attachment has: a member's grove contexts belong to the leader's attachment (R338, R341). -/
def noAttachment : Nat := 2 ^ 64

/-- CTX_CREATE at a member: context c without rings (R341). -/
def createHere (c : Nat) : MsgAct := fun _ w m s =>
  if (getCtx s c).state != .free then (s, cmdDone w stRESOURCE)
  else
    let new := { Ctx.free with
      state := .active, ring := (getCtx s c).ring, grove := true, hifMaj := bits m.bits.toNat 104 8, bound := noAttachment }
    (modCtx c (fun _ => new) s, cmdDone w stOK)

/-- CTX_DESTROY at a member (R341, R370). -/
def destroyHere (c : Nat) : MsgAct := fun _ w _ s =>
  if (getCtx s c).state = .free then (s, cmdDone w stRESOURCE)
  else (quiesce c stCTX_DESTROYED (some w) s, .later)

/-- The management commands that a leader forwards. -/
def mgmtActOf (opc c : Nat) : Option MsgAct :=
  match opc with
  | 0x82 => some (createHere c)
  | 0x83 => some (destroyHere c)
  | 0x85 => some altConfigAct
  | 0x86 => some bandConfigAct
  | 0x87 => some commCreateAct
  | 0x88 => some commDestroyAct
  | 0x89 => some groveSetPathAct
  | 0x90 => some mregReadAct
  | 0x91 => some mregWriteAct
  | _ => none

/-- The table entries and descriptor blocks of a job's slice (R337): the blocks begin at the HDR block whose count of
blocks ends the slice. -/
def parseSlice (bs : List Byte) : List Nat × List Nat :=
  let at_ (n : Nat) : Bool :=
    let b := bs.drop (16 * n)
    let h := leNat (b.take 64)
    bits h 0 8 == 1 && b.length == 64 * (bits h 12 8 + 1)
  match (List.range (bs.length / 16)).find? at_ with
  | none => ([], [])
  | some n =>
    let b := bs.drop (16 * n)
    (leWords 16 n bs, leWords 64 (b.length / 64) b)

/-- The descriptor of a forwarded job with the KPAD of the bucket entry that the leader chose, whose programs the slice
holds (R81, R195, R343). -/
def resolveBucket (r : RawDesc) : RawDesc :=
  if r.desc.buckets.isEmpty then r
  else
    let k := (r.desc.buckets.getD (bucketOf r.desc) ⟨0, 0⟩).kpad
    { r with desc := { r.desc.withKpad k with buckets := [] } }

/-- A member's reads for a forwarded job. -/
def readSlice (c : Nat) (r : RawDesc) (entries : List Nat) : Eff AdmIn := do
  let d := r.desc
  let ps ← ((List.range entries.length).zip entries).mapM (fun e => progAt c e.1 e.2)
  let image ← if d.sfuImage = 0 then pure [] else viewRead c d.sfuImage 0x3870
  let seg ← readSeg c d
  pure ⟨r, [(d.p.kpad, ps)], image, seg⟩

/-! What a member reports of its state (R337, R343; log entry 40). -/

/-- The bits of a region (R205), of a role (R196) and of a landing entry (R276). -/
def regionBits (r : Region) : Nat :=
  r.base4k + r.len4k * 2 ^ 18 + b01 r.fillchk * 2 ^ 36 + b01 r.xrd * 2 ^ 37 + b01 r.xwr * 2 ^ 38 + b01 r.rwin * 2 ^ 39

def roleBits (r : Role) : Nat := r.upath.toNat + r.pav * 2 ^ 48 + b01 r.valid * 2 ^ 52 + r.repoch.toNat * 2 ^ 64

def landingBits (e : Landing) : Nat :=
  e.owner + e.sender * 2 ^ 12 + e.place * 2 ^ 24 + e.nbufCode * 2 ^ 25 + b01 e.acc * 2 ^ 27 + b01 e.fillset * 2 ^ 28 +
    b01 e.valid * 2 ^ 29 + e.len4k * 2 ^ 32 + e.loc4k * 2 ^ 64 + e.flag0 * 2 ^ 108 + e.flagnM1 * 2 ^ 120 + e.epcred * 2 ^ 128

/-- The tables of a context as a resource state. -/
def tablesState (s : State) (c : Nat) : List Byte :=
  let x := getCtx s c
  stEntry tgTables 0 [] ++ x.regions.flatMap (fun e => stEntry tgRegion e.1 (leBytes 8 (regionBits e.2))) ++
    x.landing.flatMap (fun e => stEntry tgLanding e.1 (leBytes 32 (landingBits e.2))) ++
    x.roles0.flatMap (fun e => stEntry tgRole0 e.1 (leBytes 16 (roleBits e.2))) ++
    x.roles1.flatMap (fun e => stEntry tgRole1 e.1 (leBytes 16 (roleBits e.2)))

/-- The tables that a resource state gives. -/
def tabsOf (es : List (Nat × Nat × List Byte)) : MemberTabs :=
  let tab {α : Type} (t : Nat) (f : Nat → α) : Tbl α :=
    (es.filter (fun e => e.1 == t)).foldl (fun r e => tset r e.2.1 (f (leNat e.2.2))) []
  ⟨tab tgRegion parseRegion, tab tgLanding parseLanding, tab tgRole0 parseRole, tab tgRole1 parseRole⟩

/-- A forwarded command that has changed what the leader judges by is followed by a resource state: the tables of its
context, or the communicators of the instance. -/
def reportState (w : Waiter) (c st : Nat) (s : State) : State :=
  if st ≠ 0 then s
  else if !w.mgmt && (w.opc == 0x04 || w.opc == 0x08 || w.opc == 0x09) then report 2 c (tablesState s c) s
  else if w.mgmt && (w.opc == 0x87 || w.opc == 0x88) then
    report 2 0 (stEntry tgComms 0 (leBytes 4 s.band.comms.length)) s
  else s

/-- A forwarded job at a member: checks 5, 6, 9 and 10, then its programs are loaded, and the leader learns that it is
taken (R343). -/
def memberJob (member : Nat) (src : UPath) (rest : List Byte) : MsgAct := fun c w m s =>
  let sl := parseSlice rest
  let r0 := withKvalid m (parseDesc sl.2)
  let r := resolveBucket r0
  let seq : BitVec 32 := BitVec.ofNat 32 (bits m.bits.toNat 192 32)
  let refuse (f : Refused) (s : State) : State × Reply :=
    (traceEv 0 2 c 0 f.1 seq.toNat w.tag.toNat s, .done f.1 (refusedJobBody seq f.2.1 f.2.2))
  match (readSlice c r sl.1).exec s with
  | (.error _, s1) => refuse (stRESOURCE, 0, 0) s1
  | (.ok i, s1) =>
    match (memberChecks s1 c member r i).or ((jobWinsBad s1 c r.desc).map (fun st => (st, 0, 0))) with
    | some f => refuse f s1
    | none =>
      let j := { newJob s1 c member m (some (member, src)) r i with jobseq := seq, bucket := bucketOf r0.desc, peers := [], untaken := [] }
      if kioskWait s1 j then (s, .stay)
      else (report 2 c (stEntry tgTaken 0 (leBytes 4 seq.toNat) ++ tablesState s1 c) (commitJob j s1), .later)

/-- Runs a forwarded message; its record goes back as a report. One that must wait is left to be delivered again. -/
def runFwd (c : Nat) (w : Waiter) (m : Msg) (act : Option MsgAct) (before s : State) : State :=
  match act with
  | none => finish w stBAD_OPC (cmdBody m.opc 0 0 0 0) s
  | some a =>
    match a c w m s with
    | (s1, .done st body) => finish w st body (reportState w c st s1)
    | (s1, .later) => s1
    | (_, .stay) => before

/-- A halt that the leader forwards (R344): the job of its number halts, and the grove context also where the job does
not run or has ended; a code of class 2 ends the job alone (R343). -/
def takeHalt (c : Nat) (msg : BitVec 512) (s : State) : State :=
  let x := msg.toNat
  let st := bits x 16 16
  let det := bits x 64 64
  let seq : BitVec 32 := BitVec.ofNat 32 (bits x 192 32)
  match findJob s c seq with
  | none => if st / 4096 = 2 ∨ (getCtx s c).state = .free then s else haltCtxOnly c st det s
  | some j =>
    if j.fault.isSome then s
    else if st / 4096 = 2 then stopJob c seq (modJob c seq (fun k => { k with fault := some ⟨st, j.member, 0, 255, 0, det, 0⟩ }) s)
    else modJob c seq (fun k => { k with halted := true }) (haltPlain c seq ⟨st, 255, det, 0⟩ s)

/-- The contexts of the grove. -/
def groveCtxs (s : State) : List Nat := (s.ctxs.filter (fun e => e.2.grove && e.2.state != .free)).map (·.1)

/-- A grove context whose CTX_CREATE one member failed is taken back, here and at the members that have created it
(R341). -/
def takeBack (f : Fwd) (s : State) : State :=
  let c := bits ((f.body.map (·.2)).getD 0) 64 64
  let s1 := freeCtx c s
  if f.good.isEmpty then s1
  else forwardTell 2 c (destroyMsg c) f.good
    { s1 with grove := { s1.grove with fwd := s1.grove.fwd ++ [⟨⟨true, mgmtCtx, 1, 0, 0, none⟩, f.good, none, none, []⟩] } }

/-- A command that a leader had forwarded ends (R342, R343). The record of CTX_DESTROY follows from the freed context,
that of CTX_RESUME from the records of the jobs. -/
def endFwd (f : Fwd) (s : State) : State :=
  let w := f.waiter
  let s1 := { s with grove := { s.grove with fwd := s.grove.fwd.filter (· != f) } }
  let failed (i : Nat) : Nat := cmdBody w.opc 0 0 0 i
  if w.opc = 0 ∨ w.opc = 0x83 then settleAll s1
  else match f.fail with
    | none =>
      if !w.mgmt ∧ w.opc = 0x02 then releaseResume w.ctx s1 else finish w stOK ((f.body.map (·.2)).getD 0) s1
    | some (i, st) =>
      if !w.mgmt ∧ w.opc = 0x02 then
        finish w st (failed i) (modCtx w.ctx (fun x => { x with resumeWait := x.resumeWait.filter (· != w) }) s1)
      else
        finish w st (if recKind w.mgmt w.opc = 4 then failed i else (f.body.map (·.2)).getD 0)
          (if w.opc = 0x82 then takeBack f s1 else s1)

/-- Of two failures the one of the lower member index (R342). -/
def lowerFail (a : Option (Nat × Nat)) (i st : Nat) : Option (Nat × Nat) :=
  if st = 0 then a
  else match a with
    | none => some (i, st)
    | some x => if i < x.1 then some (i, st) else a

/-- Of two bodies the one of the member of lower index (R27, R342). -/
def lowerBody (a : Option (Nat × Nat)) (i body : Nat) : Option (Nat × Nat) :=
  match a with
  | none => some (i, body)
  | some x => if i < x.1 then some (i, body) else a

/-- A member's answer to a forwarded command. -/
def answerFwd (f : Fwd) (i st body : Nat) (s : State) : State :=
  let f1 := { f with
    waiting := f.waiting.filter (· != i), fail := lowerFail f.fail i st, body := lowerBody f.body i body
    good := if st = 0 then f.good ++ [i] else f.good }
  let s1 := { s with grove := { s.grove with fwd := s.grove.fwd.map (fun g => if g == f then f1 else g) } }
  if f1.waiting.isEmpty then endFwd f1 s1 else s1

/-- The grove ends here: its contexts are freed under the rules of host loss, and the groves inside it stay (R346). -/
def dissolveHere (s : State) : State :=
  let free (s : State) (c : Nat) : State :=
    let s1 := { s with jobs := s.jobs.map (fun j => if j.ctx == c then { j with peers := [] } else j) }
    if (getCtx s1 c).state = .quiescing then settleCtx c s1 else quiesce c stHOST_LOST none s1
  let s1 := s.grove.fwd.foldl (fun (s : State) (f : Fwd) => endFwd { f with fail := lowerFail f.fail (f.waiting.headD 0) stMEMBER_LOST }
    { s with grove := { s.grove with fwd := s.grove.fwd.filter (· != f) } }) s
  let s2 := (groveCtxs s1).foldl free s1
  settleChannel { s2 with grove := { s2.grove with formed := s2.grove.formed.tail, fwd := [], reported := [], comms := [] } }

/-- GFWD at a member of the root grove (R337, R341 to R346). -/
def takeGfwd (src : UPath) (h : BitVec 128) (member kind c : Nat) (msg : BitVec 512) (rest : List Byte) (s : State) : State :=
  if coreState s 2 != 0 then s
  else
    let go (g : GroveSt) (s1 : State) : State :=
      if g.leader != src || g.gstate = 1 || (rootGrove s1).map (GroveSt.same g) != some true then s1
      else
        let g1 := (namedGrove s1 h).getD g
        let s2 := if g1.members.isEmpty && g1.myIndex.isNone then putGrove { g1 with myIndex := some member } s1 else s1
        let m := msgOf msg
        let w (mgmt : Bool) : Waiter := ⟨mgmt, c, m.gen, m.opc, m.tag, some (member, src)⟩
        if member != ownIndex s2 then s1
        else match kind with
        | 1 => if (getCtx s1 c).altWait.isSome then s else runFwd c (w false) m (if m.opc = 1 then some (memberJob member src rest) else ctxActOf m.opc) s s2
        | 2 => runFwd c (w true) m (mgmtActOf m.opc c) s s2
        | 3 => takeHalt c msg s2
        | 4 => dissolveHere s2
        | _ => s2
    takeGrove src h 7 go s

/-- GFWD (R337, R343). -/
def execGfwd (src : UPath) (hdr : BitVec 128) (member : BitVec 16) (kind : BitVec 4) (c : CtxId) (msg : BitVec 512)
    (rest : List Byte) (s : State) : Result :=
  live (takeGfwd src hdr member.toNat kind.toNat c.val msg rest) s

/-! Reports at the leader (R342 to R344). -/

/-- The INV_FIRST of a record (R363). -/
def parseInvFirst (job : Nat) (x : Nat) : Option EvKey :=
  if x = 2 ^ 64 - 1 then none
  else some ⟨job, bits x 0 16, bits x 16 4, bits x 20 24, bits x 44 8, bits x 52 8, bits x 60 4, 0⟩

/-- An entry of an exception log (R52). -/
def parseLog (x : Nat) : LogEnt := ⟨bits x 64 32, bits x 96 16, bits x 24 4, bits x 0 24, bits x 32 8, bits x 40 8, bits x 28 4, bits x 48 2⟩

/-- The fault fields of a job record (R363). -/
def parseFault (r : Nat) : JFault :=
  ⟨bits r 16 16, bits r 320 16, bits r 336 4, bits r 344 8, bits r 352 24, bits r 384 64, bits r 448 64⟩

/-- The smaller of two first events (R53, R344). -/
def firstEv (a b : Option EvKey) : Option EvKey :=
  match a, b with
  | none, y => y
  | x, none => x
  | some x, some y => if y.lt x then some y else some x

/-- A member's record is merged into the leader's job (R344): counters sum, first events by key, OUT_XBND by its
largest. -/
def mergeRec (member r : Nat) (j : Job) : Job :=
  { j with
    invalid := satAdd j.invalid (bits r 96 32), accSat := satAdd j.accSat (bits r 128 32)
    ovfConv := satAdd j.ovfConv (bits r 160 32), repeats := satAdd j.repeats (bits r 256 32)
    maskedRows := satAdd j.maskedRows (bits r 288 32)
    invFirst := firstEv j.invFirst (parseInvFirst j.jobseq.toNat (bits r 192 64))
    oxb := (List.range 11).foldl (fun t k =>
      let v := sbits r (512 + 12 * k) 12
      if v = -2048 then t else tset t k (max v (tget t k (-2048)))) j.oxb
    peers := j.peers.filter (· != member), untaken := j.untaken.filter (· != member) }

/-- A job that a member has refused or ended without a report of its halt: the code and the member's index become the
job's, and no context halts (R343). -/
def refusedBy (member r : Nat) (j : Job) (s : State) : State :=
  let f := { parseFault r with fmember := member }
  stopJob j.ctx j.jobseq (modJob j.ctx j.jobseq (fun k => { k with fault := some f }) s)

/-- A member's job record (R343, R344). -/
def takeJobRec (member c r : Nat) (s : State) : State :=
  let seq : BitVec 32 := BitVec.ofNat 32 (bits r 64 32)
  match findJob s c seq with
  | none => s
  | some j =>
    if !j.peers.contains member then s
    else
      let events := bits r 96 32 + bits r 128 32 + bits r 160 32
      let s1 := modCtx c (fun x => { x with logTotal := satAdd x.logTotal events }) (modJob c seq (mergeRec member r) s)
      let s2 := if bits r 16 16 != 0 && j.fault.isNone then refusedBy member r j s1 else s1
      settleCtx c s2

/-- A member's record of any other message ends its part of the command forwarded (R342). -/
def takeCmdRec (member r : Nat) (s : State) : State :=
  let is (f : Fwd) : Bool :=
    f.waiting.contains member && f.waiter.tag.toNat == bits r 32 32 && recKind f.waiter.mgmt f.waiter.opc == bits r 8 8
  match s.grove.fwd.find? is with
  | none => s
  | some f => answerFwd f member (bits r 16 16) (bits r 64 960) s

/-- A halt at a member halts the grove context at the leader, which forwards it (R344). Of several halts of one job its
record takes that of the smallest key, whichever report came first (R27, R53; log entry 39). -/
def takeHaltRep (member c r : Nat) (s : State) : State :=
  let seq : BitVec 32 := BitVec.ofNat 32 (bits r 64 32)
  let f := parseFault r
  match findJob s c seq with
  | none => s
  | some j =>
    let least (k : Job) : Job :=
      { k with
        untaken := k.untaken.filter (· != member)
        fault := match j.fault with
          | some f0 => if lexLt (haltKey seq f) (haltKey seq f0) then some f else some f0
          | none => some f }
    modJob c seq least (haltJob c seq f s)

/-- The entries of a member's exception log join the context's (R344). -/
def takeLogRep (c : Nat) (body : List Byte) (s : State) : State :=
  modCtx c (fun x => { x with log := (leWords 16 (body.length / 16) body).foldl (fun l e => logInsert l (parseLog e)) x.log }) s

/-- A member's resource state (R343; log entry 40): the tables of a context, the communicators, and a job that the
member has taken. -/
def takeMemberState (member c : Nat) (es : List (Nat × Nat × List Byte)) (s : State) : State :=
  let s1 := if es.any (fun e => e.1 == tgTables) then
      { s with grove := { s.grove with
        reported := tset s.grove.reported member (tset (tget s.grove.reported member []) c (tabsOf es)) } }
    else s
  es.foldl (fun s e =>
    if e.1 = tgComms then { s with grove := { s.grove with comms := tset s.grove.comms member (leNat e.2.2) } }
    else if e.1 = tgTaken then
      modJob c (BitVec.ofNat 32 (leNat e.2.2)) (fun j => { j with untaken := j.untaken.filter (· != member) }) s
    else s) s1

/-- A candidate's resource state in a formation; one without GROVE fails it (R334, R340). -/
def takeCandidateState (src : UPath) (es : List (Nat × Nat × List Byte)) (g : GroveSt) (s : State) : State :=
  let g1 := takeCandidate src es g
  match lacksGrove g1 with
  | some _ => failEverywhere stNO_CAP (failIndex s g1 src) g1 s
  | none => putGrove g1 s

/-- GREPORT at the leader. -/
def takeGreport (src : UPath) (h : BitVec 128) (member kind c : Nat) (body : List Byte) (s : State) : State :=
  if coreState s 2 != 0 then s
  else
    let go (g : GroveSt) (s1 : State) : State :=
      if !leads s1 g then s1
      else if g.gstate = 1 then
        (if kind = 2 then takeCandidateState src (stParse body.length body) ((namedGrove s1 h).getD g) s1 else s1)
      else
        let r := leNat (body.take 128)
        match kind with
        | 1 => if bits r 8 8 = 1 then takeJobRec member c r s1 else takeCmdRec member r s1
        | 2 => takeMemberState member c (stParse body.length body) s1
        | 3 => takeHaltRep member c r s1
        | 4 => takeLogRep c body s1
        | _ => s1
    takeGrove src h 8 go s

/-- GREPORT (R337, R344). -/
def execGreport (src : UPath) (hdr : BitVec 128) (member : BitVec 16) (kind : BitVec 4) (c : CtxId) (body : List Byte)
    (s : State) : Result :=
  live (takeGreport src hdr member.toNat kind.toNat c.val body) s

/-- GFAIL: a formation fails, at its leader for every candidate; in a formed grove the leader takes it as a member's
failure of the oldest command that waits for that member (R335, R337). -/
def takeGfail (src : UPath) (h : BitVec 128) (status member : Nat) (s : State) : State :=
  let go (g : GroveSt) (s1 : State) : State :=
    let g1 := (namedGrove s1 h).getD g
    if g1.gstate = 1 then
      if leads s1 g1 then failEverywhere status member g1 s1
      else if g1.leader == src then failHere status g1 s1 else s1
    else if !leads s1 g1 then s1
    else
      let i := if member = 0xFFFF then indexOfPath src (groveChain s1 g1) else member
      match s1.grove.fwd.find? (fun f => f.waiting.contains i) with
      | none => s1
      | some f => answerFwd f i status 0 s1
  takeGrove src h 5 go s

/-- GFAIL (R335, R337). -/
def execGfail (src : UPath) (hdr : BitVec 128) (status member : BitVec 16) (s : State) : Result :=
  live (takeGfail src hdr status.toNat member.toNat) s

/-! Loss and dissolution (R345, R346). -/

/-- The running grove jobs halt with MEMBER_LOST, and nothing waits for the lost member any longer (R345). -/
def loseMember (i : Nat) (s : State) : State :=
  let js := s.jobs.filter (fun j => (getCtx s j.ctx).grove && j.fault.isNone)
  let s1 := js.foldl (fun (s : State) (j : Job) => haltPlain j.ctx j.jobseq ⟨stMEMBER_LOST, 255, i, 0⟩ s) s
  let s2 := { s1 with jobs := s1.jobs.map (fun (j : Job) => { j with peers := j.peers.filter (· != i), untaken := j.untaken.filter (· != i) }) }
  let s3 := (s2.grove.fwd.filter (fun (f : Fwd) => f.waiting.contains i)).foldl (fun (s : State) (f : Fwd) => answerFwd f i stMEMBER_LOST 0 s) s2
  settleAll s3

/-- The leader is lost: the grove contexts halt with MEMBER_LOST and are kept (R345). -/
def loseLeader (i : Nat) (s : State) : State :=
  (groveCtxs s).foldl (fun s c =>
    haltSome c ⟨stMEMBER_LOST, 255, i, 0⟩ ((s.jobs.filter (fun j => j.ctx == c && j.fault.isNone)).map (·.jobseq)) s) s

/-- A peer that has been silent for GHB_MS is declared lost in one grove (R345). -/
def loseIn (peer : UPath) (s : State) (g : GroveSt) : State :=
  let root := (rootGrove s).map (GroveSt.same g) == some true
  if g.heard.contains peer then s
  else if leads s g then
    match (List.range g.ninst).find? (fun i => instPath s g i == peer && !g.lost.contains i) with
    | none => s
    | some i =>
      if peer == s.grove.upathSelf then s
      else
        let s1 := setErr ebMEMBER_LOST (putGrove { g with lost := g.lost ++ [i], gstate := 3 } s)
        if root then loseMember i s1 else s1
  else if g.leader == peer && g.gstate != 4 then
    let s1 := setErr ebMEMBER_LOST (putGrove { g with gstate := 4 } s)
    if root then loseLeader (if g.members.isEmpty then 0 else indexOfPath peer (groveChain s g)) s1 else s1
  else s

/-- MEMBER_LOST (R345). -/
def execMemberLost (peer : UPath) (s : State) : Result := live (fun s => s.grove.formed.foldl (loseIn peer) s) s

def groveDissolveAct : MsgAct := fun _ w _ s =>
  match rootGrove s with
  | none => (s, cmdDone w stGROVE_BAD)
  | some g =>
    if leads s g then
      let s1 := (reachable s g).foldl (fun t u => sendGrove g u 7 (gfwdBody (indexOfPath u (groveChain s g)) 4 0 0 []) t) s
      (dissolveHere s1, cmdDone w stOK)
    else if g.gstate = 4 then (dissolveHere s, cmdDone w stOK)
    else (s, cmdDone w stGROVE_MEMBER)

/-- GROVE_DISSOLVE (R346). -/
def execGroveDissolve (s : State) : Result := live (takeMsg mgmtCtx 0x8B groveDissolveAct) s

end Sys2Proof.Machine
end

