-- ==== Sys2Proof/Machine/MPorts.lean ====
section
/-!
DEFINITION. The M-ports (R445 to R449): credits, issue, read beats and completions. An access has its effect on the memories
of the surroundings with the command that makes it; these rows carry its requests and their answers (log entry 41).
-/
namespace Sys2Proof.Machine

def getPort (s : State) (p : Nat) : MPort := tget s.mports p MPort.empty

def modPort (p : Nat) (f : MPort → MPort) (s : State) : State := { s with mports := tset s.mports p (f (getPort s p)) }

/-- The most requests and the most credits of a port (R445, R447). -/
def portLimit : Nat := 1024

/-- The lowest tag that is not in use. -/
def freeTag (q : MPort) : Option Nat := (List.range portLimit).find? (fun t => (tget? q.outst t).isNone)

/-- Issues the oldest waiting request when it holds its credits: one for the request, and for a write one for each line
(R447). -/
def issueReq (p : Nat) (s : State) : State :=
  let q := getPort s p
  match q.waiting, freeTag q with
  | r :: rest, some t =>
    let beats := if r.write then r.lines else 0
    if q.qcred = 0 ∨ q.wcred < beats then s
    else
      emit (.mreq p t r) (modPort p (fun q => { q with
        qcred := q.qcred - 1, wcred := q.wcred - beats, waiting := rest, outst := tset q.outst t (r, []) }) s)
  | _, _ => s

/-- M_REQUEST_ISSUE (R447). -/
def execMRequestIssue (port : Fin 12) (s : State) : Result := live (issueReq port.val) s

/-- A denied request halts the context that issued it with RESOURCE; M_DENY records it (R393, R449, R480). -/
def denyReq (r : MReq) (s : State) : State :=
  let s1 := setErr ebM_DENY s
  if r.priv then s1 else haltCtxOnly r.ctx stRESOURCE 0 s1

/-- A request has all its answers: its tag is free. -/
def retireTag (p t : Nat) (s : State) : State := modPort p (fun q => { q with outst := tdel q.outst t }) s

/-- A read beat (R445, R448, R449): poison or an ERROR sets M_POISON, a DENY halts; the last beat frees the tag. -/
def takeBeat (p t beat : Nat) (pois : BitVec 32) (stat : Nat) (s : State) : State :=
  match tget? (getPort s p).outst t with
  | none => s
  | some (r, got) =>
    if r.write || decide (r.lines ≤ beat) || got.contains beat || decide (2 < stat) then s
    else
      let s1 := if stat = 2 ∨ (stat = 0 ∧ pois ≠ 0) then setErr ebM_POISON s else s
      let s2 := if stat = 1 then denyReq r s1 else s1
      let all := got ++ [beat]
      if all.length = r.lines then retireTag p t s2
      else modPort p (fun q => { q with outst := tset q.outst t (r, all) }) s2

/-- M_READ_DATA (R449). -/
def execMReadData (port : Fin 12) (tag : Fin 1024) (beat : Fin 4) (_data : BitVec 2048) (pois : BitVec 32) (stat : Fin 4)
    (s : State) : Result :=
  live (takeBeat port.val tag.val beat.val pois stat.val) s

/-- The completion of a write (R448, R449). -/
def takeCompletion (p t stat : Nat) (s : State) : State :=
  match tget? (getPort s p).outst t with
  | none => s
  | some (r, _) =>
    if !r.write || decide (2 < stat) then s
    else retireTag p t (if stat = 1 then denyReq r s else s)

/-- M_WRITE_COMPLETION (R448). -/
def execMWriteCompletion (port : Fin 12) (tag : Fin 1024) (stat : Fin 4) (s : State) : Result :=
  live (takeCompletion port.val tag.val stat.val) s

/-- Credits come back, never above the limit (R447). -/
def addCredits (p q w : Nat) (s : State) : State :=
  modPort p (fun x => { x with qcred := Nat.min portLimit (x.qcred + q), wcred := Nat.min portLimit (x.wcred + w) }) s

/-- M_CREDIT_RETURN (R447). The surroundings return credits as soon as reset is released. -/
def execMCreditReturn (port : Fin 12) (q w : Fin 5) (s : State) : Result := running (addCredits port.val q.val w.val) s

end Sys2Proof.Machine
end

