-- ==== Sys2Proof/Machine/Reset.lean ====
section
/-!
DEFINITION. Reset, start-up and power (R435 to R440, R404 to R408, R462), and test access (R465, R466, R507, R508).
-/
namespace Sys2Proof.Machine

/-! Start-up (R438). -/

/-- Whether an image of the firmware range passes R408: its version and measurement are kept, and whether the test key
signed it (R377, R380, R482). A failure leaves its cores in reset and READY unset. -/
def acceptImage (kind : Nat) (s : State) : State :=
  if s.sys.phase != .startUp then s
  else
    let a := imageAddr s kind
    let h := leNat (imageHead s a)
    let s1 := mQueue false 0 true 0 a (512 + bits h 96 32) s
    match imageCheck s kind a with
    | some n =>
      let s2 := fwFail kind n ((coresOf kind).headD 0) s1
      { s2 with sys := { s2.sys with
          phase := .failed, coreSts := (coresOf kind).foldl (fun t c => tset t c 2) s2.sys.coreSts } }
    | none =>
      { s1 with sys := { s1.sys with
          fwver := tset s1.sys.fwver kind (BitVec.ofNat 32 (bits h 64 32)), imageHash := tset s1.sys.imageHash kind (measurement s a)
          testKeyUsed := s1.sys.testKeyUsed || bits h 36 4 == 1 } }

/-- Cores begin to run. -/
def runCores (cs : List Nat) (s : State) : State :=
  { s with sys := { s.sys with coreSts := cs.foldl (fun t c => tset t c 0) s.sys.coreSts } }

/-- Bit 1 of fuse word 18: the instance is fused off (R462). -/
def fusedOff (s : State) : Bool := (fuseWord s 18).testBit 1

/-- The fused coefficients of R417 come into force (R424, R438, R486). -/
def loadFused (s : State) : State :=
  { s with power := { s.power with coefs := (List.range 4).map (fusedValue s), fused := 0xF } }

/-- RST_N rises: straps are sampled, the coefficients take their fused values, F_LOCK is asserted once the ROM has
read the fuses, and Lodge's image is checked and released (R404, R436, R438, R462). -/
def rstRises (mode : Nat) (fwBase : BitVec 28) (s : State) : State :=
  if s.sys.phase != .inReset then s
  else
    let s1 := loadFused { s with
      sys := { s.sys with phase := .startUp, mode := mode, startMode := mode, fwBase := fwBase.toNat } }
    if fusedOff s then { s1 with sys := { s1.sys with phase := .failed } }
    else
      let s2 := acceptImage 1 s1
      if s2.sys.phase != .startUp then s2
      else
        let s3 := runCores [0] s2
        { s3 with sys := { s3.sys with fLock := true } }

/-- RST_N_RISE (R438). -/
def execRstNRise (mode : Fin 4) (fwBase : BitVec 28) (s : State) : Result := always (rstRises mode.val fwBase) s

/-- Lodge's copy of an image (R380, R437). -/
def copyImage (s : State) (kind : Nat) : State :=
  let bs := imageHead s (imageAddr s kind) ++ imageBody s (imageAddr s kind)
  mQueue true 0 true 0 (copyAddr s kind) bs.length (extPut 0 (copyAddr s kind) bs [] false s)

/-- Certificate positions 1 and 2 against the root hash: a failure leaves attestation unavailable (R405, R482). -/
def checkCerts (s : State) : State :=
  let ok1 := Config.chainOk (s.ext.certs.take 2)
  let ok2 := Config.chainOk (s.ext.certs.take 3)
  let s1 := if !ok1 then fwFail 0 8 0 s else if !ok2 then fwFail 0 9 0 s else s
  { s1 with sys := { s1.sys with certsOk := ok1 && ok2 } }

/-- The rest of start-up: images 2 to 4 and their copies, certificates, every core and the budget that waited for
Pumphouse, the Terrace's initialisation, the capability list and READY (R230, R438). -/
def startUp (s : State) : State :=
  if s.sys.phase != .startUp then s
  else
    let s1 := acceptImage 4 (acceptImage 3 (acceptImage 2 s))
    if s1.sys.phase != .startUp then s1
    else
      let s2 := checkCerts ([1, 2, 3, 4].foldl copyImage s1)
      let s3 := adoptWaiting (runCores ((List.range 18).map (· + 1)) s2)
      { s3 with
        ter := Terrace.empty
        sys := { s3.sys with phase := .up, capv := true }
        mgmt := { s3.mgmt with ready := true } }

/-- START_UP_READY (R438). -/
def execStartUpReady (s : State) : Result := always startUp s

/-! Reset and power removal (R439, R440). -/

/-- The bytes of stack and host memory that jobs, collectives, appends and landings are writing, as (space, first byte,
length). -/
def writingNow (s : State) : List (Nat × Nat × Nat) :=
  let outside (ls : List Loc) : List (Nat × Nat × Nat) :=
    (ls.filter (fun l => l.1 == 1 || l.1 == 2)).map (fun l => (l.1 - 1, l.2.1, l.2.2))
  let jobs := (s.jobs.filter (fun j => j.fault.isNone)).flatMap (fun j =>
    (j.desc.streams.filter (fun x => isDest x.use)).flatMap (fun x => outside (wholeLocs s j.ctx j.desc.epoch0 x)))
  let colls := (s.band.slots.filter (fun e => e.2.ended.isNone)).flatMap (fun e =>
    match getComm s e.2.cid with
    | none => []
    | some c => (((collRanges c e.2).drop 1).filter (fun r => r.1 == 1 && r.2.1 != e.2.auxIn)).map (fun r => (0, r.2.1, r.2.2)))
  let appends := s.ctxs.flatMap (fun e => (e.2.altWait.toList).flatMap (fun a =>
    (0, seqDescAddr s a.seq, 64) :: a.swaps.flatMap (fun w =>
      [(0, w.1, 8), (0, plotAt s w.2.2, classBytes (plotCls w.2.2))])))
  let lands := s.prom.landing.filterMap (fun w =>
    if (tget (getCtx s w.ctx).landing w.lid Landing.absent).place = 0 then none else some (0, landAt s w.hdr, chLen w.hdr))
  jobs ++ colls ++ appends ++ lands

/-- Free bytes in a range (log entry 2). -/
def scramble (s : State) (r : Nat × Nat × Nat) : State :=
  let (bs, s1) := freeBytes r.2.2 s
  setExtMem r.1 (memWrite (extMem s r.1) r.2.1 bs) s1

/-- Every piece of state is lost; what was being written is undefined, and the surroundings, what has left the ports
and the waiting commands stay (R439, R440). -/
def loseState (s : State) : State :=
  let s1 := (writingNow s).foldl scramble s
  { State.reset with ext := s1.ext, jtag := s1.jtag, out := s1.out, free := s1.free, pending := s1.pending }

/-- RST_N_ASSERT (R439). -/
def execRstNAssert (s : State) : Result := always loseState s

/-- POWER_REMOVAL (R440). -/
def execPowerRemoval (s : State) : Result := always (fun s => { loseState s with jtag := Jtag.reset }) s

/-! The test access port (R465, R466). -/

/-- Instructions of the port (R465). The codes of its register are not given (log entry 4). -/
def irBypass : Nat := 1
def irSample : Nat := 2
def irExtest : Nat := 3
def irIdcode : Nat := 4
def irIjtag : Nat := 5

/-- Test mode (R466). -/
def inTestMode (s : State) : Bool := s.sys.mode == 2

/-- An instruction is selected. -/
def selectIr (ir : Nat) (wrapper net : Bool) (s : State) : State :=
  { s with jtag := { s.jtag with instrReg := ir, wrapperOn := wrapper, netOn := net } }

/-- TRST_N: the test access port alone is reset (R435). -/
def execTrstN (s : State) : Result := always (selectIr irIdcode false false) s

/-- BYPASS (R465). -/
def execBypass (s : State) : Result := always (selectIr irBypass false false) s

/-- SAMPLE/PRELOAD puts values into the wrapper cells (R465). -/
def execSamplePreload (cells : List Bool) (s : State) : Result :=
  always (fun s => let s1 := selectIr irSample false false s; { s1 with jtag := { s1.jtag with cells := cells } }) s

/-- EXTEST acts as SAMPLE/PRELOAD outside test mode (R466). -/
def execExtest (s : State) : Result :=
  always (fun s => if inTestMode s then selectIr irExtest true false s else selectIr irSample false false s) s

/-- IDCODE reads 30A3_D1EFh (R465). -/
def execIdcode (s : State) : Result :=
  always (fun s =>
    let s1 := selectIr irIdcode false false s
    emit (.tdo 0x30A3D1EF) { s1 with jtag := { s1.jtag with dr := 0x30A3D1EF } }) s

/-- IJTAG_SEL acts as BYPASS outside test mode (R466). -/
def execIjtagSel (s : State) : Result :=
  always (fun s => if inTestMode s then selectIr irIjtag false true s else selectIr irBypass false false s) s

/-! Instruments (R507, R508). -/

/-- An instrument runs through the network in test mode: its result stands, and every piece of state of R440 is
destroyed. -/
def runInstrument (k : Nat) (pass : Bool) (count : Nat) (s : State) : State :=
  if !s.jtag.netOn || !inTestMode s || s.sys.phase == .inReset then s
  else
    let s1 := loseState s
    { s1 with
      sys := { s1.sys with phase := .destroyed, mode := s.sys.mode }
      jtag := { s.jtag with results := tset s.jtag.results k (pass, Nat.min count 0xFFFF) } }

/-- A memory test or loopback: PASS when no location fails. -/
def countTest (k fails : Nat) (s : State) : Result := always (runInstrument k (fails == 0) fails) s

/-- MBIST_TER (R507). -/
def execMbistTer (fails : Nat) (s : State) : Result := countTest 0 fails s

/-- MBIST_ACC (R507). -/
def execMbistAcc (fails : Nat) (s : State) : Result := countTest 1 fails s

/-- MBIST_FW (R507). -/
def execMbistFw (fails : Nat) (s : State) : Result := countTest 2 fails s

/-- LBIST compares a signature (R507). What it counts when the signature differs is not given: a free value (log entry
2). -/
def execLbist (sigGood : Bool) (s : State) : Result :=
  always (fun s =>
    if sigGood then runInstrument 3 true 0 s
    else
      let (w, s1) := takeFree s
      runInstrument 3 false (w.toNat % 65536) s1) s

/-- LOOP_L (R507). -/
def execLoopL (group : Fin 4) (fails : Nat) (s : State) : Result := countTest (4 + group.val) fails s

/-- LOOP_G (R507). -/
def execLoopG (g : Fin 4) (fails : Nat) (s : State) : Result := countTest (8 + g.val) fails s

end Sys2Proof.Machine
end

