-- ==== Sys2Proof/Machine/Restart.lean ====
section
/-!
DEFINITION. The end of a core's restart (R380 to R383, R415): what waited for the core.
-/
namespace Sys2Proof.Machine

/-- Lodge takes a message that waited for it (R381). -/
def lodgeTake (src : UPath) (s : State) : LodgeMsg → State
  | .kx1 body => takeKx1 src body s
  | .kx2 body chain sig => takeKx2 src body chain sig s
  | .kx3 chain sig => takeKx3 src chain sig s
  | .kdone => takeKdone src s
  | .kretire body => takeKretire src body s
  | .kfail => failShake src s
  | .gchal hdr nonce =>
    match namedGrove s hdr with
    | none => s
    | some g => takeGchal src nonce g s
  | .gconf hdr chain sig =>
    match namedGrove s hdr with
    | none => s
    | some g => takeGconf src chain sig g s

/-- Lodge returns: handshakes that a peer has ended fail, the others restart from KX1, the messages that waited are
taken in order, and then the restarts of other cores begin (R381, R383, R415). -/
def lodgeBack (s : State) : State :=
  let ends (e : UPath × LodgeMsg) : Bool := e.2 == .kfail
  let q := s.sys.lodgeQ
  let s1 := (q.filter ends).foldl (fun s e => lodgeTake e.1 s e.2) { s with sys := { s.sys with lodgeQ := [] } }
  releaseWaiting ((q.filter (fun e => !ends e)).foldl (fun s e => lodgeTake e.1 s e.2) (restartShakes s1))

/-- What a core does once it has returned: Lodge runs its handshakes and the waiting restarts, Pumphouse takes the
budget that waited, a Kiosk drains its Pavilion's queue (R381, R383, R415). -/
def coreBack (c : Nat) (s : State) : State :=
  if c = 0 then lodgeBack s
  else if c = 1 then adoptWaiting s
  else if 3 ≤ c then modPav (c - 3) (fun v => { v with kq := 0 }) s
  else s

/-- The end of a restart: a copy that fails its check leaves the core in reset with FW_FAIL (R380). -/
def restartDone (c : Nat) (s : State) : State :=
  if coreState s c != 1 then s
  else if !copyOk s (kindOf c) then endRestart c stFW_FAIL (fwFail (kindOf c) 7 c (setCore c 2 s))
  else
    let s1 := traceEv 5 2 0 0 0 c (tget s.sys.coreCause c 0) (setCore c 0 s)
    endRestart c stOK (coreBack c s1)

/-- CORE_RESTART_COMPLETE (R380). -/
def execCoreRestartComplete (core : Fin 19) (s : State) : Result := live (restartDone core.val) s

end Sys2Proof.Machine
end

