-- ==== Sys2Proof/Machine/Dispatch.lean ====
section
/-!
DEFINITION. The meaning of every command: one arm per constructor, in the table's order.
-/
namespace Sys2Proof.Machine

def exec (i : Instr) (s : State) : Host.Outcome State Fault Refusal :=
  match i with
  | .jobSubmit c => Sys2Proof.Machine.execJobSubmit c s
  | .ctxResume c => Sys2Proof.Machine.execCtxResume c s
  | .logRead c => Sys2Proof.Machine.execLogRead c s
  | .regionSet c => Sys2Proof.Machine.execRegionSet c s
  | .winOpen c => Sys2Proof.Machine.execWinOpen c s
  | .winClose c => Sys2Proof.Machine.execWinClose c s
  | .windowCloseComplete w => Sys2Proof.Machine.execWindowCloseComplete w s
  | .angleSet c => Sys2Proof.Machine.execAngleSet c s
  | .roleLoad c => Sys2Proof.Machine.execRoleLoad c s
  | .landSet c => Sys2Proof.Machine.execLandSet c s
  | .altQuota c => Sys2Proof.Machine.execAltQuota c s
  | .terGroupMode c => Sys2Proof.Machine.execTerGroupMode c s
  | .seqCreate c => Sys2Proof.Machine.execSeqCreate c s
  | .seqAppend c => Sys2Proof.Machine.execSeqAppend c s
  | .copyOnWriteSwap c => Sys2Proof.Machine.execCopyOnWriteSwap c s
  | .seqFork c => Sys2Proof.Machine.execSeqFork c s
  | .seqTruncate c => Sys2Proof.Machine.execSeqTruncate c s
  | .seqFree c => Sys2Proof.Machine.execSeqFree c s
  | .plotPin c => Sys2Proof.Machine.execPlotPin c s
  | .plotUnpin c => Sys2Proof.Machine.execPlotUnpin c s
  | .collLaunch c => Sys2Proof.Machine.execCollLaunch c s
  | .bandDigest c => Sys2Proof.Machine.execBandDigest c s
  | .attach => Sys2Proof.Machine.execAttach s
  | .detach => Sys2Proof.Machine.execDetach s
  | .ctxCreate => Sys2Proof.Machine.execCtxCreate s
  | .ctxDestroy => Sys2Proof.Machine.execCtxDestroy s
  | .ctxReattach => Sys2Proof.Machine.execCtxReattach s
  | .altConfig => Sys2Proof.Machine.execAltConfig s
  | .bandConfig => Sys2Proof.Machine.execBandConfig s
  | .commCreate => Sys2Proof.Machine.execCommCreate s
  | .commDestroy => Sys2Proof.Machine.execCommDestroy s
  | .groveSetPath => Sys2Proof.Machine.execGroveSetPath s
  | .groveForm => Sys2Proof.Machine.execGroveForm s
  | .groveDissolve => Sys2Proof.Machine.execGroveDissolve s
  | .seqAdopt => Sys2Proof.Machine.execSeqAdopt s
  | .seqRelease => Sys2Proof.Machine.execSeqRelease s
  | .modeSet => Sys2Proof.Machine.execModeSet s
  | .coreRestart => Sys2Proof.Machine.execCoreRestart s
  | .mregRead => Sys2Proof.Machine.execMregRead s
  | .mregWrite => Sys2Proof.Machine.execMregWrite s
  | .spdm => Sys2Proof.Machine.execSpdm s
  | .doorbellWrite m hi v be => Sys2Proof.Machine.execDoorbellWrite m hi v be s
  | .mhb v => Sys2Proof.Machine.execMhb v s
  | .mcfgWrite v be => Sys2Proof.Machine.execMcfgWrite v be s
  | .coreRst v be => Sys2Proof.Machine.execCoreRst v be s
  | .pathEnable p v be => Sys2Proof.Machine.execPathEnable p v be s
  | .pathDisable p v be => Sys2Proof.Machine.execPathDisable p v be s
  | .pathRstoreWrite p v be => Sys2Proof.Machine.execPathRstoreWrite p v be s
  | .ctxswCfgWrite hi v be => Sys2Proof.Machine.execCtxswCfgWrite hi v be s
  | .errMaskWrite v be => Sys2Proof.Machine.execErrMaskWrite v be s
  | .traceCfgWrite v be => Sys2Proof.Machine.execTraceCfgWrite v be s
  | .perfSelWrite p k v be => Sys2Proof.Machine.execPerfSelWrite p k v be s
  | .dbgTdataRead => Sys2Proof.Machine.execDbgTdataRead s
  | .registerWrite word v be => Sys2Proof.Machine.execRegisterWrite word v be s
  | .programStart p => Sys2Proof.Machine.execProgramStart p s
  | .commandDispatch p => Sys2Proof.Machine.execCommandDispatch p s
  | .load p q => Sys2Proof.Machine.execLoad p q s
  | .mma p q arr => Sys2Proof.Machine.execMma p q arr s
  | .drain p q => Sys2Proof.Machine.execDrain p q s
  | .epi p q => Sys2Proof.Machine.execEpi p q s
  | .accw p q => Sys2Proof.Machine.execAccw p q s
  | .part p q => Sys2Proof.Machine.execPart p q s
  | .comb p q => Sys2Proof.Machine.execComb p q s
  | .maxc p q => Sys2Proof.Machine.execMaxc p q s
  | .fin p q => Sys2Proof.Machine.execFin p q s
  | .setq p q => Sys2Proof.Machine.execSetq p q s
  | .dpro p q => Sys2Proof.Machine.execDpro p q s
  | .rowp p q => Sys2Proof.Machine.execRowp p q s
  | .pref p q => Sys2Proof.Machine.execPref p q s
  | .zacc p q arr => Sys2Proof.Machine.execZacc p q arr s
  | .flagclr p q => Sys2Proof.Machine.execFlagclr p q s
  | .tokadd p q => Sys2Proof.Machine.execTokadd p q s
  | .wait p q => Sys2Proof.Machine.execWait p q s
  | .loop p q => Sys2Proof.Machine.execLoop p q s
  | .epoch p q => Sys2Proof.Machine.execEpoch p q s
  | .leave p q => Sys2Proof.Machine.execLeave p q s
  | .end_ p q => Sys2Proof.Machine.execEnd p q s
  | .commandRetire p q num => Sys2Proof.Machine.execCommandRetire p q num s
  | .remoteTokenArrival c role repoch tok inc srole supath => Sys2Proof.Machine.execRemoteTokenArrival c role repoch tok inc srole supath s
  | .waitTimeout p q queue => Sys2Proof.Machine.execWaitTimeout p q queue s
  | .jobComplete c jobseq => Sys2Proof.Machine.execJobComplete c jobseq s
  | .completionRecordWrite m => Sys2Proof.Machine.execCompletionRecordWrite m s
  | .irqVectorSend => Sys2Proof.Machine.execIrqVectorSend s
  | .suspend p q => Sys2Proof.Machine.execSuspend p q s
  | .resume p => Sys2Proof.Machine.execResume p s
  | .passCheck p q arr good => Sys2Proof.Machine.execPassCheck p q arr good s
  | .xNarrowRead port c word tag => Sys2Proof.Machine.execXNarrowRead port c word tag s
  | .xNarrowWrite port c word tag widx gen data be => Sys2Proof.Machine.execXNarrowWrite port c word tag widx gen data be s
  | .xBlockRead port c line lines tag => Sys2Proof.Machine.execXBlockRead port c line lines tag s
  | .xBlockWrite port c line tag widx gen data be => Sys2Proof.Machine.execXBlockWrite port c line tag widx gen data be s
  | .patrolScrub slice bank => Sys2Proof.Machine.execPatrolScrub slice bank s
  | .secdedWriteback slice bank => Sys2Proof.Machine.execSecdedWriteback slice bank s
  | .plotPrefetch p q => Sys2Proof.Machine.execPlotPrefetch p q s
  | .chunkSend stag => Sys2Proof.Machine.execChunkSend stag s
  | .linkFlitReceive port flit => Sys2Proof.Machine.execLinkFlitReceive port flit s
  | .chunkArrival port hdr => Sys2Proof.Machine.execChunkArrival port hdr s
  | .chunkRetire port hdr stream => Sys2Proof.Machine.execChunkRetire port hdr stream s
  | .credit port supath rec => Sys2Proof.Machine.execCredit port supath rec s
  | .cack rec => Sys2Proof.Machine.execCack rec s
  | .bounceReceive hdr rxEpoch => Sys2Proof.Machine.execBounceReceive hdr rxEpoch s
  | .chunkTimeout stag => Sys2Proof.Machine.execChunkTimeout stag s
  | .laneLockGain p lanes => Sys2Proof.Machine.execLaneLockGain p lanes s
  | .laneLockLoss lane => Sys2Proof.Machine.execLaneLockLoss lane s
  | .trainTimeout p skew => Sys2Proof.Machine.execTrainTimeout p skew s
  | .helloResend port => Sys2Proof.Machine.execHelloResend port s
  | .hello port body => Sys2Proof.Machine.execHello port body s
  | .helloAck port body => Sys2Proof.Machine.execHelloAck port body s
  | .helloTimeout port => Sys2Proof.Machine.execHelloTimeout port s
  | .secureTimeout p => Sys2Proof.Machine.execSecureTimeout p s
  | .retrainTimeout port => Sys2Proof.Machine.execRetrainTimeout port s
  | .gUpRise g => Sys2Proof.Machine.execGUpRise g s
  | .gUpFall g => Sys2Proof.Machine.execGUpFall g s
  | .ghello src hdr crc ninst kind => Sys2Proof.Machine.execGhello src hdr crc ninst kind s
  | .gchal src hdr nonce => Sys2Proof.Machine.execGchal src hdr nonce s
  | .gconf src hdr chain sig => Sys2Proof.Machine.execGconf src hdr chain sig s
  | .gformed src hdr ninst cert => Sys2Proof.Machine.execGformed src hdr ninst cert s
  | .gfail src hdr status member => Sys2Proof.Machine.execGfail src hdr status member s
  | .ghb src hdr => Sys2Proof.Machine.execGhb src hdr s
  | .ghbSend => Sys2Proof.Machine.execGhbSend s
  | .gfwd src hdr member kind c msg rest => Sys2Proof.Machine.execGfwd src hdr member kind c msg rest s
  | .greport src hdr member kind c body => Sys2Proof.Machine.execGreport src hdr member kind c body s
  | .gack src hdr gseq => Sys2Proof.Machine.execGack src hdr gseq s
  | .gackSend peer => Sys2Proof.Machine.execGackSend peer s
  | .memberLost peer => Sys2Proof.Machine.execMemberLost peer s
  | .groveIncomplete => Sys2Proof.Machine.execGroveIncomplete s
  | .kx1 src body => Sys2Proof.Machine.execKx1 src body s
  | .kx2 src body chain sig => Sys2Proof.Machine.execKx2 src body chain sig s
  | .kx3 src chain sig => Sys2Proof.Machine.execKx3 src chain sig s
  | .kdone src body => Sys2Proof.Machine.execKdone src body s
  | .kretire src body => Sys2Proof.Machine.execKretire src body s
  | .kfail src body => Sys2Proof.Machine.execKfail src body s
  | .handshakeTimeout peer => Sys2Proof.Machine.execHandshakeTimeout peer s
  | .bandJoin port src hdr => Sys2Proof.Machine.execBandJoin port src hdr s
  | .bandData port src hdr stream => Sys2Proof.Machine.execBandData port src hdr stream s
  | .bandResult port src hdr stream => Sys2Proof.Machine.execBandResult port src hdr stream s
  | .bandReady port src hdr => Sys2Proof.Machine.execBandReady port src hdr s
  | .bandDecide port src hdr => Sys2Proof.Machine.execBandDecide port src hdr s
  | .bandAbort port src hdr => Sys2Proof.Machine.execBandAbort port src hdr s
  | .bandBusy port src hdr => Sys2Proof.Machine.execBandBusy port src hdr s
  | .bandMap port src hdr stream => Sys2Proof.Machine.execBandMap port src hdr stream s
  | .joinRetry slot rank => Sys2Proof.Machine.execJoinRetry slot rank s
  | .pendingExpiry cid seq rank => Sys2Proof.Machine.execPendingExpiry cid seq rank s
  | .bandSourceRead slot k => Sys2Proof.Machine.execBandSourceRead slot k s
  | .bandNodeEvaluate slot stage => Sys2Proof.Machine.execBandNodeEvaluate slot stage s
  | .deadlineExpiry slot stage => Sys2Proof.Machine.execDeadlineExpiry slot stage s
  | .collTimeout slot => Sys2Proof.Machine.execCollTimeout slot s
  | .outputChunkRetire slot k => Sys2Proof.Machine.execOutputChunkRetire slot k s
  | .digestFold cid => Sys2Proof.Machine.execDigestFold cid s
  | .budget w => Sys2Proof.Machine.execBudget w s
  | .meas w => Sys2Proof.Machine.execMeas w s
  | .aclkf w => Sys2Proof.Machine.execAclkf w s
  | .aclkReqRise => Sys2Proof.Machine.execAclkReqRise s
  | .aclkReqFall => Sys2Proof.Machine.execAclkReqFall s
  | .leaveGrant => Sys2Proof.Machine.execLeaveGrant s
  | .powerLoop => Sys2Proof.Machine.execPowerLoop s
  | .thermalLoop => Sys2Proof.Machine.execThermalLoop s
  | .fcst => Sys2Proof.Machine.execFcst s
  | .temp n => Sys2Proof.Machine.execTemp n s
  | .status => Sys2Proof.Machine.execStatus s
  | .sensorRead n reading invalid => Sys2Proof.Machine.execSensorRead n reading invalid s
  | .watchdogExpiry core => Sys2Proof.Machine.execWatchdogExpiry core s
  | .coreRestartComplete core => Sys2Proof.Machine.execCoreRestartComplete core s
  | .heartbeatDeadline => Sys2Proof.Machine.execHeartbeatDeadline s
  | .graceExpiry c => Sys2Proof.Machine.execGraceExpiry c s
  | .mRequestIssue port => Sys2Proof.Machine.execMRequestIssue port s
  | .mReadData port tag beat data pois stat => Sys2Proof.Machine.execMReadData port tag beat data pois stat s
  | .mWriteCompletion port tag stat => Sys2Proof.Machine.execMWriteCompletion port tag stat s
  | .mCreditReturn port q w => Sys2Proof.Machine.execMCreditReturn port q w s
  | .rstNRise mode fwBase => Sys2Proof.Machine.execRstNRise mode fwBase s
  | .startUpReady => Sys2Proof.Machine.execStartUpReady s
  | .rstNAssert => Sys2Proof.Machine.execRstNAssert s
  | .trstN => Sys2Proof.Machine.execTrstN s
  | .bypass => Sys2Proof.Machine.execBypass s
  | .samplePreload cells => Sys2Proof.Machine.execSamplePreload cells s
  | .extest => Sys2Proof.Machine.execExtest s
  | .idcode => Sys2Proof.Machine.execIdcode s
  | .ijtagSel => Sys2Proof.Machine.execIjtagSel s
  | .mbistTer fails => Sys2Proof.Machine.execMbistTer fails s
  | .mbistAcc fails => Sys2Proof.Machine.execMbistAcc fails s
  | .mbistFw fails => Sys2Proof.Machine.execMbistFw fails s
  | .lbist sigGood => Sys2Proof.Machine.execLbist sigGood s
  | .loopL group fails => Sys2Proof.Machine.execLoopL group fails s
  | .loopG g fails => Sys2Proof.Machine.execLoopG g fails s
  | .powerRemoval => Sys2Proof.Machine.execPowerRemoval s
  | .pathIdentityKeyConfirm p => Sys2Proof.Machine.execPathIdentityKeyConfirm p s

end Sys2Proof.Machine
end

