-- ==== Sys2Proof/Certificates/Slice0/Obligations.lean ====
section
/-!
DEFINITION. The statements for the provers. Each names the rules of spec/ that it rests on; a clause that rests on a
choice of the model names its log entry.
-/
namespace Sys2Proof.Claims
open Sys2Proof.Machine

/-- The instance is up: start-up has ended (R438) and no test has destroyed its state (R508). -/
abbrev Up (s : State) : Prop := s.sys.phase = .up

/-- The instance is out of reset and no test has destroyed its state (R438, R440, R508). -/
abbrev OutOfReset (s : State) : Prop := s.sys.phase ≠ .inReset ∧ s.sys.phase ≠ .destroyed

/-- The message that stands first on ring c is command o, passes the checks of R357, and no other member of a grove
takes part in it (R341 to R343). -/
abbrev Accepted (s : State) (c o : Nat) (h : HeadMsg) : Prop :=
  Up s ∧ headMsg s c = some h ∧ h.msg.opc = o ∧ msgCheck s c h = none ∧ forwardTo s c h.msg = []

/-- Ring c of t stands past the message h of s and has its record queued last, with this STATUS and body (R351, R361,
R362). -/
abbrev Answered (s t : State) (c : Nat) (h : HeadMsg) (st body : Nat) : Prop :=
  (ringAt t c).sqHead = (h.pos + h.units) % 2 ^ 24 ∧
    (ringAt t c).held = (ringAt s c).held ++
      [mkRec h.msg.gen (recKind (c == mgmtCtx) h.msg.opc) st h.msg.tag body]

/-- Ring c of t stands past the message h of s, whose record comes later (R351, R361). -/
abbrev Taken (s t : State) (c : Nat) (h : HeadMsg) : Prop :=
  (ringAt t c).sqHead = (h.pos + h.units) % 2 ^ 24 ∧ (ringAt t c).held = (ringAt s c).held

/-- Bits [lo + w − 1 : lo] of a message (R352). -/
abbrev arg (h : HeadMsg) (lo w : Nat) : Nat := bits h.msg.bits.toNat lo w

/-- The three memories in their canonical form: addresses rise strictly and no zero byte is listed. -/
abbrev MemoriesCanonical (s : State) : Prop :=
  Mem.wf s.ter.mem = true ∧ Mem.wf s.ext.stack = true ∧ Mem.wf s.ext.host = true

/-- The head of queue k of the program g that slot q of Pavilion p holds is command c, of opcode o and job j, and
every condition for its issue holds: interlocks, buffers, waits, scoreboard and leave (R181 to R188), and the checks
of R200. -/
abbrev Heads (s : State) (p : PavId) (q : PSlot) (k o : Nat) (g : Prog) (j : Job) (c : QCmd) : Prop :=
  Up s ∧ getProg s p.val q = some g ∧ headOf g k = some c ∧ findJob s g.ctx g.jobseq = some j ∧ g.halted = false ∧
    g.done = false ∧ cOpc c.word.toNat = o ∧ headFree s p.val j g c = true ∧ headWait s p.val j g c = 0 ∧
    oneUser g k c.word.toNat = true ∧ cmdOk j.desc c.word.toNat = true ∧
    cmdAt j.desc (plotImages s g.ctx) c.word.toNat c.regs c.qt = true ∧ masksHold j.desc g.hdr c.word.toNat c.regs = true

/-- Such a head, of which no word of the Pavilion's storage that it meets holds flipped bits (R497). -/
abbrev Ready (s : State) (p : PavId) (q : PSlot) (k o : Nat) (g : Prog) (j : Job) (c : QCmd) : Prop :=
  Heads s p q k o g j c ∧ storeMet s p.val j g c = []

/-- No halt of the context has come in this TCLK; of several the one of the latest key is kept (R502). -/
abbrev FirstHalt (s : State) (c : Nat) : Prop := haltsNow s (getCtx s c) = []

/-- What the meaning of a command answers, run on the program that it has left its queue in. -/
abbrev Meaning (s : State) (p : PavId) (q : PSlot) (k : Nat) (g : Prog) (j : Job) (c : QCmd) (body : Body) :
    Except RFault (List Ev × List Nat) × State :=
  let ls := cmdLines s j g c
  let g1 := takeHead k ⟨c, ls.1, ls.2.1, ls.2.2, cmdEntries s j g c, []⟩ g
  (body ⟨p.val, q, g1, j, c⟩).exec (perfEvent p.val 0x0A 1 (setProg p.val q (some g1) s))

/-- In t the program h of the slot has issued command c, which waits for the chunks of these send-table entries: it
has left its queue, its tokens are consumed, and the program goes on (R181, R183, R184). -/
abbrev IssuedIn (t : State) (p : PavId) (q : PSlot) (k : Nat) (g h : Prog) (c : QCmd) (stags : List Nat) : Prop :=
  getProg t p.val q = some h ∧ (∃ i ∈ h.issued, i.cmd = c ∧ i.chunks = stags) ∧
    tget h.queues k [] = (tget g.queues k []).drop 1 ∧ h.halted = false ∧ h.tpc = g.tpc ∧
    h.tok = (consumeToken c.word.toNat g).tok

/-- The rows of tile commands but END: the command, its queue, its opcode and its meaning (R178). -/
def tileInstrs (p : PavId) (q : PSlot) (arr : Fin 2) : List (Instr × Nat × Nat × Body) :=
  [(.load p q, 3, oLOAD, loadBody), (.mma p q arr, arr.val, oMMA, mmaBody), (.drain p q, 2, oDRAIN, drainBody),
    (.epi p q, 2, oEPI, epiBody), (.accw p q, 3, oACCW, accwBody), (.part p q, 3, oPART, partBody),
    (.comb p q, 2, oCOMB, combBody), (.maxc p q, 2, oMAXC, maxcBody), (.fin p q, 2, oFIN, finBody),
    (.setq p q, 2, oSETQ, setqBody), (.dpro p q, 2, oDPRO, dproBody), (.rowp p q, 2, oROWP, rowpBody),
    (.pref p q, 3, oPREF, prefBody), (.zacc p q arr, arr.val, oZACC, zaccBody), (.flagclr p q, 4, oFLAGCLR, flagclrBody),
    (.tokadd p q, 4, oTOKADD, noBody), (.wait p q, 4, oWAIT, noBody), (.loop p q, 4, oLOOP, noBody),
    (.epoch p q, 4, oEPOCH, epochBody), (.leave p q, 4, oLEAVE, leaveBody)]

/-- Every stream of the job whose USE is not among these lies in stack or host memory, and the surroundings deny nothing
and hold no poisoned word: its reads and writes are answered (R174, R393, R501). -/
abbrev Served (s : State) (d : Desc) (but : List Nat) : Prop :=
  s.ext.deny = [] ∧ s.ext.stackPoison = [] ∧ s.ext.hostPoison = [] ∧
    ∀ x ∈ d.streams, x.use ∉ but → x.space = 1 ∨ x.space = 4

/-- No code of the stream's format stands for a value that exceeds the stream's declared bound (R35). -/
abbrev Bounded (x : Stream) : Prop :=
  isMx x.fmt = false ∧ ∀ n, n < 2 ^ streamBits x → ((fmtOf x.fmt).val n).dv.exceeds x.xbnd = false

/-- Rows r0 to r0 + n − 1 of a Terrace stream of A64 words lie in the context's view, and no word of the Terrace is
poisoned, flipped or unfilled (R207, R216, R229). -/
abbrev WordsStand (s : State) (c : Nat) (d : Desc) (x : Stream) (r0 n : Nat) : Prop :=
  x.space = 0 ∧ s.ter.poison = [] ∧ s.ter.flips = [] ∧ s.ter.unfilled = [] ∧ 8 * rowElems d x ≤ unitStride d x ∧
    x.base + (r0 + n) * unitStride d x ≤ viewLen (getCtx s c).regions

/-- The row runs the head command to its issue. -/
abbrev Issues (s : State) (i : Instr) (p : PavId) (q : PSlot) (k : Nat) (g : Prog) (c : QCmd) : Prop :=
  ∃ (t : State) (h : Prog) (stags : List Nat), exec i s = .next t ∧ IssuedIn t p q k g h c stags

/-- The byte at physical offset a of the Terrace lies outside every region of context c (R205). -/
abbrev OutsideRegions (s : State) (c a : Nat) : Prop :=
  ∀ e ∈ (getCtx s c).regions, ¬ (e.2.base4k * 4096 ≤ a ∧ a < e.2.base4k * 4096 + e.2.len4k * 4096)

/-- The pools give plots of these classes: their reference counts stand in ranges of their own, and each class has as
many plots of count 0 as the list names, no word of the stack poisoned (R233, R235, R240). -/
abbrev PoolsHold (s : State) (cls : List Nat) : Prop :=
  s.ext.stackPoison = [] ∧ (∀ l ∈ s.ter.lines, l.space = 1) ∧
    (∀ k ∈ cls, byClass s.alt.poolN k ≤ 2 ^ 24 ∧ cls.count k ≤
      ((List.range (byClass s.alt.poolN k)).filter (fun i => plotFree s (k * 2 ^ 24 + i))).length) ∧
    ∀ j ∈ cls, ∀ k ∈ cls, j ≠ k →
      rangesMeet (byClass s.alt.rcBase j) (2 * byClass s.alt.poolN j) (byClass s.alt.rcBase k) (2 * byClass s.alt.poolN k) = false

/-- No context is being freed, so no record's writing ends a destruction (R370). -/
abbrev NoneQuiescing (s : State) : Prop := ∀ e ∈ s.ctxs, e.2.state ≠ .quiescing

/-- Slot i of a collective runs under communicator c, and a Bandstand header names it: its checksum, destination rank
and communicator epoch hold (R304, R323). -/
abbrev BandNamed (s : State) (hdr : BitVec 512) (c : Comm) (i : Nat) (x : Slot) : Prop :=
  Up s ∧ hcrcOk 384 hdr.toNat = true ∧ getComm s (bhCid hdr) = some c ∧ hf hdr 144 15 = c.myrank ∧ c.cepoch = bhEpoch hdr ∧
    slotOf s (bhCid hdr) (bhSeq hdr) = some i ∧ liveSlot s i = some (x, c)

/-- A grove message of a type that the instance takes: in order, of the grove g that it names and of its GEPOCH, from
a peer that is not lost (R336, R337, R345). -/
abbrev GroveTaken (s : State) (src : UPath) (h : BitVec 128) (gtype : Nat) (g : GroveSt) : Prop :=
  Up s ∧ ghType h = gtype ∧ (ghSeq h = 0 ∨ ghSeq h = tget s.grove.rxSeq src.toNat 0 + 1) ∧ namedGrove s h = some g ∧
    g.gepoch = ghEpoch h ∧ peerLost s g src = false

end Sys2Proof.Claims

open Sys2Proof Sys2Proof.Machine Sys2Proof.Claims

/-! The machine as a whole. -/

/-- With command c at the front of the queue, a step is c's own execution with the queue's rest. -/
def Obligations.StepRunsFrontCommand : Prop :=
  ∀ (c : Instr) (rest : List Instr) (s : State),
    step { s with pending := c :: rest } = exec c { s with pending := rest }

/-- No command changes the queue of waiting commands: they run first in, first out. -/
def Obligations.NoCommandChangesQueue : Prop :=
  ∀ (c : Instr) (s t : State), exec c s = .next t → t.pending = s.pending

/-- On an empty queue a TCLK passes: TIME counts by 1 and the ramp allowance rises by RAMP units of 0.5 mA up to RAMP
times 1 µs, and the events of the last TCLK are past (R14), while nothing else changes, but for what Bandstand settles
of the collectives whose deadlines have passed in that TCLK (R328); in reset nothing counts. That a step on an empty
queue is a TCLK is the model's choice (log entry 9). -/
def Obligations.IdleStepCountsTime : Prop :=
  ∀ s : State, s.pending = [] →
    (OutOfReset s → ∃ t : State, t.sys.time = s.sys.time + 1 ∧
      t.power.allowance = Nat.min (2000 * s.power.pRamp) (s.power.allowance + s.power.pRamp) ∧
      t = { s with
        sys := { s.sys with time := t.sys.time, errNow := 0, base := countBase s }
        power := { s.power with allowance := t.power.allowance } } ∧
      ((¬ Up s ∨ s.band.slots = []) → step s = .next t) ∧ (Up s → step s = .next (effect settleBand t))) ∧
    (¬ OutOfReset s → step s = .next s)

/-- While RST_N is low, a command other than the rise of RST_N, the fall of RST_N, power removal and the commands of the
test access port leaves the instance as it is. After a destroying instrument every command of the ports, of the rings
and of the tile programs stops with the fault stateDestroyed, and every other command goes on (R508). -/
def Obligations.ResetAndTestGateCommands : Prop :=
  (∀ (c : Instr) (s : State), s.sys.phase = .inReset →
     (∀ m fb, c ≠ .rstNRise m fb) → c ≠ .rstNAssert → c ≠ .powerRemoval → c ≠ .trstN → c ≠ .bypass →
     (∀ cells, c ≠ .samplePreload cells) → c ≠ .extest → c ≠ .idcode → c ≠ .ijtagSel → (∀ good, c ≠ .lbist good) →
     exec c s = .next s) ∧
  (∀ (c : Instr) (s : State), s.sys.phase = .destroyed →
     exec c s = .fault .stateDestroyed ∨ ∃ t, exec c s = .next t ∧
       ((∃ m fb, c = .rstNRise m fb) ∨ c = .startUpReady ∨ c = .rstNAssert ∨ c = .powerRemoval ∨ c = .trstN ∨ c = .bypass ∨
         (∃ cells, c = .samplePreload cells) ∨ c = .extest ∨ c = .idcode ∨ c = .ijtagSel ∨ (∃ n, c = .mbistTer n) ∨
         (∃ n, c = .mbistAcc n) ∨ (∃ n, c = .mbistFw n) ∨ (∃ good, c = .lbist good) ∨ (∃ g n, c = .loopL g n) ∨
         (∃ g n, c = .loopG g n)))

/-- The memories of the state after reset are in canonical form, and reset is the phase before start-up. -/
def Obligations.ResetMemoriesCanonical : Prop :=
  MemoriesCanonical State.reset ∧ State.reset.sys.phase = .inReset ∧ State.reset.pending = []

/-- Every step keeps the three memories, the Terrace, stack memory and host memory, in canonical form: equal contents
are equal data. -/
def Obligations.EveryStepKeepsMemoriesCanonical : Prop :=
  ∀ s t : State, MemoriesCanonical s → step s = .next t → MemoriesCanonical t

/-- Reading a byte after bytes are written: inside the written range it is the byte written, outside it is the byte that
stood there. An accumulate-write adds an A64 word to the word that stands in the Terrace (R222): two finite words add
modulo 2^64, a tagged word replaces a finite one, every other word and tag stays, and a word that is poisoned, itself or
in the sideband word that holds its tag, stays as it is (R229). -/
def Obligations.MemoryWordsAreWrittenAndAdded : Prop :=
  (∀ (m : Mem) (a : Nat) (bs : List Byte) (x : Nat), Mem.wf m = true →
     memByte (memWrite m a bs) x = (if a ≤ x ∧ x < a + bs.length then bs.getD (x - a) 0 else memByte m x)) ∧
  (∀ (t : Terrace) (w : Nat) (x : AEl), Mem.wf t.mem = true →
     let read (u : Terrace) (k : Nat) : Nat := leNat (memRead u.mem (8 * k) 8)
     (wordBad t w = true → terAddWord w x t = t) ∧
     (wordBad t w = false → tget t.tags w 0 = 0 → x.tag = 0 →
       read (terAddWord w x t) w = (read t w + x.v.toNat) % 2 ^ 64 ∧ tget (terAddWord w x t).tags w 0 = 0) ∧
     (wordBad t w = false → tget t.tags w 0 = 0 → x.tag ≠ 0 → tget (terAddWord w x t).tags w 0 = x.tag) ∧
     (∀ k, k ≠ w → read (terAddWord w x t) k = read t k ∧ tget (terAddWord w x t).tags k 0 = tget t.tags k 0))

/-! Registers of the control window. -/

/-- C-port writes of the rows that name one register, with every byte enabled: each changes its own register and nothing
else. A write of MHB moves the heartbeat deadline (R384); setting EN restarts both management rings at position 0
(R349); CTXSW_CFG is written while no context exists and the save pool that it gives overlaps no other private range
(R394, R396); PERF_SEL selects one counter's event (R489); TRACE_CFG acts in bring-up and test (R494); ERR_MASK masks
(R481). A register write acts on the register at its offset by its access code (R13): a write of ERR_STS clears the bits
written as 1, but for those that an event has set in this TCLK, and leaves every other bit; a write of CES_SEL selects a
context; a write to a context's counts is taken by the context selected, with the events of this TCLK added (R14); a
write to the identification registers, the capability list or Bandstand's status, which are read only, changes nothing.
-/
def Obligations.RegisterRowsWriteTheirRegister : Prop :=
  (∀ (s : State) (v : BitVec 64), OutOfReset s →
     exec (.mhb v) s = .next { s with mgmt := { s.mgmt with hbAt := s.sys.time } } ∧
     (s.mgmt.en = false → v.getLsbD 10 = true →
       ∃ t, exec (.mcfgWrite v 0xFF) s = .next t ∧ t.mgmt.en = true ∧
         t.mgmt.ring = { s.mgmt.ring with sqLog2 := bits v.toNat 0 5, cqLog2 := bits v.toNat 5 5,
                                          sqTail := 0, sqHead := 0, cqHead := 0, cqTail := 0 } ∧
         t = { s with mgmt := { s.mgmt with en := true, ring := t.mgmt.ring } }) ∧
     (exec (.errMaskWrite v 0xFF) s = .next { s with sys := { s.sys with
       errMask := (s.sys.errMask &&& ~~~0x3FFFF#64) ||| (v &&& 0x3FFFF#64) } }) ∧
     (anyContext s = true → exec (.ctxswCfgWrite false v 0xFF) s = .next (setErr 15 s)) ∧
     (anyContext s = false →
       (∀ r ∈ privateRanges { s with sys := { s.sys with ctxswLo := 0, ctxswHi := 0 } },
         rangesMeet (bits s.sys.ctxswHi.toNat 0 52 * 4096) (bits v.toNat 16 9 * 0x200000) r.1 r.2 = false) →
       ∃ t, exec (.ctxswCfgWrite false v 0xFF) s = .next t ∧
         bits t.sys.ctxswLo.toNat 0 16 = bits v.toNat 0 16 ∧ bits t.sys.ctxswLo.toNat 16 9 = bits v.toNat 16 9 ∧
         t = { s with sys := { s.sys with ctxswLo := t.sys.ctxswLo } }) ∧
     (∀ (p : PavId) (k : Fin 8), ∃ t, exec (.perfSelWrite p k v 0xFF) s = .next t ∧
       bits (tget (getPav t p.val).perfSel k.val 0).toNat 0 9 = bits v.toNat 0 9 ∧
       (getPav t p.val).perfCnt = (getPav s p.val).perfCnt ∧ (∀ q, q ≠ p.val → getPav t q = getPav s q) ∧
       t = { s with pavs := t.pavs }) ∧
     ((s.sys.mode = 1 ∨ s.sys.mode = 2) → v.getLsbD 0 = true → s.trace.cfg.getLsbD 0 = false →
       ∃ t, exec (.traceCfgWrite v 0xFF) s = .next t ∧ t.trace.next = 0 ∧ t.trace.wrapped = false ∧
         t.trace.stopped = false ∧ t.trace.cfg.getLsbD 0 = true ∧ t.trace.buf = s.trace.buf ∧ t = { s with trace := t.trace }) ∧
     (s.sys.mode ≠ 1 → s.sys.mode ≠ 2 → exec (.traceCfgWrite v 0xFF) s = .next s)) ∧
  (∀ (s : State) (v : BitVec 64), OutOfReset s →
     (∃ t, exec (.registerWrite 0x800 v 0xFF) s = .next t ∧
       t = { s with sys := { s.sys with errSts := t.sys.errSts } } ∧
       ∀ b, b < 64 → t.sys.errSts.getLsbD b =
         (s.sys.errSts.getLsbD b && !(decide (b < 18) && v.getLsbD b && !s.sys.errNow.getLsbD b))) ∧
     (s.sys.cesSel < 4096 →
       exec (.registerWrite 0x820 v 0xFF) s = .next { s with sys := { s.sys with cesSel := bits v.toNat 0 12 } }) ∧
     (∃ t, exec (.registerWrite 0x824 v 0xFF) s = .next t ∧
       let k := (getCtx s s.sys.cesSel).counts
       let b := tget s.sys.base.ces s.sys.cesSel k
       (getCtx t s.sys.cesSel).counts = { k with
         misroutedIn := Nat.min 0xFFFFFFFF (bits v.toNat 0 32 + (k.misroutedIn - b.misroutedIn))
         sqOvf := Nat.min 0xFFFFFFFF (bits v.toNat 32 32 + (k.sqOvf - b.sqOvf)) }) ∧
     (∀ (w : Fin 524288), (w.val < 0x200 ∨ (0x14000 ≤ w.val ∧ w.val < 0x20000)) → exec (.registerWrite w v 0xFF) s = .next s))

/-- A read of DBG_TDATA in bring-up or test is one narrow access at DBG_TADDR (R494): it latches the word, its poison or
that of its line's sideband word, and whether it was corrected; a word with one flipped bit is corrected and counted in
its slice as by any read (R229). In the other modes nothing happens. The patrol scrubber reads the next line of a bank
and corrects as a read does: a word of the line with one flipped bit is counted and queued for its write-back, a word
with two becomes poisoned and is counted, and the scrubber's place in the bank moves on (R229). The write-back of a
corrected word of a bank then clears its flipped bit. -/
def Obligations.FlippedBitsAreCorrected : Prop :=
  (∀ s : State, OutOfReset s →
     ((s.sys.mode = 1 ∨ s.sys.mode = 2) → s.ter.flips = [(s.ter.dbgAddr / 8, 1)] →
       ∃ t, exec .dbgTdataRead s = .next t ∧
         t.ter.dbgData = BitVec.ofNat 64 (leNat (memRead s.ter.mem (8 * (s.ter.dbgAddr / 8)) 8)) ∧ t.ter.dbgCorr = true ∧
         t.ter.dbgPoison = wordBad s.ter (s.ter.dbgAddr / 8) ∧ t.sys.errSts.getLsbD 3 = true ∧
         t.ter.mem = s.ter.mem ∧ (s.ter.dbgAddr / 8) ∈ t.ter.wback ∧
         tget t.sys.eccCorr (sliceOfWord (s.ter.dbgAddr / 8)) 0 =
           Nat.min (tget s.sys.eccCorr (sliceOfWord (s.ter.dbgAddr / 8)) 0 + 1) 0xFFFFFFFF) ∧
     (s.sys.mode ≠ 1 → s.sys.mode ≠ 2 → exec .dbgTdataRead s = .next s)) ∧
  (∀ (s : State) (slice : Fin 16) (bank : Fin 64), Up s →
     let k := slice.val * 64 + bank.val
     let line := tget s.ter.scrub k 0
     ∃ t, exec (.patrolScrub slice bank) s = .next t ∧ t.ter.mem = s.ter.mem ∧
       tget t.ter.scrub k 0 = (line + 1) % 2048 ∧
       (∀ w n, s.ter.flips = [(w, n)] → wordIn (bankLine slice.val bank.val line) 256 w = true →
         (n = 1 → w ∈ t.ter.wback ∧
           tget t.sys.eccCorr (sliceOfWord w) 0 = Nat.min (tget s.sys.eccCorr (sliceOfWord w) 0 + 1) 0xFFFFFFFF) ∧
         (n = 2 → w ∈ t.ter.poison ∧ t.ter.flips = [] ∧ t.sys.errSts.getLsbD 4 = true ∧
           tget t.sys.eccPois (sliceOfWord w) 0 = Nat.min (tget s.sys.eccPois (sliceOfWord w) 0 + 1) 0xFFFFFFFF)) ∧
       ∃ u, exec (.secdedWriteback slice bank) s = .next u ∧ u.ter.mem = s.ter.mem ∧
         (∀ w, s.ter.wback.find? (fun x => sliceOfWord x == slice.val && bankOfWord x == bank.val) = some w →
           tget? u.ter.flips w = none ∧ w ∉ u.ter.wback))

/-- Writes of PATH_CFG and PATH_RSTORE (R263, R270, R491). On a path whose EN is 0, a write that sets EN with settings
that R262 and R263 allow enters TRAIN, one with other settings enters FAIL with CFG_BAD and sets PATH_FAIL; on a path
whose EN is 1, a write that clears EN brings the path to DOWN; PATH_RSTORE is written while EN is 0 and locked while it
is 1. -/
def Obligations.PathRegistersStartAndStopPaths : Prop :=
  ∀ (s : State) (p : Fin 4) (v : BitVec 64), OutOfReset s →
    let l := getLink s (.path p)
    let l1 := { l with cfg := writeFields pathFields l.cfg v 0xFF }
    (l.en = false → v.getLsbD 0 = true → ∃ t, exec (.pathEnable p v 0xFF) s = .next t ∧
      (getLink t (.path p)).cfg.getLsbD 0 = true ∧
      (cfgBad s p l1 = false → (getLink t (.path p)).state = 1 ∧ t.sys.errSts = s.sys.errSts) ∧
      (cfgBad s p l1 = true → (getLink t (.path p)).state = 6 ∧ (getLink t (.path p)).cause = 1 ∧
        t.sys.errSts.getLsbD 8 = true) ∧
      (∀ q, q ≠ p → getLink t (.path q) = getLink s (.path q))) ∧
    (l.en = true → v.getLsbD 0 = false → ∃ t, exec (.pathDisable p v 0xFF) s = .next t ∧
      (getLink t (.path p)).state = 0 ∧ (getLink t (.path p)).cfg.getLsbD 0 = false ∧
      (∀ q, q ≠ p → getLink t (.path q) = getLink s (.path q))) ∧
    (l.en = false → ∃ t, exec (.pathRstoreWrite p v 0xFF) s = .next t ∧
      bits (getLink t (.path p)).rstore.toNat 0 56 = bits v.toNat 0 56 ∧ (getLink t (.path p)).state = l.state ∧
      (∀ q, q ≠ p → getLink t (.path q) = getLink s (.path q))) ∧
    (l.en = true → exec (.pathRstoreWrite p v 0xFF) s = .next (setErr 15 s))

/-! Power, thermal sensing, clocks, firmware cores. -/

/-- Words on the P-port (R418, R419, R457): a BUDGET word sets budget and cap together, and RAMP unless its field is 0,
and clears NOBUDGET; while Pumphouse does not run the cap alone acts, and the budget waits (R381, R423). An ACLKF word
announces the frequency; a MEAS word sets the measured current and voltage. A word of another type is ignored. The
handshake of an ACLK change (R434): a rise of ACLK_REQ stops dispatch in every Pavilion and raises ACLK_ACK; its fall
puts the announced frequency into force, lowers ACLK_ACK and lets dispatch resume. -/
def Obligations.PortWordsSetBudgetMeasureAndClock : Prop :=
  (∀ (s : State) (w : BitVec 64), OutOfReset s →
     (bits w.toNat 0 4 = 1 → coreState s 1 = 0 → ∃ t, exec (.budget w) s = .next t ∧ t.power.noBudget = false ∧
       t.power.pBudget = bits w.toNat 4 12 ∧ t.power.pCap = bits w.toNat 16 12 ∧ t.power.lastBudget = w ∧
       t.power.pRamp = (if bits w.toNat 28 8 = 0 then s.power.pRamp else bits w.toNat 28 8) ∧
       t.power.allowance ≤ 2000 * t.power.pRamp) ∧
     (bits w.toNat 0 4 = 1 → coreState s 1 ≠ 0 → ∃ t, exec (.budget w) s = .next t ∧ t.power.noBudget = s.power.noBudget ∧
       t.power.pBudget = s.power.pBudget ∧ t.power.pCap = bits w.toNat 16 12 ∧ t.power.pRamp = s.power.pRamp ∧
       ∃ r, t.power.nextBudget = some (bits w.toNat 4 12, r)) ∧
     (bits w.toNat 0 4 ≠ 1 → exec (.budget w) s = .next s) ∧
     (bits w.toNat 0 4 = 2 → ∃ t, exec (.meas w) s = .next t ∧ bits t.power.meas.toNat 0 32 = bits w.toNat 4 32 ∧
       t.power.measAt = some s.sys.time ∧ t.power.pBudget = s.power.pBudget ∧ t.pavs = s.pavs) ∧
     (bits w.toNat 0 4 ≠ 2 → exec (.meas w) s = .next s) ∧
     (bits w.toNat 0 4 = 3 → exec (.aclkf w) s = .next { s with power := { s.power with aclkNext := bits w.toNat 4 12 } }) ∧
     (bits w.toNat 0 4 ≠ 3 → exec (.aclkf w) s = .next s)) ∧
  (∀ s : State, OutOfReset s →
     (s.power.aclkChg = false → ∃ t, exec .aclkReqRise s = .next t ∧
       t = { s with power := { s.power with aclkChg := true }, out := s.out ++ [.aclkAck true] } ∧
       ∀ (p : PavId), Up s → exec (.commandDispatch p) t = .next t) ∧
     (s.power.aclkChg = true → ∃ t, exec .aclkReqFall s = .next t ∧ t.power.aclkChg = false ∧
       t.power.aclkMhz = s.power.aclkNext ∧ .aclkAck false ∈ t.out))

/-- Words that Ixdon sends on the P-port (R425, R458): a TEMP word carries its sensor's reading, a STATUS word THROTTLE,
TRIP, NOBUDGET and the account, an FCST word the forecast, with STALE while Pumphouse restarts. Nothing else changes but
the forecast registers. -/
def Obligations.PortWordsSent : Prop :=
  ∀ s : State, OutOfReset s →
    (∀ n : Fin 24, ∃ w : BitVec 64, exec (.temp n) s = .next { s with out := s.out ++ [.pword w] } ∧
      bits w.toNat 0 4 = 2 ∧ bits w.toNat 4 5 = n.val ∧ bits w.toNat 9 13 = (tget s.power.temps n.val 0).toNat) ∧
    (∃ w : BitVec 64, exec .status s = .next { s with out := s.out ++ [.pword w] } ∧ bits w.toNat 0 4 = 3 ∧
      w.getLsbD 4 = s.power.throttle ∧ w.getLsbD 5 = s.power.trip ∧ w.getLsbD 6 = s.power.noBudget ∧
      bits w.toNat 7 12 = amps (account s)) ∧
    (coreState s 1 = 0 → ∃ (t : State) (w : BitVec 64), exec .fcst s = .next t ∧ t.out = s.out ++ [.pword w] ∧
      bits w.toNat 0 4 = 1 ∧ bits w.toNat 4 12 = t.power.fcstHi ∧ bits w.toNat 16 12 = t.power.fcstExp ∧
      bits w.toNat 28 12 = t.power.fcstLo ∧ w.getLsbD 40 = false ∧ t.power.fcstLo = amps (baseCost s)) ∧
    (coreState s 1 = 1 → s.power.fcstHi < 4096 → s.power.fcstExp < 4096 → s.power.fcstLo < 4096 →
      ∃ w : BitVec 64, exec .fcst s = .next { s with out := s.out ++ [.pword w] } ∧
        bits w.toNat 4 12 = s.power.fcstHi ∧ w.getLsbD 40 = true)

/-- The arbiter (R418 to R420): while NOBUDGET or TRIP reads 1 it grants no class; otherwise, where the account is
within the budget and one Pavilion alone asks for a higher class, the request is granted when the account with it stays
within the budget and the allowance covers its rise, and it consumes that much of the allowance; a request that fails
either test waits. -/
def Obligations.LeaveIsGrantedWithinBudget : Prop :=
  ∀ (s : State) (p : PavId), Up s →
    let v := getPav s p.val
    let rise := classCost s v.leaveReq - classCost s (accountClass s p.val)
    ((s.power.noBudget = true ∨ s.power.trip = true) → exec .leaveGrant s = .next s) ∧
    (s.power.noBudget = false → s.power.trip = false → grantedAccount s ≤ effBudget s → v.leave < v.leaveReq →
      (∀ q, q ≠ p.val → (getPav s q).leaveReq ≤ (getPav s q).leave) →
      ∃ t, exec .leaveGrant s = .next t ∧
        (∀ q, q ≠ p.val → getPav t q = getPav s q) ∧
        (account s + rise ≤ effBudget s → 20 * rise ≤ s.power.allowance →
          (getPav t p.val).leave = v.leaveReq ∧ t.power.allowance = s.power.allowance - 20 * rise ∧
            t.power.lastPav = p.val) ∧
        (effBudget s < account s + rise ∨ s.power.allowance < 20 * rise → t = s))

/-- Pumphouse's thermal loop (R427): with a reading at or above THROTTLE_C the working budget falls by 2% and THROTTLE
reads 1; with every reading below THROTTLE_C − 3 °C it rises by at least 1% up to the P-port's budget, where THROTTLE
reads 0. While Pumphouse does not run nothing happens. That a fall rounds down and a rise rounds up is the model's
choice (log entry 42). Pumphouse's power loop (R423): while THROTTLE reads 0 and a budget has arrived, the working
budget becomes the P-port's budget, and the forecast is published from the account. A sensor's reading is kept; a valid
reading at or above the limit, or the third invalid reading in a row, trips: TRIP and THERM_TRIP are latched, every
Pavilion's class becomes 0 and the budget is 0 A (R427, R428). -/
def Obligations.LoopsAndSensorsLimitPower : Prop :=
  (∀ s : State, OutOfReset s →
     let cur := s.power.working.getD (s.power.pBudget * 100)
     (coreState s 1 = 0 → (∃ x ∈ allTemps s, 4 * (s.power.throttleC : Int) ≤ x) →
       ∃ t, exec .thermalLoop s = .next t ∧ t.power.working = some (cur * 98 / 100) ∧ t.power.throttle = true) ∧
     (coreState s 1 = 0 → s.power.throttle = true → (∀ x ∈ allTemps s, x < 4 * (s.power.throttleC : Int) - 12) →
       ∃ (t : State) (w : Nat), exec .thermalLoop s = .next t ∧ t.power.working = some w ∧ w ≤ s.power.pBudget * 100 ∧
         (cur < s.power.pBudget * 100 → cur < w) ∧ (t.power.throttle = true ↔ w < s.power.pBudget * 100)) ∧
     (coreState s 1 ≠ 0 → exec .thermalLoop s = .next s ∧ exec .powerLoop s = .next s)) ∧
  (∀ s : State, OutOfReset s → coreState s 1 = 0 → s.power.noBudget = false → s.power.throttle = false →
     ∃ t, exec .powerLoop s = .next t ∧ t.power.working = some (s.power.pBudget * 100) ∧
       t.power.fcstLo = amps (t.power.coefs.getD 0 0) ∧ t.power.pBudget = s.power.pBudget) ∧
  (∀ (s : State) (n : Fin 24) (x : BitVec 12) (invalid : Bool), OutOfReset s →
     let trips : Bool := (!invalid && decide (4 * (tripLimit s : Int) ≤ x.toInt)) ||
       (invalid && decide (2 ≤ tget s.power.badRun n.val 0))
     ∃ t, exec (.sensorRead n x invalid) s = .next t ∧
       bits (tget t.power.temps n.val 0).toNat 0 12 = x.toNat ∧ (tget t.power.temps n.val 0).getLsbD 12 = invalid ∧
       (trips = false → t.sys = s.sys ∧ t.pavs = s.pavs ∧ t.power.trip = s.power.trip) ∧
       (trips = true → t.power.trip = true ∧ thermTripPin t = true ∧ t.sys.errSts.getLsbD 0 = true ∧ effBudget t = 0 ∧
         ∀ p : PavId, (getPav t p.val).leave = 0))

/-- A watchdog's expiry counts in the core's 16-bit count, sets FW_WATCHDOG and, for Lodge or while Lodge runs, restarts
the core alone (R379, R383). The end of a restart whose image copy still matches brings the core back; one whose copy
does not match leaves it held in reset with FW_FAIL (R380). CORE_RESTART is taken, and its record follows when the core
is back; for a core that is already restarting the record says CORE_BUSY at once (R355, R380). -/
def Obligations.CoresRestart : Prop :=
  (∀ (s : State) (c : Fin 19), Up s →
     (coreState s c.val = 0 → (c.val = 0 ∨ coreState s 0 = 0) → ∃ t, exec (.watchdogExpiry c) s = .next t ∧
       coreState t c.val = 1 ∧ (∀ d, d ≠ c.val → coreState t d = coreState s d) ∧
       tget t.sys.wdog c.val 0 = Nat.min 0xFFFF (tget s.sys.wdog c.val 0 + 1) ∧ t.sys.errSts.getLsbD 2 = true ∧
       t.ctxs = s.ctxs ∧ t.jobs = s.jobs ∧ t.ter = s.ter) ∧
     (coreState s c.val = 1 → copyOk s (kindOf c.val) = false → ∃ t, exec (.coreRestartComplete c) s = .next t ∧
       coreState t c.val = 2 ∧ t.sys.errSts.getLsbD 1 = true) ∧
     (coreState s c.val = 1 → copyOk s (kindOf c.val) = true → 0 < c.val → ∃ t, exec (.coreRestartComplete c) s = .next t ∧
       coreState t c.val = 0) ∧
     (0 < c.val → coreState s 0 = 0 → coreState s c.val ≠ 1 → s.sys.coreWait = [] →
       ∃ t, exec (.coreRst (1#64 <<< c.val) 0xFF) s = .next t ∧ coreState t c.val = 1 ∧
         (∀ d, d ≠ c.val → coreState t d = coreState s d))) ∧
  (∀ (s : State) (h : HeadMsg), Accepted s mgmtCtx 0x8F h →
     let c := arg h 64 5
     (c < 19 → coreState s c = 0 → (c = 0 ∨ coreState s 0 = 0) → ∃ t, exec .coreRestart s = .next t ∧ Taken s t mgmtCtx h ∧
       coreState t c = 1 ∧ t.sys.restartWaiter = s.sys.restartWaiter ++ [(c, waiterOf mgmtCtx h.msg)]) ∧
     (c < 19 → coreState s c = 1 → ∃ t, exec .coreRestart s = .next t ∧
       Answered s t mgmtCtx h 0x1009 (cmdBody 0x8F 0 0 0 0) ∧ t.sys.coreSts = s.sys.coreSts) ∧
     (19 ≤ c → ∃ t, exec .coreRestart s = .next t ∧ Answered s t mgmtCtx h 0x2002 (cmdBody 0x8F 0 0 0 0)))

/-! Attachments and contexts. -/

/-- ATTACH at an instance that no host is attached to and that binds hosts, with a version that it speaks, is granted:
the management mailbox becomes ATTACHED with the heartbeat and grace limits that the message names, 500 ms and 60 s
standing for 0 (R355, R375, R384); ATTACH while attached is refused with MGMT_BUSY and changes nothing else. DETACH ends
the attachment, and each of its contexts becomes ORPHAN (R387). When the heartbeat deadline passes without a write of
MHB in the same TCLK, the attachment is lost: MDB.STATE becomes 3, HOST_LOST is set and every bound context in ACTIVE or
HALTED becomes ORPHAN (R384, R385); with such a write the deadline moves and nothing happens. -/
def Obligations.AttachmentsBeginAndEnd : Prop :=
  (∀ (s : State) (h : HeadMsg),
     (Accepted s mgmtCtx 0x80 h → s.mgmt.mdbState ≠ 1 → bindsHost s = true → versionBad s (arg h 64 8) = false →
       ∃ (t : State) (body : Nat), exec .attach s = .next t ∧ Answered s t mgmtCtx h 0 body ∧ t.mgmt.mdbState = 1 ∧
         t.mgmt.attachNo = s.mgmt.attachNo + 1 ∧ t.mgmt.hbAt = s.sys.time ∧
         t.mgmt.hbMs = (if arg h 88 16 = 0 then 500 else arg h 88 16) ∧
         t.mgmt.graceS = (if arg h 104 16 = 0 then 60 else arg h 104 16) ∧ t.ctxs = s.ctxs) ∧
     (Accepted s mgmtCtx 0x80 h → s.mgmt.mdbState = 1 →
       ∃ t, exec .attach s = .next t ∧ Answered s t mgmtCtx h 0x1007 (cmdBody 0x80 0 0 0 0) ∧
         t = { s with mgmt := { s.mgmt with ring := t.mgmt.ring }, mports := t.mports }) ∧
     (Accepted s mgmtCtx 0x81 h → ∃ t, exec .detach s = .next t ∧ Answered s t mgmtCtx h 0 (cmdBody 0x81 0 0 0 0) ∧
       t.mgmt.mdbState = 0 ∧ t.jobs = s.jobs ∧ t.ter = s.ter ∧
       ∀ e ∈ s.ctxs, (e.2.state = .active ∨ e.2.state = .halted) → e.2.bound = s.mgmt.attachNo →
         ∃ x, (e.1, x) ∈ t.ctxs ∧ x.state = .orphan ∧ x.ring = e.2.ring ∧ x.regions = e.2.regions)) ∧
  (∀ s : State, Up s → s.mgmt.mdbState = 1 →
     (s.mgmt.hbAt ≠ s.sys.time → ∃ t, exec .heartbeatDeadline s = .next t ∧ t.mgmt.mdbState = 3 ∧
       t.sys.errSts.getLsbD 13 = true ∧ t.jobs = s.jobs ∧ t.ter = s.ter ∧ t.pavs = s.pavs ∧
       t.ctxs = s.ctxs.map (fun e =>
         if e.2.bound = s.mgmt.attachNo ∧ (e.2.state = .active ∨ e.2.state = .halted) then
           (e.1, { e.2 with state := .orphan, haltPending := e.2.state == .halted })
         else e)) ∧
     (s.mgmt.hbAt = s.sys.time → exec .heartbeatDeadline s = .next s))

/-- CTX_CREATE for a standalone instance (R390): with valid rings and a free context it makes that context ACTIVE, with
rings at position 0, every count 0, nothing in its tables, bound to the attachment in force; the records that its number
still holds stay to be written (R361). RET0 is its token, RET1 its number. The token is not 0 and was not drawn before
(R391). CTX_REATTACH adopts an orphaned context whose token the message names: it is bound to the attachment in force
and becomes ACTIVE again, or HALTED when it was halted; with another token it is refused with BAD_TOKEN, and for a
context that is not orphaned with NOT_ORPHAN (R386). -/
def Obligations.ContextsAreCreatedAndReattached : Prop :=
  (∀ (s : State) (h : HeadMsg) (c : Nat), Accepted s mgmtCtx 0x82 h →
     (h.msg.bits.getLsbD 77 = false) → versionBad s (arg h 104 8) = false →
     ringsBad (arg h 128 64) (arg h 192 64) (arg h 88 5) (arg h 93 5) = false → arg h 64 13 ≤ 0x1000 →
     pickCtx s (arg h 64 13) = some c →
     ∃ (t : State) (tok : Nat), exec .ctxCreate s = .next t ∧ Answered s t mgmtCtx h 0 (cmdBody 0x82 tok c 0 0) ∧
       tok ≠ 0 ∧ tok ∉ s.sys.tokens ∧ t.sys.tokens = s.sys.tokens ++ [tok] ∧
       (getCtx t c).state = .active ∧ (getCtx t c).bound = s.mgmt.attachNo ∧ (getCtx t c).ring.sqBase = arg h 128 64 ∧
       (getCtx t c).ring.cqBase = arg h 192 64 ∧ (getCtx t c).ring.sqHead = 0 ∧ (getCtx t c).ring.cqTail = 0 ∧
       (getCtx t c).ring.held = (getCtx s c).ring.held ∧ (getCtx t c).counts = CtxCounts.zero ∧ (getCtx t c).regions = [] ∧
       (getCtx t c).jobCount = 0 ∧ (∀ d, d ≠ c → getCtx t d = getCtx s d)) ∧
  (∀ (s : State) (h : HeadMsg), Accepted s mgmtCtx 0x84 h →
     let c := arg h 64 12
     let x := getCtx s c
     (x.state = .orphan → x.token.toNat = arg h 128 64 → newRings h.msg = none →
       ∃ t, exec .ctxReattach s = .next t ∧ Answered s t mgmtCtx h 0 (cmdBody 0x84 0 0 0 0) ∧
         getCtx t c = { x with bound := s.mgmt.attachNo, state := if x.haltPending then .halted else .active } ∧
         (∀ d, d ≠ c → getCtx t d = getCtx s d)) ∧
     (x.state = .orphan → x.token.toNat ≠ arg h 128 64 →
       ∃ t, exec .ctxReattach s = .next t ∧ Answered s t mgmtCtx h 0x1006 (cmdBody 0x84 0 0 0 0) ∧
         (getCtx t c).state = .orphan ∧ (getCtx t c).counts.badToken = Nat.min (x.counts.badToken + 1) 0xFFFFFFFF) ∧
     (x.state ≠ .orphan → ∃ t, exec .ctxReattach s = .next t ∧
       Answered s t mgmtCtx h 0x100B (cmdBody 0x84 0 0 0 0) ∧ t.ctxs = s.ctxs))

/-- CTX_DESTROY of a context outside a grove that has no job, append, sequence, region, window, collective or held
record frees it at once and answers OK, and neither Terrace memory nor another context changes. The end of the grace
period of an orphaned context that holds nothing frees it too (R370, R387). -/
def Obligations.IdleContextIsFreed : Prop :=
  ∀ (s : State) (c : CtxId), (getCtx s c.val).grove = false → (getCtx s c.val).altWait = none →
    (getCtx s c.val).regions = [] → (getCtx s c.val).seqN = 0 → (getCtx s c.val).ring.held = [] → s.jobs = [] →
    s.band.slots = [] → s.ter.windows = [] → s.grove.fwd = [] → s.alt.configured = false →
    (∀ h, Accepted s mgmtCtx 0x83 h → arg h 64 12 = c.val → (getCtx s c.val).state = .active →
      ∃ t, exec .ctxDestroy s = .next t ∧ Answered s t mgmtCtx h 0 (cmdBody 0x83 0 0 0 0) ∧
        (getCtx t c.val).state = .free ∧ t.ter.mem = s.ter.mem ∧ (∀ d, d ≠ c.val → getCtx t d = getCtx s d)) ∧
    (Up s → (getCtx s c.val).state = .orphan →
      ∃ t, exec (.graceExpiry c) s = .next t ∧ (getCtx t c.val).state = .free ∧ t.ter.mem = s.ter.mem ∧
        (∀ d, d ≠ c.val → getCtx t d = getCtx s d)) ∧
    (Up s → (getCtx s c.val).state ≠ .orphan → exec (.graceExpiry c) s = .next s)

/-- MODE_SET is accepted in bring-up mode while no context exists, to service or recovery only while no image in force
was accepted with KEY_ID 1; its record, when it is written, sets the mode (R377). It is refused with MODE_LOCKED
otherwise. MREG_READ answers the register at its offset and MREG_WRITE writes it as a C-port write of eight bytes would
(R473); an offset in the mailbox ranges is refused with BAD_DESCRIPTOR, and one in the debug range outside bring-up and
test with MODE_LOCKED. SPDM, while Lodge runs, takes a request of 4 to 4,096 bytes from host memory with room for a
response of 4,096 and answers the length of the response that it wrote there (R409); without Lodge the message stays in
its ring. The response is an opaque function (log entry 10) of the requests so far, the chain of R405, the grove
certificate and the measurement blocks of R410: the image measurements, the hash of the fuse state, the modes with the
straps, and the SFU_TABLES version with the hardware revision (the byte layouts are the model's choice, log entry 118).
-/
def Obligations.ManagementMessagesAnswer : Prop :=
  (∀ (s : State) (h : HeadMsg),
     (Accepted s mgmtCtx 0x8E h → arg h 64 3 < 4 → s.sys.mode = 1 → anyContext s = false →
       (s.sys.testKeyUsed = true → arg h 64 3 = 1 ∨ arg h 64 3 = 2) →
       ∃ t, exec .modeSet s = .next t ∧ (ringAt t mgmtCtx).sqHead = (h.pos + h.units) % 2 ^ 24 ∧ t.sys = s.sys ∧
         (ringAt t mgmtCtx).held = (ringAt s mgmtCtx).held ++
           [{ mkRec h.msg.gen 4 0 h.msg.tag (cmdBody 0x8E 0 0 0 0) with mode := some (arg h 64 3) }]) ∧
     (Accepted s mgmtCtx 0x8E h → (arg h 64 3 = 0 ∨ arg h 64 3 = 3) → s.sys.testKeyUsed = true →
       ∃ t, exec .modeSet s = .next t ∧ Answered s t mgmtCtx h 0x1008 (cmdBody 0x8E 0 0 0 0) ∧ t.sys = s.sys) ∧
     (Accepted s mgmtCtx 0x8E h → arg h 64 3 < 4 → (s.sys.mode ≠ 1 ∨ anyContext s = true) →
       ∃ t, exec .modeSet s = .next t ∧ Answered s t mgmtCtx h 0x1008 (cmdBody 0x8E 0 0 0 0) ∧ t.sys = s.sys) ∧
     (Accepted s mgmtCtx 0x8E h → 4 ≤ arg h 64 3 →
       ∃ t, exec .modeSet s = .next t ∧ Answered s t mgmtCtx h 0x2002 (cmdBody 0x8E 0 0 0 0) ∧ t.sys = s.sys) ∧
     (Accepted s mgmtCtx 0x90 h → mregBad s (arg h 64 22) = none →
       let r := effect (fun s => if arg h 64 22 = 0x100108 then debugAccess s else s) s
       ∃ t, exec .mregRead s = .next t ∧ Answered s t mgmtCtx h 0 (cmdBody 0x90 (regRead r (arg h 64 22) % 2 ^ 64) 0 0 0) ∧
         t = { r with mgmt := { r.mgmt with ring := t.mgmt.ring }, mports := t.mports }) ∧
     (Accepted s mgmtCtx 0x91 h → mregBad s (arg h 64 22) = none →
       let r := effect (regWrite (arg h 64 22) (BitVec.ofNat 64 (arg h 128 64)) 0xFF) s
       ∃ t, exec .mregWrite s = .next t ∧ Answered s t mgmtCtx h 0 (cmdBody 0x91 0 0 0 0) ∧
         t = { r with mgmt := { r.mgmt with ring := t.mgmt.ring }, mports := t.mports }) ∧
     (∀ st, mregBad s (arg h 64 22) = some st →
       (Accepted s mgmtCtx 0x90 h → ∃ t, exec .mregRead s = .next t ∧ Answered s t mgmtCtx h st (cmdBody 0x90 0 0 0 0) ∧
         t.sys = s.sys ∧ t.ter = s.ter) ∧
       (Accepted s mgmtCtx 0x91 h → ∃ t, exec .mregWrite s = .next t ∧ Answered s t mgmtCtx h st (cmdBody 0x91 0 0 0 0) ∧
         t.sys = s.sys ∧ t.ter = s.ter)) ∧
     (arg h 64 22 % 8 = 0 → 0x1000 ≤ arg h 64 22 → arg h 64 22 < 0x2000 → mregBad s (arg h 64 22) = some 0x2002) ∧
     (arg h 64 22 % 8 = 0 → 0x100000 ≤ arg h 64 22 → s.sys.mode ≠ 1 → s.sys.mode ≠ 2 →
       mregBad s (arg h 64 22) = some 0x1008)) ∧
  (∀ (s : State) (h : HeadMsg), Accepted s mgmtCtx 0x92 h →
     (coreState s 0 = 0 → 4 ≤ arg h 128 16 → arg h 128 16 ≤ 4096 → 4096 ≤ arg h 144 16 →
       extPoisonIn s 1 (arg h 64 64) (arg h 128 16) = [] →
       ∃ (t : State) (n : Nat), exec .spdm s = .next t ∧ Answered s t mgmtCtx h 0 (cmdBody 0x92 n 0 0 0) ∧
         n ≤ arg h 144 16 ∧
         (s.ter.lines = [] → MemoriesCanonical s → extPeek t 1 (arg h 160 64) n =
           (Config.spdmResponse (s.sys.spdm ++ [extPeek s 1 (arg h 64 64) (arg h 128 16)]) (myChain s) s.sys.certsOk
             (slotOneCert s) (measBlocks s) s.free).take (arg h 144 16)) ∧ t.sys.spdm = s.sys.spdm ++ [extPeek s 1 (arg h 64 64) (arg h 128 16)] ∧
         t.free = s.free + 1 ∧ t.ter.mem = s.ter.mem ∧ t.ctxs = s.ctxs) ∧
     (coreState s 0 = 0 → (arg h 128 16 < 4 ∨ 4096 < arg h 128 16 ∨ arg h 144 16 < 4096) →
       extPoisonIn s 1 (arg h 64 64) (arg h 128 16) = [] →
       ∃ t, exec .spdm s = .next t ∧ Answered s t mgmtCtx h 0x2002 (cmdBody 0x92 0 0 0 0) ∧ t.sys = s.sys) ∧
     (coreState s 0 = 0 → extPoisonIn s 1 (arg h 64 64) (arg h 128 16) ≠ [] →
       ∃ t, exec .spdm s = .next t ∧ Answered s t mgmtCtx h 0x2006 (cmdBody 0x92 0 0 0 0) ∧ t.sys.spdm = s.sys.spdm) ∧
     (coreState s 0 ≠ 0 → exec .spdm s = .next s) ∧
     (measBlocks s).length = 7 ∧
     (∀ k, k < 4 → (measBlocks s)[k]? = some (leBytes 48 (tget s.sys.imageHash (k + 1) 0))) ∧
     (∃ b, (measBlocks s)[5]? = some b ∧ b.length = 8 ∧ b[0]? = some (BitVec.ofNat 8 s.sys.startMode) ∧
       b[1]? = some (BitVec.ofNat 8 s.sys.mode)))

/-! What a context owns in the Terrace, and the X-ports. -/

/-- LOG_READ writes the 256 B of the context's exception log to host memory, answers the total, and clears both when the
message says so; a denied write is refused with RESOURCE (R52, R511). ANGLE_SET loads 128 angles from host memory
(R127). TER_GROUP_MODE switches a group that no job can reach: a group entering scratchpad mode becomes zero (R228).
ROLE_LOAD writes roles from host memory into a bank (R196), where no named peer lies behind an exposed path; LAND_SET
writes a landing entry while no admitted job can reach it and R277 allows it. Neither touches another context. -/
def Obligations.ContextTablesAreLoaded : Prop :=
  (∀ (s : State) (c : CtxId) (h : HeadMsg),
     (Accepted s c.val 0x03 h → extDenied s c.val 1 (arg h 64 64) 256 = false → s.ter.cached = 0 →
       ∃ t, exec (.logRead c) s = .next t ∧
         Answered s t c.val h 0 (cmdBody 0x03 (getCtx s c.val).logTotal 0 0 0) ∧
         extPeek t 1 (arg h 64 64) 256 = logBytes (getCtx s c.val).log ∧
         (getCtx t c.val).log = (if h.msg.bits.getLsbD 128 then [] else (getCtx s c.val).log) ∧
         (getCtx t c.val).logTotal = (if h.msg.bits.getLsbD 128 then 0 else (getCtx s c.val).logTotal) ∧
         t.ter.mem = s.ter.mem ∧ t.ext.stack = s.ext.stack) ∧
     (Accepted s c.val 0x03 h → extDenied s c.val 1 (arg h 64 64) 256 = true →
       ∃ t, exec (.logRead c) s = .next t ∧ Answered s t c.val h 0x2006 (cmdBody 0x03 0 0 0 0) ∧
         (getCtx t c.val).log = (getCtx s c.val).log ∧ t.ext.host = s.ext.host) ∧
     (Accepted s c.val 0x07 h → extDenied s c.val 1 (arg h 64 64) 512 = false → extPoisonIn s 1 (arg h 64 64) 512 = [] →
       ∃ t, exec (.angleSet c) s = .next t ∧ Answered s t c.val h 0 (cmdBody 0x07 0 0 0 0) ∧
         (∀ k, k < 128 → tget (getCtx t c.val).angles k 0 =
           BitVec.ofNat 32 (leNat ((extPeek s 1 (arg h 64 64) 512).drop (4 * k) |>.take 4))) ∧
         t.ter = s.ter ∧ t.ext.host = s.ext.host) ∧
     (Accepted s c.val 0x0B h → let g := arg h 64 4 * 8 + arg h 68 3
       groupReached s g = false → h.msg.bits.getLsbD 71 = false → s.ter.cached.getLsbD g = true → s.ter.lines = [] →
       ∃ t, exec (.terGroupMode c) s = .next t ∧ Answered s t c.val h 0 (cmdBody 0x0B 0 0 0 0) ∧
         t.ter.cached.getLsbD g = false ∧ (∀ a, a / 2 ^ 22 = g → memByte t.ter.mem a = 0) ∧
         (∀ a, a / 2 ^ 22 ≠ g → memByte t.ter.mem a = memByte s.ter.mem a))) ∧
  (∀ (s : State) (c : CtxId) (h : HeadMsg),
     (Accepted s c.val 0x08 h → arg h 77 13 = 1 → extDenied s c.val 1 (arg h 128 64) 16 = false →
       extPoisonIn s 1 (arg h 128 64) 16 = [] → s.prom.routes = [] → h.msg.bits.getLsbD 64 = false →
       ∃ t, exec (.roleLoad c) s = .next t ∧ Answered s t c.val h 0 (cmdBody 0x08 0 0 0 0) ∧
         tget (getCtx t c.val).roles0 (arg h 65 12) Role.absent = parseRole (leNat (extPeek s 1 (arg h 128 64) 16)) ∧
         (∀ k, k ≠ arg h 65 12 → tget? (getCtx t c.val).roles0 k = tget? (getCtx s c.val).roles0 k) ∧
         (getCtx t c.val).roles1 = (getCtx s c.val).roles1 ∧ (∀ d, d ≠ c.val → getCtx t d = getCtx s d)) ∧
     (Accepted s c.val 0x09 h → extDenied s c.val 1 (arg h 128 64) 32 = false → extPoisonIn s 1 (arg h 128 64) 32 = [] →
       let v := leNat (extPeek s 1 (arg h 128 64) 32)
       landingReserved v = false → landingBusy s c.val (arg h 64 8) = false → landingBad s c.val (arg h 64 8) (parseLanding v) = false →
       ∃ t, exec (.landSet c) s = .next t ∧ Answered s t c.val h 0 (cmdBody 0x09 0 0 0 0) ∧
         tget (getCtx t c.val).landing (arg h 64 8) Landing.absent = parseLanding v ∧
         (∀ k, k ≠ arg h 64 8 → tget? (getCtx t c.val).landing k = tget? (getCtx s c.val).landing k) ∧
         t.ter = s.ter ∧ (∀ d, d ≠ c.val → getCtx t d = getCtx s d)) ∧
     (Accepted s c.val 0x09 h → extDenied s c.val 1 (arg h 128 64) 32 = false → extPoisonIn s 1 (arg h 128 64) 32 = [] →
       landingReserved (leNat (extPeek s 1 (arg h 128 64) 32)) = true →
       ∃ t, exec (.landSet c) s = .next t ∧ Answered s t c.val h 0x4002 (cmdBody 0x09 0 0 0 0) ∧
         (getCtx t c.val).landing = (getCtx s c.val).landing))

/-- REGION_SET that R206 allows writes its entry of the context's region table; the part of the old range that leaves
the context becomes zero, and every other byte of the Terrace stays (R205, R206, R395). One that R206 refuses is
answered with BAD_REGION and changes neither the table nor memory. -/
def Obligations.RegionSetZeroesWhatLeaves : Prop :=
  ∀ (s : State) (c : CtxId) (h : HeadMsg), Accepted s c.val 0x04 h →
    let k := arg h 64 3
    let new := parseRegion (arg h 128 64)
    let old := tget (getCtx s c.val).regions k Region.absent
    let inside (r : Region) (a : Nat) : Prop := r.base4k * 4096 ≤ a ∧ a < (r.base4k + r.len4k) * 4096
    (regionBad s c.val k new = false → ∃ t, exec (.regionSet c) s = .next t ∧
      Answered s t c.val h 0 (cmdBody 0x04 0 0 0 0) ∧
      (new.len4k ≠ 0 → tget? (getCtx t c.val).regions k = some new) ∧
      (new.len4k = 0 → tget? (getCtx t c.val).regions k = none) ∧
      (∀ j, j ≠ k → tget? (getCtx t c.val).regions j = tget? (getCtx s c.val).regions j) ∧
      (∀ d, d ≠ c.val → getCtx t d = getCtx s d) ∧
      (∀ a, inside old a → ¬ inside new a → memByte t.ter.mem a = 0) ∧
      (∀ a, (¬ inside old a ∨ inside new a) → memByte t.ter.mem a = memByte s.ter.mem a)) ∧
    (regionBad s c.val k new = true → ∃ t, exec (.regionSet c) s = .next t ∧
      Answered s t c.val h 0x4001 (cmdBody 0x04 0 0 0 0) ∧ (getCtx t c.val).regions = (getCtx s c.val).regions ∧
      t.ter = s.ter)

/-- WIN_OPEN opens a window that is free over a range with RWIN, and answers its GEN; WIN_CLOSE of an open window of the
context closes it, raises GEN by 1 and answers at once when no write is in flight, else when the last one has committed,
which WINDOW_CLOSE_COMPLETE reports (R217, R220). -/
def Obligations.WindowsOpenAndClose : Prop :=
  ∀ (s : State) (c : CtxId) (h : HeadMsg),
    (Accepted s c.val 0x05 h →
      let k := arg h 64 12
      windowBad s c.val (BitVec.ofNat 4 (arg h 77 4)) (arg h 81 18) (arg h 99 18) = false → winFree (getWin s k) = true →
      ∃ t, exec (.winOpen c) s = .next t ∧ Answered s t c.val h 0 (cmdBody 0x05 (getWin s k).gen.toNat 0 0 0) ∧
        (getWin t k).isOpen = true ∧ (getWin t k).ctx = c.val ∧ (getWin t k).gen = (getWin s k).gen ∧
        (getWin t k).off4k = arg h 81 18 ∧ (getWin t k).len4k = arg h 99 18 ∧
        (getWin t k).credits = (if (BitVec.ofNat 4 (arg h 77 4)).getLsbD 3 then Nat.min (arg h 99 18) 65535 else 0) ∧
        (∀ j, j ≠ k → getWin t j = getWin s j) ∧ t.ter.mem = s.ter.mem) ∧
    (Accepted s c.val 0x06 h →
      let k := arg h 64 12
      (getWin s k).isOpen = true → (getWin s k).ctx = c.val →
      ((getWin s k).inflight = 0 → ∃ t, exec (.winClose c) s = .next t ∧
        Answered s t c.val h 0 (cmdBody 0x06 0 0 0 0) ∧ (getWin t k).isOpen = false ∧
        (getWin t k).gen = (getWin s k).gen + 1 ∧ (getWin t k).credits = 0 ∧ t.ter.mem = s.ter.mem) ∧
      ((getWin s k).inflight ≠ 0 → ∃ t, exec (.winClose c) s = .next t ∧ Taken s t c.val h ∧
        (getWin t k).isOpen = false ∧ (getWin t k).gen = (getWin s k).gen + 1 ∧
        (getWin t k).closing = some (waiterOf c.val h.msg))) ∧
    (∀ (w : Fin 4096) (x : Waiter), Up s → (getWin s w.val).closing = some x → x.via = none → x.mgmt = false →
      (getWin s w.val).inflight = 0 →
      ∃ t, exec (.windowCloseComplete w) s = .next t ∧ (getWin t w.val).closing = none ∧
        (ringAt t x.ctx).held = (ringAt s x.ctx).held ++
          [mkRec x.gen (recKind false x.opc) 0 x.tag (cmdBody x.opc 0 0 0 0)])

/-- X-port reads (R207, R213, R216, R221). One beyond the view, or in a region without XRD, answers TERRACE_BOUND; one
that the access tables cannot take waits; one that meets an unfilled granule answers UNFILLED_READ and counts it, and
one that meets a word which cannot be corrected TERRACE_UE. Every other one answers the bytes of its range with its tag,
8 for a narrow read and 256 for each line of a block read. No memory changes. X-port writes (R207, R213, R219, R221,
R455), narrow ones of any byte enables and blocks of any lines. One beyond the view answers TERRACE_BOUND; one that the
access tables cannot take waits; one that fails a check writes nothing, answers the code and counts at the window's
owner; every other one writes its enabled bytes and no other, answers OK with its tag, and its credits are spent and
replaced. -/
def Obligations.XPortsReadAndWrite : Prop :=
  (∀ (s : State) (port : Fin 4) (c : CtxId) (tag : Fin 64), Up s →
     let t0 := (getCtx s c.val).regions
     let answers (st : Nat) (bs : List Byte) (t : State) : Prop := t.out = s.out ++ [.xresp port.val tag.val st bs]
     let reads (o : Machine.Result) (off n : Nat) : Prop :=
       let ps := viewParts t0 off n
       let inside : Prop := off + n ≤ viewLen t0 ∧ ∀ p ∈ ps, p.region.xrd = true
       let taken : Prop := inside ∧ tableFree s false (partLines ps) = true
       (¬ inside → o = .next { s with out := s.out ++ [.xresp port.val tag.val 0x3004 []] }) ∧
       (inside → tableFree s false (partLines ps) = false →
         o = .next { s with ter := { s.ter with xwait := s.ter.xwait ++ [⟨port.val, tag.val, c.val, off, n, none⟩] } }) ∧
       (taken → (unfilledAt s.ter.unfilled ps).isSome = true → ∃ t, o = .next t ∧ answers 0x3005 [] t ∧ t.ter = s.ter ∧
         (getCtx t c.val).counts.unfilledRead = Nat.min ((getCtx s c.val).counts.unfilledRead + 1) 0xFFFFFFFF) ∧
       (taken → unfilledAt s.ter.unfilled ps = none → (poisonIn s ps = true ∨ ∃ e ∈ flipsIn s ps, e.2 ≠ 1) →
         ∃ t, o = .next t ∧ answers 0x3006 [] t ∧ t.ter.mem = s.ter.mem) ∧
       (taken → unfilledAt s.ter.unfilled ps = none → poisonIn s ps = false → (∀ e ∈ flipsIn s ps, e.2 = 1) →
         ∃ (t : State) (bs : List Byte), o = .next t ∧ answers 0 bs t ∧ bs.length = n ∧
           bs = ps.flatMap (fun p => memRead s.ter.mem p.phys p.len) ∧ t.ter.mem = s.ter.mem ∧
           (flipsIn s ps = [] → t = { s with out := t.out }))
     (∀ w : Fin 67108864, reads (exec (.xNarrowRead port c w tag) s) (8 * w.val) 8) ∧
     (∀ (l : Fin 2097152) (n : Fin 16), reads (exec (.xBlockRead port c l n tag) s) (256 * l.val) (256 * (n.val + 1)))) ∧
  (∀ (s : State) (port : Fin 4) (c : CtxId) (tag : Fin 64) (k : Fin 4096) (gen : BitVec 32), Up s →
     let t0 := (getCtx s c.val).regions
     let x := getWin s k.val
     let writes (o : Machine.Result) (off : Nat) (bs : List Byte) (en : List Bool) : Prop :=
       let n := bs.length
       let ps := viewParts t0 off n
       let taken : Prop := off + n ≤ viewLen t0 ∧ tableFree s true (partLines ps) = true
       (viewLen t0 < off + n → o = .next { s with out := s.out ++ [.xresp port.val tag.val 0x3004 []] }) ∧
       (off + n ≤ viewLen t0 → tableFree s true (partLines ps) = false → o = .next { s with ter := { s.ter with
         xwait := s.ter.xwait ++ [⟨port.val, tag.val, c.val, off, n, some (k.val, gen, bs, en)⟩] } }) ∧
       (∀ st, taken → remoteCheck x c.val gen 3 off n = some st →
         ∃ t, o = .next t ∧ t.out = s.out ++ [.xresp port.val tag.val st []] ∧ t.ter = s.ter ∧
           (let a := (getCtx s x.ctx).counts
            let b := (getCtx t x.ctx).counts
            let up (code v : Nat) : Nat := if st = code then Nat.min (v + 1) 0xFFFFFFFF else v
            b.windowClosed = up 0x300E a.windowClosed ∧ b.windowClass = up 0x300F a.windowClass ∧
              b.windowRange = up 0x3010 a.windowRange ∧ b.windowNocredit = up 0x3011 a.windowNocredit)) ∧
       (taken → remoteCheck x c.val gen 3 off n = none →
         ∃ t, o = .next t ∧ .xresp port.val tag.val 0 [] ∈ t.out ∧ (getWin t k.val).credits = x.credits ∧
           (∀ p ∈ ps, p.len = n → ∀ i, i < n → memByte t.ter.mem (p.phys + i) =
             (if en.getD i false then bs.getD i 0 else memByte s.ter.mem (p.phys + i))) ∧
           (∀ a, (∀ p ∈ ps, a < p.phys ∨ p.phys + p.len ≤ a) → memByte t.ter.mem a = memByte s.ter.mem a))
     (∀ (w : Fin 67108864) (d : BitVec 64) (be : BitVec 8),
       writes (exec (.xNarrowWrite port c w tag k gen d be) s) (8 * w.val) (leBytes 8 d.toNat) (enables 8 be.toNat)) ∧
     (∀ (l : Fin 2097152) (data : List (BitVec 2048)) (be : List (BitVec 256)),
       writes (exec (.xBlockWrite port c l tag k gen data be) s) (256 * l.val) (data.flatMap (fun d => leBytes 256 d.toNat))
         (be.flatMap (fun b => enables 256 b.toNat))))

/-! Reset, start-up, test access, M-ports. -/

/-- The rise of RST_N samples the straps; it leads to start-up when Lodge's image passes R408 and the part is not fused
off, and Lodge then runs with F_LOCK asserted; otherwise start-up has failed (R404, R408, R436, R438, R462). Start-up
ends with READY exactly when the images of kinds 2, 3 and 4 pass R408: then every core runs, the Terrace is initialised
and the capability list is valid; otherwise READY stays 0, FW_FAIL is set and no further core runs (R230, R408, R438).
-/
def Obligations.StartUpFollowsResetRise : Prop :=
  (∀ (s : State) (m : Fin 4) (fb : BitVec 28), s.sys.phase = .inReset →
     let s1 : State := { s with sys := { s.sys with phase := .startUp, mode := m.val, startMode := m.val, fwBase := fb.toNat } }
     ∃ t, exec (.rstNRise m fb) s = .next t ∧ t.sys.mode = m.val ∧ t.sys.startMode = m.val ∧ t.sys.fwBase = fb.toNat ∧
       t.pending = s.pending ∧ t.ext.stack = s.ext.stack ∧ t.ext.host = s.ext.host ∧ t.ter = s.ter ∧
       (fusedOff s = false → imageCheck s1 1 (imageAddr s1 1) = none →
         t.sys.phase = .startUp ∧ t.sys.fLock = true ∧ coreState t 0 = 0 ∧ tget t.sys.imageHash 1 0 = measurement s1 (imageAddr s1 1)) ∧
       (fusedOff s = true ∨ (imageCheck s1 1 (imageAddr s1 1)).isSome = true → t.sys.phase = .failed)) ∧
  (∀ s : State, s.sys.phase = .startUp →
     ∃ t, exec .startUpReady s = .next t ∧ t.pending = s.pending ∧
       (([2, 3, 4].all (fun k => (imageCheck s k (imageAddr s k)).isNone)) = true →
         t.sys.phase = .up ∧ t.mgmt.ready = true ∧ t.sys.capv = true ∧ (∀ c, c < 19 → 0 < c → coreState t c = 0) ∧
           t.ter = Terrace.empty ∧ t.ctxs = s.ctxs) ∧
       (([2, 3, 4].all (fun k => (imageCheck s k (imageAddr s k)).isNone)) = false →
         t.sys.phase = .failed ∧ t.mgmt.ready = s.mgmt.ready ∧ t.sys.errSts.getLsbD 1 = true))

/-- RST_N and power removal lose every piece of state (R439, R440): the instance is in reset with every register at its
reset value, no context, job or record; the surroundings' memory stays where nothing was being written, and no
completion record is written. Power removal also resets the test access port. -/
def Obligations.ResetLosesState : Prop :=
  ∀ s : State, ∃ t u, exec .rstNAssert s = .next t ∧ exec .powerRemoval s = .next u ∧ t.pending = s.pending ∧
    t.sys = State.reset.sys ∧ t.mgmt = State.reset.mgmt ∧ t.ctxs = [] ∧ t.jobs = [] ∧ t.ter = State.reset.ter ∧ t.pavs = [] ∧
    t.alt = State.reset.alt ∧ t.prom = State.reset.prom ∧ t.band = State.reset.band ∧ t.grove = State.reset.grove ∧
    t.power = State.reset.power ∧ t.mports = [] ∧ t.trace = State.reset.trace ∧ t.jtag = s.jtag ∧
    u = { t with jtag := Jtag.reset } ∧
    (writingNow s = [] → t.ext = s.ext ∧ t.free = s.free)

/-- The instructions of the test access port (R465, R466): TRST_N selects IDCODE; BYPASS, SAMPLE/PRELOAD and IDCODE act
in every mode, and IDCODE shifts out 30A3_D1EFh; EXTEST places the ports under wrapper control in test mode alone and
acts as SAMPLE/PRELOAD in the others; IJTAG_SEL reaches the network in test mode alone and acts as BYPASS in the others.
None changes anything but the port. The codes of the instructions are the model's (log entry 4). An instrument that the
network reaches in test mode leaves its PASS bit and its count of failing locations, which stops at FFFFh, and destroys
every piece of state of R440 (R507, R508); outside test mode, or while the network is not selected, a memory test or
loopback does nothing. -/
def Obligations.TestAccessAndInstruments : Prop :=
  (∀ (s : State) (cells : List Bool),
     let ir (n : Nat) (wrapper net : Bool) : State :=
       { s with jtag := { s.jtag with instrReg := n, wrapperOn := wrapper, netOn := net } }
     exec .trstN s = .next (ir irIdcode false false) ∧
     exec .bypass s = .next (ir irBypass false false) ∧
     exec (.samplePreload cells) s = .next { s with jtag :=
       { s.jtag with instrReg := irSample, wrapperOn := false, netOn := false, cells := cells } } ∧
     exec .idcode s = .next { s with
       jtag := { s.jtag with instrReg := irIdcode, wrapperOn := false, netOn := false, dr := 0x30A3D1EF },
       out := s.out ++ [.tdo 0x30A3D1EF] } ∧
     (s.sys.mode = 2 → exec .extest s = .next (ir irExtest true false) ∧ exec .ijtagSel s = .next (ir irIjtag false true)) ∧
     (s.sys.mode ≠ 2 → exec .extest s = .next (ir irSample false false) ∧ exec .ijtagSel s = .next (ir irBypass false false))) ∧
  (∀ (s : State) (n : Nat) (k : Fin 4) (good : Bool),
     let runs : Prop := s.jtag.netOn = true ∧ s.sys.mode = 2 ∧ s.sys.phase ≠ .inReset
     let after (i : Nat) (o : Host.Outcome State Fault Refusal) : Prop :=
       (runs → ∃ t, o = .next t ∧ t.sys.phase = .destroyed ∧ t.ctxs = [] ∧ t.jobs = [] ∧ t.ter = Terrace.empty ∧
         t.sys.mode = 2 ∧ tget t.jtag.results i (true, 0) = (n == 0, Nat.min n 0xFFFF)) ∧
       (¬ runs → o = .next s)
     after 0 (exec (.mbistTer n) s) ∧ after 1 (exec (.mbistAcc n) s) ∧ after 2 (exec (.mbistFw n) s) ∧
     after (4 + k.val) (exec (.loopL k n) s) ∧ after (8 + k.val) (exec (.loopG k n) s) ∧
     (runs → ∃ t, exec (.lbist good) s = .next t ∧ t.sys.phase = .destroyed ∧ t.ctxs = [] ∧
       (tget t.jtag.results 3 (true, 0)).1 = good))

/-- An M-port issues its oldest waiting request when it holds a credit for it and, for a write, one for each beat
(R447): the credits are spent and the request is outstanding under a tag that none holds; otherwise it waits. Credits
come back up to 1,024. Answers on an M-port (R393, R448, R449): the last beat of a read, and the completion of a write,
free the tag; poison or an ERROR sets M_POISON; a DENY sets M_DENY and halts the context that issued the request with
RESOURCE. -/
def Obligations.MPortsIssueAndAnswer : Prop :=
  (∀ (s : State) (p : Fin 12) (r : MReq) (rest : List MReq) (tag : Nat), Up s →
     (getPort s p.val).waiting = r :: rest → freeTag (getPort s p.val) = some tag →
     let q := getPort s p.val
     let beats := if r.write then r.lines else 0
     (1 ≤ q.qcred → beats ≤ q.wcred → ∃ t, exec (.mRequestIssue p) s = .next t ∧
       (getPort t p.val).waiting = rest ∧ (getPort t p.val).qcred = q.qcred - 1 ∧ (getPort t p.val).wcred = q.wcred - beats ∧
       tget? q.outst tag = none ∧ tget? (getPort t p.val).outst tag = some (r, []) ∧
       t = { s with mports := t.mports, out := s.out ++ [.mreq p.val tag r] }) ∧
     ((q.qcred = 0 ∨ q.wcred < beats) → exec (.mRequestIssue p) s = .next s) ∧
     (∀ a b : Fin 5, ∃ t, exec (.mCreditReturn p a b) s = .next t ∧
       (getPort t p.val).qcred = Nat.min 1024 (q.qcred + a.val) ∧ (getPort t p.val).wcred = Nat.min 1024 (q.wcred + b.val) ∧
       (getPort t p.val).waiting = q.waiting ∧ t = { s with mports := t.mports })) ∧
  (∀ (s : State) (p : Fin 12) (tag : Fin 1024) (r : MReq) (beat : Fin 4) (d : BitVec 2048) (pois : BitVec 32), Up s →
     (r.write = false → r.lines = 1 → beat.val = 0 → tget? (getPort s p.val).outst tag.val = some (r, []) →
       (∃ t, exec (.mReadData p tag beat d pois 0) s = .next t ∧ tget? (getPort t p.val).outst tag.val = none ∧
         t.sys.errSts.getLsbD 5 = (s.sys.errSts.getLsbD 5 || pois != 0) ∧ t.ctxs = s.ctxs) ∧
       (∃ t, exec (.mReadData p tag beat d pois 1) s = .next t ∧ tget? (getPort t p.val).outst tag.val = none ∧
         t.sys.errSts.getLsbD 6 = true ∧
         (r.priv = false → (getCtx s r.ctx).state = .active → (getCtx t r.ctx).state = .halted ∧
           (FirstHalt s r.ctx → (getCtx t r.ctx).counts.lastHalt = 0x2006)))) ∧
     (r.write = true → ∀ got, tget? (getPort s p.val).outst tag.val = some (r, got) →
       ∃ t, exec (.mWriteCompletion p tag 0) s = .next t ∧ tget? (getPort t p.val).outst tag.val = none ∧
         t = { s with mports := t.mports }) ∧
     (tget? (getPort s p.val).outst tag.val = none →
       exec (.mReadData p tag beat d pois 0) s = .next s ∧ exec (.mWriteCompletion p tag 0) s = .next s))

/-! Paths, G-ports, chunks, keys. -/

/-- Bring-up (R272, R293, R453): lock of every lane of a path in TRAIN, and the rise of G_UP, enter HELLO and send a
HELLO; HELLO is sent again every 10 µs; a HELLO is answered with HELLO_ACK; with both messages from a partner that the
route table expects and that speaks the same protocol, the port leaves HELLO, for SECURE on an exposed path and for UP
on any other; the confirmation of the path identity key leaves SECURE for UP. An instance whose path is all ones brings
up none (R330). What ends or interrupts a link (R293, R294, R453): each timeout of a port in its state leads to FAIL
with its cause and sets PATH_FAIL; the loss of lock of a lane of an UP path, and the fall of G_UP, lead to RETRAIN, with
PATH_RETRAIN set and RETRAINS raised, or after three retrains in a row to FAIL; a port in another state stays. -/
def Obligations.LinksComeUpAndFail : Prop :=
  (∀ (s : State) (p : Fin 4) (port : LinkPort), Up s →
     let l := getLink s (.path p)
     let m := getLink s port
     (∀ lanes : BitVec 16, l.state = 1 → workingCode { l with lanesOk := lanes } = some l.widthCode →
       ∃ t, exec (.laneLockGain p lanes) s = .next t ∧ (getLink t (.path p)).state = 2 ∧
         (∃ b, t.out = s.out ++ [.helloMsg (.path p) false b])) ∧
     ((getLink s (.gport p)).up = false → ∃ t, exec (.gUpRise p) s = .next t ∧ (getLink t (.gport p)).state = 2 ∧
       (getLink t (.gport p)).up = true ∧ (∃ b, t.out = s.out ++ [.helloMsg (.gport p) false b])) ∧
     let flit (ack : Bool) : BitVec 2048 := helloFlit (isPl2 s port) m.mid ack (helloBody s port)
     (m.state = 2 → ∃ t, exec (.helloResend port) s = .next t ∧ t.out = s.out ++ [.helloMsg port false (flit false)] ∧
       getLink t port = { m with mid := (m.mid + 1) % 2 ^ 16 } ∧ t = { s with prom := t.prom, out := t.out }) ∧
     (m.state ≠ 2 → exec (.helloResend port) s = .next s) ∧
     (∀ body : BitVec 256, m.state = 2 → m.gotHelloAck = false → m.gotHello = false →
       body.getLsbD 48 = isPl2 s port → peerExpected s port (BitVec.ofNat 48 (bits body.toNat 0 48)) = true →
       (∃ t, exec (.hello port body) s = .next t ∧ (getLink t port).gotHello = true ∧ (getLink t port).state = 2 ∧
         (getLink t port).peer = BitVec.ofNat 48 (bits body.toNat 0 48) ∧
         t.out = s.out ++ [.helloMsg port true (flit true)]) ∧
       (∃ t, exec (.helloAck port body) s = .next t ∧ (getLink t port).gotHelloAck = true ∧ t.out = s.out)) ∧
     (∀ body : BitVec 256, m.state = 2 → m.gotHello = true → s.grove.upathSelf ≠ BitVec.allOnes 48 →
       body.getLsbD 48 = isPl2 s port → peerExpected s port (BitVec.ofNat 48 (bits body.toNat 0 48)) = true →
       ∃ t, exec (.helloAck port body) s = .next t ∧ (getLink t port).state = (if exposedPort s port then 3 else 4)) ∧
     (l.state = 3 → s.grove.upathSelf ≠ BitVec.allOnes 48 →
       ∃ t, exec (.pathIdentityKeyConfirm p) s = .next t ∧ (getLink t (.path p)).state = 4)) ∧
  (∀ (s : State) (p : Fin 4) (port : LinkPort), Up s →
     let fails (q : LinkPort) (cause : Nat) (o : Host.Outcome State Fault Refusal) : Prop :=
       ∃ t, o = .next t ∧ (getLink t q).state = 6 ∧ (getLink t q).cause = cause ∧ t.sys.errSts.getLsbD 8 = true ∧
         t.ctxs = s.ctxs ∧ t.jobs = s.jobs ∧ t.ter = s.ter
     ((getLink s (.path p)).state = 1 → fails (.path p) 2 (exec (.trainTimeout p false) s) ∧
       fails (.path p) 3 (exec (.trainTimeout p true) s)) ∧
     ((getLink s port).state = 2 → fails port 4 (exec (.helloTimeout port) s)) ∧
     ((getLink s (.path p)).state = 3 → fails (.path p) 7 (exec (.secureTimeout p) s)) ∧
     ((getLink s port).state = 5 → fails port 8 (exec (.retrainTimeout port) s)) ∧
     ((getLink s port).state = 4 → exec (.helloTimeout port) s = .next s ∧ exec (.retrainTimeout port) s = .next s) ∧
     (∀ lane : Fin 16, laneOwner s lane.val = some p → (getLink s (.path p)).state = 4 →
       (getLink s (.path p)).rowRetrains < 3 → ∃ t, exec (.laneLockLoss lane) s = .next t ∧
         (getLink t (.path p)).state = 5 ∧ (getLink t (.path p)).lanesOk.getLsbD lane.val = false ∧
         t.sys.errSts.getLsbD 9 = true ∧ (getLink t (.path p)).retry = (getLink s (.path p)).retry) ∧
     ((getLink s (.gport p)).state = 4 → (getLink s (.gport p)).rowRetrains < 3 → ∃ t, exec (.gUpFall p) s = .next t ∧
       (getLink t (.gport p)).state = 5 ∧ (getLink t (.gport p)).up = false ∧ t.sys.errSts.getLsbD 9 = true))

/-- A flit on an UP port (R268, R269): one whose CRC-32C fails, or whose number is not the next expected, is discarded
and answered with NAK, an IDLE flit with NAK set that takes the next number while the retry store has room (log entry
108) and nothing waits; an IDLE flit with the right number and CRC that acknowledges nothing advances the number
accepted and changes nothing else. On a port that is not UP nothing is accepted. -/
def Obligations.FlitsAcceptedInOrder : Prop :=
  ∀ (s : State) (port : LinkPort) (flit : BitVec 2048), Up s →
    let l := getLink s port
    let n := flitBytes (isPl2 s port)
    let bs := leBytes n flit.toNat
    let h := leNat (bs.take 8)
    let seq := bits h 8 16 + (if isPl2 s port then 0 else bits h 50 7 * 2 ^ 16)
    let naks : Prop := ∃ a t, exec (.linkFlitReceive port flit) s = .next t ∧ t.out = s.out ++ [.nak port a] ∧
      t.ctxs = s.ctxs ∧ t.jobs = s.jobs ∧ t.ter.mem = s.ter.mem ∧ t.prom.sends = s.prom.sends ∧
      t.prom.landing = s.prom.landing ∧ (getLink t port).rxSeq = l.rxSeq ∧
      (l.held = [] → l.msgs = [] → l.chunks = [] → l.retry.length < storeSize l port (isPl2 s port) →
        (getLink t port).retry = l.retry ++ [(l.txSeq, mkFlit (isPl2 s port) 0 0 l.txSeq l.rxSeq true 0 [])])
    (l.state ≠ 4 → exec (.linkFlitReceive port flit) s = .next s) ∧
    (l.state = 4 → crc32c (bs.take (n - 4)) ≠ leNat (bs.drop (n - 4)) →
      naks) ∧
    (l.state = 4 → seq ≠ l.rxSeq % seqModulus (isPl2 s port) →
      naks) ∧
    (l.state = 4 → crc32c (bs.take (n - 4)) = leNat (bs.drop (n - 4)) → seq = l.rxSeq % seqModulus (isPl2 s port) →
      bits h 0 4 = 0 → h.testBit 40 = false → h.testBit 41 = false →
      ∃ t, exec (.linkFlitReceive port flit) s = .next t ∧ (getLink t port) = { l with rxSeq := l.rxSeq + 1 } ∧
        t = { s with prom := t.prom } ∧ t.prom.sends = s.prom.sends ∧ t.prom.creds = s.prom.creds)

/-- A chunk of the send table leaves on an UP path that is not exposed when no earlier chunk of its entry waits and its
buffer's credits cover its granules: the credits are taken and the chunk is in its slot; without them it waits (R271,
R280). A CREDIT record replaces the count of its buffer together with the epoch that it is tagged with (R280). How a
chunk ends at its sender (R284, R289): a CACK with OK frees its entry; one with CRC or AUTH on the first or second
attempt has it sent again; a CACK with another code, a bounce, and CACK_TO without a CACK halt the sending context with
the code's status and free the entry. -/
def Obligations.ChunksLeaveAndEnd : Prop :=
  (∀ (s : State) (stag : Fin 16384) (e : SendEnt) (k : Nat) (cr : SendCred), Up s →
     tget? s.prom.sends stag.val = some e → e.sent = false → (getLink s e.port).state = 4 → exposedPort s e.port = false →
     (sendBlocked s stag.val e = false → creditFor s e = some (k, cr) →
       ∃ (t : State) (hdr : BitVec 512), exec (.chunkSend stag) s = .next t ∧
         t.out = s.out ++ [.chunk e.port hdr (chunkStream e)] ∧
         tget? t.prom.creds k = some { cr with n := cr.n - e.granules } ∧
         tget? t.prom.sends stag.val =
           some { e with sent := true, credits := e.granules, widx := cr.widx, wgen := cr.wgen } ∧
         ((getLink s e.port).chunks = [] → (getLink s e.port).retry.length < storeSize (getLink s e.port) e.port (isPl2 s e.port) →
           (getLink s e.port).txSeq < (getLink t e.port).txSeq)) ∧
     ((creditFor s e = none ∨ sendBlocked s stag.val e = true) → exec (.chunkSend stag) s = .next s) ∧
     (∀ (port : LinkPort) (u : UPath) (r : BitVec 128), ∃ t, exec (.credit port u r) s = .next t ∧
       let c := bits r.toNat 12 12
       let lid := bits r.toNat 24 8
       let ep := bits r.toNat 64 32
       tget? t.prom.creds (credKey c lid (bufOf s c lid ep)) =
         some ⟨BitVec.ofNat 32 ep, bits r.toNat 96 16, bits r.toNat 0 12, BitVec.ofNat 32 (bits r.toNat 32 32)⟩ ∧
       t = { s with prom := { s.prom with creds := t.prom.creds } })) ∧
  (∀ (s : State) (stag : Fin 16384) (e : SendEnt) (j : Job) (r : BitVec 128), Up s →
     tget? s.prom.sends stag.val = some e → e.sent = true → e.kslot = none → (∀ x ∈ s.prom.sends, x.1 < 16384) →
     findJob s e.ctx e.jobseq = some j → (getCtx s e.ctx).state = .active → bits r.toNat 0 14 = stag.val →
     (bits r.toNat 16 8 = 0 → ∃ t, exec (.cack r) s = .next t ∧ tget? t.prom.sends stag.val = none ∧
       (getCtx t e.ctx).state = .active ∧ t.ter = s.ter) ∧
     ((bits r.toNat 16 8 = 1 ∨ bits r.toNat 16 8 = 2) → e.attempt < 2 → ∃ t, exec (.cack r) s = .next t ∧
       tget? t.prom.sends stag.val = some { e with sent := false, attempt := e.attempt + 1 } ∧
       (getCtx t e.ctx).state = .active) ∧
     (∀ k, bits r.toNat 16 8 = k → 3 ≤ k → k ≤ 7 → ∃ t, exec (.cack r) s = .next t ∧
       tget? t.prom.sends stag.val = none ∧ (getCtx t e.ctx).state = .halted ∧
       (FirstHalt s e.ctx → (getCtx t e.ctx).counts.lastHalt = cackStatus k) ∧ t.sys.errSts.getLsbD 16 = true) ∧
     (∃ t, exec (.chunkTimeout stag) s = .next t ∧ tget? t.prom.sends stag.val = none ∧
       (getCtx t e.ctx).state = .halted ∧ (FirstHalt s e.ctx → (getCtx t e.ctx).counts.lastHalt = 0x300C)) ∧
     (∀ (hdr : BitVec 512) (ep : BitVec 32), chStag hdr = stag.val → chCtx hdr = e.ctx → hcrcOk 416 hdr.toNat = true →
       ∃ t, exec (.bounceReceive hdr ep) s = .next t ∧ tget? t.prom.sends stag.val = none ∧
         (getCtx t e.ctx).state = .halted ∧ (FirstHalt s e.ctx → (getCtx t e.ctx).counts.lastHalt = 0x3009)))

/-- The landing port (R281, R282, R289): a chunk whose HCRC fails is dropped and counted in HDR_ERR; one for this
instance whose window is not open at its generation is answered with a CACK of that code and counts at the window's
owner; one that passes checks 1 to 3 spends its granules' credits and is in flight in its window. The end of a chunk in
flight while no other access waits for the access tables (R281, R282, R284): a stream in the clear whose CRC-64 matches
is written to its place in the landing entry, its flag is set and an OK goes back; one whose CRC-64 does not match
writes nothing and asks, by a CACK with CRC and its credits, for another attempt. -/
def Obligations.ChunksArriveAndLand : Prop :=
  (∀ (s : State) (port : LinkPort) (hdr : BitVec 512), Up s →
     (hcrcOk 416 hdr.toNat = false → ∃ t, exec (.chunkArrival port hdr) s = .next t ∧ t.sys.errSts.getLsbD 10 = true ∧
       (getLink t port).hdrErr = Nat.min ((getLink s port).hdrErr + 1) 0xFFFFFFFF ∧ t.ter = s.ter ∧ t.out = s.out) ∧
     (hcrcOk 416 hdr.toNat = true → chDupath hdr = s.grove.upathSelf →
       ownerRepoch s (chCtx hdr) (chRole hdr) (chLid hdr) = none → mustBeSealed s port hdr = false →
       s.prom.landing.find? (sameChunk hdr) = none →
       (∀ st, landCheck s (isPl2 s port) hdr = some st → ∃ t, exec (.chunkArrival port hdr) s = .next t ∧
         .cackRec (chSupath hdr) (cackRecord (chStag hdr) (windowCode st) 0) ∈ t.out ∧ t.ter.mem = s.ter.mem ∧
         t.prom.landing = s.prom.landing) ∧
       (landCheck s (isPl2 s port) hdr = none → s.ter.access = [] →
         ∃ t, exec (.chunkArrival port hdr) s = .next t ∧ t.ter.mem = s.ter.mem ∧ t.out = s.out ∧
           (getWin t (chWidx hdr)).inflight = (getWin s (chWidx hdr)).inflight + 1 ∧
           (∃ w, w.hdr = hdr ∧ t.prom.landing = s.prom.landing ++ [w])))) ∧
  (∀ (s : State) (port : LinkPort) (hdr : BitVec 512) (data : List Byte) (crc : BitVec 64) (w : LandWriter), Up s →
     s.prom.landing = [w] → w.hdr = hdr → s.prom.landWait = [] → s.ter.xwait = [] → hf hdr 8 1 = 0 → hf hdr 9 1 = 0 → hf hdr 11 1 = 0 → data.length = chLen hdr →
     let c := getCtx s (chCtx hdr)
     let e := tget c.landing (chLid hdr) Landing.absent
     e.place = 0 → landAt s hdr + data.length ≤ viewLen c.regions →
     (crc.toNat = crc64 data → ∃ t, exec (.chunkRetire port hdr (data ++ leBytes 8 crc.toNat)) s = .next t ∧
       t.prom.landing = [] ∧ .cackRec (chSupath hdr) (cackRecord (chStag hdr) 0 0) ∈ t.out ∧
       (∀ p ∈ viewParts c.regions (landAt s hdr) data.length, p.len = data.length →
         memRead t.ter.mem p.phys data.length = data ∧
         ∀ a, (a < p.phys ∨ p.phys + data.length ≤ a) → memByte t.ter.mem a = memByte s.ter.mem a) ∧
       (e.flag0 + hf hdr 296 16 % (e.flagnM1 + 1) < 4096 →
         (getCtx t (chCtx hdr)).flags.getLsbD (e.flag0 + hf hdr 296 16 % (e.flagnM1 + 1)) = true)) ∧
     (crc.toNat ≠ crc64 data → hf hdr 12 2 < 2 →
       ∃ t, exec (.chunkRetire port hdr (data ++ leBytes 8 crc.toNat)) s = .next t ∧ t.ter.mem = s.ter.mem ∧
         .cackRec (chSupath hdr) (cackRecord (chStag hdr) 1 w.granules) ∈ t.out ∧ t.ctxs = s.ctxs))

/-- The handshake for a path key (R411 to R415), step by step at an instance whose Lodge runs: KX1 at the responder
takes two slots and is answered with KX2; KX2 and KX3 from a peer whose identity holds install the keys, of which the
send slot bears the peer's path, and are answered with KX3 and KDONE; KDONE ends the handshake. One whose identity does
not hold, KFAIL and the timeout end the handshake without a key. KRETIRE erases an old receive slot. While Lodge does
not run, the messages wait for it, in order, and the timeout has no effect (R381, R415). -/
def Obligations.PathKeyHandshake : Prop :=
  ∀ (s : State) (u : UPath), Up s → coreState s 0 = 0 → s.prom.keys = [] → s.prom.sends = [] →
    (∀ body : BitVec 1088, initiates s u = false → s.prom.shakes = [] →
      bits body.toNat 1024 8 = (if s.sys.testKeyUsed then 1 else 0) → ∃ (t : State) (x : Shake) (b : List Byte),
        exec (.kx1 u body) s = .next t ∧ tget? t.prom.shakes u.toNat = some x ∧ x.step = 2 ∧
        x.sendSlot ≠ x.recvSlot ∧ x.peerSlot = bits body.toNat 1040 16 ∧ .lctl u 0x21 b ∈ t.out) ∧
    (∀ x : Shake, s.prom.shakes = [(u.toNat, x)] → x.sendSlot ≠ x.recvSlot → x.before = [] →
      (∀ (body : BitVec 1088) (ch : List (List Byte)) (sig : BitVec 768), x.step = 1 →
        (identityBad s ch (x.transcript ++ (leBytes 136 body.toNat ++ chainBytes ch)) sig (bits body.toNat 1024 8) = none →
          ∃ (t : State) (b : List Byte) (k : KeySlot), exec (.kx2 u body ch sig) s = .next t ∧ .lctl u 0x22 b ∈ t.out ∧
            tget? t.prom.keys x.sendSlot = some k ∧ k.peer = u ∧ k.send = true ∧ k.nonce = 0 ∧
            k.peerSlot = bits body.toNat 1040 16) ∧
        (∀ r, identityBad s ch (x.transcript ++ (leBytes 136 body.toNat ++ chainBytes ch)) sig (bits body.toNat 1024 8) =
            some r →
          ∃ t, exec (.kx2 u body ch sig) s = .next t ∧ t.prom.shakes = [] ∧ t.prom.keys = [] ∧
            .lctl u 0x25 (leBytes 4 r) ∈ t.out)) ∧
      (∀ (ch : List (List Byte)) (sig : BitVec 768), x.step = 2 →
        (identityBad s ch (x.transcript ++ chainBytes ch) sig (if s.sys.testKeyUsed then 1 else 0) = none →
          ∃ (t : State) (k : KeySlot), exec (.kx3 u ch sig) s = .next t ∧ t.prom.shakes = [] ∧
            .lctl u 0x23 (leBytes 4 (x.sendSlot + x.recvSlot * 2 ^ 16)) ∈ t.out ∧
            tget? t.prom.keys x.sendSlot = some k ∧ k.peer = u ∧ k.send = true ∧ k.old = false) ∧
        (∀ r, identityBad s ch (x.transcript ++ chainBytes ch) sig (if s.sys.testKeyUsed then 1 else 0) = some r →
          ∃ t, exec (.kx3 u ch sig) s = .next t ∧ t.prom.shakes = [] ∧ t.prom.keys = [] ∧
            .lctl u 0x25 (leBytes 4 r) ∈ t.out)) ∧
      (∀ body : BitVec 32, x.step = 3 → ∃ t, exec (.kdone u body) s = .next t ∧ t.prom.shakes = []) ∧
      (∀ body : BitVec 32, ∃ t, exec (.kfail u body) s = .next t ∧ t.prom.shakes = [] ∧ t.prom.keys = []) ∧
      (∃ t, exec (.handshakeTimeout u) s = .next t ∧ t.prom.shakes = [] ∧ t.prom.keys = [] ∧
        .lctl u 0x25 (leBytes 4 6) ∈ t.out)) ∧
    (∀ (body : BitVec 32) (k : KeySlot) (r : State), r = { s with prom := { s.prom with
        keys := [(bits body.toNat 16 16, k)] } } → k.peer = u → k.send = false → k.old = true →
      ∃ t, exec (.kretire u body) r = .next t ∧ t.prom.keys = []) ∧
    (∀ (r : State), Up r → coreState r 0 ≠ 0 → ∀ (body : BitVec 1088) (w : BitVec 32) (ch : List (List Byte)) (sig : BitVec 768),
      let waits (m : LodgeMsg) : Machine.Result := .next { r with sys := { r.sys with lodgeQ := r.sys.lodgeQ ++ [(u, m)] } }
      exec (.kx1 u body) r = waits (.kx1 body) ∧ exec (.kx2 u body ch sig) r = waits (.kx2 body ch sig) ∧
      exec (.kx3 u ch sig) r = waits (.kx3 ch sig) ∧ exec (.kdone u w) r = waits .kdone ∧
      exec (.kretire u w) r = waits (.kretire w) ∧ exec (.kfail u w) r = waits .kfail ∧
      exec (.handshakeTimeout u) r = .next r)

/-! Rings, jobs and records. -/

/-- A doorbell write to the low word: with every byte enabled, a SQ_TAIL that lies at most the ring's size ahead of
SQ_HEAD is taken with CQ_HEAD, and nothing else changes; any other SQ_TAIL leaves both and raises SQ_OVF (R351).
COMPLETION_RECORD_WRITE writes the oldest held record where the completion ring has room and the record does not reach
its end: its bytes, with the phase of its position, stand in host memory from CQ_TAIL on, CQ_TAIL passes it, and with
IEN the context's vector is pending (R360, R361, R460); the record of a collective frees its slot (R304), and the record
of an accepted MODE_SET sets its mode (R377). A ring without room keeps its records. IRQ_VECTOR_SEND sends the lowest
pending vector and clears it; with none pending nothing is sent. -/
def Obligations.DoorbellsRecordsAndVectors : Prop :=
  (∀ (s : State) (c : CtxId) (v : BitVec 64), OutOfReset s →
     let r := (getCtx s c.val).ring
     let tail := bits v.toNat 0 24
     ∃ t, exec (.doorbellWrite (.ctx c) false v 0xFF) s = .next t ∧
       (∀ d, d ≠ c.val → getCtx t d = getCtx s d) ∧
       (posDiff tail r.sqHead ≤ 2 ^ r.sqLog2 →
         getCtx t c.val = { getCtx s c.val with ring := { r with sqTail := tail, cqHead := bits v.toNat 32 24 } } ∧
           t = { s with ctxs := t.ctxs }) ∧
       (2 ^ r.sqLog2 < posDiff tail r.sqHead →
         (getCtx t c.val).ring = r ∧ t.sys.errSts.getLsbD 17 = true ∧
           (getCtx t c.val).counts.sqOvf = Nat.min ((getCtx s c.val).counts.sqOvf + 1) 0xFFFFFFFF)) ∧
  ((∀ (s : State) (m : Mbox) (rec : CRec) (rest : List CRec), Up s → MemoriesCanonical s → NoneQuiescing s →
     s.ter.lines = [] →
     let c := mboxCtx m
     let r := ringAt s c
     let size := 2 ^ r.cqLog2
     r.held = rec :: rest → 0 < rec.units → 6 ≤ r.cqLog2 → r.cqLog2 ≤ 16 → r.cqTail < 2 ^ 24 → r.cqTail % size + rec.units ≤ size →
     (posDiff r.cqTail r.cqHead + rec.units ≤ size →
       ∃ t, exec (.completionRecordWrite m) s = .next t ∧ (ringAt t c).held = rest ∧
         (ringAt t c).cqTail = (r.cqTail + rec.units) % 2 ^ 24 ∧
         extPeek t 1 (r.cqBase + r.cqTail % size * 16) (16 * rec.units) =
           leBytes (16 * rec.units) (rec.bitsOf (phaseAt r.cqLog2 r.cqTail)) ∧
         t.sys.irqPend = (if c ≠ mgmtCtx ∧ r.ien = true then s.sys.irqPend ||| (1#1024 <<< (getCtx s c).ivec)
           else s.sys.irqPend) ∧ t.ter.mem = s.ter.mem ∧ t.ext.stack = s.ext.stack ∧
         (∀ i, rec.slot = some i → tget? t.band.slots i = none) ∧ t.sys.mode = rec.mode.getD s.sys.mode) ∧
     (size < posDiff r.cqTail r.cqHead + rec.units → exec (.completionRecordWrite m) s = .next s)) ∧
   (∀ (s : State) (v : Nat), Up s → v < 1024 → s.sys.irqPend.getLsbD v = true →
     (∀ u, u < v → s.sys.irqPend.getLsbD u = false) →
     exec .irqVectorSend s = .next { s with
       out := s.out ++ [.irq v], sys := { s.sys with irqPend := s.sys.irqPend &&& ~~~(1#1024 <<< v) } }) ∧
   (∀ s : State, Up s → s.sys.irqPend = 0 → exec .irqVectorSend s = .next s))

/-- JOB_SUBMIT outside a grove, once admission's reads have succeeded (R199, R250, R368, R511): the context's job number
rises by 1 whatever follows; a descriptor that a check refuses, or whose landing windows cannot open (R217), ends in a
record with its code and changes neither the jobs nor the Pavilions nor the Terrace; one that every check accepts, with
every Kiosk running, joins the admitted jobs, and each of its programs waits at its Pavilion behind those admitted
before (R398). -/
def Obligations.JobIsAdmittedOrRefused : Prop :=
  ∀ (s : State) (c : CtxId) (h : HeadMsg), Accepted s c.val 0x01 h → (getCtx s c.val).grove = false →
    arg h 64 64 % 64 = 0 →
    let n := nextJobNo (getCtx s c.val).jobCount
    let s0 := modCtx c.val (fun x => { x with jobCount := n }) s
    ∀ (i : AdmIn) (s1 : State), (readAdm c.val (arg h 64 64)).exec s0 = (.ok i, s1) →
      let r := withKvalid h.msg i.raw
      (∀ f : Refused, admitChecks s1 c.val (ownIndex s0) h.msg.gen r i = some f →
        ∃ t, exec (.jobSubmit c) s = .next t ∧ Answered s t c.val h f.1 (refusedJobBody n f.2.1 f.2.2) ∧
          (getCtx t c.val).jobCount = n ∧ t.jobs = s.jobs ∧ t.pavs = s.pavs ∧ t.ter.mem = s.ter.mem) ∧
      (admitChecks s1 c.val (ownIndex s0) h.msg.gen r i = none →
        ∀ st, jobWinsBad s1 c.val (newJob s1 c.val (ownIndex s0) h.msg none r i).desc = some st →
        ∃ t, exec (.jobSubmit c) s = .next t ∧ Answered s t c.val h st (refusedJobBody n 0 0) ∧
          (getCtx t c.val).jobCount = n ∧ t.jobs = s.jobs ∧ t.pavs = s.pavs ∧ t.ter.mem = s.ter.mem) ∧
      (admitChecks s1 c.val (ownIndex s0) h.msg.gen r i = none →
        jobWinsBad s1 c.val (newJob s1 c.val (ownIndex s0) h.msg none r i).desc = none →
        kioskWait s1 (newJob s1 c.val (ownIndex s0) h.msg none r i) = false →
        ∃ (t : State) (j : Job), exec (.jobSubmit c) s = .next t ∧ Taken s t c.val h ∧
          (getCtx t c.val).jobCount = n ∧ t.jobs = s.jobs ++ [j] ∧ j.ctx = c.val ∧ j.jobseq = n ∧ j.tag = h.msg.tag ∧
          j.started = [] ∧ j.ended = [] ∧ j.fault = none ∧ t.ter.mem = s.ter.mem ∧
          ∀ p, (getPav t p).waitq = (getPav s p).waitq ++
            ((localProgs j).filter (fun e => e.2.pav == p)).map (fun e => (c.val, n, e.1)))

/-- JOB_COMPLETE at a job all of whose effects are committed, of a context that is not being freed and for which no
CTX_RESUME waits: the job leaves the admitted jobs and every Pavilion, and its record, which carries its number, its
counters and the status of its fault or OK, is queued for its ring (R250, R360, R363, R395). A job without a fault that
is not over stays as it is. CTX_RESUME brings a halted context back to ACTIVE (R369): with no faulted job of the context
left its record follows at once, and otherwise it waits for the records of the jobs that halted the context. In a grove
context the record also waits for the other members, to each of which the leader forwards the message (R341, R344). -/
def Obligations.JobsEndAndContextsResume : Prop :=
  (∀ (s : State) (c : CtxId) (seq : BitVec 32) (j : Job), Up s → findJob s c.val seq = some j →
     (getCtx s c.val).state ≠ .quiescing →
     (jobOver j = true → j.via = none → (getCtx s c.val).resumeWait = [] →
       ∃ (t : State) (r : CRec), exec (.jobComplete c seq) s = .next t ∧
         t.jobs = s.jobs.filter (fun k => !(k.ctx == c.val && k.jobseq == seq)) ∧
         (ringAt t c.val).held = (ringAt s c.val).held ++ [r] ∧ r.kind = 1 ∧ r.gen = j.gen ∧ r.tag = j.tag ∧
         r.status = (j.fault.map (·.status)).getD 0 ∧ bits r.body 0 32 = seq.toNat ∧
         (j.invalid < 2 ^ 32 → bits r.body 32 32 = j.invalid) ∧
         (∀ (p : PavId) (q : PSlot) (g : Prog), getProg t p.val q = some g → ¬ (g.ctx = c.val ∧ g.jobseq = seq)) ∧
         (∀ p : PavId, ∀ w ∈ (getPav t p.val).waitq, ¬ (w.1 = c.val ∧ w.2.1 = seq)) ∧ t.ter.mem = s.ter.mem) ∧
     (jobOver j = false → j.fault = none → exec (.jobComplete c seq) s = .next s)) ∧
  ((∀ (s : State) (c : CtxId) (h : HeadMsg) (g : GroveSt), Accepted s c.val 0x02 h → (getCtx s c.val).grove = true →
     rootGrove s = some g → leadsRoot s = true → g.lost = [] → otherMembers s ≠ [] →
     ∃ t, exec (.ctxResume c) s = .next t ∧ (getCtx t c.val).state = .active ∧ Taken s t c.val h ∧ t.jobs = s.jobs ∧
       (getCtx t c.val).resumeWait = (getCtx s c.val).resumeWait ++ [waiterOf c.val h.msg] ∧
       ∀ i ∈ otherMembers s, ∃ n, .grove (memberPath s i) (groveHdr g 7 n) (gfwdBody i 1 c.val h.msg.bits []) ∈ t.out) ∧
   ∀ (s : State) (c : CtxId) (h : HeadMsg), Accepted s c.val 0x02 h → (getCtx s c.val).grove = false →
     ∃ t, exec (.ctxResume c) s = .next t ∧ (getCtx t c.val).state = .active ∧ (getCtx t c.val).haltPending = false ∧
       t.jobs = s.jobs ∧ t.ter = s.ter ∧
       (s.jobs.any (fun j => j.ctx == c.val && j.fault.isSome) = false →
         Answered s t c.val h 0 (cmdBody 2 0 0 0 0)) ∧
       (s.jobs.any (fun j => j.ctx == c.val && j.fault.isSome) = true →
         Taken s t c.val h ∧ (getCtx t c.val).resumeWait = (getCtx s c.val).resumeWait ++ [waiterOf c.val h.msg]))

/-! Tile programs: their start, dispatch, retirement and end. -/

/-- PROGRAM_START takes the head of a Pavilion's queue when its Kiosk runs and the Pavilion can hold it beside what it
holds (R381, R398), in a grove job once each member has taken its part (log entry 40): the program stands at its first
command, TPC 2, in the job's first epoch, with the counters that it has received; PROGA is taken when it is free. The
first program of a job reads the job's parameters first (R141). SUSPEND takes a program out of its Pavilion when R398
asks for it and keeps it, with everything that it holds, in a free save slot; the other program goes on. RESUME puts the
program suspended first back as it was once the Pavilion can hold it (R398, R399). One of whose slot a word reads as
poisoned halts instead (the model's choice, log entry 121). -/
def Obligations.ProgramsEnterAndResume : Prop :=
  (∀ (s : State) (p : PavId) (c idx : Nat) (seq : BitVec 32) (rest : List (Nat × BitVec 32 × Nat)) (j : Job) (hd : ProgHdr),
     Up s → (getPav s p.val).waitq = (c, seq, idx) :: rest → findJob s c seq = some j → j.progs[idx]? = some hd →
     (coreState s (3 + p.val) = 0 → j.untaken = [] → canHold s (occupants s p.val) j hd = true →
       (j.paramsRead = false → ∃ (vecs : List (Nat × Nat × List (BitVec 32))) (s1 : State),
         (readVecs c j).exec (modPav p.val (fun v => { v with waitq := rest }) s) = (.ok vecs, s1)) →
       ∃ (t : State) (g : Prog) (k : Job), exec (.programStart p) s = .next t ∧ getProg t p.val (entrySlot s p.val) = some g ∧
         g.ctx = c ∧ g.jobseq = seq ∧ g.idx = idx ∧ g.hdr = hd ∧ g.tpc = 2 ∧ g.epoch = j.desc.epoch0 ∧
         g.tok = tget j.preTok idx [] ∧ g.queues = [] ∧ g.acc = [] ∧ g.feed = [] ∧
         getProg t p.val (otherSlot (entrySlot s p.val)) = getProg s p.val (otherSlot (entrySlot s p.val)) ∧
         (getPav t p.val).waitq = rest ∧ findJob t c seq = some k ∧ k.started = j.started ++ [idx] ∧ k.paramsRead = true ∧
         (∀ d, d ≠ p.val → getPav t d = getPav s d) ∧ t.ter.mem = s.ter.mem) ∧
     (coreState s (3 + p.val) ≠ 0 ∨ j.untaken ≠ [] ∨ canHold s (occupants s p.val) j hd = false →
       exec (.programStart p) s = .next s)) ∧
  ((∀ (s : State) (p : PavId) (q : PSlot) (g : Prog) (k : Nat), Up s → getProg s p.val q = some g → freeSave s = some k →
     (maySuspend s p.val q = true → suspendFirst s p.val q = true →
       ∃ t, exec (.suspend p q) s = .next t ∧ getProg t p.val q = none ∧
         (getPav t p.val).saved = (getPav s p.val).saved ++ [⟨k, p.val, { g with slotStop := false }⟩] ∧
         getProg t p.val (otherSlot q) = getProg s p.val (otherSlot q) ∧ (getPav t p.val).waitq = (getPav s p.val).waitq ∧
         (∀ d, d ≠ p.val → getPav t d = getPav s d) ∧ t.jobs = s.jobs ∧ t.ctxs = s.ctxs ∧ t.ter.mem = s.ter.mem) ∧
     (maySuspend s p.val q = false → exec (.suspend p q) s = .next s)) ∧
   (∀ (s : State) (p : PavId) (v : Saved) (rest : List Saved) (j : Job), Up s → (getPav s p.val).saved = v :: rest →
     findJob s v.prog.ctx v.prog.jobseq = some j →
     (coreState s (3 + p.val) = 0 → canHold s (occupants s p.val) j v.prog.hdr = true → savePoisoned s v.slot v.prog = false →
       ∃ t, exec (.resume p) s = .next t ∧
         getProg t p.val (entrySlot s p.val) = some { v.prog with startedAt := s.sys.time } ∧
         (getPav t p.val).saved = rest ∧ t = { s with pavs := t.pavs, mports := t.mports }) ∧
     (coreState s (3 + p.val) = 0 → canHold s (occupants s p.val) j v.prog.hdr = true → savePoisoned s v.slot v.prog = true →
       ∃ (t : State) (f : Job), exec (.resume p) s = .next t ∧ findJob t v.prog.ctx v.prog.jobseq = some f ∧
         (FirstHalt s v.prog.ctx → (f.fault.map (·.status)) = some stTERRACE_UE)) ∧
     (coreState s (3 + p.val) ≠ 0 ∨ canHold s (occupants s p.val) j v.prog.hdr = false → exec (.resume p) s = .next s)))

/-- COMMAND_DISPATCH fetches the command at the TPC of the program whose turn it is and puts it last into its queue, and
the TPC moves on; a command that breaks a check at its fetch halts the context with PROG_BAD; a full queue, a command
that stops dispatch until it issues, and a change of ACLK hold it (R180, R181, R188, R434). -/
def Obligations.CommandsAreDispatchedInOrder : Prop :=
  ∀ (s s1 : State) (p : PavId) (g : Prog) (bs : List Byte) (tags : List (BitVec 2)), Up s →
    liveProg s p.val (turnOf s p.val) = some g → g.slotStop = false →
    let w := leNat bs
    (dispatchHeld s p.val = true ∨ stopsDispatch g = true → exec (.commandDispatch p) s = .next s) ∧
    (dispatchHeld s p.val = false → stopsDispatch g = false →
      terRead s g.ctx (g.hdr.addr + 16 * g.tpc) 16 = (s1, .ok (bs, tags)) →
      (fetchOk g w = true → (tget g.queues (queueOf w) []).length < 8 →
        ∃ (t : State) (h : Prog) (x : QCmd), exec (.commandDispatch p) s = .next t ∧
          getProg t p.val (turnOf s p.val) = some h ∧ tget h.queues (queueOf w) [] = tget g.queues (queueOf w) [] ++ [x] ∧
          x.word.toNat = w % 2 ^ 128 ∧ x.tpc = g.tpc ∧ x.num = g.nextNum ∧ h.nextNum = g.nextNum + 1 ∧ h.lastTpc = g.tpc ∧
          (∀ k, k ≠ queueOf w → tget h.queues k [] = tget g.queues k []) ∧
          (g.loops = [] → cOpc w ≠ oLOOP → h.tpc = g.tpc + 1) ∧ h.acc = g.acc ∧ h.tok = g.tok ∧ h.issued = g.issued ∧
          t.ter.mem = s.ter.mem ∧ t.jobs = s.jobs) ∧
      (fetchOk g w = true → 8 ≤ (tget g.queues (queueOf w) []).length → exec (.commandDispatch p) s = .next s) ∧
      (fetchOk g w = false → ∀ j, findJob s g.ctx g.jobseq = some j →
        ∃ (t : State) (k : Job), exec (.commandDispatch p) s = .next t ∧ findJob t g.ctx g.jobseq = some k ∧
          (FirstHalt s g.ctx → k.fault = some (progFault p.val g g.tpc (plainFault stPROG_BAD))) ∧ t.sys.errSts.getLsbD 16 = true ∧
          ((getCtx s g.ctx).state = .active → (getCtx t g.ctx).state = .halted)))

/-- COMMAND_RETIRE takes an issued command out once its chunks are acknowledged and its pass is checked, and its header
signal fires (R184, R499): none, a token of its own program, a token of a program on another instance, or a flag of the
context, whose repeated set counts FLAG_REPEAT (R186). A counter that would pass 65,535 halts the context with
TOKEN_OVF. REMOTE_TOKEN_ARRIVAL adds its increment to the counter of the program that holds the role when it carries the
role's epoch, and otherwise goes back as a bounce and counts MISROUTED_IN (R184, R197, R289). -/
def Obligations.RetiredCommandsAndTokensSignal : Prop :=
  (∀ (s : State) (p : PavId) (q : PSlot) (num : Nat) (g : Prog) (i : Issued), Up s → getProg s p.val q = some g →
     g.halted = false → g.issued.find? (fun i => i.cmd.num == num) = some i →
     let w := i.cmd.word.toNat
     let pending : Bool := !i.chunks.isEmpty || (getPav s p.val).passes.any (fun x => x.q == q && x.num == num)
     (pending = true → exec (.commandRetire p q num) s = .next s) ∧
     (pending = false →
       (cSkind w = 0 → ∃ (t : State) (h : Prog), exec (.commandRetire p q num) s = .next t ∧ getProg t p.val q = some h ∧
         h = { g with issued := g.issued.filter (fun i => i.cmd.num != num) } ∧ t.ctxs = s.ctxs ∧ t.ter = s.ter ∧
         t.jobs = s.jobs ∧ t.out = s.out) ∧
       (cSkind w = 1 → tget g.tok (cStok w) 0 + tokenInc w ≤ 65535 → ∃ (t : State) (h : Prog),
         exec (.commandRetire p q num) s = .next t ∧ getProg t p.val q = some h ∧
         h.issued = g.issued.filter (fun i => i.cmd.num != num) ∧
         tget h.tok (cStok w) 0 = tget g.tok (cStok w) 0 + tokenInc w ∧
         (∀ k, k ≠ cStok w → tget h.tok k 0 = tget g.tok k 0) ∧ t.ctxs = s.ctxs ∧ t.ter = s.ter) ∧
       (cSkind w = 1 → 65535 < tget g.tok (cStok w) 0 + tokenInc w → ∀ j, findJob s g.ctx g.jobseq = some j →
         ∃ (t : State) (k : Job), exec (.commandRetire p q num) s = .next t ∧ findJob t g.ctx g.jobseq = some k ∧
           (FirstHalt s g.ctx → k.fault = some (progFault p.val g i.cmd.tpc (plainFault stTOKEN_OVF)))) ∧
       (cSkind w = 2 → (roleOf (getCtx s g.ctx) g.epoch (cSdest w)).valid = true →
         roleHere s (roleOf (getCtx s g.ctx) g.epoch (cSdest w)) = false →
         ∃ t, exec (.commandRetire p q num) s = .next t ∧
           .token (roleOf (getCtx s g.ctx) g.epoch (cSdest w)).upath g.ctx (cSdest w) (cStok w) (tokenInc w)
             (roleOf (getCtx s g.ctx) g.epoch (cSdest w)).repoch g.hdr.role ∈ t.out) ∧
       (cSkind w = 3 → setFlagOf w i.cmd.regs < 4096 → ∃ t, exec (.commandRetire p q num) s = .next t ∧
         (∀ f, (getCtx t g.ctx).flags.getLsbD f =
           ((getCtx s g.ctx).flags.getLsbD f || decide (f = setFlagOf w i.cmd.regs))) ∧
         (getCtx t g.ctx).counts.flagRepeat = (if (getCtx s g.ctx).flags.getLsbD (setFlagOf w i.cmd.regs)
           then Nat.min ((getCtx s g.ctx).counts.flagRepeat + 1) 0xFFFFFFFF else (getCtx s g.ctx).counts.flagRepeat)))) ∧
  (∀ (s : State) (c : CtxId) (role : Fin 4096) (re : BitVec 32) (tok : Fin 64) (inc : Fin 256) (sr : Fin 4096) (u : UPath)
     (j : Job) (h : TokHome) (ep : Nat), Up s → roleHolder s c.val role.val none = some (j, h, ep) →
     let here := (roleOf (getCtx s c.val) ep role.val).repoch
     (here = re → homeTok s h tok.val + inc.val ≤ 65535 →
       ∃ t, exec (.remoteTokenArrival c role re tok inc sr u) s = .next t ∧
         homeTok t h tok.val = homeTok s h tok.val + inc.val ∧ t.ctxs = s.ctxs ∧ t.ter = s.ter ∧ t.out = s.out) ∧
     (here ≠ re → ∃ t, exec (.remoteTokenArrival c role re tok inc sr u) s = .next t ∧
       t.out = s.out ++ [.tokenBounce u c.val role.val here] ∧ homeTok t h tok.val = homeTok s h tok.val ∧
       (getCtx t c.val).counts.misroutedIn = Nat.min ((getCtx s c.val).counts.misroutedIn + 1) 0xFFFFFFFF))

/-- A head that has waited WAIT_DL on a token, a flag, leave or the scoreboard halts its context with WAIT_TIMEOUT,
named with its TPC, Pavilion and member; a head that waits on none of them, or whose job has a suspended program, does
not (R189, R402). A context that runs becomes HALTED, and LAST_HALT, HALTS and CTX_HALT record it (R480, R484). The
check of the oldest pass of an array (R499): a pass whose check holds is done; one whose check fails is repeated, up to
its third failure, which halts the context with TERRACE_UE and counts it in TER_UE. A command that reads a word of its
Pavilion's storage that cannot be corrected halts its context in the same way at its own TPC, and has no effect; one
that reads correctable words acts as on the corrected storage (R497, R498). -/
def Obligations.WaitsAndPassesHaltTheContext : Prop :=
  (∀ (s : State) (p : PavId) (q : PSlot) (k : Fin 5) (g : Prog) (c : QCmd) (j : Job), Up s → liveProg s p.val q = some g →
     headOf g k.val = some c → findJob s g.ctx g.jobseq = some j →
     (headWait s p.val j g c ≠ 0 → jobSuspended s g.ctx g.jobseq = false →
       ∃ (t : State) (x : Job), exec (.waitTimeout p q k) s = .next t ∧ findJob t g.ctx g.jobseq = some x ∧
         (FirstHalt s g.ctx → x.fault = some ⟨0x3001, g.hdr.member, p.val, 255, c.tpc, 0, 0⟩ ∧
           (getCtx t g.ctx).counts.lastHalt = 0x3001) ∧ t.sys.errSts.getLsbD 16 = true ∧
         (getCtx t g.ctx).counts.halts = Nat.min ((getCtx s g.ctx).counts.halts + 1) 0xFFFFFFFF ∧
         ((getCtx s g.ctx).state = .active → (getCtx t g.ctx).state = .halted) ∧
         (∀ d, d ≠ g.ctx → getCtx t d = getCtx s d) ∧ t.ter = s.ter) ∧
     (headWait s p.val j g c = 0 ∨ jobSuspended s g.ctx g.jobseq = true → exec (.waitTimeout p q k) s = .next s)) ∧
  ((∀ (s : State) (p : PavId) (q : PSlot) (arr : Fin 2) (i : Instr) (k o : Nat) (body : Body) (g : Prog) (j : Job) (c : QCmd),
     (i, k, o, body) ∈ tileInstrs p q arr → Heads s p q k o g j c →
     (storeLost (storeMet s p.val j g c) = true → ∃ (t : State) (f : Job), exec i s = .next t ∧
       findJob t g.ctx g.jobseq = some f ∧
       (FirstHalt s g.ctx → f.fault = some (progFault p.val g c.tpc (plainFault stTERRACE_UE))) ∧
       t.sys.errSts.getLsbD 4 = true ∧ t.ter = s.ter ∧ t.ext = s.ext) ∧
     (storeLost (storeMet s p.val j g c) = false → exec i s = exec i (mendStore p.val (storeMet s p.val j g c) s))) ∧
   (∀ (s : State) (p : PavId) (q : PSlot) (arr : Fin 2) (x : Pass), Up s →
     let mine (y : Pass) : Bool := y.q == q && y.arr == arr.val
     let same (y : Pass) : Bool := mine y && y.num == x.num
     (getPav s p.val).passes.find? mine = some x →
     (∃ t, exec (.passCheck p q arr true) s = .next t ∧
       (getPav t p.val).passes = (getPav s p.val).passes.filter (fun y => !same y) ∧ t = { s with pavs := t.pavs }) ∧
     (x.fails < 2 → ∃ t, exec (.passCheck p q arr false) s = .next t ∧
       (getPav t p.val).passes = (getPav s p.val).passes.map (fun y => if same y then { y with fails := y.fails + 1 } else y) ∧
       t = { s with pavs := t.pavs }) ∧
     (2 ≤ x.fails → ∀ (g : Prog) (j : Job), getProg s p.val q = some g → findJob s g.ctx g.jobseq = some j →
       ∃ (t : State) (k : Job), exec (.passCheck p q arr false) s = .next t ∧ findJob t g.ctx g.jobseq = some k ∧
         (FirstHalt s g.ctx → (k.fault.map (·.status)) = some stTERRACE_UE) ∧ t.sys.errSts.getLsbD 4 = true)))

/-! Tile commands. -/

/-- Every tile command but END, ready at the head of its queue: where its meaning succeeds, it issues, waits for the
chunks that it has entered into the send table, and touches neither the Terrace outside its context's regions, nor
another context, nor the Pavilion's other program (R181, R184, R205); where its meaning meets a fault, its context halts
with that fault, its TPC, Pavilion and member (R189, R363). -/
def Obligations.EveryTileCommandIssues : Prop :=
  ∀ (s : State) (p : PavId) (q : PSlot) (arr : Fin 2) (g : Prog) (j : Job) (c : QCmd), ∀ e ∈ tileInstrs p q arr,
    Ready s p q e.2.1 e.2.2.1 g j c →
    (∀ (evs : List Ev) (stags : List Nat), (Meaning s p q e.2.1 g j c e.2.2.2).1 = .ok (evs, stags) →
      ∃ (t : State) (h : Prog), exec e.1 s = .next t ∧ IssuedIn t p q e.2.1 g h c stags ∧
        (∀ a, OutsideRegions s g.ctx a → memByte t.ter.mem a = memByte s.ter.mem a) ∧
        (∀ d, d ≠ g.ctx → getCtx t d = getCtx s d) ∧
        getProg t p.val (otherSlot q) = getProg s p.val (otherSlot q) ∧ (∀ d, d ≠ p.val → getPav t d = getPav s d)) ∧
    (∀ f : RFault, (Meaning s p q e.2.1 g j c e.2.2.2).1 = .error f →
      ∃ (t : State) (k : Job), exec e.1 s = .next t ∧ findJob t g.ctx g.jobseq = some k ∧
        (FirstHalt s g.ctx → k.fault = some (progFault p.val g c.tpc f) ∧ (getCtx t g.ctx).counts.lastHalt = f.status) ∧
        ((getCtx s g.ctx).state = .active → (getCtx t g.ctx).state = .halted) ∧
        (∀ a, OutsideRegions s g.ctx a → memByte t.ter.mem a = memByte s.ter.mem a) ∧
        (∀ d, d ≠ g.ctx → getCtx t d = getCtx s d))

/-- The commands that only set the sequencer's state, ready at their heads (R178, R179, R186, R187, R197, R198): SETQ
sets the query tile and, with RSTAT, the first row state of its rows; ZACC clears its tiles and no other; FLAGCLR clears
one flag; TOKADD, WAIT and LOOP have no effect beyond the header; EPOCH enters the next epoch where the program's own
role is valid in it and halts its context with PROG_BAD otherwise; LEAVE asks for its class, or releases. END, ready at
its head with every earlier command retired, retires at once: its signal fires, its program has ended and leaves the
Pavilion with its tiles, entries and row state, while the Terrace and the other program stay (R184, R395). The cases are
those of a signal that halts nothing: none, a token of the program, a token sent to another instance, a flag. -/
def Obligations.ControlCommandsIssueAndEnd : Prop :=
  (∀ (s : State) (p : PavId) (q : PSlot) (g : Prog) (j : Job) (c : QCmd),
     let w := c.word.toNat
     let d := j.desc
     (Ready s p q 2 oSETQ g j c → ∃ (t : State) (h : Prog), exec (.setq p q) s = .next t ∧ IssuedIn t p q 2 g h c [] ∧
       (let qt := (tref w c.regs).toNat
        h.qtile = qt ∧ (bit w 88 = true → ∀ r, r < d.q → rowState h (qt * d.q + r) = RowState.init) ∧
        (bit w 88 = false → h.rsu = g.rsu)) ∧ h.acc = g.acc ∧ h.feed = g.feed ∧ t.ter = s.ter ∧ t.ctxs = s.ctxs) ∧
     (∀ arr : Fin 2, Ready s p q arr.val oZACC g j c → ∃ (t : State) (h : Prog), exec (.zacc p q arr) s = .next t ∧
       IssuedIn t p q arr.val g h c [] ∧
       (∀ k, tget h.acc k [] = if 16 * queueOf w + bits w 65 4 ≤ k ∧ k < 16 * queueOf w + bits w 65 4 + (bits w 69 4 + 1)
         then [] else tget g.acc k []) ∧ h.feed = g.feed ∧ h.rsu = g.rsu ∧ t.ter = s.ter ∧ t.ctxs = s.ctxs) ∧
     (Ready s p q 4 oFLAGCLR g j c → ∃ (t : State) (h : Prog), exec (.flagclr p q) s = .next t ∧ IssuedIn t p q 4 g h c [] ∧
       (∀ f, (getCtx t g.ctx).flags.getLsbD f =
         ((getCtx s g.ctx).flags.getLsbD f && decide (f ≠ clrFlag w c.regs))) ∧ t.ter = s.ter ∧ h.acc = g.acc) ∧
     (∀ e ∈ [(Instr.tokadd p q, oTOKADD), (Instr.wait p q, oWAIT), (Instr.loop p q, oLOOP)], Ready s p q 4 e.2 g j c →
       ∃ (t : State) (i : Issued), exec e.1 s = .next t ∧ i.cmd = c ∧ i.chunks = [] ∧
         getProg t p.val q = some (takeHead 4 i g) ∧ t.ter = s.ter ∧ t.ctxs = s.ctxs ∧ t.jobs = s.jobs) ∧
     (Ready s p q 4 oEPOCH g j c → bits w 64 32 = g.epoch + 1 →
       (roleOf (getCtx s g.ctx) (bits w 64 32) g.hdr.role).valid = true →
       ∃ (t : State) (h : Prog), exec (.epoch p q) s = .next t ∧ IssuedIn t p q 4 g h c [] ∧ h.epoch = g.epoch + 1 ∧
         h.cseq = [] ∧ h.acc = g.acc ∧ t.ter.mem = s.ter.mem) ∧
     (Ready s p q 4 oEPOCH g j c →
       (bits w 64 32 ≠ g.epoch + 1 ∨ (roleOf (getCtx s g.ctx) (bits w 64 32) g.hdr.role).valid = false) →
       ∃ (t : State) (k : Job), exec (.epoch p q) s = .next t ∧ findJob t g.ctx g.jobseq = some k ∧
         (FirstHalt s g.ctx → k.fault = some (progFault p.val g c.tpc (plainFault stPROG_BAD)))) ∧
     (Ready s p q 4 oLEAVE g j c → ∃ (t : State) (h : Prog), exec (.leave p q) s = .next t ∧ IssuedIn t p q 4 g h c [] ∧
       h.leaveWant = bits w 64 2 ∧ (getPav t p.val).leave ≤ (getPav s p.val).leave ∧
       (bits w 64 2 ≠ 0 → (getPav t p.val).leave = (getPav s p.val).leave ∧
         (getPav t p.val).leaveReq = Nat.max (getPav s p.val).leaveReq (bits w 64 2)))) ∧
  (∀ (s : State) (p : PavId) (q : PSlot) (g : Prog) (j : Job) (c : QCmd), Ready s p q 4 oEND g j c → g.issued = [] →
     (getPav s p.val).passes.any (fun x => x.q == q && x.num == c.num) = false →
     let w := c.word.toNat
     let r := roleOf (getCtx s g.ctx) g.epoch (cSdest w)
     (cSkind w = 1 → tget g.tok (cStok w) 0 + tokenInc w ≤ 65535) → (cSkind w = 2 → r.valid = true ∧ roleHere s r = false) →
     ∃ (t : State) (k : Job), exec (.end_ p q) s = .next t ∧ getProg t p.val q = none ∧
       findJob t g.ctx g.jobseq = some k ∧ k.ended = j.ended ++ [g.idx] ∧ k.fault = j.fault ∧
       getProg t p.val (otherSlot q) = getProg s p.val (otherSlot q) ∧ t.ter = s.ter ∧
       (cSkind w = 3 → setFlagOf w c.regs < 4096 → (getCtx t g.ctx).flags.getLsbD (setFlagOf w c.regs) = true))

/-- LOAD, MMA and DRAIN, ready at their heads and with a meaning that succeeds. LOAD puts one tile of as many rows as
the stream's tile has, none of whose elements exceeds the declared bound (R35), last into the FIFO or into the resident
region of each array that it names. MMA writes only the accumulator tiles that it names, records their GRID, takes what
it pops from the FIFO, and its pass awaits its check (R182, R499). DRAIN writes only the feed entries that it names and
the row state of its query tile (R58). None of the three writes the Terrace but DRAIN, which writes where it dumps or
keeps maxima. -/
def Obligations.ArrayCommandsFillTiles : Prop :=
  ∀ (s : State) (p : PavId) (q : PSlot) (g : Prog) (j : Job) (c : QCmd) (evs : List Ev) (stags : List Nat),
    let w := c.word.toNat
    let d := j.desc
    (Ready s p q 3 oLOAD g j c → (Meaning s p q 3 g j c loadBody).1 = .ok (evs, stags) →
      ∃ (t : State) (h : Prog) (x : Stream) (o : OpTile), exec (.load p q) s = .next t ∧ IssuedIn t p q 3 g h c [] ∧
        d.stream (bits w 66 8) = some x ∧ o.use = x.use ∧ o.tile = (tref w c.regs).toNat ∧
        o.rows.length = tileRows d x.use ∧ (∀ row ∈ o.rows, ∀ v ∈ row, v.exceeds x.xbnd = false) ∧
        (∀ a ∈ loadArrays w, (bit w 98 = true → tget h.fifo a [] = tget g.fifo a [] ++ [o]) ∧
          (bit w 98 = false → o ∈ tget h.resident a [] ∧
            ∀ y ∈ tget g.resident a [], y.use ≠ x.use → y ∈ tget h.resident a [])) ∧
        h.acc = g.acc ∧ h.feed = g.feed ∧ h.rsu = g.rsu ∧ t.ter.mem = s.ter.mem) ∧
    (∀ arr : Fin 2, Ready s p q arr.val oMMA g j c → (Meaning s p q arr.val g j c mmaBody).1 = .ok (evs, stags) →
      let a0 := 16 * queueOf w + bits w 77 4 + (if bit w 86 then lreg c.regs 0 % 2 else 0)
      let n := bits w 87 4 + 1
      ∃ (t : State) (h : Prog) (x : Pass), exec (.mma p q arr) s = .next t ∧ IssuedIn t p q arr.val g h c [] ∧
        (∀ k, ¬ (a0 ≤ k ∧ k < a0 + n) → tget h.acc k [] = tget g.acc k []) ∧
        (∀ i, i < n → tget h.accG (a0 + i) 15 = bits w 91 4) ∧
        tget h.fifo (queueOf w) [] = (tget g.fifo (queueOf w) []).drop (cmdPops w) ∧
        (getPav t p.val).passes = (getPav s p.val).passes ++ [x] ∧ x.q = q ∧ x.arr = queueOf w ∧ x.num = c.num ∧
        x.fails = 0 ∧ h.feed = g.feed ∧ h.rsu = g.rsu ∧ h.resident = g.resident ∧ t.ter = s.ter) ∧
    (Ready s p q 2 oDRAIN g j c → (Meaning s p q 2 g j c drainBody).1 = .ok (evs, stags) →
      ∃ (t : State) (h : Prog), exec (.drain p q) s = .next t ∧ IssuedIn t p q 2 g h c stags ∧ h.acc = g.acc ∧
        h.fifo = g.fifo ∧ h.resident = g.resident ∧
        (∀ k, ¬ (feedD w c.regs ≤ k ∧ k < feedD w c.regs + scoreTiles d) → tget? h.feed k = tget? g.feed k) ∧
        (∀ i, ¬ (c.qt * d.q ≤ i ∧ i < c.qt * d.q + d.q) → rowState h i = rowState g i) ∧
        (bits w 75 3 = 1 → h.feed = g.feed) ∧ (3 ≤ bits w 75 3 → h.rsu = g.rsu ∧ t.ter.mem = s.ter.mem))

/-- The commands that write results, ready at their heads and with a meaning that succeeds: they leave the accumulators,
the feed entries, the operand buffers and the query tile as they are, and of the row state only MAXC changes the maxima
of its query tile (R83, R178); what they write lies in their context's regions, in a memory behind the M-ports or in the
chunks they wait for. A prefetch of a plot, once a transfer slot is free, brings the next plot that the cached groups do
not hold into them; it evicts lines, but changes no result: without a group in cache mode it does nothing at all (R22,
R255, R256). -/
def Obligations.OutputCommandsKeepTheTiles : Prop :=
  ∀ (s : State) (p : PavId) (q : PSlot),
    (∀ e ∈ [(Instr.epi p q, 2, oEPI, epiBody), (.accw p q, 3, oACCW, accwBody), (.part p q, 3, oPART, partBody),
        (.comb p q, 2, oCOMB, combBody), (.maxc p q, 2, oMAXC, maxcBody), (.fin p q, 2, oFIN, finBody),
        (.dpro p q, 2, oDPRO, dproBody), (.rowp p q, 2, oROWP, rowpBody), (.pref p q, 3, oPREF, prefBody)],
      ∀ (g : Prog) (j : Job) (c : QCmd) (evs : List Ev) (stags : List Nat), Ready s p q e.2.1 e.2.2.1 g j c →
      (Meaning s p q e.2.1 g j c e.2.2.2).1 = .ok (evs, stags) →
      ∃ (t : State) (h : Prog), exec e.1 s = .next t ∧ IssuedIn t p q e.2.1 g h c stags ∧ h.acc = g.acc ∧ h.feed = g.feed ∧
        h.fifo = g.fifo ∧ h.resident = g.resident ∧ h.qtile = g.qtile ∧ h.epoch = g.epoch ∧
        (e.2.2.1 ≠ oMAXC → h.rsu = g.rsu) ∧
        (∀ i, (rowState h i).l = (rowState g i).l ∧ (rowState h i).c = (rowState g i).c) ∧
        (∀ a, OutsideRegions s g.ctx a → memByte t.ter.mem a = memByte s.ter.mem a) ∧
        t.sys.phase = s.sys.phase) ∧
    (Up s → ∃ t, exec (.plotPrefetch p q) s = .next t ∧ t.ter.mem = s.ter.mem ∧ t.jobs = s.jobs ∧
      t.pavs = s.pavs ∧ t.ctxs = s.ctxs ∧ ((∀ l ∈ s.ter.lines, l.dirty = false) → t.ext = s.ext) ∧
      (cachedGroups s = 0 → t = s)) ∧
    (∀ (g : Prog) (j : Job) (a n k : Nat), Up s → liveProg s p.val q = some g → findJob s g.ctx g.jobseq = some j →
      cachedGroups s ≠ 0 → xfersNow s < 16384 → n ≤ 65536 →
      (((((loadsAhead s g).flatMap (fun l => loadPlots s j l.1 l.2)).eraseDups).take (getCtx s g.ctx).pfDepth).find?
        (fun x => !plotCached s x.1 x.2.1)) = some (a, n, k) →
      ∃ t, exec (.plotPrefetch p q) s = .next t ∧ plotCached t a n = true ∧ xfersNow t = xfersNow s + 1)

/-- When the commands that read and write streams issue with their own effect, ready at their heads (R178, R179, R181):
LOAD of a stream whose format stays within its bound; MMA of two tiles whose shapes fit each other and the tiles that it
names; DRAIN, in DMODE 4 after a DMODE 3 drain of the same KT (R514); EPI, PART, COMB, MAXC, ROWP and PREF; DPRO of
streams whose formats stay within their bounds, the words that ZDQ zeroes standing in the context's view; these with
every other stream in stack or host memory and nothing denied or poisoned there. ACCW and FIN, which add into and read
out a Terrace range of A64 words (R222, R223), with the range's words standing in the context's view. -/
def Obligations.StreamCommandsComplete : Prop :=
  ∀ (s : State) (p : PavId) (q : PSlot) (g : Prog) (j : Job) (c : QCmd),
    let w := c.word.toNat
    let d := j.desc
    let tile := (tref w c.regs).toNat
    (∀ x : Stream, Ready s p q 3 oLOAD g j c → Served s d [] → d.stream (bits w 66 8) = some x → Bounded x →
      d.hasPro x.use = false → Issues s (.load p q) p q 3 g c) ∧
    (∀ (arr : Fin 2) (x y : OpTile) (n : Nat), Ready s p q arr.val oMMA g j c →
      (let fifo := tget g.fifo (queueOf w) []
       let popA := if bits w 65 2 = 1 then 1 else 0
       bits w 65 2 ≤ 1 ∧ bits w 67 2 ≤ 1 ∧ bits w 83 1 = 0 ∧ bits w 84 1 = 0 ∧ bits w 91 4 ≠ 7 ∧
         (if bits w 65 2 = 0 then residentTile g (queueOf w) (bits w 91 4) false else fifo.head?) = some x ∧
         (if bits w 67 2 = 0 then residentTile g (queueOf w) (bits w 91 4) true else (fifo.drop popA).head?) = some y) →
      x.rows ≠ [] → y.rows ≠ [] → (∀ row ∈ x.rows, row.length = y.rows.length) → (∀ row ∈ y.rows, row.length = n) →
      tilesOf x.rows.length n ≤ bits w 87 4 + 1 → Issues s (.mma p q arr) p q arr.val g c) ∧
    (Ready s p q 2 oDRAIN g j c → Served s d [] → (bits w 75 3 = 4 → ∃ f ∈ g.pf, f.kt = tile) →
      Issues s (.drain p q) p q 2 g c) ∧
    (∀ e ∈ [(Instr.epi p q, 2, oEPI), (.part p q, 3, oPART), (.comb p q, 2, oCOMB), (.maxc p q, 2, oMAXC),
        (.rowp p q, 2, oROWP), (.pref p q, 3, oPREF)],
      Ready s p q e.2.1 e.2.2 g j c → Served s d [] → Issues s e.1 p q e.2.1 g c) ∧
    (Ready s p q 2 oDPRO g j c → Served s d [uDQACC] → (∀ x ∈ d.streams, x.use = uDO ∨ x.use = uO → Bounded x) →
      (∀ x : Stream, bit w 88 = true → d.byUse uDQACC = some x → x.space = 1 ∨ x.space = 4 ∨ (x.space = 0 ∧ ∀ r, r < d.q →
        x.base + (tile * d.q + r) * unitStride d x + 8 * d.dim ≤ viewLen (getCtx s g.ctx).regions)) →
      Issues s (.dpro p q) p q 2 g c) ∧
    (∀ x : Stream, Ready s p q 3 oACCW g j c → d.stream (bits w 73 8) = some x → d.jtype ≠ 3 →
      WordsStand s g.ctx d x ((if x.use = uDKVACC then tile / 2 else tile) * tileRows d x.use) (tileRows d x.use) →
      Issues s (.accw p q) p q 3 g c) ∧
    (∀ x : Stream, Ready s p q 2 oFIN g j c → Served s d [uDQACC, uDKVACC] → d.stream (bits w 65 8) = some x →
      d.jtype ≠ 3 →
      WordsStand s j.ctx d x ((if x.use = uDKVACC then tile / 2 else tile) * tileRows d x.use) (tileRows d x.use) →
      Issues s (.fin p q) p q 2 g c)

/-- Contributions combine into an element by the table of R48: finite with finite is the integer sum; a finite element
takes an infinite or NaN contribution as it is; an infinity keeps itself under a finite contribution or its own sign,
and gives NaN with cause 3 under the other; NaN keeps its cause under any contribution but NaN, and of two causes the
smaller stays. With the causes 1 to 3 that R47 gives, the combine is commutative and associative, so neither the final
tag nor the final cause depends on the order of the contributions, nor does the sum of a pass on the order of its
products. The resulting cause is 1 if any contribution was NaN from an operand, otherwise 2 if any product was zero
times infinity, otherwise 3 if the element received both infinities. -/
def Obligations.ContributionsCombine : Prop :=
  let caused (a : AV) : Prop := ∀ c, a = .nan c → 1 ≤ c ∧ c ≤ 3
  (∀ x y : Int, AV.combine (.fin x) (.fin y) = .fin (x + y)) ∧
  (∀ (x : Int) (a : AV), (∀ y, a ≠ .fin y) → AV.combine (.fin x) a = a ∧ AV.combine a (.fin x) = a) ∧
  (∀ s : Bool, AV.combine (.inf s) (.inf s) = .inf s ∧ AV.combine (.inf s) (.inf (!s)) = .nan 3) ∧
  (∀ (c : Nat) (s : Bool), AV.combine (.nan c) (.inf s) = .nan c) ∧
  (∀ c d : Nat, AV.combine (.nan c) (.nan d) = .nan (Nat.min c d)) ∧
  (∀ a b : AV, AV.combine a b = AV.combine b a) ∧
  (∀ a b c : AV, caused a → caused b → caused c → AV.combine (AV.combine a b) c = AV.combine a (AV.combine b c)) ∧
  (∀ (a : AV) (l m : List AV), caused a → (∀ x ∈ l, caused x) → l.Perm m → l.foldl AV.combine a = m.foldl AV.combine a) ∧
  (∀ (e : Int) (a : AV) (t u : Terms), caused a → (t.1.zip t.2).Perm (u.1.zip u.2) → elemSum e a t = elemSum e a u) ∧
  (∀ (x : Int) (l : List AV), (∀ a ∈ l, caused a) →
    (.nan 1 ∈ l → l.foldl AV.combine (.fin x) = .nan 1) ∧
    (.nan 1 ∉ l → .nan 2 ∈ l → l.foldl AV.combine (.fin x) = .nan 2) ∧
    (.nan 1 ∉ l → .nan 2 ∉ l → .inf true ∈ l → .inf false ∈ l → l.foldl AV.combine (.fin x) = .nan 3))

/-- Each product takes its tag from its operands (R47), in either order: finite operands give a finite product; an
infinity and a finite nonzero value, or an infinity, give the infinity of the product's sign; an infinity and zero give
NaN with cause 2; NaN and any operand give NaN with cause 1. The stored form holds the tag and, in v, the cause, which
is 0 for an infinity. A rescale, or the shift of a repeat, of an element whose tag is not 00 leaves its tag and v
unchanged, a rescale by 0 among them (R49). -/
def Obligations.ProductsTakeTheirTags : Prop :=
  (∀ (u m e n f : Int), ∃ t, gridProduct u (.fin m e) (.fin n f) = .fin t) ∧
  (∀ (u m e : Int) (s : Bool), m ≠ 0 → gridProduct u (.inf s) (.fin m e) = .inf (s != decide (m < 0)) ∧
    gridProduct u (.fin m e) (.inf s) = .inf (decide (m < 0) != s)) ∧
  (∀ (u : Int) (s t : Bool), gridProduct u (.inf s) (.inf t) = .inf (s != t)) ∧
  (∀ (u e : Int) (s : Bool), gridProduct u (.inf s) (.fin 0 e) = .nan 2 ∧ gridProduct u (.fin 0 e) (.inf s) = .nan 2) ∧
  (∀ (u : Int) (x : DV), gridProduct u .nan x = .nan 1 ∧ gridProduct u x .nan = .nan 1) ∧
  (∀ t : Int, (AV.fin t).el = ⟨BitVec.ofInt 64 t, 0⟩) ∧ (AV.inf false).el = ⟨0, 1⟩ ∧ (AV.inf true).el = ⟨0, 2⟩ ∧
  (∀ c : Nat, (AV.nan c).el = ⟨BitVec.ofNat 64 c, 3⟩) ∧
  (∀ (c : DV) (a : AEl), a.tag ≠ 0 → a.rescale c = a) ∧
  (∀ a : AV, (∀ t, a ≠ .fin t) → a.shift8 = a)

/-! The Allotment. -/

/-- ALT_CONFIG with no context in existence and a parameter block whose ranges are aligned, disjoint and clear of the
other private ranges puts its layout into force: every descriptor reads 0 (R234). ALT_QUOTA sets a context's index
range, its quotas and its prefetch depth, 8 for 0, and is refused with BAD_QUOTA where ranges or pools do not allow it
(R235). -/
def Obligations.AllotmentIsConfigured : Prop :=
  (∀ (s s1 : State) (h : HeadMsg) (v : List Nat), Accepted s mgmtCtx 0x85 h → MemoriesCanonical s →
    readPblk 0 true (arg h 64 64) [64, 64, 64, 64, 24, 24, 24, 64, 64, 64] s = (s1, .ok v) →
    let g (k : Nat) : Nat := v.getD k 0
    let a : Allot := { s1.alt with
      configured := true, descBase := g 0, poolBase := (g 1, g 2, g 3), poolN := (g 4, g 5, g 6), rcBase := (g 7, g 8, g 9)
      lostPlots := [], groupOf := [], groupUse := [], dcache := [] }
    let mine := (altRanges { s1 with alt := a }).filter (fun r => decide (0 < r.2))
    (anyContext s = true → ∃ t, exec .altConfig s = .next t ∧ Answered s t mgmtCtx h stMGMT_BUSY (cmdBody 0x85 0 0 0 0) ∧
      t.alt = s.alt) ∧
    (anyContext s = false → g 0 % 4096 = 0 → g 1 % 16384 = 0 → g 2 % 32768 = 0 → g 3 % 65536 = 0 →
      (∀ k ∈ [7, 8, 9], g k % 4096 = 0) → anyOverlap mine = false →
      mine.any (fun r => (otherPrivate s1).any (fun x => rangesMeet r.1 r.2 x.1 x.2)) = false →
      ∃ t, exec .altConfig s = .next t ∧ Answered s t mgmtCtx h 0 (cmdBody 0x85 0 0 0 0) ∧ t.alt = a ∧
        (∀ q, q < 262144 → seqDesc t q = 0) ∧ t.ter.mem = s.ter.mem)) ∧
  (∀ (s : State) (c : CtxId) (h : HeadMsg), Accepted s c.val 0x0A h →
    let lo := arg h 64 18
    let n := arg h 82 19
    let qs := (arg h 101 24, arg h 125 24, arg h 149 24)
    (quotaBad s c.val lo n qs = false → ∃ t, exec (.altQuota c) s = .next t ∧
      Answered s t c.val h 0 (cmdBody 0x0A 0 0 0 0) ∧ (getCtx t c.val).seqLo = lo ∧ (getCtx t c.val).seqN = n ∧
      (getCtx t c.val).quota = qs ∧ (getCtx t c.val).pfDepth = (if arg h 173 9 = 0 then 8 else arg h 173 9) ∧
      (getCtx t c.val).use = (getCtx s c.val).use ∧ t.ext = s.ext) ∧
    (quotaBad s c.val lo n qs = true → ∃ t, exec (.altQuota c) s = .next t ∧
      Answered s t c.val h stBAD_QUOTA (cmdBody 0x0A 0 0 0 0) ∧ (getCtx t c.val).quota = (getCtx s c.val).quota))

/-- SEQ_CREATE in the context's range, of an index whose descriptor is not in use, with a layout that has plots and
tables that fit, creates an empty sequence with SEQ_EPOCH 1 and takes one plot for its level-1 page, where the quota and
the pool have one (R231, R235, R239, R242). An index outside the range is refused with SEQ_RANGE and one in use with
SEQ_BUSY. SEQ_FORK of a sequence of the context without FAULT and without layers pending into an index of its range that
is not in use, where no count is at its limit and quota and pools give the pages, gives CHILD the parent's length and
layout with SEQ_EPOCH 1, no pin and no hold, and answers for it (R246). -/
def Obligations.SequencesAreCreatedAndForked : Prop :=
  (∀ (s : State) (c : CtxId) (h : HeadMsg), Accepted s c.val 0x10 h → MemoriesCanonical s →
     let q := arg h 64 18
     let fmt := arg h 82 4
     let pos := (arg h 89 8 + 1) * (arg h 97 8 + 1) * ceilDiv (arg h 128 32) 128
     let k := l1ClassOf (ceilDiv pos 2048)
     let free : Prop := ∃ i, i < byClass s.alt.poolN k ∧ plotFree s (k * 2 ^ 24 + i) = true
     (inRange (getCtx s c.val) q = false → ∃ (t : State) (b : Nat), exec (.seqCreate c) s = .next t ∧
       Answered s t c.val h stSEQ_RANGE b ∧ t.ext = s.ext ∧ (getCtx t c.val).use = (getCtx s c.val).use) ∧
     (inRange (getCtx s c.val) q = true → stackPoisoned s (seqDescAddr s q) 64 = false →
       (dValid (seqDesc s q) = true → ∃ (t : State) (b : Nat), exec (.seqCreate c) s = .next t ∧
         Answered s t c.val h stSEQ_BUSY b ∧ t.ext = s.ext ∧ (getCtx t c.val).use = (getCtx s c.val).use) ∧
       (dValid (seqDesc s q) = false → layoutOk fmt (arg h 86 3) = true → pos ≤ 2 ^ 24 → ceilDiv pos 2048 ≤ 8192 →
         quotaFits s c.val [k] = true → free → byClass s.alt.poolN k ≤ 2 ^ 24 →
         ∃ (t : State) (b : Nat), exec (.seqCreate c) s = .next t ∧ Answered s t c.val h 0 b ∧
           dValid (seqDesc t q) = true ∧ dCtx (seqDesc t q) = c.val ∧ dFmt (seqDesc t q) = fmt ∧ dLen (seqDesc t q) = 0 ∧
           dPlen (seqDesc t q) = 0 ∧ dPlayers (seqDesc t q) = 0 ∧ dEpoch (seqDesc t q) = 1 ∧ dHolds (seqDesc t q) = 0 ∧
           dMaxlen (seqDesc t q) = arg h 128 32 ∧ dLayers (seqDesc t q) = arg h 89 8 + 1 ∧
           byClass (getCtx t c.val).use k = byClass (getCtx s c.val).use k + 1 ∧ t.ter.mem = s.ter.mem))) ∧
  (∀ (s : State) (c : CtxId) (h : HeadMsg), Accepted s c.val 0x12 h → MemoriesCanonical s →
     let d := seqDesc s (arg h 64 18)
     let ch := arg h 82 18
     let cls := dL1Class d :: ((l1Used d).filter (fun k => (pageOf s d k).isSome)).map (fun _ => 0)
     (∃ (s1 : State) (r : Nat), (ExceptT.run (seqFork c.val h.msg.bits.toNat)).run s = (.ok r, s1)) ∨
       (inRange (getCtx s c.val) ch = true ∧ inRange (getCtx s c.val) (arg h 64 18) = true ∧ ownSeq c.val d = true ∧
         dFault d = false ∧ dValid (seqDesc s ch) = false ∧ dPlayers d = 0 ∧
         (∀ e ∈ tablePos d, ∀ p, plotAtPos s d e.2.2 = some p → rcOf s p < 65535) ∧ quotaFits s c.val cls = true ∧
         PoolsHold s cls) →
     ∃ (t : State) (b : Nat), exec (.seqFork c) s = .next t ∧ Answered s t c.val h 0 b ∧ ownSeq c.val d = true ∧
       dPlayers d = 0 ∧ dValid (seqDesc s ch) = false ∧ dValid (seqDesc t ch) = true ∧ dCtx (seqDesc t ch) = dCtx d ∧
       dFmt (seqDesc t ch) = dFmt d ∧ dLen (seqDesc t ch) = dLen d ∧ dPlen (seqDesc t ch) = dLen d ∧
       dEpoch (seqDesc t ch) = 1 ∧ dPin (seqDesc t ch) = 0 ∧ dHolds (seqDesc t ch) = 0 ∧ dPersist (seqDesc t ch) = false ∧
       t.ter.mem = s.ter.mem)

/-- SEQ_APPEND whose checks and reads succeed (R243 to R245): an append that meets no shared plot commits, so that LEN
is the new length when the last layer of the tokens is in and PLEN with PLAYERS otherwise, SEQ_EPOCH rises by 1 and the
record follows; one that meets shared plots copies them and waits. They succeed for a sequence of the context in its
range, without FAULT, that the layers and tokens continue up to MAXLEN, where quota and pools give the plots and the
source can be read. COPY_ON_WRITE_SWAP commits a waiting append once no job holds the sequence, and leaves it while one
does (R245, R250). -/
def Obligations.AppendsCommitOrWait : Prop :=
  let committed (d e plen players : Nat) : Prop :=
    dEpoch e = (dEpoch d + 1) % 2 ^ 32 ∧ dValid e = dValid d ∧ dMaxlen e = dMaxlen d ∧
      (players = dLayers d → dLen e = plen ∧ dPlen e = plen ∧ dPlayers e = 0) ∧
      (players ≠ dLayers d → dLen e = dLen d ∧ dPlen e = plen ∧ dPlayers e = players)
  (∀ (s s1 : State) (c : CtxId) (h : HeadMsg) (r : Option Nat), Accepted s c.val 0x11 h → MemoriesCanonical s →
    (ExceptT.run (seqAppend c.val (waiterOf c.val h.msg) h.msg.bits.toNat)).run s = (.ok r, s1) →
    let q := arg h 64 18
    let d := seqDesc s q
    ∃ plen, appendPlen d (arg h 128 32) (arg h 82 8) (arg h 90 8 + 1) = some plen ∧ plen ≤ dMaxlen d ∧
      (r.isSome = true → ∃ (t : State) (b : Nat), exec (.seqAppend c) s = .next t ∧ Answered s t c.val h 0 b ∧
        committed d (seqDesc t q) plen (arg h 82 8 + (arg h 90 8 + 1)) ∧ t.ter.mem = s.ter.mem) ∧
      (r = none → ∃ (t : State) (a : AltWait), exec (.seqAppend c) s = .next t ∧ Taken s t c.val h ∧
        (getCtx t c.val).altWait = some a ∧ a.seq = q ∧ a.newPlen = plen ∧ a.swaps ≠ [])) ∧
  (∀ (s : State) (c : CtxId) (h : HeadMsg) (plen : Nat), Accepted s c.val 0x11 h → MemoriesCanonical s →
    let q := arg h 64 18
    let d := seqDesc s q
    let ntok := arg h 128 32
    let layer0 := arg h 82 8
    let nl := arg h 90 8 + 1
    let blocks := (List.range (ceilDiv plen 128 - dLen d / 128)).map (· + dLen d / 128)
    let pos := blocks.flatMap (fun j => (List.range (nl * dGroups d)).map (fun i => j * seqPairs d + (i + layer0 * dGroups d)))
    let fresh := pos.filter (fun i => (plotAtPos s d i).isNone)
    let shared := pos.filter (fun i => (plotAtPos s d i).any (fun p => decide (1 < rcOf s p)))
    let pages := ((pos.map (· / 2048)).eraseDups).filter (fun k => (pageOf s d k).isNone)
    let cls := pages.map (fun _ => 0) ++ (fresh ++ shared).map (fun _ => dClass d)
    let a := arg h 160 64
    let n := segBytes (dFmt d) (dDim d) ntok * (nl * dGroups d)
    inRange (getCtx s c.val) q = true → ownSeq c.val d = true → dFault d = false →
    appendPlen d ntok layer0 nl = some plen → plen ≤ dMaxlen d →
    (isMx (dFmt d) = true → dLen d % 32 = 0 ∧ ntok % 32 = 0) → quotaFits s c.val cls = true → PoolsHold s cls →
    (arg h 98 1 = 0 → sourceWritten s c.val a n = false ∧ a + n ≤ viewLen (getCtx s c.val).regions ∧
      s.ter.unfilled = [] ∧ s.ter.poison = [] ∧ s.ter.flips = []) →
    (arg h 98 1 = 1 → reachesPrivate s a n = false ∧ extDenied s c.val 0 a n = false) →
    (shared = [] → ∃ (t : State) (b : Nat), exec (.seqAppend c) s = .next t ∧ Answered s t c.val h 0 b ∧
      committed d (seqDesc t q) plen (layer0 + nl) ∧ t.ter.mem = s.ter.mem) ∧
    (shared ≠ [] → ∃ (t : State) (w : AltWait), exec (.seqAppend c) s = .next t ∧ Taken s t c.val h ∧
      (getCtx t c.val).altWait = some w ∧ w.seq = q ∧ w.newPlen = plen ∧ w.newPlayers = layer0 + nl ∧
      w.swaps.length = shared.length ∧ t.ter.mem = s.ter.mem)) ∧
  (∀ (s : State) (c : CtxId) (a : AltWait), Up s → MemoriesCanonical s → (getCtx s c.val).altWait = some a →
    let d := seqDesc s a.seq
    (dHolds d = 0 → a.waiter.via = none → a.waiter.mgmt = false → a.waiter.ctx = c.val → a.newPlen < 2 ^ 32 →
      (a.newPlayers = dLayers d ∨ a.newPlayers < 2 ^ 8) →
      ∃ (t : State) (rec : CRec), exec (.copyOnWriteSwap c) s = .next t ∧ (getCtx t c.val).altWait = none ∧
        (ringAt t c.val).held = (ringAt s c.val).held ++ [rec] ∧ rec.tag = a.waiter.tag ∧ rec.status = 0 ∧
        committed d (seqDesc t a.seq) a.newPlen a.newPlayers ∧ t.ter.mem = s.ter.mem) ∧
    (dHolds d ≠ 0 → exec (.copyOnWriteSwap c) s = .next s)) ∧
  (∀ (s : State) (c : CtxId), Up s → (getCtx s c.val).altWait = none → exec (.copyOnWriteSwap c) s = .next s)

/-- SEQ_TRUNCATE of a sequence that no job holds, to a length not above LEN and not below its pin, leaves that length,
and SEQ_EPOCH rises where a field changed; SEQ_FREE of one without a pin leaves its descriptor 0. While a job holds the
sequence the message stays at the head of its ring and nothing changes (R241, R247, R248). PLOT_PIN raises the pin of a
sequence up to the plots that its length fills and sets PERSIST as asked; PLOT_UNPIN lowers it and clears PERSIST with
the last pin; a change raises SEQ_EPOCH (R241, R242). A pin that would fall, or exceed the length, and an unpin that
would rise are refused with PIN_RANGE. -/
def Obligations.SequencesAreCutFreedAndPinned : Prop :=
  (∀ (s : State) (c : CtxId) (h : HeadMsg), MemoriesCanonical s →
     let q := arg h 64 18
     let n := arg h 128 32
     let d := seqDesc s q
     inRange (getCtx s c.val) q = true → ownSeq c.val d = true → stackPoisoned s (seqDescAddr s q) 64 = false →
     (Accepted s c.val 0x13 h → n ≤ dLen d → dPin d * 128 ≤ n →
       (dHolds d = 0 → ∃ (t : State) (b : Nat), exec (.seqTruncate c) s = .next t ∧ Answered s t c.val h 0 b ∧
         dLen (seqDesc t q) = n ∧ dPlen (seqDesc t q) = n ∧ dPlayers (seqDesc t q) = 0 ∧ dPin (seqDesc t q) = dPin d ∧
         ((dLen d ≠ n ∨ dPlen d ≠ n ∨ dPlayers d ≠ 0) → dEpoch (seqDesc t q) = (dEpoch d + 1) % 2 ^ 32) ∧
         (dLen d = n → dPlen d = n → dPlayers d = 0 → seqDesc t q = d) ∧ t.ter.mem = s.ter.mem) ∧
       (dHolds d ≠ 0 → ∃ t, exec (.seqTruncate c) s = .next t ∧ t.ext = s.ext ∧ t.alt = s.alt ∧
         (ringAt t c.val).sqHead = (ringAt s c.val).sqHead ∧ (ringAt t c.val).held = (ringAt s c.val).held)) ∧
     (Accepted s c.val 0x13 h → dLen d < n → ∃ (t : State) (b : Nat), exec (.seqTruncate c) s = .next t ∧
       Answered s t c.val h stLEN_ABOVE b ∧ t.ext = s.ext) ∧
     (Accepted s c.val 0x14 h → dPin d = 0 →
       (dHolds d = 0 → ∃ (t : State) (b : Nat), exec (.seqFree c) s = .next t ∧ Answered s t c.val h 0 b ∧
         seqDesc t q = 0 ∧ t.ter.mem = s.ter.mem) ∧
       (dHolds d ≠ 0 → ∃ t, exec (.seqFree c) s = .next t ∧ t.ext = s.ext ∧ t.alt = s.alt ∧
         (ringAt t c.val).sqHead = (ringAt s c.val).sqHead ∧ (ringAt t c.val).held = (ringAt s c.val).held)) ∧
     (Accepted s c.val 0x14 h → dPin d ≠ 0 → ∃ (t : State) (b : Nat), exec (.seqFree c) s = .next t ∧
       Answered s t c.val h stPINNED b ∧ t.ext = s.ext)) ∧
  (∀ (s : State) (c : CtxId) (h : HeadMsg), MemoriesCanonical s →
     let q := arg h 64 18
     let n := arg h 96 32
     let d := seqDesc s q
     inRange (getCtx s c.val) q = true → ownSeq c.val d = true → stackPoisoned s (seqDescAddr s q) 64 = false →
     (Accepted s c.val 0x15 h → dFault d = false →
       (dPin d ≤ n → n ≤ ceilDiv (dLen d) 128 → ∃ (t : State) (b : Nat), exec (.plotPin c) s = .next t ∧
         Answered s t c.val h 0 b ∧ dPin (seqDesc t q) = n ∧ dPersist (seqDesc t q) = h.msg.bits.getLsbD 82 ∧
         dLen (seqDesc t q) = dLen d ∧ (dPin d ≠ n → dEpoch (seqDesc t q) = (dEpoch d + 1) % 2 ^ 32) ∧
         t.ter.mem = s.ter.mem) ∧
       ((n < dPin d ∨ ceilDiv (dLen d) 128 < n) → ∃ (t : State) (b : Nat), exec (.plotPin c) s = .next t ∧
         Answered s t c.val h stPIN_RANGE b ∧ t.ext = s.ext)) ∧
     (Accepted s c.val 0x16 h →
       (n ≤ dPin d → ∃ (t : State) (b : Nat), exec (.plotUnpin c) s = .next t ∧ Answered s t c.val h 0 b ∧
         dPin (seqDesc t q) = n ∧ dPersist (seqDesc t q) = (dPersist d && decide (n ≠ 0)) ∧ dLen (seqDesc t q) = dLen d ∧
         t.ter.mem = s.ter.mem) ∧
       (dPin d < n → ∃ (t : State) (b : Nat), exec (.plotUnpin c) s = .next t ∧ Answered s t c.val h stPIN_RANGE b ∧
         t.ext = s.ext)))

/-- SEQ_ADOPT gives every sequence of an orphaned sequence's group to a context whose index range holds them all and
whose quotas take their charge; SEQ_RELEASE frees an orphaned sequence, its pins included (R388). A sequence that is not
orphaned is refused with SEQ_NONE. -/
def Obligations.OrphanedSequencesAreAdoptedOrReleased : Prop :=
  ∀ (s : State) (h : HeadMsg), MemoriesCanonical s → s.ext.stackPoison = [] →
    let q := arg h 64 18
    let c := arg h 82 12
    (∀ g, tget? s.alt.groupOf q = some g →
      let qs := groupSeqs s g
      (Accepted s mgmtCtx 0x8C h → (∀ y ∈ qs, inRange (getCtx s c) y = true) →
        (∀ k ∈ [0, 1, 2], byClass (getCtx s c).use k + byClass (tget s.alt.groupUse g (0, 0, 0)) k ≤
          byClass (getCtx s c).quota k) →
        ∃ (t : State) (b : Nat), exec .seqAdopt s = .next t ∧ Answered s t mgmtCtx h 0 b ∧
          (∀ y ∈ qs, dOrphan (seqDesc t y) = false ∧ dCtx (seqDesc t y) = c ∧ dLen (seqDesc t y) = dLen (seqDesc s y)) ∧
          groupSeqs t g = [] ∧
          (∀ k ∈ [0, 1, 2], byClass (getCtx t c).use k =
            byClass (getCtx s c).use k + byClass (tget s.alt.groupUse g (0, 0, 0)) k) ∧ t.ter.mem = s.ter.mem) ∧
      (Accepted s mgmtCtx 0x8D h → ∃ (t : State) (b : Nat), exec .seqRelease s = .next t ∧ Answered s t mgmtCtx h 0 b ∧
        seqDesc t q = 0 ∧ tget? t.alt.groupOf q = none ∧ t.ter.mem = s.ter.mem)) ∧
    (tget? s.alt.groupOf q = none →
      (Accepted s mgmtCtx 0x8C h → ∃ (t : State) (b : Nat), exec .seqAdopt s = .next t ∧
        Answered s t mgmtCtx h stSEQ_NONE b ∧ t.alt = s.alt) ∧
      (Accepted s mgmtCtx 0x8D h → ∃ (t : State) (b : Nat), exec .seqRelease s = .next t ∧
        Answered s t mgmtCtx h stSEQ_NONE b ∧ t.alt = s.alt))

/-! Collectives. -/

/-- BAND_CONFIG places the staging pool where it is inside the Terrace, clear of every region and of the groups in cache
mode, and clear of the other private ranges of stack memory (R322, R394). COMM_CREATE with a parameter block, a table
that can be read and no refusal of R298 sets up the communicator with an empty digest and sequence 0; COMM_DESTROY
removes one that runs no collective, and refuses with NO_COMM or COMM_BUSY otherwise (R297, R298). -/
def Obligations.CommunicatorsAreSetUp : Prop :=
  (∀ (s : State) (h : HeadMsg), Accepted s mgmtCtx 0x86 h →
    let a := arg h 64 17 * 4096
    let n := arg h 81 18 * 4096
    (a + n ≤ 2 ^ 29 → meetsCached s a n = false →
      (∀ e ∈ s.ctxs, ∀ r ∈ e.2.regions, rangesMeet a n (r.2.base4k * 4096) (r.2.len4k * 4096) = false) →
      arg h 128 64 + arg h 192 64 ≤ 2 ^ 56 →
      (∀ r ∈ privateRanges { s with band := { s.band with stkLen := 0 } },
        rangesMeet (arg h 128 64) (arg h 192 64) r.1 r.2 = false) →
      ∃ t, exec .bandConfig s = .next t ∧ Answered s t mgmtCtx h 0 (cmdBody 0x86 0 0 0 0) ∧
        t.band = { s.band with terBase4k := arg h 64 17, terLen4k := arg h 81 18, stkBase := arg h 128 64,
                               stkLen := arg h 192 64 }) ∧
    (2 ^ 29 < a + n → ∃ t, exec .bandConfig s = .next t ∧
      Answered s t mgmtCtx h stBAD_REGION (cmdBody 0x86 0 0 0 0) ∧ t.band = s.band)) ∧
  (∀ (s s1 s2 : State) (h : HeadMsg) (v : List Nat) (bs : List Byte), Accepted s mgmtCtx 0x87 h →
    readPblk 0 true (arg h 64 64) [10, 32, 16, 15, 12, 64, 9, 16] s = (s1, .ok v) →
    let g (k : Nat) : Nat := v.getD k 0
    fetchMem s1 0 true 0 (g 5) (16 * Nat.min (g 2) 32768) = (s2, some bs) →
    let raw := leWords 16 (Nat.min (g 2) 32768) bs
    (commBad s2 (g 0) (g 2) (g 3) (g 4) (g 6) raw = false → ∃ (t : State) (c : Comm), exec .commCreate s = .next t ∧
      Answered s t mgmtCtx h 0 (cmdBody 0x87 0 0 0 0) ∧ getComm t (g 0) = some c ∧ c.cepoch = BitVec.ofNat 32 (g 1) ∧
      c.nmemb = g 2 ∧ c.myrank = g 3 ∧ c.ctx = g 4 ∧ c.members = raw.map parseMember ∧ c.lastSeq = 0 ∧ c.sent = 0 ∧
      c.recv = 0 ∧ c.covered = 0 ∧ (∀ k, k ≠ g 0 → getComm t k = getComm s k) ∧ t.band.slots = s.band.slots) ∧
    (commBad s2 (g 0) (g 2) (g 3) (g 4) (g 6) raw = true → ∃ t, exec .commCreate s = .next t ∧
      Answered s t mgmtCtx h stCOMM_BAD (cmdBody 0x87 0 0 0 0) ∧ t.band = s.band)) ∧
  (∀ (s : State) (h : HeadMsg), Accepted s mgmtCtx 0x88 h →
    let cid := arg h 64 10
    (getComm s cid = none → ∃ t, exec .commDestroy s = .next t ∧
      Answered s t mgmtCtx h stNO_COMM (cmdBody 0x88 0 0 0 0) ∧ t.band = s.band) ∧
    ((getComm s cid).isSome = true → s.band.slots.any (fun e => e.2.cid == cid) = true → ∃ t, exec .commDestroy s = .next t ∧
      Answered s t mgmtCtx h stCOMM_BUSY (cmdBody 0x88 0 0 0 0) ∧ t.band = s.band) ∧
    ((getComm s cid).isSome = true → s.band.slots.any (fun e => e.2.cid == cid) = false →
      ∃ t, exec .commDestroy s = .next t ∧ Answered s t mgmtCtx h 0 (cmdBody 0x88 0 0 0 0) ∧ getComm t cid = none ∧
        ∀ k, k ≠ cid → getComm t k = getComm s k))

/-- COLL_LAUNCH, once its descriptor is read: a check of R303 that fails ends in its code with no slot taken; a launch
that passes takes a slot under its name, its SEQ becomes the communicator's last, and its record follows later (R300,
R304). BAND_DIGEST answers a context's communicator with both digests and the SEQ that they cover (R324). A stage's
deadline, once past, is noted at its slot where the stage has one (R316), and so is CDL_MS (R306). They act when their
TCLK ends, since a READY and a completion of the same TCLK come first (R328): the deadline then holds, and the
collective that still runs ends with COLL_TIMEOUT. DIGEST_FOLD folds the ended collective of lowest SEQ of its
communicator into the digests and queues its record, with which the slot is kept (R304, R324, R325). -/
def Obligations.CollectivesAreLaunchedAndEnd : Prop :=
  ((∀ (s s1 : State) (c : CtxId) (h : HeadMsg) (bs : List Byte), Accepted s c.val 0x20 h →
     readSrc c.val (arg h 64 64) 64 s = (s1, some bs) →
     let d := leNat bs
     let t0 := parseColl (waiterOf c.val h.msg) c.val d
     let x := match getComm s1 t0.cid with
       | some m => { t0 with direct := decide (m.treeMax * 4096 < t0.size m.nmemb) && t0.dlmode == 0 }
       | none => t0
     (∀ st, launchCheck s1 (waiterOf c.val h.msg) c.val d x = .error st → ∃ t, exec (.collLaunch c) s = .next t ∧
       Answered s t c.val h st (x.seq + x.cid * 2 ^ 32) ∧ t.band = s.band) ∧
     (∀ m, launchCheck s1 (waiterOf c.val h.msg) c.val d x = .ok m → ∃ (t : State) (i : Nat) (y : Slot) (n : Comm),
       exec (.collLaunch c) s = .next t ∧ Taken s t c.val h ∧ tget? t.band.slots i = some y ∧ y.cid = x.cid ∧
         y.seq = x.seq ∧ y.ctx = c.val ∧ y.waiter = waiterOf c.val h.msg ∧ getComm t x.cid = some n ∧ n.lastSeq = x.seq ∧
         m.lastSeq < x.seq)) ∧
   (∀ (s : State) (c : CtxId) (h : HeadMsg), Accepted s c.val 0x21 h →
     (∀ m, getComm s (arg h 64 10) = some m → m.ctx = c.val → ∃ t, exec (.bandDigest c) s = .next t ∧
       Answered s t c.val h 0 (cmdBody 0x21 m.sent.toNat m.recv.toNat m.covered 0) ∧ t.band = s.band) ∧
     ((∀ m, getComm s (arg h 64 10) = some m → m.ctx ≠ c.val) → ∃ t, exec (.bandDigest c) s = .next t ∧
       Answered s t c.val h stNO_COMM (cmdBody 0x21 0 0 0 0) ∧ t.band = s.band))) ∧
  ((∀ (s : State) (i : Fin 64) (x : Slot) (c : Comm), Up s → liveSlot s i.val = some (x, c) →
     (∀ k : Fin 5, deadlineAt x k.val = true → ∃ (t : State) (y : Slot), exec (.deadlineExpiry i k) s = .next t ∧
       tget? t.band.slots i.val = some y ∧ k.val ∈ y.expiring) ∧
     (∃ (t : State) (y : Slot), exec (.collTimeout i) s = .next t ∧ tget? t.band.slots i.val = some y ∧
       y.due = true ∧ y.ended = none ∧ t.ter = s.ter ∧ t.out = s.out) ∧
     (s.band.slots = [(i.val, x)] → s.pending = [] → ∃ (t : State) (y : Slot), step s = .next t ∧
       tget? t.band.slots i.val = some y ∧ (∀ k ∈ x.expiring, k ∈ y.expired) ∧
       (x.due = true → y.ended = some stCOLL_TIMEOUT ∧ y.staged = []) ∧ (x.due = false → y.ended = none))) ∧
   (∀ (s : State) (cid : Fin 1024) (i st : Nat) (x : Slot) (c : Comm), Up s → NoneQuiescing s →
     s.band.slots.filter (fun e => e.2.cid == cid.val) = [(i, x)] → getComm s cid.val = some c → x.ended = some st →
     x.folded = false →
     x.waiter.via = none → x.waiter.mgmt = false → x.waiter.ctx < 4096 →
     ∃ (t : State) (rec : CRec) (n : Comm), exec (.digestFold cid) s = .next t ∧ tget? t.band.slots i = some { x with folded := true } ∧
       rec.slot = some i ∧
       (ringAt t x.waiter.ctx).held = (ringAt s x.waiter.ctx).held ++ [rec] ∧ rec.status = st ∧ rec.tag = x.waiter.tag ∧
       getComm t cid.val = some n ∧ n.covered = x.seq ∧
       n.sent = (if st = 0 then foldDigest c.sent x.txDig else c.sent) ∧
       n.recv = (if st = 0 then foldDigest c.recv x.rxDig else c.recv)))

/-- The messages that match and steer collectives, where they name a running slot (R305, R306, R315, R316): a JOIN of
the member's own signature is matched with its credits, one of another signature ends the collective with
SIGNATURE_MISMATCH; an ABORT ends it; BUSY marks a rank for a later JOIN, which JOIN_RETRY sends; READY is noted while
no map is fixed, and DECIDE fixes the map. A JOIN for a name not yet launched waits in the pending table, from which
PENDING_EXPIRY takes it. -/
def Obligations.CollectiveMessagesAreObeyed : Prop :=
  (∀ (s : State) (port : LinkPort) (src : UPath) (hdr : BitVec 512) (c : Comm) (i : Nat) (x : Slot),
    BandNamed s hdr c i x →
    let r := bhSrank hdr
    let k := bhStage hdr
    (bhSig hdr = signature x c.cepoch → ∃ (t : State) (y : Slot), exec (.bandJoin port src hdr) s = .next t ∧
      tget? t.band.slots i = some y ∧ r ∈ y.joined ∧
      ((∀ b ∈ x.owed, b.dst ≠ r) → tget y.credits r 0 = hf hdr 320 32)) ∧
    (bhSig hdr ≠ signature x c.cepoch → ∃ (t : State) (y : Slot), exec (.bandJoin port src hdr) s = .next t ∧
      tget? t.band.slots i = some y ∧ y.ended = some stSIGNATURE_MISMATCH ∧ y.joined = x.joined) ∧
    (∃ (t : State) (y : Slot), exec (.bandAbort port src hdr) s = .next t ∧ tget? t.band.slots i = some y ∧
      y.ended = some (abortStatus (bhElem0 hdr))) ∧
    (∃ (t : State) (y : Slot), exec (.bandBusy port src hdr) s = .next t ∧ tget? t.band.slots i = some y ∧ r ∈ y.busy ∧
      y.ended = none) ∧
    (tget? x.maps k = none → ∃ (t : State) (y : Slot), exec (.bandReady port src hdr) s = .next t ∧
      tget? t.band.slots i = some y ∧ (k, partIndex c k r) ∈ y.ready) ∧
    (tget? x.maps k = none → deadlineAt x k = true → ∃ (t : State) (y : Slot), exec (.bandDecide port src hdr) s = .next t ∧
      tget? t.band.slots i = some y ∧ tget? y.maps k = some (bhSig hdr))) ∧
  (∀ (s : State) (port : LinkPort) (src : UPath) (hdr : BitVec 512) (c : Comm), Up s → hcrcOk 384 hdr.toNat = true →
    getComm s (bhCid hdr) = some c → hf hdr 144 15 = c.myrank → c.cepoch = bhEpoch hdr →
    slotOf s (bhCid hdr) (bhSeq hdr) = none → c.lastSeq < bhSeq hdr → s.band.pend.length < 4096 →
    ∃ t, exec (.bandJoin port src hdr) s = .next t ∧
      (⟨bhCid hdr, bhSeq hdr, bhSrank hdr, false, hdr⟩ : BandPend) ∈ t.band.pend ∧ t.band.slots = s.band.slots) ∧
  (∀ (s : State) (i : Fin 64) (r : Fin 32768) (x : Slot) (c : Comm), Up s → liveSlot s i.val = some (x, c) → r.val ∈ x.busy →
    (routeOf s (((c.members[r.val]?).map (·.upath)).getD 0)).isSome = true →
    ∃ (t : State) (y : Slot) (hdr : BitVec 512), exec (.joinRetry i r) s = .next t ∧ tget? t.band.slots i.val = some y ∧
      r.val ∉ y.busy ∧ t.out = s.out ++ [.band (((c.members[r.val]?).map (·.upath)).getD 0) hdr []] ∧ bhKind hdr = 0) ∧
  (∀ (s : State) (cid : Fin 1024) (seq : BitVec 32) (r : Fin 32768), Up s →
    exec (.pendingExpiry cid seq r) s = .next { s with band := { s.band with
      pend := s.band.pend.filter (fun e => !(e.cid == cid.val && e.seq == seq.toNat && e.rank == r.val))
      early := s.band.early.filter (fun e =>
        !(bhKind e.hdr == 5 && bhCid e.hdr == cid.val && bhSeq e.hdr == seq.toNat && bhSrank e.hdr == r.val)) } })

/-- The data of a collective (R312, R313, R318, R321, R323). A DATA, RESULT or MAP chunk that opens under its checks
enters the digest; DATA of a reduction is staged for its sender's rank, RESULT of the member's own signature is
verified, and a MAP from another site's representative is kept; the third failure of one chunk ends the collective.
BAND_SOURCE_READ reads a source chunk once its flag, its partners and the keys allow it; BAND_NODE_EVALUATE evaluates
each unit of a stage whose parts are all there; OUTPUT_CHUNK_RETIRE writes a chunk that is known and sets its flag. None
of them writes the Terrace outside the regions of the collective's context while nothing waits for the access tables. -/
def Obligations.CollectiveDataMoves : Prop :=
  (∀ (s : State) (port : LinkPort) (src : UPath) (hdr : BitVec 512) (stream : List Byte) (c : Comm) (i : Nat) (x : Slot),
    BandNamed s hdr c i x →
    let r := bhSrank hdr
    let u := ((c.members[r]?).map (·.upath)).getD 0
    (∀ bs tr, opReduces x.op = true → hf hdr 9 1 = 0 → openBand s port u hdr false stream = .ok (bs, tr) →
      ∃ (t : State) (y : Slot), exec (.bandData port src hdr stream) s = .next t ∧ tget? t.band.slots i = some y ∧
        y.rxDig = x.rxDig ++ [⟨r, bhStage hdr, bhChidx hdr, BitVec.ofNat 64 (crc64 bs)⟩] ∧
        (y.ended = none → y.staged = x.staged ++ [⟨r, r, bhElem0 hdr, (elsOf (dtypeBytes x.dtype) bs).map (leafOf x.dtype)⟩]) ∧
        (s.prom.landWait = [] → s.ter.xwait = [] →
          ∀ a, OutsideRegions s x.ctx a → memByte t.ter.mem a = memByte s.ter.mem a)) ∧
    (∀ bs tr, openBand s port u hdr (resultEmpty c hdr x) stream = .ok (bs, tr) → bhSig hdr = signature x c.cepoch →
      ∃ (t : State) (y : Slot), exec (.bandResult port src hdr stream) s = .next t ∧ tget? t.band.slots i = some y ∧
        r ∈ y.verified ∧ y.rxDig = x.rxDig ++ [⟨r, bhStage hdr, bhChidx hdr, BitVec.ofNat 64 (crc64 bs)⟩]) ∧
    (∀ bs tr, openBand s port u hdr false stream = .ok (bs, tr) → bhStage hdr = 4 → takesPart c.members 4 c.myrank = true →
      ∃ (t : State) (y : Slot), exec (.bandMap port src hdr stream) s = .next t ∧ tget? t.band.slots i = some y ∧
        tget? y.siteMaps (partIndex c 4 r) = some (((elsOf 8 bs).map (BitVec.ofNat 64)).headD 0)) ∧
    (∀ k, openBand s port u hdr false stream = .error k → opReduces x.op = true →
      2 ≤ (x.fails.filter (· == (r, bhStage hdr, bhChidx hdr))).length →
      ∃ (t : State) (y : Slot), exec (.bandData port src hdr stream) s = .next t ∧ tget? t.band.slots i = some y ∧
        y.ended = some (if k = 1 then stCHUNK_CRC else stCHUNK_AUTH))) ∧
  (∀ (s : State) (i : Fin 64) (k : Nat) (x : Slot) (c : Comm) (cnts : List Int) (bs : List Byte), Up s →
    liveSlot s i.val = some (x, c) →
    let m := x.srcElems c.nmemb c.myrank
    let sp := x.chunkSpan m k
    let a := x.src + sp.1 * dtypeBytes x.dtype
    let n := sp.2 * dtypeBytes x.dtype
    let rs := (getCtx s x.ctx).regions
    let counted (s1 : State) : Prop := readCounts i.val x c s = (s1, some cnts)
    let source (s1 : State) : Prop := ∃ s2, bandRead x.ctx x.srcSpace a n s1 = (s2, .got bs)
    let stands : Prop := ((x.op ≠ opAllToAll ∧ cnts = []) ∨ (x.op = opAllToAll ∧ x.sendCounts = some cnts)) ∧
      (x.srcSpace = 0 → tableBusy s false (partLines (viewParts rs a n)) = false ∧ a + n ≤ viewLen rs ∧ s.ter.unfilled = [] ∧
        s.ter.poison = [] ∧ s.ter.flips = [] ∧ bs = partBytes s.ter.mem (viewParts rs a n)) ∧
      (x.srcSpace ≠ 0 → extDenied s x.ctx 0 a n = false ∧ extPoisonIn s 0 a n = [] ∧ bs = extPeek s 0 a n)
    let to_ := (if srcPrefix x != 0 then firstPeers c x else (piecesOf c x cnts sp.1 sp.2).map (·.dst)).filter (· != c.myrank)
    k < x.chunksOf m → k ∉ x.srcRead →
    (x.swait = true → (getCtx s x.ctx).flags.getLsbD (x.sflag0 + k % x.nflag) = true) →
    (∀ q ∈ to_, q ∈ x.joined) →
    (stands ∧ keysReady s c to_ = true) ∨ (∃ s1, counted s1 ∧ keysReady s1 c to_ = true ∧ source s1) →
    ∃ (t : State) (y : Slot), exec (.bandSourceRead i k) s = .next t ∧ tget? t.band.slots i.val = some y ∧ k ∈ y.srcRead ∧
      (∀ b ∈ srcStreams c x cnts k (leWords (dtypeBytes x.dtype) sp.2 bs),
        let u := ((c.members[b.dst]?).map (·.upath)).getD 0
        (routeOf s u).isSome = true → exposedPeer s u = false → ∃ hdr stream, .band u hdr stream ∈ t.out) ∧
      (s.prom.landWait = [] → s.ter.xwait = [] →
          ∀ a, OutsideRegions s x.ctx a → memByte t.ter.mem a = memByte s.ter.mem a)) ∧
  (∀ (s : State) (i : Fin 64) (k : Fin 5) (x : Slot) (c : Comm), Up s → liveSlot s i.val = some (x, c) →
    x.straight = false → opReduces x.op = true → keysReady s c (partners c x) = true →
    takesPart c.members k.val c.myrank = true → stageVerified c x k.val = true →
    ∃ (t : State) (y : Slot), exec (.bandNodeEvaluate i k) s = .next t ∧ tget? t.band.slots i.val = some y ∧
      ∀ w ∈ unitsAt c x k.val,
        (stageResult c x k.val (x.chunkSpan (x.space c.nmemb) w).1 (x.chunkSpan (x.space c.nmemb) w).2).isSome = true →
        (k.val, w) ∈ y.evald) ∧
  (∀ (s : State) (i : Fin 64) (k : Nat) (x : Slot) (c : Comm) (els : List FinEl), Up s →
    liveSlot s i.val = some (x, c) →
    let m := x.dstElems c.nmemb c.myrank
    let sp := x.chunkSpan m k
    let a := x.dst + sp.1 * dtypeBytes x.dtype
    k < x.chunksOf m → k ∉ x.written → x.rootDone = true → x.due = false →
    ((tget? x.outOpen k).isSome = true ∨ bandFree s x.ctx x.dstSpace a (sp.2 * dtypeBytes x.dtype) = true) →
    outputEls c x sp.1 sp.2 = some els →
    (x.dstSpace = 0 ∨
      extDenied s x.ctx 0 a (els.flatMap (fun e => leBytes (dtypeBytes x.dtype) e.code)).length = false) →
    x.flag0 + k % x.nflag < 4096 →
    ∃ (t : State) (y : Slot), exec (.outputChunkRetire i k) s = .next t ∧ tget? t.band.slots i.val = some y ∧
      k ∈ y.written ∧ (getCtx t x.ctx).flags.getLsbD (x.flag0 + k % x.nflag) = true ∧
      y.invalid = Nat.min (x.invalid + (els.filter (fun e => e.inv)).length) 0xFFFFFFFF ∧
      (s.prom.landWait = [] → s.ter.xwait = [] → ∀ b, OutsideRegions s x.ctx b → memByte t.ter.mem b = memByte s.ter.mem b))

/-! Groves. -/

/-- GROVE_SET_PATH sets the unit path of an instance without contexts, formed groves or paths in UP, when every level
below the path's depth reads FFh, and is refused with GROVE_BUSY or GROVE_BAD otherwise (R330). GROVE_DISSOLVE at the
leader of a grove without contexts or forwarded commands ends the grove and tells each other instance; at a member whose
leader is not lost it is refused with GROVE_MEMBER, and outside a grove with GROVE_BAD (R346). GROVE_FORM, once its
block and table are read (R331 to R335): below MB3 it ends in NEEDS_MB3, and arguments that R334 refuses end in
GROVE_BAD or GROVE_BUSY, with nothing in formation; accepted ones, where no formation is in progress, begin a formation
in which this instance, unless it leads, sends its GHELLO to the elected leader, and the capability list is not valid
until formation ends (R340). GROVE_INCOMPLETE ends a formation with its code. -/
def Obligations.GrovesFormAndDissolve : Prop :=
  (∀ (s : State) (h : HeadMsg),
     (Accepted s mgmtCtx 0x89 h →
       let u : UPath := BitVec.ofNat 48 (arg h 64 48)
       let busy : Bool := anyContext s || !s.grove.formed.isEmpty || s.prom.paths.any (fun e => e.2.state == lsUp)
       (busy = false → pathOk u = true → ∃ t, exec .groveSetPath s = .next t ∧
         Answered s t mgmtCtx h 0 (cmdBody 0x89 0 0 0 0) ∧ t.grove = { s.grove with upathSelf := u } ∧ t.prom = s.prom) ∧
       (busy = false → pathOk u = false → ∃ t, exec .groveSetPath s = .next t ∧
         Answered s t mgmtCtx h stGROVE_BAD (cmdBody 0x89 0 0 0 0) ∧ t.grove = s.grove) ∧
       (busy = true → ∃ t, exec .groveSetPath s = .next t ∧
         Answered s t mgmtCtx h stGROVE_BUSY (cmdBody 0x89 0 0 0 0) ∧ t.grove = s.grove)) ∧
     (Accepted s mgmtCtx 0x8B h →
       (rootGrove s = none → ∃ t, exec .groveDissolve s = .next t ∧
         Answered s t mgmtCtx h stGROVE_BAD (cmdBody 0x8B 0 0 0 0) ∧ t.grove = s.grove) ∧
       (∀ g, rootGrove s = some g → leads s g = false → g.gstate ≠ 4 → ∃ t, exec .groveDissolve s = .next t ∧
         Answered s t mgmtCtx h stGROVE_MEMBER (cmdBody 0x8B 0 0 0 0) ∧ t.grove = s.grove) ∧
       (∀ g, rootGrove s = some g → (leads s g = true ∨ g.gstate = 4) → groveCtxs s = [] → s.grove.fwd = [] →
         ∃ t, exec .groveDissolve s = .next t ∧ Answered s t mgmtCtx h 0 (cmdBody 0x8B 0 0 0 0) ∧
           t.grove.formed = s.grove.formed.tail ∧
           (leads s g = true → ∀ u ∈ reachable s g, ∃ n body, .grove u (groveHdr g 7 n) body ∈ t.out)))) ∧
  ((∀ (s s1 s2 : State) (h : HeadMsg) (v : List Nat) (tab : List Byte), Accepted s mgmtCtx 0x8A h →
     readPblk mgmtCtx true (arg h 64 64) [3, 48, 32, 8, 64, 16, 16] s = (s1, .ok v) →
     fetchMem s1 mgmtCtx true 0 (v.getD 4 0) (16 * v.getD 3 0) = (s2, some tab) → s.grove.forming = none →
     let raw := leWords 16 (v.getD 3 0) tab
     let a : FormArgs :=
       { level := v.getD 0 0, gprefix := BitVec.ofNat 48 (v.getD 1 0), epoch := BitVec.ofNat 32 (v.getD 2 0)
         formMs := v.getD 5 0, ghbMs := v.getD 6 0, table := tab, raw := raw
         members := sortMembers (v.getD 0 0) (raw.map parseGMember) }
     (h.msg.gen < 3 → ∃ t, exec .groveForm s = .next t ∧
       Answered s t mgmtCtx h stNEEDS_MB3 (cmdBody 0x8A 0 0 0 0) ∧ t.grove.forming = none ∧
       t.grove.formed = s.grove.formed) ∧
     (3 ≤ h.msg.gen → formBad s2 a = true → ∃ t, exec .groveForm s = .next t ∧
       Answered s t mgmtCtx h stGROVE_BAD (cmdBody 0x8A 0 0 0 0) ∧ t.grove.forming = none ∧
       t.grove.formed = s.grove.formed) ∧
     (3 ≤ h.msg.gen → formBad s2 a = false → formBusy s2 a = true → ∃ t, exec .groveForm s = .next t ∧
       Answered s t mgmtCtx h stGROVE_BUSY (cmdBody 0x8A 0 0 0 0) ∧ t.grove.forming = none ∧
       t.grove.formed = s.grove.formed) ∧
     (3 ≤ h.msg.gen → formBad s2 a = false → formBusy s2 a = false →
       ∀ u, electLeader s2 a.level a.members = some u → u ≠ s.grove.upathSelf →
       ∃ (t : State) (g : GroveSt), exec .groveForm s = .next t ∧ Taken s t mgmtCtx h ∧ t.grove.forming = some g ∧
         g.gstate = 1 ∧ g.leader = u ∧ g.gepoch = a.epoch ∧ g.gprefix = a.gprefix ∧ g.glevel = a.level ∧
         g.members = a.members ∧ t.sys.capv = false ∧ (∃ n body, .grove u (groveHdr g 1 n) body ∈ t.out))) ∧
   (∀ (s : State) (g : GroveSt), Up s → s.grove.forming = some g →
     ∃ t, exec .groveIncomplete s = .next t ∧ t.grove.forming = none ∧ t.grove.formed = s.grove.formed ∧
       t.sys.capv = true ∧ (∀ w, g.waiter = some w → w.mgmt = true → w.via = none →
         ∃ rec, (ringAt t mgmtCtx).held = (ringAt s mgmtCtx).held ++ [rec] ∧ rec.status = stGROVE_INCOMPLETE ∧
           rec.tag = w.tag)) ∧
   (∀ s : State, Up s → s.grove.forming = none → exec .groveIncomplete s = .next s))

/-- The messages of a formation (R335, R337, R347). The leader answers a GHELLO of its epoch and table from a path that
one of its entries holds with a fresh nonce in a GCHAL; a member answers its leader's GCHAL with its identity in a GCONF
while Lodge runs; a GCONF that does not verify fails the formation; GFORMED from the leader forms the grove at a member
with its number of instances and its certificate; GFAIL from the leader ends the formation with its code. -/
def Obligations.FormationMessagesAreObeyed : Prop :=
  (∀ (s : State) (src : UPath) (hdr : BitVec 128) (crc : BitVec 64) (ni : BitVec 16) (kd : Bool) (g : GroveSt), Up s →
    ghType hdr = 1 → s.grove.forming = some g → g.gprefix = ghPrefix hdr → g.glevel = ghLevel hdr → leads s g = true →
    ghSeq hdr = tget s.grove.rxSeq src.toNat 0 + 1 →
    (g.gepoch = ghEpoch hdr → g.tableCrc = crc → (∃ e ∈ g.members, e.holds g.glevel src = true) →
      ∃ (t : State) (x : GroveSt), exec (.ghello src hdr crc ni kd) s = .next t ∧ t.grove.forming = some x ∧
        src ∈ x.hellos ∧ (tget? x.nonces src.toNat).isSome = true ∧ t.free = s.free + 1 ∧
        (∃ n, .grove src (groveHdr g 2 n) (leBytes 32 ((Config.drbg s.free).toNat % 2 ^ 256)) ∈ t.out)) ∧
    (g.gepoch = ghEpoch hdr → g.tableCrc ≠ crc →
      ∃ t, exec (.ghello src hdr crc ni kd) s = .next t ∧ t.grove.forming = none ∧ t.grove.formed = s.grove.formed)) ∧
  (∀ (s : State) (src : UPath) (hdr : BitVec 128) (nonce : BitVec 256) (g : GroveSt), GroveTaken s src hdr 2 g →
    coreState s 0 = 0 → g.leader = src → g.gstate = 1 → ∃ t, exec (.gchal src hdr nonce) s = .next t ∧
      (∃ n, .grove src (groveHdr g 3 n)
        (chainBytes (myChain s) ++ sigBytes (signAlias s (confMsg g nonce))) ∈ t.out) ∧ t.grove.formed.length = s.grove.formed.length) ∧
  (∀ (s : State) (src : UPath) (hdr : BitVec 128) (chain : List (List Byte)) (sig : BitVec 768) (g : GroveSt)
    (n : BitVec 256), GroveTaken s src hdr 3 g → coreState s 0 = 0 → s.grove.forming = some g → g.gstate = 1 →
    leads s g = true → tget? g.nonces src.toNat = some n →
    let good : Bool := Config.chainOk chain && Config.ecdsaVerify (Config.chainKey chain) (confMsg g n) (sigBytes sig)
    (good = false → ∃ t, exec (.gconf src hdr chain sig) s = .next t ∧ t.grove.forming = none) ∧
    (good = true → ∃ (t : State) (x : GroveSt), exec (.gconf src hdr chain sig) s = .next t ∧
      (t.grove.forming = some x ∨ x ∈ t.grove.formed) ∧ tget? x.devs src.toNat = some (chain.getD 2 []))) ∧
  (∀ (s : State) (src : UPath) (hdr : BitVec 128) (ni : BitVec 16) (cert : List Byte) (g : GroveSt),
    GroveTaken s src hdr 4 g → s.grove.forming = some g → g.leader = src → g.gstate = 1 →
    ∃ (t : State) (x : GroveSt), exec (.gformed src hdr ni cert) s = .next t ∧ t.grove.forming = none ∧
      t.grove.formed.head? = some x ∧ t.grove.formed.length = s.grove.formed.length + 1 ∧ x.gstate = 2 ∧
      x.ninst = ni.toNat ∧ x.cert = cert ∧ x.gepoch = g.gepoch ∧ t.sys.capv = true) ∧
  (∀ (s : State) (src : UPath) (hdr : BitVec 128) (st m : BitVec 16) (g : GroveSt), GroveTaken s src hdr 5 g →
    s.grove.forming = some g → g.leader = src → g.gstate = 1 → leads s g = false →
    ∃ t, exec (.gfail src hdr st m) s = .next t ∧ t.grove.forming = none ∧ t.sys.capv = true)

/-- Work across a grove, while Belvedere runs (R337, R342 to R344). At a member, a forwarded ANGLE_SET or other context
command acts as at its own ring and its record goes back to the leader in a GREPORT, and a forwarded halt halts the job
that it numbers, and the grove context also where that job does not run. At the leader, a report of a halt halts the
grove context's job with the member's fault, and a record takes the member out of those that a job waits for. A message
of a stale epoch is discarded and counted (R336, R480). -/
def Obligations.GroveWorkIsForwardedAndReported : Prop :=
  (∀ (s : State) (src : UPath) (hdr : BitVec 128) (m : BitVec 16) (c : CtxId) (msg : BitVec 512) (rest : List Byte)
    (g : GroveSt), GroveTaken s src hdr 7 g → coreState s 2 = 0 → rootGrove s = some g → s.grove.forming = none →
    g.leader = src → g.gstate ≠ 1 → (m.toNat = ownIndex s ∨ (g.members = [] ∧ g.myIndex = none)) →
    ((msgOf msg).opc = 7 → (getCtx s c.val).altWait = none → extDenied s c.val 1 (bits msg.toNat 64 64) 512 = false →
      extPoisonIn s 1 (bits msg.toNat 64 64) 512 = [] →
      ∃ t, exec (.gfwd src hdr m 1 c msg rest) s = .next t ∧
        (∀ k, k < 128 → tget (getCtx t c.val).angles k 0 =
          BitVec.ofNat 32 (leNat ((extPeek s 1 (bits msg.toNat 64 64) 512).drop (4 * k) |>.take 4))) ∧
        ∃ n body, .grove src (groveHdr g 8 n) body ∈ t.out) ∧
    (∀ j, findJob s c.val (BitVec.ofNat 32 (bits msg.toNat 192 32)) = some j → j.fault = none →
      ∃ (t : State) (k : Job), exec (.gfwd src hdr m 3 c msg rest) s = .next t ∧
        findJob t c.val (BitVec.ofNat 32 (bits msg.toNat 192 32)) = some k ∧
        k.fault.map (·.status) = some (bits msg.toNat 16 16)) ∧
    (findJob s c.val (BitVec.ofNat 32 (bits msg.toNat 192 32)) = none → bits msg.toNat 16 16 / 4096 ≠ 2 →
      (getCtx s c.val).state = .active → ∃ t, exec (.gfwd src hdr m 3 c msg rest) s = .next t ∧
        (getCtx t c.val).state = .halted ∧ t.jobs = s.jobs)) ∧
  (∀ (s : State) (src : UPath) (hdr : BitVec 128) (m : BitVec 16) (c : CtxId) (body : List Byte) (g : GroveSt) (j : Job),
    GroveTaken s src hdr 8 g → coreState s 2 = 0 → leads s g = true → g.gstate ≠ 1 →
    (getCtx s c.val).state ≠ .quiescing →
    let r := leNat (body.take 128)
    findJob s c.val (BitVec.ofNat 32 (bits r 64 32)) = some j → j.fault = none →
    (∃ (t : State) (k : Job), exec (.greport src hdr m 3 c body) s = .next t ∧
      findJob t c.val (BitVec.ofNat 32 (bits r 64 32)) = some k ∧ k.fault = some (parseFault r) ∧
      ((getCtx s c.val).state = .active → (getCtx t c.val).state = .halted)) ∧
    (bits r 8 8 = 1 → m.toNat ∈ j.peers → ∃ (t : State) (k : Job), exec (.greport src hdr m 1 c body) s = .next t ∧
      findJob t c.val (BitVec.ofNat 32 (bits r 64 32)) = some k ∧ m.toNat ∉ k.peers ∧
      (bits r 16 16 = 0 → k.fault = none) ∧ (bits r 16 16 ≠ 0 → k.fault.map (·.fmember) = some m.toNat))) ∧
  (∀ (s : State) (src : UPath) (hdr : BitVec 128) (m : BitVec 16) (kd : BitVec 4) (c : CtxId) (body : List Byte)
    (g : GroveSt), Up s → coreState s 2 = 0 → ghType hdr = 8 → ghSeq hdr = 0 → namedGrove s hdr = some g →
    g.gepoch ≠ ghEpoch hdr → ∃ t, exec (.greport src hdr m kd c body) s = .next t ∧
      t.sys.groveStaleCnt = Nat.min (s.sys.groveStaleCnt + 1) 0xFFFFFFFF ∧ t.sys.errSts.getLsbD 11 = true ∧
      t.jobs = s.jobs ∧ t.ctxs = s.ctxs)

/-- Heartbeats and acknowledgements of a grove (R337, R345). GHB marks its sender as heard; GHB_SEND sends a beat from a
member to its leader and begins a new round; a silent leader is lost to its member and sets MEMBER_LOST, one that has
been heard is not; GACK frees what the peer has received; GACK_SEND acknowledges the last message in order. -/
def Obligations.GrovePeersAreWatched : Prop :=
  (∀ (s : State) (src : UPath) (hdr : BitVec 128) (g : GroveSt), GroveTaken s src hdr 6 g → s.grove.forming = none →
    s.grove.formed = [g] → ∃ (t : State) (x : GroveSt), exec (.ghb src hdr) s = .next t ∧ t.grove.formed = [x] ∧
      src ∈ x.heard ∧ x = { g with heard := x.heard } ∧ t.jobs = s.jobs ∧ t.ctxs = s.ctxs) ∧
  (∀ (s : State) (g : GroveSt), Up s → s.grove.formed = [g] → leads s g = false → g.gstate ≠ 4 →
    (∃ t, exec .ghbSend s = .next t ∧ t.grove.formed = [{ g with heard := [] }] ∧
      t.out = s.out ++ [.grove g.leader (groveHdr g 6 0) []]) ∧
    (g.leader ∉ g.heard → groveCtxs s = [] → ∃ t, exec (.memberLost g.leader) s = .next t ∧
      t.grove.formed = [{ g with gstate := 4 }] ∧ t.sys.errSts.getLsbD 12 = true ∧ t.jobs = s.jobs) ∧
    (g.leader ∈ g.heard → exec (.memberLost g.leader) s = .next s)) ∧
  (∀ (s : State) (src : UPath) (hdr : BitVec 128) (n : BitVec 32) (g : GroveSt), GroveTaken s src hdr 9 g →
    ∃ t, exec (.gack src hdr n) s = .next t ∧
      t.grove.unacked = s.grove.unacked.filter (fun e => !(e.1 == src.toNat && decide (e.2 ≤ n.toNat)))) ∧
  (∀ (s : State) (peer : UPath) (g : GroveSt), Up s → sharedGrove s peer = some g →
    let n := tget s.grove.rxSeq peer.toNat 0
    (tget s.grove.ackedSeq peer.toNat 0 < n → ∃ t, exec (.gackSend peer) s = .next t ∧
      t.out = s.out ++ [.grove peer (groveHdr g 9 0) (leBytes 4 n)] ∧ tget t.grove.ackedSeq peer.toNat 0 = n) ∧
    (n ≤ tget s.grove.ackedSeq peer.toNat 0 → exec (.gackSend peer) s = .next s))

/-! What two families of commands leave alone. -/

/-- What a command may change at most, over two families of commands. A word of the P-port, a step of Pumphouse's loops,
a change of ACLK, a sensor's reading or a round of grants changes the power state, the error status and the trip pin,
the trace, the words sent, and in each Pavilion the class granted, the class asked for and the performance counters:
every program, context, job, memory, link and record stays as it is, so power changes no result (R26, R421, R425, R428).
A command that configures, trains, brings up or fails a path or a G-port changes link state, the error status, the trace
and the messages sent, and nothing else (R26, R264, R293, R294). -/
def Obligations.PowerAndLinksLeaveTheRest : Prop :=
  (∀ (c : Instr) (s t : State), exec c s = .next t →
     ((∃ w, c = .budget w ∨ c = .meas w ∨ c = .aclkf w) ∨ c = .aclkReqRise ∨ c = .aclkReqFall ∨ c = .leaveGrant ∨
       c = .powerLoop ∨ c = .thermalLoop ∨ c = .fcst ∨ (∃ n, c = .temp n) ∨ c = .status ∨
       ∃ n x invalid, c = .sensorRead n x invalid) →
     t = { s with
       sys := { s.sys with errSts := t.sys.errSts, errNow := t.sys.errNow, thermTrip := t.sys.thermTrip }
       power := t.power, pavs := t.pavs, trace := t.trace, out := t.out } ∧
     ∀ p, getPav t p = { getPav s p with
       leave := (getPav t p).leave, leaveReq := (getPav t p).leaveReq, perfCnt := (getPav t p).perfCnt }) ∧
  (∀ (c : Instr) (s t : State), exec c s = .next t →
     ((∃ p v be, c = .pathEnable p v be ∨ c = .pathDisable p v be ∨ c = .pathRstoreWrite p v be) ∨
       (∃ p x, c = .laneLockGain p x) ∨ (∃ n, c = .laneLockLoss n) ∨ (∃ p skew, c = .trainTimeout p skew) ∨
       (∃ port, c = .helloResend port ∨ c = .helloTimeout port ∨ c = .retrainTimeout port) ∨
       (∃ port body, c = .hello port body ∨ c = .helloAck port body) ∨
       ∃ p, c = .secureTimeout p ∨ c = .pathIdentityKeyConfirm p ∨ c = .gUpRise p ∨ c = .gUpFall p) →
     t = { s with
       sys := { s.sys with errSts := t.sys.errSts, errNow := t.sys.errNow }
       prom := { s.prom with paths := t.prom.paths, gports := t.prom.gports }
       trace := t.trace, out := t.out })
end

