-- ==== Sys2Proof/Laws/Memory.lean ====
section
/-!
SUPPORT. The canonical form of a memory (addresses strictly rising, no zero byte listed), and that every operation over
memory keeps it. The form is stated a second time in terms of lists, which is how proofs use it.
-/
namespace Sys2Proof.Laws
set_option Elab.async false
open Sys2Proof.Machine

/-- The canonical form in terms of lists. -/
theorem wf_iff (m : Mem) : Mem.wf m = true ↔ (∀ c ∈ m, c.2 ≠ 0) ∧ m.Pairwise (fun c d => c.1 < d.1) := by
  induction m with
  | nil => simp [Mem.wf]
  | cons c rest ih =>
    cases rest with
    | nil => simp [Mem.wf]
    | cons d rest =>
      rw [Mem.wf, Bool.and_eq_true, Bool.and_eq_true, ih]
      simp only [bne_iff_ne, ne_eq, decide_eq_true_eq, List.mem_cons, forall_eq_or_imp, List.pairwise_cons]
      constructor
      · rintro ⟨⟨hc, hcd⟩, hz, hd, hp⟩
        exact ⟨⟨hc, hz⟩, ⟨hcd, fun a ha => hcd.trans (hd a ha)⟩, hd, hp⟩
      · rintro ⟨⟨hc, hz⟩, ⟨hcd, -⟩, hd, hp⟩
        exact ⟨⟨hc, hcd⟩, hz, hd, hp⟩

/-- Cells of a canonical memory that a test keeps are canonical. -/
theorem wf_filter (m : Mem) (p : Host.Cell → Bool) (h : Mem.wf m = true) : Mem.wf (m.filter p) = true := by
  rw [wf_iff] at *
  exact ⟨fun c hc => h.1 c (List.mem_filter.mp hc).1, h.2.filter p⟩

/-- Every cell that a byte list lists lies in its range and is not 0. -/
theorem mem_cellsOf (bs : List Byte) (a : Nat) (c : Host.Cell) (h : c ∈ cellsOf a bs) :
    a ≤ c.1 ∧ c.1 < a + bs.length ∧ c.2 ≠ 0 := by
  induction bs generalizing a with
  | nil => simp [cellsOf] at h
  | cons b bs ih =>
    unfold cellsOf at h
    have tail (h : c ∈ cellsOf (a + 1) bs) : a ≤ c.1 ∧ c.1 < a + (b :: bs).length ∧ c.2 ≠ 0 := by
      have := ih (a + 1) h
      simp only [List.length_cons]
      exact ⟨by omega, by omega, this.2.2⟩
    split at h
    · exact tail h
    · rename_i hb
      rcases List.mem_cons.mp h with rfl | h
      · exact ⟨Nat.le_refl a, by simp, hb⟩
      · exact tail h

/-- The cells of a byte list rise. -/
theorem cellsOf_rise (bs : List Byte) (a : Nat) : (cellsOf a bs).Pairwise (fun c d => c.1 < d.1) := by
  induction bs generalizing a with
  | nil => simp [cellsOf]
  | cons b bs ih =>
    unfold cellsOf
    split
    · exact ih (a + 1)
    · refine List.pairwise_cons.mpr ⟨fun d hd => ?_, ih (a + 1)⟩
      have := (mem_cellsOf bs (a + 1) d hd).1
      omega

/-- Three canonical stretches of memory, one after the other, are canonical together. -/
theorem wf_append (l m : Mem) (hl : Mem.wf l = true) (hm : Mem.wf m = true) (h : ∀ c ∈ l, ∀ d ∈ m, c.1 < d.1) :
    Mem.wf (l ++ m) = true := by
  rw [wf_iff] at *
  refine ⟨fun c hc => ?_, List.pairwise_append.mpr ⟨hl.2, hm.2, h⟩⟩
  rcases List.mem_append.mp hc with hc | hc
  · exact hl.1 c hc
  · exact hm.1 c hc

theorem wf_cellsOf (bs : List Byte) (a : Nat) : Mem.wf (cellsOf a bs) = true :=
  (wf_iff _).mpr ⟨fun c hc => (mem_cellsOf bs a c hc).2.2, cellsOf_rise bs a⟩

/-- A write keeps the canonical form. -/
theorem wf_memWrite (m : Mem) (a : Nat) (bs : List Byte) (h : Mem.wf m = true) : Mem.wf (memWrite m a bs) = true := by
  unfold memWrite
  refine wf_append _ _ (wf_append _ _ (wf_filter m _ h) (wf_cellsOf bs a) ?_) (wf_filter m _ h) ?_
  · intro c hc d hd
    have h1 := (mem_cellsOf bs a d hd).1
    have h2 : c.1 < a := by simpa using (List.mem_filter.mp hc).2
    omega
  · intro c hc d hd
    have h2 : a + bs.length ≤ d.1 := by simpa using (List.mem_filter.mp hd).2
    rcases List.mem_append.mp hc with hc | hc
    · have h1 : c.1 < a := by simpa using (List.mem_filter.mp hc).2
      omega
    · have h1 := (mem_cellsOf bs a c hc).2.1
      omega

/-- Clearing a range keeps the canonical form. -/
theorem wf_memZero (m : Mem) (a n : Nat) (h : Mem.wf m = true) : Mem.wf (memZero m a n) = true := by
  unfold memZero
  refine wf_append _ _ (wf_filter m _ h) (wf_filter m _ h) ?_
  intro c hc d hd
  have h1 : c.1 < a := by simpa using (List.mem_filter.mp hc).2
  have h2 : a + n ≤ d.1 := by simpa using (List.mem_filter.mp hd).2
  omega

/-- The memories of the state after reset list nothing. -/
theorem wf_reset : Mem.wf State.reset.ter.mem = true ∧ Mem.wf State.reset.ext.stack = true ∧
    Mem.wf State.reset.ext.host = true := ⟨rfl, rfl, rfl⟩

/-! The Terrace. -/

theorem wf_terPut (phys : Nat) (bs : List Byte) (tags : List (BitVec 2)) (t : Terrace) (h : Mem.wf t.mem = true) :
    Mem.wf (terPut phys bs tags t).mem = true := by
  unfold terPut
  dsimp only
  split
  · exact h
  · exact wf_memWrite _ _ _ h

theorem wf_terPutParts (ps : List Part) (bs : List Byte) (tags : List (BitVec 2)) (t : Terrace) (h : Mem.wf t.mem = true) :
    Mem.wf (terPutParts ps bs tags t).mem = true := by
  induction ps generalizing bs tags t with
  | nil => exact h
  | cons p ps ih => exact ih _ _ _ (wf_terPut _ _ _ _ h)

theorem wf_terWrite (s : State) (c off : Nat) (bs : List Byte) (tags : List (BitVec 2)) (h : Mem.wf s.ter.mem = true) :
    Mem.wf (terWrite s c off bs tags).1.ter.mem = true := by
  unfold terWrite
  dsimp only
  split
  · exact h
  · exact wf_terPutParts _ _ _ _ h

theorem wf_terAddWord (w : Nat) (x : AEl) (t : Terrace) (h : Mem.wf t.mem = true) :
    Mem.wf (terAddWord w x t).mem = true := by
  unfold terAddWord
  dsimp only
  split
  · exact h
  · exact wf_memWrite _ _ _ h

theorem wf_terClear (phys n : Nat) (t : Terrace) (h : Mem.wf t.mem = true) : Mem.wf (terClear phys n t).mem = true :=
  wf_memZero _ _ _ h

/-- Reading the Terrace changes no stored byte: correction and poison are kept beside it (R229). -/
theorem eccTouch_mem (ws : List (Nat × Nat)) (s : State) : (eccTouch ws s).ter.mem = s.ter.mem := by
  unfold eccTouch
  induction ws generalizing s with
  | nil => rfl
  | cons e ws ih =>
    rw [List.foldl_cons, ih]
    split <;> rfl

/-! The outside memories. -/

/-- Both outside memories in their canonical form. -/
abbrev OutsideWf (s : State) : Prop := Mem.wf s.ext.stack = true ∧ Mem.wf s.ext.host = true

theorem wf_extMem (s : State) (space : Nat) (h : OutsideWf s) : Mem.wf (extMem s space) = true := by
  unfold extMem
  split
  · exact h.1
  · exact h.2

theorem wf_setExtMem (s : State) (space : Nat) (m : Mem) (h : OutsideWf s) (hm : Mem.wf m = true) :
    OutsideWf (setExtMem space m s) := by
  unfold OutsideWf setExtMem
  dsimp only
  split
  · exact ⟨hm, h.2⟩
  · exact ⟨h.1, hm⟩

theorem wf_setExtPoison (s : State) (space : Nat) (l : List Nat) (h : OutsideWf s) : OutsideWf (setExtPoison space l s) := by
  unfold OutsideWf setExtPoison
  dsimp only
  split <;> exact h

theorem wf_writeBack (l : CacheLine) (s : State) (h : OutsideWf s) : OutsideWf (writeBack l s) := by
  unfold writeBack
  split
  · exact wf_setExtMem _ _ _ h (wf_memWrite _ _ _ (wf_extMem _ _ h))
  · exact h

theorem wf_writeBacks (ls : List CacheLine) (s : State) (h : OutsideWf s) :
    OutsideWf (ls.foldl (fun s l => writeBack l s) s) := by
  induction ls generalizing s with
  | nil => exact h
  | cons l ls ih => exact ih _ (wf_writeBack l s h)

/-- A write to an outside memory, by whichever writer, keeps both canonical. -/
theorem wf_extPut (space a : Nat) (bs : List Byte) (pw : List Nat) (cached : Bool) (s : State) (h : OutsideWf s) :
    OutsideWf (extPut space a bs pw cached s) := by
  unfold extPut
  dsimp only
  refine wf_setExtPoison _ _ _ (wf_setExtMem _ _ _ ?_ (wf_memWrite _ _ _ (wf_extMem _ _ ?_))) <;>
  · cases cached
    · exact wf_writeBacks _ _ h
    · simpa using h

/-- Ixdon's own writes of zeros keep them canonical. -/
theorem wf_stackZero (a n : Nat) (s : State) (h : OutsideWf s) : OutsideWf (stackZero a n s) := by
  unfold stackZero
  split
  · exact h
  · have h1 := wf_writeBacks (s.ter.lines.filter (fun l => l.space == 0 && rangesMeet a n (l.addr * 256) 256)) s h
    exact ⟨wf_memZero _ _ _ h1.1, h1.2⟩

/-- Queueing requests on the M-ports touches no memory. -/
theorem mQueue_ext (write : Bool) (c : Nat) (priv : Bool) (space a n : Nat) (s : State) :
    (mQueue write c priv space a n s).ext = s.ext ∧ (mQueue write c priv space a n s).ter = s.ter := by
  unfold mQueue
  generalize cutAt 1024 (n / 1024 + 2) a n = l
  induction l generalizing s with
  | nil => exact ⟨rfl, rfl⟩
  | cons k l ih => rw [List.foldl_cons]; exact ih _

/-- Queueing requests on the M-ports changes the M-ports alone. -/
theorem mQueue_only (write : Bool) (c : Nat) (priv : Bool) (space a n : Nat) (s : State) :
    ∃ ps, mQueue write c priv space a n s = { s with mports := ps } := by
  unfold mQueue
  generalize cutAt 1024 (n / 1024 + 2) a n = l
  induction l generalizing s with
  | nil => exact ⟨s.mports, rfl⟩
  | cons k l ih =>
    rw [List.foldl_cons]
    obtain ⟨ps, h⟩ := ih { s with mports := _ }
    exact ⟨ps, h⟩

theorem wf_extWrite (s : State) (c : Nat) (priv : Bool) (space a : Nat) (bs : List Byte) (pw : List Nat) (cached : Bool)
    (h : OutsideWf s) : OutsideWf (extWrite s c priv space a bs pw cached).1 := by
  unfold extWrite
  split
  · exact h
  · unfold OutsideWf
    rw [(mQueue_ext _ _ _ _ _ _ _).1]
    exact wf_extPut _ _ _ _ _ _ h

end Sys2Proof.Laws
end

