-- ==== Sys2Proof/Laws/Links.lean ====
section
/-!
SUPPORT. Framing on the links touches the links, the keys' counters, the retry store in stack memory and the M-port queues,
and nothing else; so a command's meaning may be read without its wrapper.
-/
namespace Sys2Proof.Laws
set_option Elab.async false
open Sys2Proof.Machine

/-- Two states that differ at most in what framing touches. -/
structure LinkFrame (s t : State) : Prop where
  pending : t.pending = s.pending
  sys : t.sys = s.sys
  mgmt : t.mgmt = s.mgmt
  ctxs : t.ctxs = s.ctxs
  jobs : t.jobs = s.jobs
  terMem : t.ter.mem = s.ter.mem
  windows : t.ter.windows = s.ter.windows
  poison : t.ter.poison = s.ter.poison
  outside : OutsideWf s → OutsideWf t
  pavs : t.pavs = s.pavs
  alt : t.alt = s.alt
  sends : t.prom.sends = s.prom.sends
  creds : t.prom.creds = s.prom.creds
  landing : t.prom.landing = s.prom.landing
  shakes : t.prom.shakes = s.prom.shakes
  band : t.band = s.band
  grove : t.grove = s.grove
  power : t.power = s.power
  trace : t.trace = s.trace
  jtag : t.jtag = s.jtag
  out : t.out = s.out
  free : t.free = s.free

theorem LinkFrame.refl (s : State) : LinkFrame s s := by
  constructor <;> first | exact rfl | exact fun h => h

theorem LinkFrame.trans {s t u : State} (h : LinkFrame s t) (g : LinkFrame t u) : LinkFrame s u where
  pending := g.pending.trans h.pending
  sys := g.sys.trans h.sys
  mgmt := g.mgmt.trans h.mgmt
  ctxs := g.ctxs.trans h.ctxs
  jobs := g.jobs.trans h.jobs
  terMem := g.terMem.trans h.terMem
  windows := g.windows.trans h.windows
  poison := g.poison.trans h.poison
  outside := fun x => g.outside (h.outside x)
  pavs := g.pavs.trans h.pavs
  alt := g.alt.trans h.alt
  sends := g.sends.trans h.sends
  creds := g.creds.trans h.creds
  landing := g.landing.trans h.landing
  shakes := g.shakes.trans h.shakes
  band := g.band.trans h.band
  grove := g.grove.trans h.grove
  power := g.power.trans h.power
  trace := g.trace.trans h.trace
  jtag := g.jtag.trans h.jtag
  out := g.out.trans h.out
  free := g.free.trans h.free

/-- A chain of steps each of which is a frame is one. -/
theorem frame_foldl {α : Type} (f : State → α → State) (h : ∀ s a, LinkFrame s (f s a)) (l : List α) (s : State) :
    LinkFrame s (l.foldl f s) := by
  induction l generalizing s with
  | nil => exact LinkFrame.refl s
  | cons a l ih => exact (h s a).trans (ih (f s a))

theorem frame_setExtMem (space : Nat) (m : Mem) (s : State) (h : OutsideWf s → Mem.wf m = true) :
    LinkFrame s (setExtMem space m s) := by
  constructor <;> first | rfl | exact fun x => wf_setExtMem s space m x (h x)

theorem frame_setExtPoison (space : Nat) (l : List Nat) (s : State) : LinkFrame s (setExtPoison space l s) := by
  constructor <;> first | rfl | exact fun x => wf_setExtPoison s space l x

theorem frame_writeBack (l : CacheLine) (s : State) : LinkFrame s (writeBack l s) := by
  unfold writeBack
  split
  · exact frame_setExtMem _ _ _ (fun x => wf_memWrite _ _ _ (wf_extMem _ _ x))
  · exact LinkFrame.refl s

theorem frame_lines (l : List CacheLine) (s : State) : LinkFrame s { s with ter := { s.ter with lines := l } } := by
  constructor <;> first | rfl | exact fun x => x

/-- A write to an outside memory. -/
theorem frame_extPut (space a : Nat) (bs : List Byte) (pw : List Nat) (cached : Bool) (s : State) :
    LinkFrame s (extPut space a bs pw cached s) := by
  unfold extPut
  dsimp only
  refine (frame_foldl (fun s l => if cached = true then s else writeBack l s) (fun s l => ?_) _ s).trans
    (((frame_setExtMem space _ _ ?_).trans (frame_setExtPoison _ _ _)).trans (frame_lines _ _))
  · cases cached
    · exact frame_writeBack l s
    · exact LinkFrame.refl s
  · exact fun x => wf_memWrite _ _ _ (wf_extMem _ _ x)

theorem frame_mQueue (write : Bool) (c : Nat) (priv : Bool) (space a n : Nat) (s : State) :
    LinkFrame s (mQueue write c priv space a n s) := by
  unfold mQueue
  exact frame_foldl _ (fun s k => by constructor <;> first | rfl | exact fun x => x) _ s

/-- Ixdon's own write to an outside memory, which nothing denies. -/
theorem frame_extWrite (c space a : Nat) (bs : List Byte) (pw : List Nat) (cached : Bool) (s : State) :
    LinkFrame s (extWrite s c true space a bs pw cached).1 := by
  simp only [extWrite, Bool.not_true, Bool.false_and, Bool.false_eq_true, if_false]
  exact (frame_extPut _ _ _ _ _ _).trans (frame_mQueue _ _ _ _ _ _ _)

theorem frame_setLink (p : LinkPort) (l : Link) (s : State) : LinkFrame s (setLink p l s) := by
  cases p <;> constructor <;> first | rfl | exact fun x => x

theorem frame_modLink (p : LinkPort) (f : Link → Link) (s : State) : LinkFrame s (modLink p f s) := frame_setLink _ _ _

theorem frame_spillOldest (p : LinkPort) (s : State) : LinkFrame s (spillOldest p s) := by
  unfold spillOldest
  dsimp only
  split
  · exact LinkFrame.refl s
  · split
    · exact LinkFrame.refl s
    · exact frame_extWrite _ _ _ _ _ _ _

theorem frame_sendFlit (p : LinkPort) (i : Nat) (f : TxFlit) (s : State) : LinkFrame s (sendFlit p i f s) :=
  (frame_setLink _ _ _).trans (frame_spillOldest _ _)

/-- Sending what waits on a link. -/
theorem frame_pump (p : LinkPort) (n : Nat) (s : State) : LinkFrame s (pump p n s) := by
  induction n generalizing s with
  | zero => exact LinkFrame.refl s
  | succ n ih =>
    unfold pump
    dsimp only
    split
    · exact LinkFrame.refl s
    · split
      · exact LinkFrame.refl s
      · exact ((frame_setLink _ _ _).trans (frame_sendFlit _ _ _ _)).trans (ih _)

/-- Whatever is put before a link. -/
theorem frame_linkPut (p : LinkPort) (f : Link → Link) (s : State) : LinkFrame s (linkPut p f s) := by
  unfold linkPut
  dsimp only
  split
  · exact (frame_setLink _ _ _).trans (frame_pump _ _ _)
  · exact LinkFrame.refl s

theorem frame_pushFlit (p : LinkPort) (ftype pvb : Nat) (nak : Bool) (payload : List Byte) (s : State) :
    LinkFrame s (pushFlit p ftype pvb nak payload s) := frame_linkPut _ _ _

theorem frame_pushChunk (p : LinkPort) (ftype : Nat) (head stream : List Byte) (s : State) :
    LinkFrame s (pushChunk p ftype head stream s) := by
  unfold pushChunk
  exact frame_linkPut _ _ _

theorem frame_pushRecord (p : LinkPort) (ftype : Nat) (dst : UPath) (r : List Byte) (s : State) :
    LinkFrame s (pushRecord p ftype dst r s) := by
  unfold pushRecord
  exact frame_pushFlit _ _ _ _ _ _

theorem frame_pushLctl (p : LinkPort) (ltype : Nat) (enc : Bool) (body : List Byte) (s : State) :
    LinkFrame s (pushLctl p ltype enc body s) := by
  unfold pushLctl
  exact frame_linkPut _ _ _

theorem frame_takeNonce (u : UPath) (s t : State) (a c : Nat) (k : BitVec 256) (h : takeNonce u s = some (a, k, c, t)) :
    LinkFrame s t := by
  unfold takeNonce at h
  split at h
  · cases h
  · dsimp only at h
    split at h
    · cases h
    · obtain ⟨-, -, -, rfl⟩ := by simpa using h
      constructor <;> first | rfl | exact fun x => x

theorem frame_pushGrove (p : LinkPort) (dst : UPath) (hdr : BitVec 128) (body : List Byte) (s : State) :
    LinkFrame s (pushGrove p dst hdr body s) := by
  unfold pushGrove
  dsimp only
  split
  · split
    · constructor <;> first | rfl | exact fun x => x
    · rename_i h
      exact (frame_takeNonce _ _ _ _ _ _ h).trans (frame_pushLctl _ _ _ _ _)
  · exact frame_pushLctl _ _ _ _ _

/-- Framing one output. -/
theorem frame_frameOut (o : Out) (s : State) : LinkFrame s (frameOut s o) := by
  have on (dst : UPath) (f : LinkPort → State → State) (h : ∀ p s, LinkFrame s (f p s)) :
      LinkFrame s (match routeOf s dst with
        | none => s
        | some p => f p s) := by
    split
    · exact LinkFrame.refl s
    · exact h _ _
  unfold frameOut
  cases o <;> dsimp only <;> first
    | exact LinkFrame.refl s
    | exact frame_pushChunk _ _ _ _ _
    | exact frame_pushFlit _ _ _ _ _ _
    | exact on _ _ (fun _ _ => frame_pushRecord _ _ _ _ _)
    | exact on _ _ (fun _ _ => frame_pushLctl _ _ _ _ _)
    | exact on _ _ (fun _ _ => frame_pushGrove _ _ _ _ _)
    | exact on _ _ (fun _ _ => frame_pushChunk _ _ _ _ _)

/-- Framing what a command has sent. -/
theorem frame_frameNew (n : Nat) (s : State) : LinkFrame s (frameNew n s) := frame_foldl _ (fun s o => frame_frameOut o s) _ s

/-- A command that sends nothing is its meaning alone. -/
theorem effect_silent (f : State → State) (s : State) (ho : (f s).out = s.out) (hp : (f s).pending = s.pending) :
    effect f s = f s := by
  have h : frameNew s.out.length (f s) = f s := by simp [frameNew, ho]
  unfold effect
  rw [h, ← hp]

/-- A command of the rings and ports while the instance is up. -/
theorem live_up (f : State → State) (s : State) (h : s.sys.phase = .up) : live f s = .next (effect f s) := by
  simp [live, h]

/-- Where a command of the rings and ports answers a next state, it is the effect while the instance is up, and
otherwise nothing has changed. -/
theorem live_cases (f : State → State) (s t : State) (h : live f s = .next t) :
    (s.sys.phase = .up ∧ t = effect f s) ∨ (s.sys.phase ≠ .up ∧ s.sys.phase ≠ .destroyed ∧ t = s) := by
  unfold live at h
  split at h
  · exact .inl ⟨by assumption, by simpa using h.symm⟩
  · cases h
  · exact .inr ⟨by assumption, by assumption, by simpa using h.symm⟩

/-- The same of a command that acts during start-up too. -/
theorem running_cases (f : State → State) (s t : State) (h : running f s = .next t) :
    (s.sys.phase ≠ .inReset ∧ s.sys.phase ≠ .destroyed ∧ t = effect f s) ∨ (s.sys.phase = .inReset ∧ t = s) := by
  unfold running at h
  split at h
  · cases h
  · exact .inr ⟨by assumption, by simpa using h.symm⟩
  · exact .inl ⟨by assumption, by assumption, by simpa using h.symm⟩

/-- A command's effect leaves the queue of waiting commands alone. -/
@[simp] theorem effect_pending (f : State → State) (s : State) : (effect f s).pending = s.pending := rfl

/-- A command's effect and its meaning agree in everything that framing leaves alone. -/
theorem effect_frame (f : State → State) (s : State) :
    LinkFrame (f s) { effect f s with pending := (f s).pending } := by
  have h := frame_frameNew s.out.length (f s)
  exact ⟨rfl, h.sys, h.mgmt, h.ctxs, h.jobs, h.terMem, h.windows, h.poison, h.outside, h.pavs, h.alt, h.sends, h.creds,
    h.landing, h.shakes, h.band, h.grove, h.power, h.trace, h.jtag, h.out, h.free⟩

end Sys2Proof.Laws
end

