-- ==== Sys2Proof/Laws/State.lean ====
section
/-!
SUPPORT. What each shared update leaves alone, one lemma per field, and how the sparse tables read after a change. They are
meant for simp, so that no proof unfolds a record update.
-/
namespace Sys2Proof.Laws
set_option Elab.async false
open Sys2Proof.Machine

/-! Sparse tables. -/

theorem lookup_filter {α : Type} (t : Tbl α) (p : Nat → Bool) (k : Nat) :
    (t.filter (fun e => p e.1)).lookup k = if p k then t.lookup k else none := by
  induction t with
  | nil => simp
  | cons e t ih =>
    obtain ⟨a, v⟩ := e
    by_cases hk : k = a
    · subst hk
      by_cases hp : p k = true
      · simp [hp]
      · simp [hp, ih]
    · have hb : (k == a) = false := by simpa using hk
      by_cases hp : p a = true
      · simp [hp, List.lookup_cons, hb, ih]
      · simp [hp, List.lookup_cons, hb, ih]

/-- The entry of a key after another entry is set. -/
theorem tget?_tset {α : Type} (t : Tbl α) (k j : Nat) (v : α) :
    tget? (tset t k v) j = if j = k then some v else tget? t j := by
  unfold tget? tset
  rw [List.lookup_append, lookup_filter t (fun n => decide (n < k)), List.lookup_cons,
    lookup_filter t (fun n => decide (k < n))]
  by_cases h : j = k
  · subst h
    simp
  · have hb : (j == k) = false := by simpa using h
    rcases Nat.lt_or_gt_of_ne h with h1 | h1
    · have h2 : ¬ k < j := by omega
      simp [hb, h, h1, h2]
    · have h2 : ¬ j < k := by omega
      simp [hb, h, h1, h2]

@[simp] theorem tget?_tset_self {α : Type} (t : Tbl α) (k : Nat) (v : α) : tget? (tset t k v) k = some v := by
  simp [tget?_tset]

theorem tget?_tset_ne {α : Type} (t : Tbl α) (k j : Nat) (v : α) (h : j ≠ k) : tget? (tset t k v) j = tget? t j := by
  simp [tget?_tset, h]

/-- The value of a key after another entry is set. -/
theorem tget_tset {α : Type} (t : Tbl α) (k j : Nat) (v d : α) :
    tget (tset t k v) j d = if j = k then v else tget t j d := by
  have h := tget?_tset t k j v
  unfold tget? at h
  unfold tget
  rw [h]
  split <;> rfl

@[simp] theorem tget_tset_self {α : Type} (t : Tbl α) (k : Nat) (v d : α) : tget (tset t k v) k d = v := by
  simp [tget_tset]

theorem tget_tset_ne {α : Type} (t : Tbl α) (k j : Nat) (v d : α) (h : j ≠ k) :
    tget (tset t k v) j d = tget t j d := by
  simp [tget_tset, h]

/-- The entry of a key after another entry is removed. -/
theorem tget?_tdel {α : Type} (t : Tbl α) (k j : Nat) : tget? (tdel t k) j = if j = k then none else tget? t j := by
  unfold tget? tdel
  rw [List.lookup_append, lookup_filter t (fun n => decide (n < k)), lookup_filter t (fun n => decide (k < n))]
  by_cases h : j = k
  · subst h
    simp
  · rcases Nat.lt_or_gt_of_ne h with h1 | h1
    · have h2 : ¬ k < j := by omega
      simp [h, h1, h2]
    · have h2 : ¬ j < k := by omega
      simp [h, h1, h2]

/-! Contexts, Pavilions and programs by key. -/

theorem getCtx_modCtx (c d : Nat) (f : Ctx → Ctx) (s : State) :
    getCtx (modCtx c f s) d = if d = c then f (getCtx s c) else getCtx s d :=
  tget_tset s.ctxs c d (f (getCtx s c)) Ctx.free

@[simp] theorem getCtx_modCtx_self (c : Nat) (f : Ctx → Ctx) (s : State) : getCtx (modCtx c f s) c = f (getCtx s c) := by
  simp [getCtx_modCtx]

theorem getCtx_modCtx_ne (c d : Nat) (f : Ctx → Ctx) (s : State) (h : d ≠ c) :
    getCtx (modCtx c f s) d = getCtx s d := by
  simp [getCtx_modCtx, h]

theorem getPav_modPav (p q : Nat) (f : Pav → Pav) (s : State) :
    getPav (modPav p f s) q = if q = p then f (getPav s p) else getPav s q :=
  tget_tset s.pavs p q (f (getPav s p)) Pav.empty

@[simp] theorem getProg_setProg_self (p : Nat) (q : PSlot) (g : Option Prog) (s : State) :
    getProg (setProg p q g s) p q = g := by
  cases q <;> simp [getProg, setProg, getPav_modPav]

theorem getProg_setProg_other (p : Nat) (q r : PSlot) (g : Option Prog) (s : State) (h : r ≠ q) :
    getProg (setProg p q g s) p r = getProg s p r := by
  cases q <;> cases r <;> simp_all [getProg, setProg, getPav_modPav]

theorem getPav_setProg_ne (p r : Nat) (q : PSlot) (g : Option Prog) (s : State) (h : r ≠ p) :
    getPav (setProg p q g s) r = getPav s r := by
  simp [setProg, getPav_modPav, h]

theorem getWin_modWin (w v : Nat) (f : Window → Window) (s : State) :
    getWin (modWin w f s) v = if v = w then f (getWin s w) else getWin s v :=
  tget_tset s.ter.windows w v (f (getWin s w)) Window.closed0

/-- The job that is found after one job is changed to another of its own name. -/
theorem findJob_modJob_self (c : Nat) (seq : BitVec 32) (f : Job → Job) (s : State)
    (hf : ∀ j : Job, (f j).ctx = j.ctx ∧ (f j).jobseq = j.jobseq) :
    findJob (modJob c seq f s) c seq = (findJob s c seq).map f := by
  unfold findJob modJob
  dsimp only
  induction s.jobs with
  | nil => rfl
  | cons j js ih =>
    by_cases h : (j.ctx == c && j.jobseq == seq) = true
    · simp only [List.map_cons, h, if_true, List.find?_cons, (hf j).1, (hf j).2, Option.map_some]
    · simp only [List.map_cons, h, if_false, List.find?_cons, Bool.false_eq_true]
      simpa using ih

/-! A bit of ERR_STS that is set reads 1. -/

theorem setErr_reads (b : Nat) (s : State) (h : b < 64) : (setErr b s).sys.errSts.getLsbD b = true := by
  simp [setErr, h]

/-! setErr changes sys alone. -/

@[simp] theorem setErr_pending (b : Nat) (s : State) : (setErr b s).pending = s.pending := rfl
@[simp] theorem setErr_mgmt (b : Nat) (s : State) : (setErr b s).mgmt = s.mgmt := rfl
@[simp] theorem setErr_ctxs (b : Nat) (s : State) : (setErr b s).ctxs = s.ctxs := rfl
@[simp] theorem setErr_jobs (b : Nat) (s : State) : (setErr b s).jobs = s.jobs := rfl
@[simp] theorem setErr_ter (b : Nat) (s : State) : (setErr b s).ter = s.ter := rfl
@[simp] theorem setErr_ext (b : Nat) (s : State) : (setErr b s).ext = s.ext := rfl
@[simp] theorem setErr_pavs (b : Nat) (s : State) : (setErr b s).pavs = s.pavs := rfl
@[simp] theorem setErr_alt (b : Nat) (s : State) : (setErr b s).alt = s.alt := rfl
@[simp] theorem setErr_prom (b : Nat) (s : State) : (setErr b s).prom = s.prom := rfl
@[simp] theorem setErr_band (b : Nat) (s : State) : (setErr b s).band = s.band := rfl
@[simp] theorem setErr_grove (b : Nat) (s : State) : (setErr b s).grove = s.grove := rfl
@[simp] theorem setErr_power (b : Nat) (s : State) : (setErr b s).power = s.power := rfl
@[simp] theorem setErr_mports (b : Nat) (s : State) : (setErr b s).mports = s.mports := rfl
@[simp] theorem setErr_trace (b : Nat) (s : State) : (setErr b s).trace = s.trace := rfl
@[simp] theorem setErr_jtag (b : Nat) (s : State) : (setErr b s).jtag = s.jtag := rfl
@[simp] theorem setErr_out (b : Nat) (s : State) : (setErr b s).out = s.out := rfl
@[simp] theorem setErr_free (b : Nat) (s : State) : (setErr b s).free = s.free := rfl

/-! emit changes out alone. -/

@[simp] theorem emit_pending (o : Out) (s : State) : (emit o s).pending = s.pending := rfl
@[simp] theorem emit_sys (o : Out) (s : State) : (emit o s).sys = s.sys := rfl
@[simp] theorem emit_mgmt (o : Out) (s : State) : (emit o s).mgmt = s.mgmt := rfl
@[simp] theorem emit_ctxs (o : Out) (s : State) : (emit o s).ctxs = s.ctxs := rfl
@[simp] theorem emit_jobs (o : Out) (s : State) : (emit o s).jobs = s.jobs := rfl
@[simp] theorem emit_ter (o : Out) (s : State) : (emit o s).ter = s.ter := rfl
@[simp] theorem emit_ext (o : Out) (s : State) : (emit o s).ext = s.ext := rfl
@[simp] theorem emit_pavs (o : Out) (s : State) : (emit o s).pavs = s.pavs := rfl
@[simp] theorem emit_alt (o : Out) (s : State) : (emit o s).alt = s.alt := rfl
@[simp] theorem emit_prom (o : Out) (s : State) : (emit o s).prom = s.prom := rfl
@[simp] theorem emit_band (o : Out) (s : State) : (emit o s).band = s.band := rfl
@[simp] theorem emit_grove (o : Out) (s : State) : (emit o s).grove = s.grove := rfl
@[simp] theorem emit_power (o : Out) (s : State) : (emit o s).power = s.power := rfl
@[simp] theorem emit_mports (o : Out) (s : State) : (emit o s).mports = s.mports := rfl
@[simp] theorem emit_trace (o : Out) (s : State) : (emit o s).trace = s.trace := rfl
@[simp] theorem emit_jtag (o : Out) (s : State) : (emit o s).jtag = s.jtag := rfl
@[simp] theorem emit_free (o : Out) (s : State) : (emit o s).free = s.free := rfl

/-! modCtx changes ctxs alone. -/

@[simp] theorem modCtx_pending (c : Nat) (f : Ctx → Ctx) (s : State) : (modCtx c f s).pending = s.pending := rfl
@[simp] theorem modCtx_sys (c : Nat) (f : Ctx → Ctx) (s : State) : (modCtx c f s).sys = s.sys := rfl
@[simp] theorem modCtx_mgmt (c : Nat) (f : Ctx → Ctx) (s : State) : (modCtx c f s).mgmt = s.mgmt := rfl
@[simp] theorem modCtx_jobs (c : Nat) (f : Ctx → Ctx) (s : State) : (modCtx c f s).jobs = s.jobs := rfl
@[simp] theorem modCtx_ter (c : Nat) (f : Ctx → Ctx) (s : State) : (modCtx c f s).ter = s.ter := rfl
@[simp] theorem modCtx_ext (c : Nat) (f : Ctx → Ctx) (s : State) : (modCtx c f s).ext = s.ext := rfl
@[simp] theorem modCtx_pavs (c : Nat) (f : Ctx → Ctx) (s : State) : (modCtx c f s).pavs = s.pavs := rfl
@[simp] theorem modCtx_alt (c : Nat) (f : Ctx → Ctx) (s : State) : (modCtx c f s).alt = s.alt := rfl
@[simp] theorem modCtx_prom (c : Nat) (f : Ctx → Ctx) (s : State) : (modCtx c f s).prom = s.prom := rfl
@[simp] theorem modCtx_band (c : Nat) (f : Ctx → Ctx) (s : State) : (modCtx c f s).band = s.band := rfl
@[simp] theorem modCtx_grove (c : Nat) (f : Ctx → Ctx) (s : State) : (modCtx c f s).grove = s.grove := rfl
@[simp] theorem modCtx_power (c : Nat) (f : Ctx → Ctx) (s : State) : (modCtx c f s).power = s.power := rfl
@[simp] theorem modCtx_mports (c : Nat) (f : Ctx → Ctx) (s : State) : (modCtx c f s).mports = s.mports := rfl
@[simp] theorem modCtx_trace (c : Nat) (f : Ctx → Ctx) (s : State) : (modCtx c f s).trace = s.trace := rfl
@[simp] theorem modCtx_jtag (c : Nat) (f : Ctx → Ctx) (s : State) : (modCtx c f s).jtag = s.jtag := rfl
@[simp] theorem modCtx_out (c : Nat) (f : Ctx → Ctx) (s : State) : (modCtx c f s).out = s.out := rfl
@[simp] theorem modCtx_free (c : Nat) (f : Ctx → Ctx) (s : State) : (modCtx c f s).free = s.free := rfl

/-! modCounts changes ctxs alone. -/

@[simp] theorem modCounts_pending (c : Nat) (f : CtxCounts → CtxCounts) (s : State) : (modCounts c f s).pending = s.pending := rfl
@[simp] theorem modCounts_sys (c : Nat) (f : CtxCounts → CtxCounts) (s : State) : (modCounts c f s).sys = s.sys := rfl
@[simp] theorem modCounts_mgmt (c : Nat) (f : CtxCounts → CtxCounts) (s : State) : (modCounts c f s).mgmt = s.mgmt := rfl
@[simp] theorem modCounts_jobs (c : Nat) (f : CtxCounts → CtxCounts) (s : State) : (modCounts c f s).jobs = s.jobs := rfl
@[simp] theorem modCounts_ter (c : Nat) (f : CtxCounts → CtxCounts) (s : State) : (modCounts c f s).ter = s.ter := rfl
@[simp] theorem modCounts_ext (c : Nat) (f : CtxCounts → CtxCounts) (s : State) : (modCounts c f s).ext = s.ext := rfl
@[simp] theorem modCounts_pavs (c : Nat) (f : CtxCounts → CtxCounts) (s : State) : (modCounts c f s).pavs = s.pavs := rfl
@[simp] theorem modCounts_alt (c : Nat) (f : CtxCounts → CtxCounts) (s : State) : (modCounts c f s).alt = s.alt := rfl
@[simp] theorem modCounts_prom (c : Nat) (f : CtxCounts → CtxCounts) (s : State) : (modCounts c f s).prom = s.prom := rfl
@[simp] theorem modCounts_band (c : Nat) (f : CtxCounts → CtxCounts) (s : State) : (modCounts c f s).band = s.band := rfl
@[simp] theorem modCounts_grove (c : Nat) (f : CtxCounts → CtxCounts) (s : State) : (modCounts c f s).grove = s.grove := rfl
@[simp] theorem modCounts_power (c : Nat) (f : CtxCounts → CtxCounts) (s : State) : (modCounts c f s).power = s.power := rfl
@[simp] theorem modCounts_mports (c : Nat) (f : CtxCounts → CtxCounts) (s : State) : (modCounts c f s).mports = s.mports := rfl
@[simp] theorem modCounts_trace (c : Nat) (f : CtxCounts → CtxCounts) (s : State) : (modCounts c f s).trace = s.trace := rfl
@[simp] theorem modCounts_jtag (c : Nat) (f : CtxCounts → CtxCounts) (s : State) : (modCounts c f s).jtag = s.jtag := rfl
@[simp] theorem modCounts_out (c : Nat) (f : CtxCounts → CtxCounts) (s : State) : (modCounts c f s).out = s.out := rfl
@[simp] theorem modCounts_free (c : Nat) (f : CtxCounts → CtxCounts) (s : State) : (modCounts c f s).free = s.free := rfl

/-! modPav changes pavs alone. -/

@[simp] theorem modPav_pending (p : Nat) (f : Pav → Pav) (s : State) : (modPav p f s).pending = s.pending := rfl
@[simp] theorem modPav_sys (p : Nat) (f : Pav → Pav) (s : State) : (modPav p f s).sys = s.sys := rfl
@[simp] theorem modPav_mgmt (p : Nat) (f : Pav → Pav) (s : State) : (modPav p f s).mgmt = s.mgmt := rfl
@[simp] theorem modPav_ctxs (p : Nat) (f : Pav → Pav) (s : State) : (modPav p f s).ctxs = s.ctxs := rfl
@[simp] theorem modPav_jobs (p : Nat) (f : Pav → Pav) (s : State) : (modPav p f s).jobs = s.jobs := rfl
@[simp] theorem modPav_ter (p : Nat) (f : Pav → Pav) (s : State) : (modPav p f s).ter = s.ter := rfl
@[simp] theorem modPav_ext (p : Nat) (f : Pav → Pav) (s : State) : (modPav p f s).ext = s.ext := rfl
@[simp] theorem modPav_alt (p : Nat) (f : Pav → Pav) (s : State) : (modPav p f s).alt = s.alt := rfl
@[simp] theorem modPav_prom (p : Nat) (f : Pav → Pav) (s : State) : (modPav p f s).prom = s.prom := rfl
@[simp] theorem modPav_band (p : Nat) (f : Pav → Pav) (s : State) : (modPav p f s).band = s.band := rfl
@[simp] theorem modPav_grove (p : Nat) (f : Pav → Pav) (s : State) : (modPav p f s).grove = s.grove := rfl
@[simp] theorem modPav_power (p : Nat) (f : Pav → Pav) (s : State) : (modPav p f s).power = s.power := rfl
@[simp] theorem modPav_mports (p : Nat) (f : Pav → Pav) (s : State) : (modPav p f s).mports = s.mports := rfl
@[simp] theorem modPav_trace (p : Nat) (f : Pav → Pav) (s : State) : (modPav p f s).trace = s.trace := rfl
@[simp] theorem modPav_jtag (p : Nat) (f : Pav → Pav) (s : State) : (modPav p f s).jtag = s.jtag := rfl
@[simp] theorem modPav_out (p : Nat) (f : Pav → Pav) (s : State) : (modPav p f s).out = s.out := rfl
@[simp] theorem modPav_free (p : Nat) (f : Pav → Pav) (s : State) : (modPav p f s).free = s.free := rfl

/-! setProg changes pavs alone. -/

@[simp] theorem setProg_pending (p : Nat) (q : PSlot) (g : Option Prog) (s : State) : (setProg p q g s).pending = s.pending := rfl
@[simp] theorem setProg_sys (p : Nat) (q : PSlot) (g : Option Prog) (s : State) : (setProg p q g s).sys = s.sys := rfl
@[simp] theorem setProg_mgmt (p : Nat) (q : PSlot) (g : Option Prog) (s : State) : (setProg p q g s).mgmt = s.mgmt := rfl
@[simp] theorem setProg_ctxs (p : Nat) (q : PSlot) (g : Option Prog) (s : State) : (setProg p q g s).ctxs = s.ctxs := rfl
@[simp] theorem setProg_jobs (p : Nat) (q : PSlot) (g : Option Prog) (s : State) : (setProg p q g s).jobs = s.jobs := rfl
@[simp] theorem setProg_ter (p : Nat) (q : PSlot) (g : Option Prog) (s : State) : (setProg p q g s).ter = s.ter := rfl
@[simp] theorem setProg_ext (p : Nat) (q : PSlot) (g : Option Prog) (s : State) : (setProg p q g s).ext = s.ext := rfl
@[simp] theorem setProg_alt (p : Nat) (q : PSlot) (g : Option Prog) (s : State) : (setProg p q g s).alt = s.alt := rfl
@[simp] theorem setProg_prom (p : Nat) (q : PSlot) (g : Option Prog) (s : State) : (setProg p q g s).prom = s.prom := rfl
@[simp] theorem setProg_band (p : Nat) (q : PSlot) (g : Option Prog) (s : State) : (setProg p q g s).band = s.band := rfl
@[simp] theorem setProg_grove (p : Nat) (q : PSlot) (g : Option Prog) (s : State) : (setProg p q g s).grove = s.grove := rfl
@[simp] theorem setProg_power (p : Nat) (q : PSlot) (g : Option Prog) (s : State) : (setProg p q g s).power = s.power := rfl
@[simp] theorem setProg_mports (p : Nat) (q : PSlot) (g : Option Prog) (s : State) : (setProg p q g s).mports = s.mports := rfl
@[simp] theorem setProg_trace (p : Nat) (q : PSlot) (g : Option Prog) (s : State) : (setProg p q g s).trace = s.trace := rfl
@[simp] theorem setProg_jtag (p : Nat) (q : PSlot) (g : Option Prog) (s : State) : (setProg p q g s).jtag = s.jtag := rfl
@[simp] theorem setProg_out (p : Nat) (q : PSlot) (g : Option Prog) (s : State) : (setProg p q g s).out = s.out := rfl
@[simp] theorem setProg_free (p : Nat) (q : PSlot) (g : Option Prog) (s : State) : (setProg p q g s).free = s.free := rfl

/-! modJob changes jobs alone. -/

@[simp] theorem modJob_pending (c : Nat) (seq : BitVec 32) (f : Job → Job) (s : State) : (modJob c seq f s).pending = s.pending := rfl
@[simp] theorem modJob_sys (c : Nat) (seq : BitVec 32) (f : Job → Job) (s : State) : (modJob c seq f s).sys = s.sys := rfl
@[simp] theorem modJob_mgmt (c : Nat) (seq : BitVec 32) (f : Job → Job) (s : State) : (modJob c seq f s).mgmt = s.mgmt := rfl
@[simp] theorem modJob_ctxs (c : Nat) (seq : BitVec 32) (f : Job → Job) (s : State) : (modJob c seq f s).ctxs = s.ctxs := rfl
@[simp] theorem modJob_ter (c : Nat) (seq : BitVec 32) (f : Job → Job) (s : State) : (modJob c seq f s).ter = s.ter := rfl
@[simp] theorem modJob_ext (c : Nat) (seq : BitVec 32) (f : Job → Job) (s : State) : (modJob c seq f s).ext = s.ext := rfl
@[simp] theorem modJob_pavs (c : Nat) (seq : BitVec 32) (f : Job → Job) (s : State) : (modJob c seq f s).pavs = s.pavs := rfl
@[simp] theorem modJob_alt (c : Nat) (seq : BitVec 32) (f : Job → Job) (s : State) : (modJob c seq f s).alt = s.alt := rfl
@[simp] theorem modJob_prom (c : Nat) (seq : BitVec 32) (f : Job → Job) (s : State) : (modJob c seq f s).prom = s.prom := rfl
@[simp] theorem modJob_band (c : Nat) (seq : BitVec 32) (f : Job → Job) (s : State) : (modJob c seq f s).band = s.band := rfl
@[simp] theorem modJob_grove (c : Nat) (seq : BitVec 32) (f : Job → Job) (s : State) : (modJob c seq f s).grove = s.grove := rfl
@[simp] theorem modJob_power (c : Nat) (seq : BitVec 32) (f : Job → Job) (s : State) : (modJob c seq f s).power = s.power := rfl
@[simp] theorem modJob_mports (c : Nat) (seq : BitVec 32) (f : Job → Job) (s : State) : (modJob c seq f s).mports = s.mports := rfl
@[simp] theorem modJob_trace (c : Nat) (seq : BitVec 32) (f : Job → Job) (s : State) : (modJob c seq f s).trace = s.trace := rfl
@[simp] theorem modJob_jtag (c : Nat) (seq : BitVec 32) (f : Job → Job) (s : State) : (modJob c seq f s).jtag = s.jtag := rfl
@[simp] theorem modJob_out (c : Nat) (seq : BitVec 32) (f : Job → Job) (s : State) : (modJob c seq f s).out = s.out := rfl
@[simp] theorem modJob_free (c : Nat) (seq : BitVec 32) (f : Job → Job) (s : State) : (modJob c seq f s).free = s.free := rfl

/-! stopJob changes pavs alone. -/

@[simp] theorem stopJob_pending (c : Nat) (seq : BitVec 32) (s : State) : (stopJob c seq s).pending = s.pending := rfl
@[simp] theorem stopJob_sys (c : Nat) (seq : BitVec 32) (s : State) : (stopJob c seq s).sys = s.sys := rfl
@[simp] theorem stopJob_mgmt (c : Nat) (seq : BitVec 32) (s : State) : (stopJob c seq s).mgmt = s.mgmt := rfl
@[simp] theorem stopJob_ctxs (c : Nat) (seq : BitVec 32) (s : State) : (stopJob c seq s).ctxs = s.ctxs := rfl
@[simp] theorem stopJob_jobs (c : Nat) (seq : BitVec 32) (s : State) : (stopJob c seq s).jobs = s.jobs := rfl
@[simp] theorem stopJob_ter (c : Nat) (seq : BitVec 32) (s : State) : (stopJob c seq s).ter = s.ter := rfl
@[simp] theorem stopJob_ext (c : Nat) (seq : BitVec 32) (s : State) : (stopJob c seq s).ext = s.ext := rfl
@[simp] theorem stopJob_alt (c : Nat) (seq : BitVec 32) (s : State) : (stopJob c seq s).alt = s.alt := rfl
@[simp] theorem stopJob_prom (c : Nat) (seq : BitVec 32) (s : State) : (stopJob c seq s).prom = s.prom := rfl
@[simp] theorem stopJob_band (c : Nat) (seq : BitVec 32) (s : State) : (stopJob c seq s).band = s.band := rfl
@[simp] theorem stopJob_grove (c : Nat) (seq : BitVec 32) (s : State) : (stopJob c seq s).grove = s.grove := rfl
@[simp] theorem stopJob_power (c : Nat) (seq : BitVec 32) (s : State) : (stopJob c seq s).power = s.power := rfl
@[simp] theorem stopJob_mports (c : Nat) (seq : BitVec 32) (s : State) : (stopJob c seq s).mports = s.mports := rfl
@[simp] theorem stopJob_trace (c : Nat) (seq : BitVec 32) (s : State) : (stopJob c seq s).trace = s.trace := rfl
@[simp] theorem stopJob_jtag (c : Nat) (seq : BitVec 32) (s : State) : (stopJob c seq s).jtag = s.jtag := rfl
@[simp] theorem stopJob_out (c : Nat) (seq : BitVec 32) (s : State) : (stopJob c seq s).out = s.out := rfl
@[simp] theorem stopJob_free (c : Nat) (seq : BitVec 32) (s : State) : (stopJob c seq s).free = s.free := rfl

/-! perfEvent changes pavs alone. -/

@[simp] theorem perfEvent_pending (p ev n : Nat) (s : State) : (perfEvent p ev n s).pending = s.pending := rfl
@[simp] theorem perfEvent_sys (p ev n : Nat) (s : State) : (perfEvent p ev n s).sys = s.sys := rfl
@[simp] theorem perfEvent_mgmt (p ev n : Nat) (s : State) : (perfEvent p ev n s).mgmt = s.mgmt := rfl
@[simp] theorem perfEvent_ctxs (p ev n : Nat) (s : State) : (perfEvent p ev n s).ctxs = s.ctxs := rfl
@[simp] theorem perfEvent_jobs (p ev n : Nat) (s : State) : (perfEvent p ev n s).jobs = s.jobs := rfl
@[simp] theorem perfEvent_ter (p ev n : Nat) (s : State) : (perfEvent p ev n s).ter = s.ter := rfl
@[simp] theorem perfEvent_ext (p ev n : Nat) (s : State) : (perfEvent p ev n s).ext = s.ext := rfl
@[simp] theorem perfEvent_alt (p ev n : Nat) (s : State) : (perfEvent p ev n s).alt = s.alt := rfl
@[simp] theorem perfEvent_prom (p ev n : Nat) (s : State) : (perfEvent p ev n s).prom = s.prom := rfl
@[simp] theorem perfEvent_band (p ev n : Nat) (s : State) : (perfEvent p ev n s).band = s.band := rfl
@[simp] theorem perfEvent_grove (p ev n : Nat) (s : State) : (perfEvent p ev n s).grove = s.grove := rfl
@[simp] theorem perfEvent_power (p ev n : Nat) (s : State) : (perfEvent p ev n s).power = s.power := rfl
@[simp] theorem perfEvent_mports (p ev n : Nat) (s : State) : (perfEvent p ev n s).mports = s.mports := rfl
@[simp] theorem perfEvent_trace (p ev n : Nat) (s : State) : (perfEvent p ev n s).trace = s.trace := rfl
@[simp] theorem perfEvent_jtag (p ev n : Nat) (s : State) : (perfEvent p ev n s).jtag = s.jtag := rfl
@[simp] theorem perfEvent_out (p ev n : Nat) (s : State) : (perfEvent p ev n s).out = s.out := rfl
@[simp] theorem perfEvent_free (p ev n : Nat) (s : State) : (perfEvent p ev n s).free = s.free := rfl

/-! setExtMem changes ext alone. -/

@[simp] theorem setExtMem_pending (sp : Nat) (m : Mem) (s : State) : (setExtMem sp m s).pending = s.pending := rfl
@[simp] theorem setExtMem_sys (sp : Nat) (m : Mem) (s : State) : (setExtMem sp m s).sys = s.sys := rfl
@[simp] theorem setExtMem_mgmt (sp : Nat) (m : Mem) (s : State) : (setExtMem sp m s).mgmt = s.mgmt := rfl
@[simp] theorem setExtMem_ctxs (sp : Nat) (m : Mem) (s : State) : (setExtMem sp m s).ctxs = s.ctxs := rfl
@[simp] theorem setExtMem_jobs (sp : Nat) (m : Mem) (s : State) : (setExtMem sp m s).jobs = s.jobs := rfl
@[simp] theorem setExtMem_ter (sp : Nat) (m : Mem) (s : State) : (setExtMem sp m s).ter = s.ter := rfl
@[simp] theorem setExtMem_pavs (sp : Nat) (m : Mem) (s : State) : (setExtMem sp m s).pavs = s.pavs := rfl
@[simp] theorem setExtMem_alt (sp : Nat) (m : Mem) (s : State) : (setExtMem sp m s).alt = s.alt := rfl
@[simp] theorem setExtMem_prom (sp : Nat) (m : Mem) (s : State) : (setExtMem sp m s).prom = s.prom := rfl
@[simp] theorem setExtMem_band (sp : Nat) (m : Mem) (s : State) : (setExtMem sp m s).band = s.band := rfl
@[simp] theorem setExtMem_grove (sp : Nat) (m : Mem) (s : State) : (setExtMem sp m s).grove = s.grove := rfl
@[simp] theorem setExtMem_power (sp : Nat) (m : Mem) (s : State) : (setExtMem sp m s).power = s.power := rfl
@[simp] theorem setExtMem_mports (sp : Nat) (m : Mem) (s : State) : (setExtMem sp m s).mports = s.mports := rfl
@[simp] theorem setExtMem_trace (sp : Nat) (m : Mem) (s : State) : (setExtMem sp m s).trace = s.trace := rfl
@[simp] theorem setExtMem_jtag (sp : Nat) (m : Mem) (s : State) : (setExtMem sp m s).jtag = s.jtag := rfl
@[simp] theorem setExtMem_out (sp : Nat) (m : Mem) (s : State) : (setExtMem sp m s).out = s.out := rfl
@[simp] theorem setExtMem_free (sp : Nat) (m : Mem) (s : State) : (setExtMem sp m s).free = s.free := rfl

/-! setExtPoison changes ext alone. -/

@[simp] theorem setExtPoison_pending (sp : Nat) (l : List Nat) (s : State) : (setExtPoison sp l s).pending = s.pending := rfl
@[simp] theorem setExtPoison_sys (sp : Nat) (l : List Nat) (s : State) : (setExtPoison sp l s).sys = s.sys := rfl
@[simp] theorem setExtPoison_mgmt (sp : Nat) (l : List Nat) (s : State) : (setExtPoison sp l s).mgmt = s.mgmt := rfl
@[simp] theorem setExtPoison_ctxs (sp : Nat) (l : List Nat) (s : State) : (setExtPoison sp l s).ctxs = s.ctxs := rfl
@[simp] theorem setExtPoison_jobs (sp : Nat) (l : List Nat) (s : State) : (setExtPoison sp l s).jobs = s.jobs := rfl
@[simp] theorem setExtPoison_ter (sp : Nat) (l : List Nat) (s : State) : (setExtPoison sp l s).ter = s.ter := rfl
@[simp] theorem setExtPoison_pavs (sp : Nat) (l : List Nat) (s : State) : (setExtPoison sp l s).pavs = s.pavs := rfl
@[simp] theorem setExtPoison_alt (sp : Nat) (l : List Nat) (s : State) : (setExtPoison sp l s).alt = s.alt := rfl
@[simp] theorem setExtPoison_prom (sp : Nat) (l : List Nat) (s : State) : (setExtPoison sp l s).prom = s.prom := rfl
@[simp] theorem setExtPoison_band (sp : Nat) (l : List Nat) (s : State) : (setExtPoison sp l s).band = s.band := rfl
@[simp] theorem setExtPoison_grove (sp : Nat) (l : List Nat) (s : State) : (setExtPoison sp l s).grove = s.grove := rfl
@[simp] theorem setExtPoison_power (sp : Nat) (l : List Nat) (s : State) : (setExtPoison sp l s).power = s.power := rfl
@[simp] theorem setExtPoison_mports (sp : Nat) (l : List Nat) (s : State) : (setExtPoison sp l s).mports = s.mports := rfl
@[simp] theorem setExtPoison_trace (sp : Nat) (l : List Nat) (s : State) : (setExtPoison sp l s).trace = s.trace := rfl
@[simp] theorem setExtPoison_jtag (sp : Nat) (l : List Nat) (s : State) : (setExtPoison sp l s).jtag = s.jtag := rfl
@[simp] theorem setExtPoison_out (sp : Nat) (l : List Nat) (s : State) : (setExtPoison sp l s).out = s.out := rfl
@[simp] theorem setExtPoison_free (sp : Nat) (l : List Nat) (s : State) : (setExtPoison sp l s).free = s.free := rfl

/-! modWin changes ter alone. -/

@[simp] theorem modWin_pending (w : Nat) (f : Window → Window) (s : State) : (modWin w f s).pending = s.pending := rfl
@[simp] theorem modWin_sys (w : Nat) (f : Window → Window) (s : State) : (modWin w f s).sys = s.sys := rfl
@[simp] theorem modWin_mgmt (w : Nat) (f : Window → Window) (s : State) : (modWin w f s).mgmt = s.mgmt := rfl
@[simp] theorem modWin_ctxs (w : Nat) (f : Window → Window) (s : State) : (modWin w f s).ctxs = s.ctxs := rfl
@[simp] theorem modWin_jobs (w : Nat) (f : Window → Window) (s : State) : (modWin w f s).jobs = s.jobs := rfl
@[simp] theorem modWin_ext (w : Nat) (f : Window → Window) (s : State) : (modWin w f s).ext = s.ext := rfl
@[simp] theorem modWin_pavs (w : Nat) (f : Window → Window) (s : State) : (modWin w f s).pavs = s.pavs := rfl
@[simp] theorem modWin_alt (w : Nat) (f : Window → Window) (s : State) : (modWin w f s).alt = s.alt := rfl
@[simp] theorem modWin_prom (w : Nat) (f : Window → Window) (s : State) : (modWin w f s).prom = s.prom := rfl
@[simp] theorem modWin_band (w : Nat) (f : Window → Window) (s : State) : (modWin w f s).band = s.band := rfl
@[simp] theorem modWin_grove (w : Nat) (f : Window → Window) (s : State) : (modWin w f s).grove = s.grove := rfl
@[simp] theorem modWin_power (w : Nat) (f : Window → Window) (s : State) : (modWin w f s).power = s.power := rfl
@[simp] theorem modWin_mports (w : Nat) (f : Window → Window) (s : State) : (modWin w f s).mports = s.mports := rfl
@[simp] theorem modWin_trace (w : Nat) (f : Window → Window) (s : State) : (modWin w f s).trace = s.trace := rfl
@[simp] theorem modWin_jtag (w : Nat) (f : Window → Window) (s : State) : (modWin w f s).jtag = s.jtag := rfl
@[simp] theorem modWin_out (w : Nat) (f : Window → Window) (s : State) : (modWin w f s).out = s.out := rfl
@[simp] theorem modWin_free (w : Nat) (f : Window → Window) (s : State) : (modWin w f s).free = s.free := rfl

/-! modPort changes mports alone. -/

@[simp] theorem modPort_pending (p : Nat) (f : MPort → MPort) (s : State) : (modPort p f s).pending = s.pending := rfl
@[simp] theorem modPort_sys (p : Nat) (f : MPort → MPort) (s : State) : (modPort p f s).sys = s.sys := rfl
@[simp] theorem modPort_mgmt (p : Nat) (f : MPort → MPort) (s : State) : (modPort p f s).mgmt = s.mgmt := rfl
@[simp] theorem modPort_ctxs (p : Nat) (f : MPort → MPort) (s : State) : (modPort p f s).ctxs = s.ctxs := rfl
@[simp] theorem modPort_jobs (p : Nat) (f : MPort → MPort) (s : State) : (modPort p f s).jobs = s.jobs := rfl
@[simp] theorem modPort_ter (p : Nat) (f : MPort → MPort) (s : State) : (modPort p f s).ter = s.ter := rfl
@[simp] theorem modPort_ext (p : Nat) (f : MPort → MPort) (s : State) : (modPort p f s).ext = s.ext := rfl
@[simp] theorem modPort_pavs (p : Nat) (f : MPort → MPort) (s : State) : (modPort p f s).pavs = s.pavs := rfl
@[simp] theorem modPort_alt (p : Nat) (f : MPort → MPort) (s : State) : (modPort p f s).alt = s.alt := rfl
@[simp] theorem modPort_prom (p : Nat) (f : MPort → MPort) (s : State) : (modPort p f s).prom = s.prom := rfl
@[simp] theorem modPort_band (p : Nat) (f : MPort → MPort) (s : State) : (modPort p f s).band = s.band := rfl
@[simp] theorem modPort_grove (p : Nat) (f : MPort → MPort) (s : State) : (modPort p f s).grove = s.grove := rfl
@[simp] theorem modPort_power (p : Nat) (f : MPort → MPort) (s : State) : (modPort p f s).power = s.power := rfl
@[simp] theorem modPort_trace (p : Nat) (f : MPort → MPort) (s : State) : (modPort p f s).trace = s.trace := rfl
@[simp] theorem modPort_jtag (p : Nat) (f : MPort → MPort) (s : State) : (modPort p f s).jtag = s.jtag := rfl
@[simp] theorem modPort_out (p : Nat) (f : MPort → MPort) (s : State) : (modPort p f s).out = s.out := rfl
@[simp] theorem modPort_free (p : Nat) (f : MPort → MPort) (s : State) : (modPort p f s).free = s.free := rfl

/-! putGrove changes grove alone. -/

@[simp] theorem putGrove_pending (g : GroveSt) (s : State) : (putGrove g s).pending = s.pending := rfl
@[simp] theorem putGrove_sys (g : GroveSt) (s : State) : (putGrove g s).sys = s.sys := rfl
@[simp] theorem putGrove_mgmt (g : GroveSt) (s : State) : (putGrove g s).mgmt = s.mgmt := rfl
@[simp] theorem putGrove_ctxs (g : GroveSt) (s : State) : (putGrove g s).ctxs = s.ctxs := rfl
@[simp] theorem putGrove_jobs (g : GroveSt) (s : State) : (putGrove g s).jobs = s.jobs := rfl
@[simp] theorem putGrove_ter (g : GroveSt) (s : State) : (putGrove g s).ter = s.ter := rfl
@[simp] theorem putGrove_ext (g : GroveSt) (s : State) : (putGrove g s).ext = s.ext := rfl
@[simp] theorem putGrove_pavs (g : GroveSt) (s : State) : (putGrove g s).pavs = s.pavs := rfl
@[simp] theorem putGrove_alt (g : GroveSt) (s : State) : (putGrove g s).alt = s.alt := rfl
@[simp] theorem putGrove_prom (g : GroveSt) (s : State) : (putGrove g s).prom = s.prom := rfl
@[simp] theorem putGrove_band (g : GroveSt) (s : State) : (putGrove g s).band = s.band := rfl
@[simp] theorem putGrove_power (g : GroveSt) (s : State) : (putGrove g s).power = s.power := rfl
@[simp] theorem putGrove_mports (g : GroveSt) (s : State) : (putGrove g s).mports = s.mports := rfl
@[simp] theorem putGrove_trace (g : GroveSt) (s : State) : (putGrove g s).trace = s.trace := rfl
@[simp] theorem putGrove_jtag (g : GroveSt) (s : State) : (putGrove g s).jtag = s.jtag := rfl
@[simp] theorem putGrove_out (g : GroveSt) (s : State) : (putGrove g s).out = s.out := rfl
@[simp] theorem putGrove_free (g : GroveSt) (s : State) : (putGrove g s).free = s.free := rfl

/-! countStale changes sys alone. -/

@[simp] theorem countStale_pending (s : State) : (countStale s).pending = s.pending := rfl
@[simp] theorem countStale_mgmt (s : State) : (countStale s).mgmt = s.mgmt := rfl
@[simp] theorem countStale_ctxs (s : State) : (countStale s).ctxs = s.ctxs := rfl
@[simp] theorem countStale_jobs (s : State) : (countStale s).jobs = s.jobs := rfl
@[simp] theorem countStale_ter (s : State) : (countStale s).ter = s.ter := rfl
@[simp] theorem countStale_ext (s : State) : (countStale s).ext = s.ext := rfl
@[simp] theorem countStale_pavs (s : State) : (countStale s).pavs = s.pavs := rfl
@[simp] theorem countStale_alt (s : State) : (countStale s).alt = s.alt := rfl
@[simp] theorem countStale_prom (s : State) : (countStale s).prom = s.prom := rfl
@[simp] theorem countStale_band (s : State) : (countStale s).band = s.band := rfl
@[simp] theorem countStale_grove (s : State) : (countStale s).grove = s.grove := rfl
@[simp] theorem countStale_power (s : State) : (countStale s).power = s.power := rfl
@[simp] theorem countStale_mports (s : State) : (countStale s).mports = s.mports := rfl
@[simp] theorem countStale_trace (s : State) : (countStale s).trace = s.trace := rfl
@[simp] theorem countStale_jtag (s : State) : (countStale s).jtag = s.jtag := rfl
@[simp] theorem countStale_out (s : State) : (countStale s).out = s.out := rfl
@[simp] theorem countStale_free (s : State) : (countStale s).free = s.free := rfl

/-! modBase changes sys alone, and of it the base of R14. -/

@[simp] theorem modBase_pending (f : CountBase → CountBase) (s : State) : (modBase f s).pending = s.pending := rfl
@[simp] theorem modBase_mgmt (f : CountBase → CountBase) (s : State) : (modBase f s).mgmt = s.mgmt := rfl
@[simp] theorem modBase_ctxs (f : CountBase → CountBase) (s : State) : (modBase f s).ctxs = s.ctxs := rfl
@[simp] theorem modBase_jobs (f : CountBase → CountBase) (s : State) : (modBase f s).jobs = s.jobs := rfl
@[simp] theorem modBase_ter (f : CountBase → CountBase) (s : State) : (modBase f s).ter = s.ter := rfl
@[simp] theorem modBase_ext (f : CountBase → CountBase) (s : State) : (modBase f s).ext = s.ext := rfl
@[simp] theorem modBase_pavs (f : CountBase → CountBase) (s : State) : (modBase f s).pavs = s.pavs := rfl
@[simp] theorem modBase_alt (f : CountBase → CountBase) (s : State) : (modBase f s).alt = s.alt := rfl
@[simp] theorem modBase_prom (f : CountBase → CountBase) (s : State) : (modBase f s).prom = s.prom := rfl
@[simp] theorem modBase_band (f : CountBase → CountBase) (s : State) : (modBase f s).band = s.band := rfl
@[simp] theorem modBase_grove (f : CountBase → CountBase) (s : State) : (modBase f s).grove = s.grove := rfl
@[simp] theorem modBase_power (f : CountBase → CountBase) (s : State) : (modBase f s).power = s.power := rfl
@[simp] theorem modBase_mports (f : CountBase → CountBase) (s : State) : (modBase f s).mports = s.mports := rfl
@[simp] theorem modBase_trace (f : CountBase → CountBase) (s : State) : (modBase f s).trace = s.trace := rfl
@[simp] theorem modBase_jtag (f : CountBase → CountBase) (s : State) : (modBase f s).jtag = s.jtag := rfl
@[simp] theorem modBase_out (f : CountBase → CountBase) (s : State) : (modBase f s).out = s.out := rfl
@[simp] theorem modBase_free (f : CountBase → CountBase) (s : State) : (modBase f s).free = s.free := rfl

@[simp] theorem modBase_errSts (f : CountBase → CountBase) (s : State) : (modBase f s).sys.errSts = s.sys.errSts := rfl
@[simp] theorem modBase_errNow (f : CountBase → CountBase) (s : State) : (modBase f s).sys.errNow = s.sys.errNow := rfl
@[simp] theorem modBase_base (f : CountBase → CountBase) (s : State) : (modBase f s).sys.base = f s.sys.base := rfl

/-! beginXfers changes alt alone, and of it the transfers of the TCLK. -/

@[simp] theorem beginXfers_pending (n : Nat) (s : State) : (beginXfers n s).pending = s.pending := rfl
@[simp] theorem beginXfers_sys (n : Nat) (s : State) : (beginXfers n s).sys = s.sys := rfl
@[simp] theorem beginXfers_mgmt (n : Nat) (s : State) : (beginXfers n s).mgmt = s.mgmt := rfl
@[simp] theorem beginXfers_ctxs (n : Nat) (s : State) : (beginXfers n s).ctxs = s.ctxs := rfl
@[simp] theorem beginXfers_jobs (n : Nat) (s : State) : (beginXfers n s).jobs = s.jobs := rfl
@[simp] theorem beginXfers_ter (n : Nat) (s : State) : (beginXfers n s).ter = s.ter := rfl
@[simp] theorem beginXfers_ext (n : Nat) (s : State) : (beginXfers n s).ext = s.ext := rfl
@[simp] theorem beginXfers_pavs (n : Nat) (s : State) : (beginXfers n s).pavs = s.pavs := rfl
@[simp] theorem beginXfers_prom (n : Nat) (s : State) : (beginXfers n s).prom = s.prom := rfl
@[simp] theorem beginXfers_band (n : Nat) (s : State) : (beginXfers n s).band = s.band := rfl
@[simp] theorem beginXfers_grove (n : Nat) (s : State) : (beginXfers n s).grove = s.grove := rfl
@[simp] theorem beginXfers_power (n : Nat) (s : State) : (beginXfers n s).power = s.power := rfl
@[simp] theorem beginXfers_mports (n : Nat) (s : State) : (beginXfers n s).mports = s.mports := rfl
@[simp] theorem beginXfers_trace (n : Nat) (s : State) : (beginXfers n s).trace = s.trace := rfl
@[simp] theorem beginXfers_jtag (n : Nat) (s : State) : (beginXfers n s).jtag = s.jtag := rfl
@[simp] theorem beginXfers_out (n : Nat) (s : State) : (beginXfers n s).out = s.out := rfl
@[simp] theorem beginXfers_free (n : Nat) (s : State) : (beginXfers n s).free = s.free := rfl

/-! dropOutputs changes ter alone, and of it the access tables. -/

@[simp] theorem dropOutputs_pending (x : Slot) (s : State) : (dropOutputs x s).pending = s.pending := rfl
@[simp] theorem dropOutputs_sys (x : Slot) (s : State) : (dropOutputs x s).sys = s.sys := rfl
@[simp] theorem dropOutputs_mgmt (x : Slot) (s : State) : (dropOutputs x s).mgmt = s.mgmt := rfl
@[simp] theorem dropOutputs_ctxs (x : Slot) (s : State) : (dropOutputs x s).ctxs = s.ctxs := rfl
@[simp] theorem dropOutputs_jobs (x : Slot) (s : State) : (dropOutputs x s).jobs = s.jobs := rfl
@[simp] theorem dropOutputs_ext (x : Slot) (s : State) : (dropOutputs x s).ext = s.ext := rfl
@[simp] theorem dropOutputs_pavs (x : Slot) (s : State) : (dropOutputs x s).pavs = s.pavs := rfl
@[simp] theorem dropOutputs_alt (x : Slot) (s : State) : (dropOutputs x s).alt = s.alt := rfl
@[simp] theorem dropOutputs_prom (x : Slot) (s : State) : (dropOutputs x s).prom = s.prom := rfl
@[simp] theorem dropOutputs_band (x : Slot) (s : State) : (dropOutputs x s).band = s.band := rfl
@[simp] theorem dropOutputs_grove (x : Slot) (s : State) : (dropOutputs x s).grove = s.grove := rfl
@[simp] theorem dropOutputs_power (x : Slot) (s : State) : (dropOutputs x s).power = s.power := rfl
@[simp] theorem dropOutputs_mports (x : Slot) (s : State) : (dropOutputs x s).mports = s.mports := rfl
@[simp] theorem dropOutputs_trace (x : Slot) (s : State) : (dropOutputs x s).trace = s.trace := rfl
@[simp] theorem dropOutputs_jtag (x : Slot) (s : State) : (dropOutputs x s).jtag = s.jtag := rfl
@[simp] theorem dropOutputs_out (x : Slot) (s : State) : (dropOutputs x s).out = s.out := rfl
@[simp] theorem dropOutputs_free (x : Slot) (s : State) : (dropOutputs x s).free = s.free := rfl

@[simp] theorem dropOutputs_mem (x : Slot) (s : State) : (dropOutputs x s).ter.mem = s.ter.mem := rfl

/-- A look-up of a descriptor changes its cache and its counts alone (R254). -/
theorem descLookup_only (q : Nat) (s : State) :
    ∃ c h m, descLookup q s = { s with alt := { s.alt with dcache := c, dcHits := h, dcMiss := m } } := by
  unfold descLookup
  dsimp only
  split
  · exact ⟨_, _, _, rfl⟩
  · exact ⟨_, _, _, rfl⟩

/-- A change of a slot is a change of the slots alone. -/
theorem modSlot_only (i : Nat) (f : Slot → Slot) (s : State) :
    ∃ t, modSlot i f s = { s with band := { s.band with slots := t } } := by
  unfold modSlot
  split
  · exact ⟨_, rfl⟩
  · exact ⟨_, rfl⟩

theorem modSlot_self (i : Nat) (f : Slot → Slot) (s : State) (x : Slot) (h : tget? s.band.slots i = some x) :
    tget? (modSlot i f s).band.slots i = some (f x) := by
  simp [modSlot, h]

theorem modSlot_ne (i j : Nat) (f : Slot → Slot) (s : State) (h : j ≠ i) :
    tget? (modSlot i f s).band.slots j = tget? s.band.slots j := by
  unfold modSlot
  split
  · rfl
  · simp [tget?_tset, h]

end Sys2Proof.Laws
end

