-- ==== Sys2Proof/Laws/Rings.lean ====
section
/-!
SUPPORT. What taking a message and posting a record do, said once for every message row; and what a halt does, said once for
every command that can raise one.
-/
namespace Sys2Proof.Laws
set_option Elab.async false
open Sys2Proof.Machine

/-! Rings. -/

theorem ringAt_modRing_self (c : Nat) (f : Ring → Ring) (s : State) : ringAt (modRing c f s) c = f (ringAt s c) := by
  unfold ringAt modRing
  split
  · rfl
  · simp

/-- The ring of another number after one ring changes. -/
theorem ringAt_modRing_ne (c d : Nat) (f : Ring → Ring) (s : State) (h : d ≠ c) : ringAt (modRing c f s) d = ringAt s d := by
  by_cases hc : c = mgmtCtx <;> by_cases hd : d = mgmtCtx
  · omega
  · simp [ringAt, modRing, hc, hd, getCtx]
  · simp [ringAt, modRing, hc, hd]
  · simp [ringAt, modRing, hc, hd, getCtx_modCtx_ne _ _ _ _ h]

/-- A change of a ring touches the mailboxes alone. -/
theorem modRing_frame (c : Nat) (f : Ring → Ring) (s : State) :
    modRing c f s = { s with mgmt := (modRing c f s).mgmt, ctxs := (modRing c f s).ctxs } := by
  unfold modRing
  split <;> rfl

/-- A context's fields but its ring stay when a ring changes. -/
theorem getCtx_modRing (c d : Nat) (f : Ring → Ring) (s : State) :
    getCtx (modRing c f s) d = { getCtx s d with ring := (getCtx (modRing c f s) d).ring } := by
  unfold modRing
  split
  · rfl
  · rw [getCtx_modCtx]
    split
    · rename_i h
      subst h
      rfl
    · rfl

/-- The record that a message's end queues. -/
theorem postRec_held (c : Nat) (r : CRec) (s : State) : (ringAt (postRec c r s) c).held = (ringAt s c).held ++ [r] := by
  simp [postRec, ringAt_modRing_self]

/-- The reads of a ring's units change the M-ports alone. -/
theorem queueUnits_only (base log2 p n : Nat) (s : State) : ∃ ps, queueUnits base log2 p n s = { s with mports := ps } := by
  unfold queueUnits
  generalize List.range n = l
  induction l generalizing s with
  | nil => exact ⟨s.mports, rfl⟩
  | cons i l ih =>
    rw [List.foldl_cons]
    obtain ⟨ps, h⟩ := mQueue_only false 0 true 1 (unitAddr base log2 (p + i)) 16 s
    obtain ⟨qs, g⟩ := ih { s with mports := ps }
    exact ⟨qs, by rw [h, g]⟩

/-- Taking units moves SQ_HEAD past them and queues their reads, and does nothing else. -/
theorem takeUnits_eq (c p : Nat) (s : State) :
    ∃ ps, takeUnits c p s = modRing c (fun r => { r with sqHead := p, began := none }) { s with mports := ps } := by
  obtain ⟨ps, h⟩ := queueUnits_only (ringAt s c).sqBase (ringAt s c).sqLog2 (ringAt s c).sqHead
    (Nat.min (posDiff p (ringAt s c).sqHead) (2 ^ (ringAt s c).sqLog2)) s
  exact ⟨ps, by rw [← h]; rfl⟩

/-- SQ_HEAD once a message is taken. -/
theorem consume_head (c : Nat) (h : HeadMsg) (s : State) :
    (ringAt (consume c h s) c).sqHead = (h.pos + h.units) % 2 ^ 24 ∧ (ringAt (consume c h s) c).held = (ringAt s c).held := by
  obtain ⟨ps, e⟩ := takeUnits_eq c ((h.pos + h.units) % 2 ^ 24) s
  rw [consume, e, ringAt_modRing_self]
  exact ⟨rfl, rfl⟩

/-- A message row at an accepted message of its own opcode that concerns no other member: the command's own meaning
decides whether its record follows now, later, or the message stays. -/
theorem takeMsg_accepted (c opc : Nat) (act : MsgAct) (s : State) (h : HeadMsg) (hh : headMsg s c = some h)
    (ho : h.msg.opc = opc) (hc : msgCheck s c h = none) (hf : forwardTo s c h.msg = []) (h1 : opc ≠ 1 ∨ c = mgmtCtx) :
    takeMsg c opc act s =
      match act c (waiterOf c h.msg) h.msg s with
      | (s1, .done st body) => finish (waiterOf c h.msg) st body (consume c h s1)
      | (s1, .later) => consume c h s1
      | (_, .stay) => leaveHead c h s := by
  have hn : ¬ (opc = 1 ∧ c ≠ mgmtCtx) := by
    rintro ⟨a, b⟩
    exact h1.elim (· a) b
  rcases hr : act c (waiterOf c h.msg) h.msg s with ⟨s1, r⟩
  cases r <;> simp only [takeMsg, hh, ho, if_true, runMsg, hc, hf, hn, if_false, List.isEmpty_nil, hr]

/-- The same of JOB_SUBMIT, which numbers its job first (R368). -/
theorem takeMsg_job (c : Nat) (act : MsgAct) (s : State) (h : HeadMsg) (hh : headMsg s c = some h) (ho : h.msg.opc = 1)
    (hc : msgCheck s c h = none) (hf : forwardTo s c h.msg = []) (hm : c ≠ mgmtCtx) :
    takeMsg c 1 act s =
      match act c (waiterOf c h.msg) h.msg (modCtx c (fun x => { x with jobCount := nextJobNo x.jobCount }) s) with
      | (s1, .done st body) => finish (waiterOf c h.msg) st body (consume c h s1)
      | (s1, .later) => consume c h s1
      | (_, .stay) => leaveHead c h s := by
  rcases hr : act c (waiterOf c h.msg) h.msg (modCtx c (fun x => { x with jobCount := nextJobNo x.jobCount }) s) with ⟨s1, r⟩
  cases r <;> simp only [takeMsg, hh, ho, if_true, runMsg, hc, hf, hm, ne_eq, not_false_eq_true, and_self, List.isEmpty_nil, hr]

/-- A message that a check of R357 refuses is taken with the check's code, and no command acts. -/
theorem takeMsg_refused (c opc st : Nat) (act : MsgAct) (s : State) (h : HeadMsg) (hh : headMsg s c = some h)
    (ho : h.msg.opc = opc) (hc : msgCheck s c h = some st) (h1 : opc ≠ 1 ∨ c = mgmtCtx) :
    takeMsg c opc act s =
      finish (if st = stMSG_FORMAT then { waiterOf c h.msg with gen := 1 } else waiterOf c h.msg) st
        (refusalBody s c h.msg) (consume c h s) := by
  have hn : ¬ (opc = 1 ∧ c ≠ mgmtCtx) := by
    rintro ⟨a, b⟩
    exact h1.elim (· a) b
  simp only [takeMsg, hh, ho, if_true, runMsg, hc, hn, if_false]

/-! Reads that carry no cached line (R511). -/

/-- A read of the outside memories for a descriptor or table: the bytes, or nothing where it is denied or poisoned;
beside the request only the error status can change. -/
theorem fetchMem_cases (s : State) (c : Nat) (priv : Bool) (space a n : Nat) :
    (fetchMem s c priv space a n = (setErr ebM_DENY s, none)) ∨
    (fetchMem s c priv space a n = (mQueue false c priv space a n s, some (extPeek s space a n))) ∨
    (fetchMem s c priv space a n = (setErr ebM_POISON (mQueue false c priv space a n s), none)) := by
  unfold fetchMem
  split
  · exact .inl rfl
  · dsimp only
    split
    · exact .inr (.inl rfl)
    · exact .inr (.inr rfl)

/-! Halts (R189, R369, R495). -/

/-- What a halt of a job does to its context, and the error bit that it sets. -/
theorem haltJob_ctx (c : Nat) (seq : BitVec 32) (f : JFault) (s : State) :
    (haltJob c seq f s).ctxs = tset s.ctxs c (Ctx.halt s f.status (haltKey seq f) (getCtx s c)) ∧
    (haltJob c seq f s).sys.errSts = s.sys.errSts ||| (1#64 <<< ebCTX_HALT) ∧
    (haltsNow s (getCtx s c) = [] → (haltJob c seq f s).jobs = (modJob c seq (fun j => { j with fault := some f }) s).jobs) ∧
    (haltJob c seq f s).ter = s.ter ∧ (haltJob c seq f s).out = s.out := by
  unfold haltJob traceEv
  dsimp only
  split <;> refine ⟨rfl, rfl, ?_, rfl, rfl⟩ <;> intro h <;> simp [h, modJob, stopJob, modCtx, setErr]

/-- The job that halts first in its TCLK keeps the fault. -/
theorem haltJob_job (c : Nat) (seq : BitVec 32) (f : JFault) (s : State) (j : Job) (h : findJob s c seq = some j)
    (hn : haltsNow s (getCtx s c) = []) :
    findJob (haltJob c seq f s) c seq = some { j with fault := some f } := by
  have e := (haltJob_ctx c seq f s).2.2.1 hn
  have g := findJob_modJob_self c seq (fun j => { j with fault := some f }) s (fun j => ⟨rfl, rfl⟩)
  rw [h] at g
  unfold findJob at g ⊢
  rw [e]
  exact g

end Sys2Proof.Laws
end

