-- ==== Sys2Proof/Laws/Issue.lean ====
section
/-!
SUPPORT. When the head of a queue issues and what that does, said once for every tile command; and what reads and writes of
the Terrace can answer.
-/
namespace Sys2Proof.Laws
set_option Elab.async false
open Sys2Proof.Machine

/-- A head for which every condition of its issue holds runs its meaning. -/
theorem issueOp_runs (p : Nat) (q : PSlot) (k opc : Nat) (body : Body) (s : State) (g : Prog) (c : QCmd) (j : Job)
    (hg : getProg s p q = some g) (hc : headOf g k = some c) (hj : findJob s g.ctx g.jobseq = some j)
    (hh : g.halted = false) (hd : g.done = false) (ho : cOpc c.word.toNat = opc) (hf : headFree s p j g c = true)
    (hw : headWait s p j g c = 0) (hu : oneUser g k c.word.toNat = true) (h1 : cmdOk j.desc c.word.toNat = true)
    (h2 : cmdAt j.desc (plotImages s g.ctx) c.word.toNat c.regs c.qt = true)
    (h3 : masksHold j.desc g.hdr c.word.toNat c.regs = true) (h4 : storeMet s p j g c = []) :
    issueOp p q k opc body s = runHead p q k g j c body s := by
  simp [issueOp, hg, hc, hj, hh, hd, ho, hf, hw, hu, h1, h2, h3, h4, storeLost, mendStore]

/-- Where no word that a command meets is flipped, its Pavilion's storage stands as it is. -/
@[simp] theorem mendStore_nil (p : Nat) (s : State) : mendStore p [] s = s := rfl

/-- A correction of storage changes one Pavilion alone (R497). -/
theorem mendStore_pavs (p : Nat) (hits : List (((Nat × Nat × Nat) × Nat) × Bool)) (s : State) :
    ∃ v, mendStore p hits s = { s with pavs := v } := by
  unfold mendStore
  split
  · exact ⟨_, rfl⟩
  · exact ⟨_, rfl⟩

/-- A head that waits for a token, a flag or the scoreboard, or on an interlock, changes nothing. -/
theorem issueOp_waits (p : Nat) (q : PSlot) (k opc : Nat) (body : Body) (s : State) (g : Prog) (c : QCmd) (j : Job)
    (hg : getProg s p q = some g) (hc : headOf g k = some c) (hj : findJob s g.ctx g.jobseq = some j)
    (hw : headFree s p j g c = false ∨ headWait s p j g c = 1 ∨ headWait s p j g c = 3) :
    issueOp p q k opc body s = s := by
  rcases hw with hw | hw | hw <;> simp [issueOp, hg, hc, hj, hw]

/-- The program that a head has left its queue in. -/
abbrev headTaken (s : State) (k : Nat) (g : Prog) (j : Job) (c : QCmd) : Prog :=
  takeHead k ⟨c, (cmdLines s j g c).1, (cmdLines s j g c).2.1, (cmdLines s j g c).2.2, cmdEntries s j g c, []⟩ g

/-- A meaning that succeeds: its events are counted and the chunks that it waits on are noted. -/
theorem runHead_ok (p : Nat) (q : PSlot) (k : Nat) (g : Prog) (j : Job) (c : QCmd) (body : Body) (s s2 : State)
    (evs : List Ev) (stags : List Nat)
    (h : (body ⟨p, q, headTaken s k g j c, j, c⟩).exec
      (perfEvent p 0x0A 1 (setProg p q (some (headTaken s k g j c)) s)) = (.ok (evs, stags), s2)) :
    runHead p q k g j c body s =
      countEvents g.ctx g.jobseq g.hdr.member p c.tpc evs (modProg p q (noteChunks c.num stags) s2) := by
  unfold runHead
  dsimp only
  rw [h]

/-- A meaning that meets a fault: the command is dropped, its writes undone but for an ACCW, and its context halts with
the fault (R189, R229). -/
theorem runHead_error (p : Nat) (q : PSlot) (k : Nat) (g : Prog) (j : Job) (c : QCmd) (body : Body) (s s2 : State)
    (f : RFault)
    (h : (body ⟨p, q, headTaken s k g j c, j, c⟩).exec
      (perfEvent p 0x0A 1 (setProg p q (some (headTaken s k g j c)) s)) = (.error f, s2)) :
    runHead p q k g j c body s = haltProg p g c.tpc f (modProg p q (dropIssued c.num)
        (if cOpc c.word.toNat = oACCW then s2
          else undoBody (perfEvent p 0x0A 1 (setProg p q (some (headTaken s k g j c)) s)) s2)) := by
  unfold runHead
  dsimp only
  rw [h]

/-- A read of the Terrace, if it answers bytes: they are the stored bytes of the range's parts with their tags, inside
the view, filled and not poisoned, and correction is all that has changed (R207, R216, R229). -/
theorem terRead_ok (s t : State) (c off n : Nat) (bs : List Byte) (tags : List (BitVec 2))
    (h : terRead s c off n = (t, .ok (bs, tags))) :
    ∃ ps, terCheck s c off n = .ok ps ∧ t = eccTouch (flipsIn s ps) s ∧ poisonIn t ps = false ∧
      bs = partBytes t.ter.mem ps ∧ tags = partTags t.ter.tags ps := by
  unfold terRead at h
  split at h
  · cases h
  · rename_i ps hps
    dsimp only at h
    split at h
    · cases h
    · rename_i hp
      simp only [Prod.mk.injEq, Except.ok.injEq] at h
      obtain ⟨rfl, rfl, rfl⟩ := h
      exact ⟨ps, hps, rfl, by simpa using hp, rfl, rfl⟩

/-- A plain write of the Terrace: inside the view it lays its bytes over the range's parts; outside it changes
nothing. -/
theorem terWrite_cases (s : State) (c off : Nat) (bs : List Byte) (tags : List (BitVec 2)) :
    (off + bs.length ≤ viewLen (getCtx s c).regions ∧ terWrite s c off bs tags =
      ({ s with ter := terPutParts (viewParts (getCtx s c).regions off bs.length) bs tags s.ter }, .ok ())) ∨
    (viewLen (getCtx s c).regions < off + bs.length ∧
      terWrite s c off bs tags = (s, .error ⟨stTERRACE_BOUND, 255, boundDetail (getCtx s c).regions off, 0⟩)) := by
  unfold terWrite
  dsimp only
  split
  · exact .inr ⟨by assumption, rfl⟩
  · exact .inl ⟨by omega, rfl⟩

/-- An X-port read, if it does not wait: it is answered once, and where it answers bytes the Terrace's memory stands
(R221). -/
theorem tryXRead_cases (r : XReq) (s t : State) (h : tryXRead r s = some t) :
    ∃ st bs u, t = emit (.xresp r.port r.tag st bs) u ∧ u.ter.mem = s.ter.mem := by
  unfold tryXRead at h
  dsimp only at h
  split at h
  · cases h
    exact ⟨_, _, _, rfl, rfl⟩
  · split at h
    · cases h
    · have hm : (terRead s r.ctx r.off r.len).1.ter.mem = s.ter.mem := by
        unfold terRead
        split
        · rfl
        · dsimp only
          split <;> exact eccTouch_mem _ _
      split at h
      · rename_i heq
        rw [heq] at hm
        cases h
        exact ⟨_, _, _, rfl, hm⟩
      · rename_i heq
        rw [heq] at hm
        cases h
        refine ⟨_, _, _, rfl, ?_⟩
        split <;> exact hm

end Sys2Proof.Laws
end

