-- ==== Sys2Proof/WellFormed.lean ====
section
/-!
DEFINITION. Which commands can be sent: the limits that the manual puts on a command's operands beyond their widths.
-/
namespace Sys2Proof

/-- A block transfer moves 1 to 16 whole lines, each with its 256 byte enables (R221, R454). -/
def blockOk (data : List (BitVec 2048)) (be : List (BitVec 256)) : Bool :=
  1 ≤ data.length && data.length ≤ 16 && be.length == data.length

/-- A chunk stream is at most 64 KiB of payload with its CRC-64, sideband, poison map and GCM tag (R273, R275). -/
def streamOk (stream : List Byte) : Bool := stream.length ≤ 67640

/-- A grove message body fits the flits of one message (R336). -/
def bodyOk (body : List Byte) : Bool := body.length ≤ 65536

/-- A command number fits a dispatch counter of 64 bits (R181). -/
def numOk (n : Nat) : Bool := n < 2 ^ 64

/-- A chunk index of a collective stays within 256 TiB of payload in 4 KiB chunks (R301, R321). -/
def chunkIdxOk (k : Nat) : Bool := k < 2 ^ 36

/-- The boundary cells of the wrapper are given (R466): a chain has at most 65,536 cells. -/
def cellsOk (cells : List Bool) : Bool := cells.length ≤ 65536

/-- A certificate chain travels with a count and lengths of two bytes (R412). -/
def certsOk (chain : List (List Byte)) : Bool := chain.length < 65536 && chain.all (fun c => c.length < 65536)

/-- The well-formed commands. -/
def Instr.wf : Instr → Bool
  | .xBlockWrite _ _ line _ _ _ data be => blockOk data be && line.val + data.length ≤ 2097152
  | .commandRetire _ _ num => numOk num
  | .chunkRetire _ _ stream => streamOk stream
  | .bandData _ _ _ stream => streamOk stream
  | .bandResult _ _ _ stream => streamOk stream
  | .bandMap _ _ _ stream => streamOk stream
  | .gfwd _ _ _ _ _ _ rest => bodyOk rest
  | .greport _ _ _ _ _ body => bodyOk body
  | .gformed _ _ _ cert => bodyOk cert
  | .gconf _ _ chain _ => certsOk chain
  | .kx2 _ _ chain _ => certsOk chain
  | .kx3 _ chain _ => certsOk chain
  | .bandSourceRead _ k => chunkIdxOk k
  | .outputChunkRetire _ k => chunkIdxOk k
  | .samplePreload cells => cellsOk cells
  | _ => true

end Sys2Proof
end

