-- ==== Sys2Proof/Laws/PerInstr.lean ====
section
/-!
SUPPORT. The family Wf, one lemma per command: a well-formed command carries a payload of bounded length.
-/
namespace Sys2Proof.Laws.Wf
set_option Elab.async false
open Sys2Proof

/-- The length of the list that a command carries: lines of a block, bytes of a stream or body, boundary cells,
certificates of a chain; 0 for a command that carries none. -/
def payloadLen : Instr → Nat
  | .xBlockWrite _ _ _ _ _ _ data _ => data.length
  | .chunkRetire _ _ stream => stream.length
  | .bandData _ _ _ stream => stream.length
  | .bandResult _ _ _ stream => stream.length
  | .bandMap _ _ _ stream => stream.length
  | .gfwd _ _ _ _ _ _ rest => rest.length
  | .greport _ _ _ _ _ body => body.length
  | .gformed _ _ _ cert => cert.length
  | .samplePreload cells => cells.length
  | .gconf _ _ chain _ => chain.length
  | .kx2 _ _ chain _ => chain.length
  | .kx3 _ chain _ => chain.length
  | _ => 0

/-- A well-formed command's payload has at most 67,640 entries, the longest chunk stream of R273 and R275. -/
def Statement (i : Instr) : Prop := i.wf = true → payloadLen i ≤ 67640

/-- A command that carries no list. -/
theorem none_ {i : Instr} (h : payloadLen i = 0) : Statement i := fun _ => by omega

theorem jobSubmit (c : CtxId) : Statement (.jobSubmit c) := none_ rfl
theorem ctxResume (c : CtxId) : Statement (.ctxResume c) := none_ rfl
theorem logRead (c : CtxId) : Statement (.logRead c) := none_ rfl
theorem regionSet (c : CtxId) : Statement (.regionSet c) := none_ rfl
theorem winOpen (c : CtxId) : Statement (.winOpen c) := none_ rfl
theorem winClose (c : CtxId) : Statement (.winClose c) := none_ rfl
theorem windowCloseComplete (w : Fin 4096) : Statement (.windowCloseComplete w) := none_ rfl
theorem angleSet (c : CtxId) : Statement (.angleSet c) := none_ rfl
theorem roleLoad (c : CtxId) : Statement (.roleLoad c) := none_ rfl
theorem landSet (c : CtxId) : Statement (.landSet c) := none_ rfl
theorem altQuota (c : CtxId) : Statement (.altQuota c) := none_ rfl
theorem terGroupMode (c : CtxId) : Statement (.terGroupMode c) := none_ rfl
theorem seqCreate (c : CtxId) : Statement (.seqCreate c) := none_ rfl
theorem seqAppend (c : CtxId) : Statement (.seqAppend c) := none_ rfl
theorem copyOnWriteSwap (c : CtxId) : Statement (.copyOnWriteSwap c) := none_ rfl
theorem seqFork (c : CtxId) : Statement (.seqFork c) := none_ rfl
theorem seqTruncate (c : CtxId) : Statement (.seqTruncate c) := none_ rfl
theorem seqFree (c : CtxId) : Statement (.seqFree c) := none_ rfl
theorem plotPin (c : CtxId) : Statement (.plotPin c) := none_ rfl
theorem plotUnpin (c : CtxId) : Statement (.plotUnpin c) := none_ rfl
theorem collLaunch (c : CtxId) : Statement (.collLaunch c) := none_ rfl
theorem bandDigest (c : CtxId) : Statement (.bandDigest c) := none_ rfl
theorem attach : Statement .attach := none_ rfl
theorem detach : Statement .detach := none_ rfl
theorem ctxCreate : Statement .ctxCreate := none_ rfl
theorem ctxDestroy : Statement .ctxDestroy := none_ rfl
theorem ctxReattach : Statement .ctxReattach := none_ rfl
theorem altConfig : Statement .altConfig := none_ rfl
theorem bandConfig : Statement .bandConfig := none_ rfl
theorem commCreate : Statement .commCreate := none_ rfl
theorem commDestroy : Statement .commDestroy := none_ rfl
theorem groveSetPath : Statement .groveSetPath := none_ rfl
theorem groveForm : Statement .groveForm := none_ rfl
theorem groveDissolve : Statement .groveDissolve := none_ rfl
theorem seqAdopt : Statement .seqAdopt := none_ rfl
theorem seqRelease : Statement .seqRelease := none_ rfl
theorem modeSet : Statement .modeSet := none_ rfl
theorem coreRestart : Statement .coreRestart := none_ rfl
theorem mregRead : Statement .mregRead := none_ rfl
theorem mregWrite : Statement .mregWrite := none_ rfl
theorem spdm : Statement .spdm := none_ rfl
theorem doorbellWrite (m : Mbox) (hi : Bool) (v : BitVec 64) (be : BitVec 8) :
    Statement (.doorbellWrite m hi v be) := none_ rfl
theorem mhb (v : BitVec 64) : Statement (.mhb v) := none_ rfl
theorem mcfgWrite (v : BitVec 64) (be : BitVec 8) : Statement (.mcfgWrite v be) := none_ rfl
theorem coreRst (v : BitVec 64) (be : BitVec 8) : Statement (.coreRst v be) := none_ rfl
theorem pathEnable (p : Fin 4) (v : BitVec 64) (be : BitVec 8) : Statement (.pathEnable p v be) := none_ rfl
theorem pathDisable (p : Fin 4) (v : BitVec 64) (be : BitVec 8) : Statement (.pathDisable p v be) := none_ rfl
theorem pathRstoreWrite (p : Fin 4) (v : BitVec 64) (be : BitVec 8) : Statement (.pathRstoreWrite p v be) := none_ rfl
theorem ctxswCfgWrite (hi : Bool) (v : BitVec 64) (be : BitVec 8) : Statement (.ctxswCfgWrite hi v be) := none_ rfl
theorem errMaskWrite (v : BitVec 64) (be : BitVec 8) : Statement (.errMaskWrite v be) := none_ rfl
theorem traceCfgWrite (v : BitVec 64) (be : BitVec 8) : Statement (.traceCfgWrite v be) := none_ rfl
theorem perfSelWrite (p : PavId) (k : Fin 8) (v : BitVec 64) (be : BitVec 8) :
    Statement (.perfSelWrite p k v be) := none_ rfl
theorem dbgTdataRead : Statement .dbgTdataRead := none_ rfl
theorem registerWrite (word : Fin 524288) (v : BitVec 64) (be : BitVec 8) :
    Statement (.registerWrite word v be) := none_ rfl
theorem programStart (p : PavId) : Statement (.programStart p) := none_ rfl
theorem commandDispatch (p : PavId) : Statement (.commandDispatch p) := none_ rfl
theorem load (p : PavId) (q : PSlot) : Statement (.load p q) := none_ rfl
theorem mma (p : PavId) (q : PSlot) (arr : Fin 2) : Statement (.mma p q arr) := none_ rfl
theorem drain (p : PavId) (q : PSlot) : Statement (.drain p q) := none_ rfl
theorem epi (p : PavId) (q : PSlot) : Statement (.epi p q) := none_ rfl
theorem accw (p : PavId) (q : PSlot) : Statement (.accw p q) := none_ rfl
theorem part (p : PavId) (q : PSlot) : Statement (.part p q) := none_ rfl
theorem comb (p : PavId) (q : PSlot) : Statement (.comb p q) := none_ rfl
theorem maxc (p : PavId) (q : PSlot) : Statement (.maxc p q) := none_ rfl
theorem fin (p : PavId) (q : PSlot) : Statement (.fin p q) := none_ rfl
theorem setq (p : PavId) (q : PSlot) : Statement (.setq p q) := none_ rfl
theorem dpro (p : PavId) (q : PSlot) : Statement (.dpro p q) := none_ rfl
theorem rowp (p : PavId) (q : PSlot) : Statement (.rowp p q) := none_ rfl
theorem pref (p : PavId) (q : PSlot) : Statement (.pref p q) := none_ rfl
theorem zacc (p : PavId) (q : PSlot) (arr : Fin 2) : Statement (.zacc p q arr) := none_ rfl
theorem flagclr (p : PavId) (q : PSlot) : Statement (.flagclr p q) := none_ rfl
theorem tokadd (p : PavId) (q : PSlot) : Statement (.tokadd p q) := none_ rfl
theorem wait (p : PavId) (q : PSlot) : Statement (.wait p q) := none_ rfl
theorem loop (p : PavId) (q : PSlot) : Statement (.loop p q) := none_ rfl
theorem epoch (p : PavId) (q : PSlot) : Statement (.epoch p q) := none_ rfl
theorem leave (p : PavId) (q : PSlot) : Statement (.leave p q) := none_ rfl
theorem end_ (p : PavId) (q : PSlot) : Statement (.end_ p q) := none_ rfl
theorem commandRetire (p : PavId) (q : PSlot) (num : Nat) : Statement (.commandRetire p q num) := none_ rfl
theorem remoteTokenArrival (c : CtxId) (role : Fin 4096) (repoch : BitVec 32) (tok : Fin 64) (inc : Fin 256) (srole : Fin 4096) (supath : UPath) :
    Statement (.remoteTokenArrival c role repoch tok inc srole supath) := none_ rfl
theorem waitTimeout (p : PavId) (q : PSlot) (queue : Fin 5) : Statement (.waitTimeout p q queue) := none_ rfl
theorem jobComplete (c : CtxId) (jobseq : BitVec 32) : Statement (.jobComplete c jobseq) := none_ rfl
theorem completionRecordWrite (m : Mbox) : Statement (.completionRecordWrite m) := none_ rfl
theorem irqVectorSend : Statement .irqVectorSend := none_ rfl
theorem suspend (p : PavId) (q : PSlot) : Statement (.suspend p q) := none_ rfl
theorem resume (p : PavId) : Statement (.resume p) := none_ rfl
theorem passCheck (p : PavId) (q : PSlot) (arr : Fin 2) (good : Bool) :
    Statement (.passCheck p q arr good) := none_ rfl
theorem xNarrowRead (port : Fin 4) (c : CtxId) (word : Fin 67108864) (tag : Fin 64) :
    Statement (.xNarrowRead port c word tag) := none_ rfl
theorem xNarrowWrite (port : Fin 4) (c : CtxId) (word : Fin 67108864) (tag : Fin 64) (widx : Fin 4096) (gen : BitVec 32) (data : BitVec 64) (be : BitVec 8) :
    Statement (.xNarrowWrite port c word tag widx gen data be) := none_ rfl
theorem xBlockRead (port : Fin 4) (c : CtxId) (line : Fin 2097152) (lines : Fin 16) (tag : Fin 64) :
    Statement (.xBlockRead port c line lines tag) := none_ rfl
theorem xBlockWrite (port : Fin 4) (c : CtxId) (line : Fin 2097152) (tag : Fin 64) (widx : Fin 4096) (gen : BitVec 32) (data : List (BitVec 2048)) (be : List (BitVec 256)) :
    Statement (.xBlockWrite port c line tag widx gen data be) := by
  intro h
  simp [Instr.wf, blockOk] at h
  simp only [payloadLen]
  omega
theorem patrolScrub (slice : Fin 16) (bank : Fin 64) : Statement (.patrolScrub slice bank) := none_ rfl
theorem secdedWriteback (slice : Fin 16) (bank : Fin 64) : Statement (.secdedWriteback slice bank) := none_ rfl
theorem plotPrefetch (p : PavId) (q : PSlot) : Statement (.plotPrefetch p q) := none_ rfl
theorem chunkSend (stag : Fin 16384) : Statement (.chunkSend stag) := none_ rfl
theorem linkFlitReceive (port : LinkPort) (flit : BitVec 2048) : Statement (.linkFlitReceive port flit) := none_ rfl
theorem chunkArrival (port : LinkPort) (hdr : BitVec 512) : Statement (.chunkArrival port hdr) := none_ rfl
theorem chunkRetire (port : LinkPort) (hdr : BitVec 512) (stream : List Byte) :
    Statement (.chunkRetire port hdr stream) := by
  intro h
  simp [Instr.wf, streamOk] at h
  simp only [payloadLen]
  omega
theorem credit (port : LinkPort) (supath : UPath) (rec : BitVec 128) :
    Statement (.credit port supath rec) := none_ rfl
theorem cack (rec : BitVec 128) : Statement (.cack rec) := none_ rfl
theorem bounceReceive (hdr : BitVec 512) (rxEpoch : BitVec 32) : Statement (.bounceReceive hdr rxEpoch) := none_ rfl
theorem chunkTimeout (stag : Fin 16384) : Statement (.chunkTimeout stag) := none_ rfl
theorem laneLockGain (p : Fin 4) (lanes : BitVec 16) : Statement (.laneLockGain p lanes) := none_ rfl
theorem laneLockLoss (lane : Fin 16) : Statement (.laneLockLoss lane) := none_ rfl
theorem trainTimeout (p : Fin 4) (skew : Bool) : Statement (.trainTimeout p skew) := none_ rfl
theorem helloResend (port : LinkPort) : Statement (.helloResend port) := none_ rfl
theorem hello (port : LinkPort) (body : BitVec 256) : Statement (.hello port body) := none_ rfl
theorem helloAck (port : LinkPort) (body : BitVec 256) : Statement (.helloAck port body) := none_ rfl
theorem helloTimeout (port : LinkPort) : Statement (.helloTimeout port) := none_ rfl
theorem secureTimeout (p : Fin 4) : Statement (.secureTimeout p) := none_ rfl
theorem retrainTimeout (port : LinkPort) : Statement (.retrainTimeout port) := none_ rfl
theorem gUpRise (g : Fin 4) : Statement (.gUpRise g) := none_ rfl
theorem gUpFall (g : Fin 4) : Statement (.gUpFall g) := none_ rfl
theorem ghello (src : UPath) (hdr : BitVec 128) (crc : BitVec 64) (ninst : BitVec 16) (kind : Bool) :
    Statement (.ghello src hdr crc ninst kind) := none_ rfl
theorem gchal (src : UPath) (hdr : BitVec 128) (nonce : BitVec 256) : Statement (.gchal src hdr nonce) := none_ rfl
theorem gconf (src : UPath) (hdr : BitVec 128) (chain : List (List Byte)) (sig : BitVec 768) :
    Statement (.gconf src hdr chain sig) := by
  intro h
  simp [Instr.wf, certsOk] at h
  simp only [payloadLen]
  omega
theorem gformed (src : UPath) (hdr : BitVec 128) (ninst : BitVec 16) (cert : List Byte) :
    Statement (.gformed src hdr ninst cert) := by
  intro h
  simp [Instr.wf, bodyOk] at h
  simp only [payloadLen]
  omega
theorem gfail (src : UPath) (hdr : BitVec 128) (status : BitVec 16) (member : BitVec 16) :
    Statement (.gfail src hdr status member) := none_ rfl
theorem ghb (src : UPath) (hdr : BitVec 128) : Statement (.ghb src hdr) := none_ rfl
theorem ghbSend : Statement .ghbSend := none_ rfl
theorem gfwd (src : UPath) (hdr : BitVec 128) (member : BitVec 16) (kind : BitVec 4) (c : CtxId) (msg : BitVec 512) (rest : List Byte) :
    Statement (.gfwd src hdr member kind c msg rest) := by
  intro h
  simp [Instr.wf, bodyOk] at h
  simp only [payloadLen]
  omega
theorem greport (src : UPath) (hdr : BitVec 128) (member : BitVec 16) (kind : BitVec 4) (c : CtxId) (body : List Byte) :
    Statement (.greport src hdr member kind c body) := by
  intro h
  simp [Instr.wf, bodyOk] at h
  simp only [payloadLen]
  omega
theorem gack (src : UPath) (hdr : BitVec 128) (gseq : BitVec 32) : Statement (.gack src hdr gseq) := none_ rfl
theorem gackSend (peer : UPath) : Statement (.gackSend peer) := none_ rfl
theorem memberLost (peer : UPath) : Statement (.memberLost peer) := none_ rfl
theorem groveIncomplete : Statement .groveIncomplete := none_ rfl
theorem kx1 (src : UPath) (body : BitVec 1088) : Statement (.kx1 src body) := none_ rfl
theorem kx2 (src : UPath) (body : BitVec 1088) (chain : List (List Byte)) (sig : BitVec 768) :
    Statement (.kx2 src body chain sig) := by
  intro h
  simp [Instr.wf, certsOk] at h
  simp only [payloadLen]
  omega
theorem kx3 (src : UPath) (chain : List (List Byte)) (sig : BitVec 768) : Statement (.kx3 src chain sig) := by
  intro h
  simp [Instr.wf, certsOk] at h
  simp only [payloadLen]
  omega
theorem kdone (src : UPath) (body : BitVec 32) : Statement (.kdone src body) := none_ rfl
theorem kretire (src : UPath) (body : BitVec 32) : Statement (.kretire src body) := none_ rfl
theorem kfail (src : UPath) (body : BitVec 32) : Statement (.kfail src body) := none_ rfl
theorem handshakeTimeout (peer : UPath) : Statement (.handshakeTimeout peer) := none_ rfl
theorem bandJoin (port : LinkPort) (src : UPath) (hdr : BitVec 512) : Statement (.bandJoin port src hdr) := none_ rfl
theorem bandData (port : LinkPort) (src : UPath) (hdr : BitVec 512) (stream : List Byte) :
    Statement (.bandData port src hdr stream) := by
  intro h
  simp [Instr.wf, streamOk] at h
  simp only [payloadLen]
  omega
theorem bandResult (port : LinkPort) (src : UPath) (hdr : BitVec 512) (stream : List Byte) :
    Statement (.bandResult port src hdr stream) := by
  intro h
  simp [Instr.wf, streamOk] at h
  simp only [payloadLen]
  omega
theorem bandReady (port : LinkPort) (src : UPath) (hdr : BitVec 512) :
    Statement (.bandReady port src hdr) := none_ rfl
theorem bandDecide (port : LinkPort) (src : UPath) (hdr : BitVec 512) :
    Statement (.bandDecide port src hdr) := none_ rfl
theorem bandAbort (port : LinkPort) (src : UPath) (hdr : BitVec 512) :
    Statement (.bandAbort port src hdr) := none_ rfl
theorem bandBusy (port : LinkPort) (src : UPath) (hdr : BitVec 512) : Statement (.bandBusy port src hdr) := none_ rfl
theorem bandMap (port : LinkPort) (src : UPath) (hdr : BitVec 512) (stream : List Byte) :
    Statement (.bandMap port src hdr stream) := by
  intro h
  simp [Instr.wf, streamOk] at h
  simp only [payloadLen]
  omega
theorem joinRetry (slot : Fin 64) (rank : Fin 32768) : Statement (.joinRetry slot rank) := none_ rfl
theorem pendingExpiry (cid : Fin 1024) (seq : BitVec 32) (rank : Fin 32768) :
    Statement (.pendingExpiry cid seq rank) := none_ rfl
theorem bandSourceRead (slot : Fin 64) (k : Nat) : Statement (.bandSourceRead slot k) := none_ rfl
theorem bandNodeEvaluate (slot : Fin 64) (stage : Fin 5) : Statement (.bandNodeEvaluate slot stage) := none_ rfl
theorem deadlineExpiry (slot : Fin 64) (stage : Fin 5) : Statement (.deadlineExpiry slot stage) := none_ rfl
theorem collTimeout (slot : Fin 64) : Statement (.collTimeout slot) := none_ rfl
theorem outputChunkRetire (slot : Fin 64) (k : Nat) : Statement (.outputChunkRetire slot k) := none_ rfl
theorem digestFold (cid : Fin 1024) : Statement (.digestFold cid) := none_ rfl
theorem budget (w : BitVec 64) : Statement (.budget w) := none_ rfl
theorem meas (w : BitVec 64) : Statement (.meas w) := none_ rfl
theorem aclkf (w : BitVec 64) : Statement (.aclkf w) := none_ rfl
theorem aclkReqRise : Statement .aclkReqRise := none_ rfl
theorem aclkReqFall : Statement .aclkReqFall := none_ rfl
theorem leaveGrant : Statement .leaveGrant := none_ rfl
theorem powerLoop : Statement .powerLoop := none_ rfl
theorem thermalLoop : Statement .thermalLoop := none_ rfl
theorem fcst : Statement .fcst := none_ rfl
theorem temp (n : Fin 24) : Statement (.temp n) := none_ rfl
theorem status : Statement .status := none_ rfl
theorem sensorRead (n : Fin 24) (reading : BitVec 12) (invalid : Bool) :
    Statement (.sensorRead n reading invalid) := none_ rfl
theorem watchdogExpiry (core : Fin 19) : Statement (.watchdogExpiry core) := none_ rfl
theorem coreRestartComplete (core : Fin 19) : Statement (.coreRestartComplete core) := none_ rfl
theorem heartbeatDeadline : Statement .heartbeatDeadline := none_ rfl
theorem graceExpiry (c : CtxId) : Statement (.graceExpiry c) := none_ rfl
theorem mRequestIssue (port : Fin 12) : Statement (.mRequestIssue port) := none_ rfl
theorem mReadData (port : Fin 12) (tag : Fin 1024) (beat : Fin 4) (data : BitVec 2048) (pois : BitVec 32) (stat : Fin 4) :
    Statement (.mReadData port tag beat data pois stat) := none_ rfl
theorem mWriteCompletion (port : Fin 12) (tag : Fin 1024) (stat : Fin 4) :
    Statement (.mWriteCompletion port tag stat) := none_ rfl
theorem mCreditReturn (port : Fin 12) (q : Fin 5) (w : Fin 5) : Statement (.mCreditReturn port q w) := none_ rfl
theorem rstNRise (mode : Fin 4) (fwBase : BitVec 28) : Statement (.rstNRise mode fwBase) := none_ rfl
theorem startUpReady : Statement .startUpReady := none_ rfl
theorem rstNAssert : Statement .rstNAssert := none_ rfl
theorem trstN : Statement .trstN := none_ rfl
theorem bypass : Statement .bypass := none_ rfl
theorem samplePreload (cells : List Bool) : Statement (.samplePreload cells) := by
  intro h
  simp [Instr.wf, cellsOk] at h
  simp only [payloadLen]
  omega
theorem extest : Statement .extest := none_ rfl
theorem idcode : Statement .idcode := none_ rfl
theorem ijtagSel : Statement .ijtagSel := none_ rfl
theorem mbistTer (fails : Nat) : Statement (.mbistTer fails) := none_ rfl
theorem mbistAcc (fails : Nat) : Statement (.mbistAcc fails) := none_ rfl
theorem mbistFw (fails : Nat) : Statement (.mbistFw fails) := none_ rfl
theorem lbist (sigGood : Bool) : Statement (.lbist sigGood) := none_ rfl
theorem loopL (group : Fin 4) (fails : Nat) : Statement (.loopL group fails) := none_ rfl
theorem loopG (g : Fin 4) (fails : Nat) : Statement (.loopG g fails) := none_ rfl
theorem powerRemoval : Statement .powerRemoval := none_ rfl
theorem pathIdentityKeyConfirm (p : Fin 4) : Statement (.pathIdentityKeyConfirm p) := none_ rfl

end Sys2Proof.Laws.Wf
end

