-- ==== Sys2Proof/Safety.lean ====
section
/-!
DEFINITION. What counts as a safe run: no step stops. The block stops on one ground alone, that a test has destroyed its state
(R508), so a run is safe while it asks nothing of a destroyed instance but a reset, an instrument or power removal.
-/
namespace Sys2Proof.Safety
open Sys2Proof.Machine

/-- A step that answers a next state. -/
def StepSafe (s : State) : Prop := ∃ t, step s = .next t

/-- A run of n steps of which none stops. -/
def RunSafe : Nat → State → Prop
  | 0, _ => True
  | n + 1, s => ∃ t, step s = .next t ∧ RunSafe n t

/-- The instance's state has not been destroyed by a test (R508). -/
def Intact (s : State) : Prop := s.sys.phase ≠ .destroyed

end Sys2Proof.Safety
end

