-- ==== Sys2Proof/Tests/Build.lean ====
section
/-!
SUPPORT. Small states for the tests: an instance that is up, a message on a ring, and a tile command at a queue head.
-/
namespace Sys2Proof.Tests
set_option Elab.async false
open Sys2Proof.Machine

/-- An instance that is up, with every core running and a host attached that negotiated every feature. -/
def up : State :=
  { State.reset with
    sys := { State.reset.sys with phase := .up, capv := true, coreSts := (List.range 19).map (fun c => (c, 0)) }
    mgmt := { State.reset.mgmt with ready := true, en := true, mdbState := 1, attachNo := 1, major := 3, fmask := 0xFFFFE } }

/-- A ring of 64 units at 1_0000h whose first message has this many units, with a completion ring at 2_0000h. -/
def ringWith (units : Nat) : Ring :=
  { Ring.empty with sqBase := 0x10000, cqBase := 0x20000, sqLog2 := 6, cqLog2 := 6, sqTail := units }

/-- A message of generation 3 (R352): opcode, tag 7, and its arguments from bit 64 on. -/
def msg3 (opc args : Nat) : Nat := 3 + 3 * 4 + opc * 2 ^ 8 + 7 * 2 ^ 32 + args * 2 ^ 64

/-- s with bytes in host memory. -/
def inHost (a n v : Nat) (s : State) : State :=
  { s with ext := { s.ext with host := memWrite s.ext.host a (leBytes n v) } }

/-- s with bytes in stack memory. -/
def inStack (a n v : Nat) (s : State) : State :=
  { s with ext := { s.ext with stack := memWrite s.ext.stack a (leBytes n v) } }

/-- s with a management message at the head of its ring. -/
def mgmtMsg (opc args : Nat) (s : State) : State :=
  inHost 0x10000 64 (msg3 opc args) { s with mgmt := { s.mgmt with ring := ringWith 4 } }

/-- An active context that has its ring and nothing else. -/
def ctx0 : Ctx := { Ctx.free with state := .active, bound := 1, ring := ringWith 4 }

/-- s with context 0 as given and a message at the head of its ring. -/
def ctxMsg (x : Ctx) (opc args : Nat) (s : State) : State :=
  inHost 0x10000 64 (msg3 opc args) { s with ctxs := [(0, x)] }

/-- The message at the head of a ring. -/
def hd (s : State) (c : Nat) : HeadMsg := (headMsg s c).getD ⟨0, 0, 0, ⟨0, 0, 0, 0, 0⟩⟩

/-- Whether a result is a success with this value. -/
def okIs {ε α : Type} [DecidableEq α] (r : Except ε α) (x : α) : Bool :=
  match r with
  | .ok y => decide (y = x)
  | .error _ => false

theorem okIs_iff {ε α : Type} [DecidableEq α] (r : Except ε α) (x : α) : okIs r x = true ↔ r = .ok x := by
  cases r <;> simp [okIs]

/-- Whether a result is a failure with this fault. -/
def failIs {ε α : Type} [DecidableEq ε] (r : Except ε α) (x : ε) : Bool :=
  match r with
  | .ok _ => false
  | .error y => decide (y = x)

theorem failIs_iff {ε α : Type} [DecidableEq ε] (r : Except ε α) (x : ε) : failIs r x = true ↔ r = .error x := by
  cases r <;> simp [failIs]

end Sys2Proof.Tests
end

