-- ==== Sys2Proof/Tests/Slice0.lean ====
section
/-!
SUPPORT. Tests of the model against the manual: commands that WellFormed refuses, one for each of its checks, and results that
the manual's worked examples state.
-/
namespace Sys2Proof.Tests
set_option Elab.async false
open Sys2Proof.Machine

/-! Ill-formed commands. -/

theorem test_blockOk_refuses_no_lines : (Instr.xBlockWrite 0 0 0 0 0 0 [] []).wf = false := by decide
theorem test_blockOk_refuses_missing_enables : (Instr.xBlockWrite 0 0 0 0 0 0 [0] []).wf = false := by decide
theorem test_xBlockWrite_refuses_past_the_view : (Instr.xBlockWrite 0 0 2097151 0 0 0 [0, 0] [0, 0]).wf = false := by
  decide +kernel
theorem test_numOk_refuses_65_bits : (Instr.commandRetire 0 .a (2 ^ 64)).wf = false := by decide +kernel
theorem test_streamOk_refuses_a_long_stream (l : List Byte) (h : l.length = 67641) :
    (Instr.chunkRetire (.path 0) 0 l).wf = false := by
  simp [Instr.wf, streamOk, h]
theorem test_bodyOk_refuses_a_long_body (l : List Byte) (h : l.length = 65537) : (Instr.gfwd 0 0 0 1 0 0 l).wf = false := by
  simp [Instr.wf, bodyOk, h]
theorem test_certsOk_refuses_a_long_certificate (l : List Byte) (h : l.length = 65536) :
    (Instr.gconf 0 0 [l] 0).wf = false := by
  simp [Instr.wf, certsOk, h]
theorem test_chunkIdxOk_refuses_37_bits : (Instr.outputChunkRetire 0 (2 ^ 36)).wf = false := by decide +kernel
theorem test_cellsOk_refuses_a_long_chain (l : List Bool) (h : l.length = 65537) :
    (Instr.samplePreload l).wf = false := by
  simp [Instr.wf, cellsOk, h]
theorem test_wf_accepts_one_line : (Instr.xBlockWrite 0 0 2097151 0 0 0 [0] [0]).wf = true := by decide +kernel

/-! Worked examples. -/

/-- After R46: four products 0.75 overflow a row at E = 0, which repeats at E = 8 and holds 3·2^54. -/
theorem test_pass_repeats_once :
    let x : Option DV := some (Fmt.bf16.dec 0x3FC0)
    let y : Option DV := some (Fmt.bf16.dec 0x3F00)
    ((AccRow.mk 0 0 [⟨0, 0⟩]).pass [([x, x, x, x], [y, y, y, y])]).1 =
      AccRow.mk 8 1 [⟨0x00C0000000000000, 0⟩] := by decide +kernel

/-- The six ranks of R313: ranks 0 to 2 in grove 0 and 3 to 5 in grove g. -/
def sixRanks (g : Nat) : List CMember :=
  (List.range 6).map (fun r => ⟨BitVec.ofNat 48 r, 0, if r < 3 then 0 else g, 0, 0, 0⟩)

/-- Their FP32 contributions 2^24, 1, 1, −2^24, 1 and 0. -/
def sixLeaf (r : Nat) : Option AV :=
  some (leafOf 0 ([0x4B800000, 0x3F800000, 0x3F800000, 0xCB800000, 0x3F800000, 0].getD r 0))

/-- After R313: the canonical tree over two groves, over one, and the exact sum. -/
theorem test_canonical_tree_two_groves :
    (treeEval (nodeOp 0 0 false) (sixRanks 1) sixLeaf 4 0).map (fun v => (finishVal 0 0 false 6 v).code) =
      some 0x3F800000 := by decide +kernel
theorem test_canonical_tree_one_grove :
    (treeEval (nodeOp 0 0 false) (sixRanks 0) sixLeaf 4 0).map (fun v => (finishVal 0 0 false 6 v).code) =
      some 0x40000000 := by decide +kernel
theorem test_exact_sum :
    (treeEval (nodeOp 0 0 true) (sixRanks 1) sixLeaf 4 0).map (fun v => (finishVal 0 0 true 6 v).code) =
      some 0x40400000 := by decide +kernel

/-- After R153: recip of 3FC0_8000h is 3F2A_3900h. -/
theorem test_recip : Fmt.e8m16.enc (sfu false [] .recip (Fmt.e8m16.val 0x3FC08000)).1 = (0x3F2A3900, false) := by
  decide +kernel

/-- After R494: route entry 0 and PATH_CFG of path 2, and the status of the second value with CFG_BAD. -/
theorem test_route_write :
    (let s := regWrite 0x90100 0x00120102FFFFFFFF#64 0xFF#8 up
     (regRead s 0x90100, routeOf s 0x010205030205#48)) = (0x00120102FFFFFFFF, some (.path 2)) := by decide +kernel
theorem test_path_bringup :
    (let s := regWrite 0x90040 0x1900385#64 0xFF#8 up
     (regRead s 0x90040, regRead s 0x90048, (getLink s (.path 2)).latUs, (getLink s (.path 2)).lanes)) =
      (0x1900385, 1, 400, (8, 8)) := by decide +kernel
theorem test_path_bad :
    (let s := regWrite 0x90040 0x1900345#64 0xFF#8 up
     (regRead s 0x90048, s.sys.errSts.getLsbD 8)) = (0x106, true) := by decide +kernel

/-- After R347: 32 packages of 8 dies in 8 trays: the die at 01_02_05_03_02_05h, whose rack, tray and package groves
have these tables, is member 117 of the rack. -/
def groveOf (lv : Nat) (pre : UPath) (ninst : Nat) (paths : List UPath) : GroveSt :=
  { gstate := 2, glevel := lv, gprefix := pre, gepoch := 1
    members := paths.map (fun u => ⟨u, decide (1 < ninst), true, ninst, u, [], none, none⟩)
    table := [], formMs := 0, ghbMs := 10, leader := 0x010205000000, myIndex := none, ninst := ninst * paths.length, tableCrc := 0
    hellos := [], nonces := [], devs := [], cert := [], lost := [], heard := [], waiter := none }

theorem test_member_index :
    indexOfPath 0x010205030205#48
      [groveOf 3 0x010205FFFFFF 32 ((List.range 8).map (fun t => BitVec.ofNat 48 (0x01020500FFFF + t * 2 ^ 16))),
       groveOf 4 0x01020503FFFF 8 ((List.range 4).map (fun p => BitVec.ofNat 48 (0x0102050300FF + p * 2 ^ 8))),
       groveOf 5 0x0102050302FF 1 ((List.range 8).map (fun d => BitVec.ofNat 48 (0x010205030200 + d)))] = 117 := by decide +kernel

/-- After R426: with a budget of 560 A, sixteen requests for L3 and the fused coefficients, two grants bring the
account to 320 A, and the forecast before them is 560 A. -/
def coldStart : State :=
  { up with
    power := { up.power with noBudget := false, pBudget := 560, pCap := 600, pRamp := 40, allowance := 80000, lastPav := 15 }
    pavs := (List.range 16).map (fun p => (p, { getPav up p with leaveReq := 3 })) }

theorem test_cold_start :
    ((forecast coldStart).1, amps (account (arbitrate coldStart)), (arbitrate coldStart).power.allowance,
      (List.range 16).map (fun p => (getPav (arbitrate coldStart) p).leave)) =
      (560, 320, 0, [3, 3, 0, 0, 0, 0, 0, 0, 0, 0, 0, 0, 0, 0, 0, 0]) := by decide +kernel

end Sys2Proof.Tests
end

