-- ==== Sys2Proof/Tests/WitnessAllotment.lean ====
section
/-!
SUPPORT. Witnesses for the statements about the Allotment.
-/
namespace Sys2Proof.Tests
set_option Elab.async false
open Sys2Proof.Machine Sys2Proof.Claims

/-! ALT_CONFIG and ALT_QUOTA. -/

/-- The parameter block of R234: descriptors at 256 MiB, four plots of each class, counts above 768 MiB. -/
def altBlock : Nat :=
  0x10000000 + 0x20000000 * 2 ^ 64 + 0x28000000 * 2 ^ 128 + 0x2C000000 * 2 ^ 192 + 4 * 2 ^ 256 + 4 * 2 ^ 288 + 4 * 2 ^ 320 +
    0x30000000 * 2 ^ 384 + 0x30001000 * 2 ^ 448 + 0x30002000 * 2 ^ 512

/-- ALT_CONFIG with its parameter block at 3_0000h. -/
def configures (s : State) : State := mgmtMsg 0x85 0x30000 (inHost 0x30000 72 altBlock s)

/-- The fields of the block. -/
def altFields : List Nat :=
  [0x10000000, 0x20000000, 0x28000000, 0x2C000000, 4, 4, 4, 0x30000000, 0x30001000, 0x30002000]

/-- The layout of the block in force. -/
def altOn : Allot :=
  { State.reset.alt with
    configured := true, descBase := 0x10000000, poolBase := (0x20000000, 0x28000000, 0x2C000000), poolN := (4, 4, 4)
    rcBase := (0x30000000, 0x30001000, 0x30002000) }

/-- A context with the indices 262,142 and 262,143 and three plots of each class. -/
def ctxA : Ctx :=
  { ctx0 with seqLo := 262142, seqN := 2, quota := (3, 3, 3), use := (0, 0, 0)
              regions := [(0, ⟨0, 16, false, false, false, false⟩)] }

/-- The Allotment is configured, nothing is stored in it, and context 0 sends a message. -/
def altMsg (x : Ctx) (opc args : Nat) (s : State) : State := ctxMsg x opc args { s with alt := altOn }

theorem witness_AllotmentIsConfigured :
    (let s := configures up
     let r := readPblk 0 true (arg (hd s mgmtCtx) 64 64) [64, 64, 64, 64, 24, 24, 24, 64, 64, 64] s
     let mine := (altRanges { r.1 with alt := altOn }).filter (fun r => decide (0 < r.2))
     Accepted s mgmtCtx 0x85 (hd s mgmtCtx) ∧ MemoriesCanonical s ∧ okIs r.2 altFields = true ∧ anyContext s = false ∧
      0x10000000 % 4096 = 0 ∧ 0x20000000 % 16384 = 0 ∧ 0x28000000 % 32768 = 0 ∧ 0x2C000000 % 65536 = 0 ∧
      anyOverlap mine = false ∧ mine.any (fun r => (otherPrivate s).any (fun x => rangesMeet r.1 r.2 x.1 x.2)) = false) ∧
    (let s := configures { up with ctxs := [(4095, ctx0)] }
     Accepted s mgmtCtx 0x85 (hd s mgmtCtx) ∧ MemoriesCanonical s ∧ anyContext s = true) ∧
    (let s := altMsg ctx0 0x0A (262143 + 1 * 2 ^ 18 + 4 * 2 ^ 37) up
     let h := hd s 0
     Accepted s 0 0x0A h ∧ quotaBad s 0 (arg h 64 18) (arg h 82 19) (arg h 101 24, arg h 125 24, arg h 149 24) = false ∧
      arg h 173 9 = 0) ∧
    (let s := altMsg ctx0 0x0A (262143 + 1 * 2 ^ 18 + 5 * 2 ^ 37 + 511 * 2 ^ 109) up
     let h := hd s 0
     Accepted s 0 0x0A h ∧ quotaBad s 0 (arg h 64 18) (arg h 82 19) (arg h 101 24, arg h 125 24, arg h 149 24) = true) := by
  decide +kernel

/-! Sequences. -/

/-- A descriptor of context 0: E4M3 of HDIM 64, one layer and group, of at most 256 tokens, its root at plot 1. -/
def desc1 (len holds pin : Nat) : Nat :=
  2 ^ 12 + 4 * 2 ^ 16 + len * 2 ^ 64 + len * 2 ^ 96 + 1 * 2 ^ 160 + 256 * 2 ^ 192 + 1 * 2 ^ 224 + pin * 2 ^ 256 + holds * 2 ^ 288

/-- Sequence 262,142 with a descriptor, its page in plot 2, its first plot in plot 3 with n references. -/
def seqIn (d n : Nat) (s : State) : State :=
  inStack (0x10000000 + 64 * 262142) 64 d (inStack 0x20004000 8 (entryOf 2) (inStack 0x20008000 8 (entryOf 3)
    (inStack 0x30000000 8 (1 * 2 ^ 16 + 1 * 2 ^ 32 + n * 2 ^ 48) { s with alt := altOn })))

/-- Context 0 with three plots of class 0 used and room for one more. -/
def ctxB : Ctx := { ctxA with quota := (4, 4, 4), use := (3, 0, 0) }

/-- A message of context 0 beside that sequence. -/
def seqMsg (d n opc args : Nat) : State := ctxMsg ctxB opc args (seqIn d n up)

/-- Whether an operation succeeds, and with what. -/
def outcome {α : Type} (m : AltM α) (s : State) : Option α :=
  match (ExceptT.run m).run s with
  | (.ok r, _) => some r
  | (.error _, _) => none

/-- The first class's pool holds one free plot, number 0: the search finds it wherever it begins. -/
theorem findFree_only (s : State) (i : Nat) (h0 : plotFree s 0 = true) (h1 : plotFree s 1 = false)
    (h2 : plotFree s 2 = false) (h3 : plotFree s 3 = false) :
    findFree s 0 4 4 i = some 0 := by
  have hi : i % 4 = 0 ∨ i % 4 = 1 ∨ i % 4 = 2 ∨ i % 4 = 3 := by omega
  rcases hi with h | h | h | h
  · simp [findFree, h, h0]
  · have a : (i + 1) % 4 = 2 := by omega
    have b : (i + 1 + 1) % 4 = 3 := by omega
    have c : (i + 1 + 1 + 1) % 4 = 0 := by omega
    simp [findFree, h, a, b, c, h0, h1, h2, h3]
  · have a : (i + 1) % 4 = 3 := by omega
    have b : (i + 1 + 1) % 4 = 0 := by omega
    simp [findFree, h, a, b, h0, h2, h3]
  · have a : (i + 1) % 4 = 0 := by omega
    simp [findFree, h, a, h0, h3]

/-- Only plot 0 of four is free. -/
def onlyFree (s : State) : Bool := s.alt.poolN.1 == 4 && plotFree s 0 && !plotFree s 1 && !plotFree s 2 && !plotFree s 3

/-- `grabPlots` with the search for one plot of class 0 decided where only plot 0 is free. -/
def grabOnly (c : Nat) (cls : List Nat) (s : State) : Option (List Nat × State) :=
  if onlyFree s && cls == [0] then
    (if quotaFits s c [0] then some ([0], setRc 0 1 { s with alt := { s.alt with picks := s.alt.picks + 1 } }) else none)
  else grabPlots c cls s

theorem grabPlots_eq : grabPlots = grabOnly := by
  funext c cls s
  unfold grabOnly
  split
  · rename_i h
    simp only [onlyFree, Bool.and_eq_true, beq_iff_eq, Bool.not_eq_true'] at h
    obtain ⟨⟨⟨⟨⟨hn, h0⟩, h1⟩, h2⟩, h3⟩, rfl⟩ := h
    simp [grabPlots, takePlots, takePlot, byClass, hn, findFree_only s _ h0 h1 h2 h3]
  · rfl

/-- Sequence 262,142 of n references to its plot, as the operations find it. -/
def parent (len n : Nat) (opc args : Nat) : State := seqMsg (desc1 len 0 0) n opc args

/-- SEQ_FORK of a sequence without plots, to 262,143. -/
def forks : State := parent 0 1 0x12 (262142 + 262143 * 2 ^ 18)

theorem witness_SequencesAreCreatedAndForked :
    (let s := altMsg ctxA 0x10 (262143 + 4 * 2 ^ 18 + 256 * 2 ^ 64) up
     let h := hd s 0
     let pos := (arg h 89 8 + 1) * (arg h 97 8 + 1) * ceilDiv (arg h 128 32) 128
     Accepted s 0 0x10 h ∧ MemoriesCanonical s ∧ inRange (getCtx s 0) (arg h 64 18) = true ∧
      stackPoisoned s (seqDescAddr s (arg h 64 18)) 64 = false ∧ dValid (seqDesc s (arg h 64 18)) = false ∧
      layoutOk (arg h 82 4) (arg h 86 3) = true ∧ pos ≤ 2 ^ 24 ∧ ceilDiv pos 2048 ≤ 8192 ∧ l1ClassOf (ceilDiv pos 2048) = 0 ∧
      quotaFits s 0 [0] = true ∧ rcOf s (0 * 2 ^ 24 + 3) = 0 ∧ 3 < byClass s.alt.poolN 0 ∧ byClass s.alt.poolN 0 ≤ 2 ^ 24) ∧
    (let s := altMsg ctxA 0x10 262141 up
     Accepted s 0 0x10 (hd s 0) ∧ inRange (getCtx s 0) (arg (hd s 0) 64 18) = false) ∧
    (let s := parent 1 1 0x10 262142
     Accepted s 0 0x10 (hd s 0) ∧ dValid (seqDesc s (arg (hd s 0) 64 18)) = true) ∧
    (Accepted forks 0 0x12 (hd forks 0) ∧ MemoriesCanonical forks) := by decide +kernel

theorem witness_SequencesAreCreatedAndForked_fork :
    outcome (seqFork 0 (hd forks 0).msg.bits.toNat) forks = some 262143 := by
  unfold seqFork needPlots
  rw [grabPlots_eq]
  decide +kernel

/-- SEQ_APPEND of one token in layer 0, from view offset 0, to a sequence of one token with n references to its plot. -/
def appends (n : Nat) : State := parent 1 n 0x11 (262142 + 1 * 2 ^ 64)

/-- An append that waits for its swap, of a sequence that n jobs hold. -/
def swapping (n : Nat) : State :=
  { seqIn (desc1 1 n 0) 2 up with
    ctxs := [(0, { ctxB with altWait := some ⟨⟨false, 0, 3, 0x11, 7, none⟩, 262142, [(0x20008000, 3, 0)], 1, 2, 1⟩ })] }

theorem witness_AppendsCommitOrWait :
    (Accepted (appends 1) 0 0x11 (hd (appends 1) 0) ∧ MemoriesCanonical (appends 1)) ∧
    (Accepted (appends 2) 0 0x11 (hd (appends 2) 0) ∧ MemoriesCanonical (appends 2)) ∧
    (let s := swapping 0
     Up s ∧ MemoriesCanonical s ∧ (getCtx s 0).altWait.isSome = true ∧ dHolds (seqDesc s 262142) = 0 ∧
      1 = dLayers (seqDesc s 262142)) ∧
    (dHolds (seqDesc (swapping 65535) 262142) ≠ 0) ∧ (getCtx up 0).altWait = none := by decide +kernel

theorem witness_AppendsCommitOrWait_commits :
    outcome (seqAppend 0 (waiterOf 0 (hd (appends 1) 0).msg) (hd (appends 1) 0).msg.bits.toNat) (appends 1) =
      some (some 262142) := by decide +kernel

theorem witness_AppendsCommitOrWait_waits :
    outcome (seqAppend 0 (waiterOf 0 (hd (appends 2) 0).msg) (hd (appends 2) 0).msg.bits.toNat) (appends 2) = some none := by
  unfold seqAppend needPlots
  rw [grabPlots_eq]
  decide +kernel

/-- What the clause on an append by conditions alone asks, of an append by context 0 that makes the length plen. -/
def appendStands (s : State) (plen : Nat) (shares : Bool) : Bool :=
  let h := hd s 0
  let q := arg h 64 18
  let d := seqDesc s q
  let layer0 := arg h 82 8
  let nl := arg h 90 8 + 1
  let blocks := (List.range (ceilDiv plen 128 - dLen d / 128)).map (· + dLen d / 128)
  let pos := blocks.flatMap (fun j => (List.range (nl * dGroups d)).map (fun i => j * seqPairs d + (i + layer0 * dGroups d)))
  let fresh := pos.filter (fun i => (plotAtPos s d i).isNone)
  let shared := pos.filter (fun i => (plotAtPos s d i).any (fun p => decide (1 < rcOf s p)))
  let pages := ((pos.map (· / 2048)).eraseDups).filter (fun k => (pageOf s d k).isNone)
  let cls := pages.map (fun _ => 0) ++ (fresh ++ shared).map (fun _ => dClass d)
  let a := arg h 160 64
  let n := segBytes (dFmt d) (dDim d) (arg h 128 32) * (nl * dGroups d)
  decide (Accepted s 0 0x11 h ∧ MemoriesCanonical s ∧ inRange (getCtx s 0) q = true ∧ ownSeq 0 d = true ∧ dFault d = false ∧
    appendPlen d (arg h 128 32) layer0 nl = some plen ∧ plen ≤ dMaxlen d ∧ isMx (dFmt d) = false ∧
    quotaFits s 0 cls = true) && decide (PoolsHold s cls) && (shared.isEmpty != shares) &&
    (if arg h 98 1 = 0 then !sourceWritten s 0 a n && decide (a + n ≤ viewLen (getCtx s 0).regions) && s.ter.unfilled.isEmpty &&
      s.ter.poison.isEmpty && s.ter.flips.isEmpty
    else !reachesPrivate s a n && !extDenied s 0 0 a n)

/-- From the Terrace and from stack memory, into a plot of its own, a shared one and a new one. -/
theorem witness_AppendsCommitOrWait_stands :
    (appendStands (appends 1) 2 false && appendStands (appends 2) 2 true &&
      appendStands (parent 1 1 0x11 (262142 + 2 ^ 34 + 1 * 2 ^ 64 + 0x40000000 * 2 ^ 96)) 2 false &&
      appendStands (parent 128 1 0x11 (262142 + 1 * 2 ^ 64)) 129 false) = true := by decide +kernel

theorem witness_SequencesAreCreatedAndForked_stands :
    let s := forks
    let h := hd s 0
    let d := seqDesc s (arg h 64 18)
    let cls := dL1Class d :: ((l1Used d).filter (fun k => (pageOf s d k).isSome)).map (fun _ => 0)
    inRange (getCtx s 0) (arg h 82 18) = true ∧ inRange (getCtx s 0) (arg h 64 18) = true ∧ ownSeq 0 d = true ∧
      dFault d = false ∧ dValid (seqDesc s (arg h 82 18)) = false ∧ dPlayers d = 0 ∧
      (∀ e ∈ tablePos d, (plotAtPos s d e.2.2).all (fun p => decide (rcOf s p < 65535)) = true) ∧
      quotaFits s 0 cls = true ∧ PoolsHold s cls := by decide +kernel

theorem witness_SequencesAreCutFreedAndPinned :
    (∀ e ∈ [(0x13, 0, 0, 1), (0x13, 1, 0, 0), (0x13, 0, 0, 2), (0x14, 0, 0, 0), (0x14, 1, 0, 0), (0x14, 0, 1, 0)],
      let s := seqMsg (desc1 1 e.2.1 e.2.2.1) 1 e.1 (262142 + e.2.2.2 * 2 ^ 64)
      let h := hd s 0
      let d := seqDesc s (arg h 64 18)
      MemoriesCanonical s ∧ inRange (getCtx s 0) (arg h 64 18) = true ∧ ownSeq 0 d = true ∧
        stackPoisoned s (seqDescAddr s (arg h 64 18)) 64 = false ∧ Accepted s 0 e.1 h ∧ dLen d = 1 ∧ dPin d = e.2.2.1 ∧
        dHolds d = e.2.1 ∧ arg h 128 32 = e.2.2.2) ∧
    (∀ e ∈ [(0x15, 0, 1), (0x15, 1, 0), (0x15, 0, 2), (0x16, 1, 0), (0x16, 1, 1), (0x16, 0, 1)],
      let s := seqMsg (desc1 128 0 e.2.1) 1 e.1 (262142 + 2 ^ 18 + e.2.2 * 2 ^ 32)
      let h := hd s 0
      let d := seqDesc s (arg h 64 18)
      MemoriesCanonical s ∧ inRange (getCtx s 0) (arg h 64 18) = true ∧ ownSeq 0 d = true ∧
        stackPoisoned s (seqDescAddr s (arg h 64 18)) 64 = false ∧ Accepted s 0 e.1 h ∧ dFault d = false ∧
        ceilDiv (dLen d) 128 = 1 ∧ dPin d = e.2.1 ∧ arg h 96 32 = e.2.2) := by decide +kernel

/-- Sequence 262,142 is orphaned in group 3, which uses three plots; the host sends a message about it. -/
def orphaned (opc : Nat) : State :=
  mgmtMsg opc (262142 + 7 * 2 ^ 18)
    (let s := seqIn (desc1 1 0 0 + 2 ^ 14) 1 up
     { s with alt := { s.alt with groupOf := [(262142, 3)], groupUse := [(3, (3, 0, 0))], nextGroup := 4 }
              ctxs := [(7, { ctxB with use := (0, 0, 0) })] })

/-- The same of a sequence that no one orphaned. -/
def notOrphaned (opc : Nat) : State := mgmtMsg opc 262143 { up with alt := altOn }

theorem witness_OrphanedSequencesAreAdoptedOrReleased :
    (∀ o ∈ [0x8C, 0x8D],
      let s := orphaned o
      let h := hd s mgmtCtx
      MemoriesCanonical s ∧ s.ext.stackPoison = [] ∧ tget? s.alt.groupOf (arg h 64 18) = some 3 ∧ Accepted s mgmtCtx o h ∧
        groupSeqs s 3 = [262142] ∧ (∀ y ∈ groupSeqs s 3, inRange (getCtx s (arg h 82 12)) y = true) ∧
        (∀ k ∈ [0, 1, 2], byClass (getCtx s (arg h 82 12)).use k + byClass (tget s.alt.groupUse 3 (0, 0, 0)) k ≤
          byClass (getCtx s (arg h 82 12)).quota k)) ∧
    (∀ o ∈ [0x8C, 0x8D],
      let s := notOrphaned o
      let h := hd s mgmtCtx
      MemoriesCanonical s ∧ tget? s.alt.groupOf (arg h 64 18) = none ∧ Accepted s mgmtCtx o h) := by decide +kernel

end Sys2Proof.Tests
end

