-- ==== Sys2Proof/Tests/WitnessLinks.lean ====
section
/-!
SUPPORT. Witnesses for the statements about links, chunks, path keys, rings and records.
-/
namespace Sys2Proof.Tests
set_option Elab.async false
open Sys2Proof.Machine Sys2Proof.Claims

/-- Path 3 in a state of R264, its EN set, of width 1 from lane 15 on. -/
def pathIn (st : Nat) : State :=
  { up with prom := { up.prom with
      paths := [(3, { Link.down with cfg := 1 + 15 * 2 ^ 4, state := st, lanesOk := 0xFFFF, gotHello := st == 2 })] } }

/-- G-port 3 in a state. -/
def gportIn (st : Nat) : State := { up with prom := { up.prom with gports := [(3, { Link.down with state := st, up := st != 0 })] } }

/-- The same with a route to the instance of path 1 over it. -/
def gportTo1 : State :=
  { up with
    grove := { up.grove with upathSelf := 2 }
    prom := { up.prom with
      gports := [(3, { Link.down with state := 2, up := true })]
      routes := [(63, BitVec.ofNat 64 (1 + 6 * 2 ^ 48 + 3 * 2 ^ 51 + 2 ^ 53))] } }

/-- The same once the partner's HELLO is in. -/
def gportHeard : State :=
  { gportTo1 with prom := { gportTo1.prom with gports := [(3, { Link.down with state := 2, up := true, gotHello := true })] } }

theorem witness_LinksComeUpAndFail :
    (Up (pathIn 1) ∧ (getLink (pathIn 1) (.path 3)).state = 1 ∧
      workingCode { getLink (pathIn 1) (.path 3) with lanesOk := 0x8000 } = some (getLink (pathIn 1) (.path 3)).widthCode) ∧
    (getLink up (.gport 3)).up = false ∧
    ((getLink gportTo1 (.gport 3)).state = 2 ∧ (getLink up (.gport 3)).state ≠ 2 ∧
      (getLink gportTo1 (.gport 3)).gotHelloAck = false ∧ (getLink gportTo1 (.gport 3)).gotHello = false ∧
      (1#256).getLsbD 48 = isPl2 gportTo1 (.gport 3) ∧
      peerExpected gportTo1 (.gport 3) (BitVec.ofNat 48 (bits (1#256).toNat 0 48)) = true) ∧
    ((getLink gportHeard (.gport 3)).state = 2 ∧ (getLink gportHeard (.gport 3)).gotHello = true ∧
      gportHeard.grove.upathSelf ≠ BitVec.allOnes 48 ∧ (1#256).getLsbD 48 = isPl2 gportHeard (.gport 3) ∧
      peerExpected gportHeard (.gport 3) (BitVec.ofNat 48 (bits (1#256).toNat 0 48)) = true) ∧
    (let s := { pathIn 3 with grove := gportTo1.grove }
     (getLink s (.path 3)).state = 3 ∧ s.grove.upathSelf ≠ BitVec.allOnes 48) ∧
    ((getLink (pathIn 2) (.path 3)).state = 2 ∧ (getLink (pathIn 5) (.path 3)).state = 5 ∧
      (getLink (gportIn 5) (.gport 3)).state = 5) ∧
    (laneOwner (pathIn 4) 15 = some 3 ∧ (getLink (pathIn 4) (.path 3)).state = 4 ∧
      (getLink (pathIn 4) (.path 3)).rowRetrains < 3) ∧
    ((getLink (gportIn 4) (.gport 3)).state = 4 ∧ (getLink (gportIn 4) (.gport 3)).rowRetrains < 3) := by decide +kernel

/-- An IDLE flit of number 0 that acknowledges nothing, whole. -/
def idleFlit : BitVec 2048 := BitVec.ofNat 2048 (0xFE0000FFFF000000 + 321807419 * 2 ^ 2016)

theorem crcReflected_append (p c : Nat) (a b : List Byte) :
    crcReflected p c (a ++ b) = crcReflected p (crcReflected p c a) b := by
  simp [crcReflected, List.foldl_append]

/-- The bytes that its CRC covers. -/
def idleBody : List Byte := leBytes 8 0xFE0000FFFF000000 ++ zeroBytes 61 ++ zeroBytes 61 ++ zeroBytes 61 ++ zeroBytes 61

/-- The CRC, four pieces of zeros at a time. -/
theorem idleBody_crc : crc32c idleBody = 321807419 := by
  have h0 : crcReflected 0x82F63B78 0xFFFFFFFF (leBytes 8 0xFE0000FFFF000000) = 2762611654 := by decide +kernel
  have h1 : crcReflected 0x82F63B78 2762611654 (zeroBytes 61) = 757587238 := by decide +kernel
  have h2 : crcReflected 0x82F63B78 757587238 (zeroBytes 61) = 2703382577 := by decide +kernel
  have h3 : crcReflected 0x82F63B78 2703382577 (zeroBytes 61) = 3858333103 := by decide +kernel
  have h4 : crcReflected 0x82F63B78 3858333103 (zeroBytes 61) = 3973159876 := by decide +kernel
  simp only [idleBody, crc32c, crcReflected_append, h0, h1, h2, h3, h4]
  rfl

theorem witness_FlitsAcceptedInOrder :
    (getLink up (.gport 3)).state ≠ 4 ∧
    (let l := getLink (gportIn 4) (.gport 3)
     l.held = [] ∧ l.msgs = [] ∧ l.chunks = [] ∧ l.retry.length < storeSize l (.gport 3) (isPl2 (gportIn 4) (.gport 3))) ∧
    (let bs := leBytes 256 (idleFlit ^^^ 0x100#2048).toNat
     bits (leNat (bs.take 8)) 8 16 ≠ (getLink (gportIn 4) (.gport 3)).rxSeq % seqModulus false) ∧
    (let bs := leBytes 256 idleFlit.toNat
     let h := leNat (bs.take 8)
     (getLink (gportIn 4) (.gport 3)).state = 4 ∧
      bits h 8 16 + bits h 50 7 * 2 ^ 16 = (getLink (gportIn 4) (.gport 3)).rxSeq % seqModulus (isPl2 (gportIn 4) (.gport 3)) ∧
      bits h 0 4 = 0 ∧ h.testBit 40 = false ∧ h.testBit 41 = false) := by decide +kernel

/-- The flit has the CRC of its bytes; with one bit changed it has not. -/
theorem witness_FlitsAcceptedInOrder_crc :
    (let bs := leBytes 256 idleFlit.toNat
     crc32c (bs.take 252) = leNat (bs.drop 252)) ∧
    (let bs := leBytes 256 (idleFlit ^^^ 1#2048 <<< 2016).toNat
     crc32c (bs.take 252) ≠ leNat (bs.drop 252)) := by
  have h1 : (leBytes 256 idleFlit.toNat).take 252 = idleBody := by decide +kernel
  have h2 : (leBytes 256 (idleFlit ^^^ 1#2048 <<< 2016).toNat).take 252 = idleBody := by decide +kernel
  simp only [h1, h2, idleBody_crc]
  decide +kernel

/-- A chunk of 8 B for landing entry 255 of context 0 over G-port 3. -/
def ent (sent : Bool) : SendEnt :=
  { port := .gport 3, ctx := 0, pav := 0, jobseq := 1, num := 0, lid := 255, epoch := 0, loff := 0, cseq := 0, drole := 0
    srole := 0, repoch := 0, dupath := 1, acc := false, plot := false, poison := 0, data := List.replicate 8 1, tags := []
    attempt := 0, nonce := 0, kslot := none, credits := 0, widx := 0, wgen := 0, sent := sent }

/-- A descriptor of no stream. -/
def desc0 : Desc :=
  { jtype := 0, nblk := 1, sfuset := 0, nprog := 1, waitDl := 0, epoch0 := 0, progBase := 0, sfuImage := 0, att := none
    pos := none, pros := [], epi := none, streams := [], buckets := [] }

/-- A job of context 0 with that descriptor. -/
def job0 : Job :=
  { ctx := 0, jobseq := 1, tag := 7, gen := 3, member := 0, desc := desc0, bucket := 0, progs := [], snaps := [], holds := []
    windows := [], params := ⟨[], [], [], []⟩, paramsRead := true, started := [], ended := [], fault := none, invalid := 0
    accSat := 0, ovfConv := 0, repeats := 0, maskedRows := 0, invFirst := none, oxb := [], preTok := [], maskedSeen := []
    via := none, peers := [], untaken := [], halted := false, haltSent := false }

def credit1 : SendCred := ⟨0, 1, 0, 0⟩

/-- The chunk stands at entry 16,383 of the send table, with or without credits. -/
def sending (sent : Bool) (creds : Tbl SendCred) : State :=
  { gportIn 4 with
    ctxs := [(0, ctx0)], jobs := [job0]
    prom := { (gportIn 4).prom with sends := [(16383, ent sent)], creds := creds } }

/-- The header that the chunk left with. -/
def sentHdr : BitVec 512 := sealHeader 416 (chunkHeader (sending true []) 16383 (ent true) 0 false false)

theorem witness_ChunksLeaveAndEnd :
    (let s := sending false [(1020, credit1)]
     Up s ∧ tget? s.prom.sends 16383 = some (ent false) ∧ (ent false).sent = false ∧
      (getLink s (ent false).port).state = 4 ∧ exposedPort s (ent false).port = false ∧
      sendBlocked s 16383 (ent false) = false ∧ creditFor s (ent false) = some (1020, credit1) ∧
      (getLink s (ent false).port).chunks = [] ∧
      (getLink s (ent false).port).retry.length < storeSize (getLink s (ent false).port) (.gport 3) (isPl2 s (.gport 3))) ∧
    creditFor (sending false []) (ent false) = none ∧
    (let s := sending true []
     let e := ent true
     Up s ∧ tget? s.prom.sends 16383 = some e ∧ e.sent = true ∧ e.kslot = none ∧ (∀ x ∈ s.prom.sends, x.1 < 16384) ∧
      findJob s e.ctx e.jobseq = some job0 ∧ (getCtx s e.ctx).state = .active ∧
      bits (BitVec.ofNat 128 16383).toNat 0 14 = 16383 ∧ bits (BitVec.ofNat 128 (16383 + 2 ^ 16)).toNat 16 8 = 1 ∧
      e.attempt < 2 ∧ bits (BitVec.ofNat 128 (16383 + 7 * 2 ^ 16)).toNat 16 8 = 7 ∧
      chStag sentHdr = 16383 ∧ chCtx sentHdr = e.ctx ∧ hcrcOk 416 sentHdr.toNat = true) := by decide +kernel

/-- Context 0 with landing entry 255: 4 KiB at the view's start, with flag 4,095. -/
def ctxL : Ctx :=
  { ctx0 with
    regions := [(0, ⟨0, 16, false, false, false, true⟩)]
    landing := [(255, ⟨0, 0, 0, 0, false, false, true, 1, 0, 4095, 0, 1⟩)] }

/-- Its window, 4,095, with one credit. -/
def winL (n : Nat) : Window :=
  { Window.closed0 with isOpen := true, wclass := 2, len4k := 1, credits := n, landing := some (0, 255), bufCred := [(0, n)] }

def landing (n : Nat) : State :=
  { gportIn 4 with ctxs := [(0, ctxL)], ter := { up.ter with windows := [(4095, winL n)] } }

/-- The header of a chunk of 8 B for it, from the instance of path 1. -/
def landHdr : BitVec 512 :=
  sealHeader 416 (3 + 7 * 2 ^ 16 + 0xFFFFFFFFFFFF * 2 ^ 32 + 1 * 2 ^ 192 + 255 * 2 ^ 332 + 4095 * 2 ^ 352)

def writer : LandWriter := ⟨landHdr, 0, 255, 0, 1, .gport 3, []⟩

/-- The chunk in flight. -/
def inFlight : State := { landing 0 with prom := { (landing 0).prom with landing := [writer] } }

theorem witness_ChunksArriveAndLand :
    hcrcOk 416 (landHdr ^^^ 1#512).toNat = false ∧
    (let s := landing 1
     Up s ∧ hcrcOk 416 landHdr.toNat = true ∧ chDupath landHdr = s.grove.upathSelf ∧
      ownerRepoch s (chCtx landHdr) (chRole landHdr) (chLid landHdr) = none ∧ mustBeSealed s (.gport 3) landHdr = false ∧
      s.prom.landing.find? (sameChunk landHdr) = none ∧ landCheck s (isPl2 s (.gport 3)) landHdr = none ∧ s.ter.access = []) ∧
    landCheck (landing 0) false landHdr = some stWINDOW_NOCREDIT ∧
    (let s := inFlight
     let data : List Byte := List.replicate 8 3
     let c := getCtx s (chCtx landHdr)
     let e := tget c.landing (chLid landHdr) Landing.absent
     s.prom.landing = [writer] ∧ writer.hdr = landHdr ∧ s.prom.landWait = [] ∧ s.ter.xwait = [] ∧ hf landHdr 8 1 = 0 ∧ hf landHdr 9 1 = 0 ∧ hf landHdr 11 1 = 0 ∧
      data.length = chLen landHdr ∧ e.place = 0 ∧ landAt s landHdr + data.length ≤ viewLen c.regions ∧
      (BitVec.ofNat 64 (crc64 data)).toNat = crc64 data ∧ e.flag0 + hf landHdr 296 16 % (e.flagnM1 + 1) < 4096 ∧
      (BitVec.ofNat 64 (crc64 data + 1)).toNat ≠ crc64 data ∧ hf landHdr 12 2 < 2) := by decide +kernel

/-- A handshake with the instance of path 1 at a step. -/
def shake (step : Nat) : Shake := ⟨step, 1, 0, 255, 0, 0, 0, [], [], []⟩

def shaking (step : Nat) : State :=
  { up with grove := { up.grove with upathSelf := 2 }, prom := { up.prom with shakes := [(1, shake step)] } }

/-- Whether an identity holds rests on signatures, which no one can evaluate, so KX2 and KX3 are witnessed up to it. -/
theorem witness_PathKeyHandshake :
    (let s : State := { up with grove := { up.grove with upathSelf := 2 } }
     Up s ∧ coreState s 0 = 0 ∧ s.prom.keys = [] ∧ s.prom.sends = [] ∧ initiates s 1 = false ∧ s.prom.shakes = [] ∧
      bits (0#1088).toNat 1024 8 = (if s.sys.testKeyUsed then 1 else 0)) ∧
    (∀ k ∈ [1, 2, 3], Up (shaking k) ∧ coreState (shaking k) 0 = 0 ∧ (shaking k).prom.keys = [] ∧
      (shaking k).prom.sends = [] ∧ (shaking k).prom.shakes = [((1#48).toNat, shake k)] ∧
      (shake k).sendSlot ≠ (shake k).recvSlot ∧ (shake k).step = k) ∧
    (let k : KeySlot := ⟨1, false, 0, 0, 0, true⟩
     k.peer = 1 ∧ k.send = false ∧ k.old = true) := by decide +kernel

/-- A peer whose image the test key signed, at an instance that no such image runs on, does not hold (R411). -/
theorem witness_PathKeyHandshake_refused (ch : List (List Byte)) (msg : List Byte) (sig : BitVec 768) :
    bits (1#1088 <<< 1024).toNat 1024 8 = 1 ∧
      ∃ r, identityBad (shaking 1) ch msg sig (bits (1#1088 <<< 1024).toNat 1024 8) = some r := by
  have h : bits (1#1088 <<< 1024).toNat 1024 8 = 1 := by decide +kernel
  have hs : (shaking 1).sys.testKeyUsed = false := rfl
  refine ⟨h, ?_⟩
  rw [h]
  unfold identityBad
  rw [hs]
  split
  · exact ⟨1, rfl⟩
  · split
    · exact ⟨2, rfl⟩
    · exact ⟨3, rfl⟩

/-- Lodge restarts. -/
theorem witness_PathKeyHandshake_waits :
    let s : State := { up with sys := { up.sys with coreSts := tset up.sys.coreSts 0 1 } }
    Up s ∧ coreState s 0 ≠ 0 := by decide +kernel

/-! Rings and records. -/

/-- A record of 8 units held by the ring of context 4,095, whose completion ring stands at these positions. -/
def holding (head tail : Nat) : State :=
  { up with ctxs := [(4095, { ctx0 with
      ring := { ringWith 0 with cqHead := head, cqTail := tail, ien := true, held := [⟨3, 1, 0, 7, 8, 0, none, none⟩] } })] }

theorem witness_DoorbellsRecordsAndVectors :
    (OutOfReset (holding 0 0) ∧ posDiff (bits (64#64).toNat 0 24) (getCtx (holding 0 0) 4095).ring.sqHead ≤ 2 ^ 6 ∧
      2 ^ 6 < posDiff (bits (65#64).toNat 0 24) (getCtx (holding 0 0) 4095).ring.sqHead) ∧
    (let s := holding 0 56
     let r := ringAt s 4095
     Up s ∧ MemoriesCanonical s ∧ NoneQuiescing s ∧ s.ter.lines = [] ∧ mboxCtx (.ctx 4095) = 4095 ∧
      r.held = [⟨3, 1, 0, 7, 8, 0, none, none⟩] ∧ 6 ≤ r.cqLog2 ∧ r.cqLog2 ≤ 16 ∧ r.cqTail < 2 ^ 24 ∧ r.cqTail % 2 ^ r.cqLog2 + 8 ≤ 2 ^ r.cqLog2 ∧
      posDiff r.cqTail r.cqHead + 8 ≤ 2 ^ r.cqLog2) ∧
    (let r := ringAt (holding 0xFFFFFF 56) 4095
     2 ^ r.cqLog2 < posDiff r.cqTail r.cqHead + 8) ∧
    (let s : State := { up with sys := { up.sys with irqPend := 1#1024 <<< 1023 } }
     s.sys.irqPend.getLsbD 1023 = true ∧ (∀ u < 1023, s.sys.irqPend.getLsbD u = false)) ∧
    up.sys.irqPend = 0 := by decide +kernel

/-- The record of a collective, in slot 63, and that of MODE_SET 3. -/
theorem witness_DoorbellsRecordsAndVectors_mode :
    (let x : CRec := ⟨3, 3, 0, 7, 8, 0, some 63, none⟩
     let s : State := { up with ctxs := [(4095, { ctx0 with ring := { ringWith 0 with held := [x] } })] }
     Up s ∧ MemoriesCanonical s ∧ NoneQuiescing s ∧ s.ter.lines = [] ∧ (ringAt s 4095).held = [x] ∧ x.slot = some 63) ∧
    (let x : CRec := { mkRec 3 4 0 7 (cmdBody 0x8E 0 0 0 0) with mode := some 3 }
     let s : State := { up with mgmt := { up.mgmt with ring := { ringWith 0 with held := [x] } } }
     let r := ringAt s mgmtCtx
     Up s ∧ MemoriesCanonical s ∧ NoneQuiescing s ∧ s.ter.lines = [] ∧ r.held = [x] ∧ 0 < x.units ∧ x.mode = some 3 ∧
      r.cqTail % 2 ^ r.cqLog2 + x.units ≤ 2 ^ r.cqLog2 ∧ posDiff r.cqTail r.cqHead + x.units ≤ 2 ^ r.cqLog2) := by
  decide +kernel

end Sys2Proof.Tests
end

