-- ==== Sys2Proof/Tests/WitnessBand.lean ====
section
/-!
SUPPORT. Witnesses for the statements about collectives.
-/
namespace Sys2Proof.Tests
set_option Elab.async false
open Sys2Proof.Machine Sys2Proof.Claims

/-- Communicator 1,023 of context 0: this instance at site 0 with rank 0, the instance of path 1 at site 1 with rank
1. -/
def comm2 : Comm := ⟨0, 2, 0, 0, [⟨2, 0, 0, 0, 0, 0⟩, ⟨1, 0, 0, 0, 0, 1⟩], 16, 2000, 0, 0, 0, 0⟩

/-- A descriptor (R301): an all-reduce of four FP32 values, SEQ 1, from stack memory to stack memory, its flag 4,095. -/
def collDesc : Nat :=
  1023 + 1 * 2 ^ 10 + 1 * 2 ^ 23 + 1 * 2 ^ 24 + 1 * 2 ^ 32 + 4 * 2 ^ 64 + 4095 * 2 ^ 112 + 0x20000000 * 2 ^ 192 +
    0x20001000 * 2 ^ 256

/-- Its slot, launched from context 0. -/
def slot0 : Slot := parseColl ⟨false, 0, 3, 0x20, 7, none⟩ 0 collDesc

/-- The two instances with a pool of 1 MiB, the communicator, and these slots. -/
def bandIn (slots : Tbl Slot) : State :=
  { gportTo1 with
    ctxs := [(0, ctx0)]
    band := { gportTo1.band with stkBase := 0x40000000, stkLen := 0x100000, comms := [(1023, comm2)], slots := slots } }

/-- A header of R323 from rank 1 to rank 0 for the slot's name, its payload of n + 1 bytes. -/
def bandHdr (kind stage n elem0 sig jcred : Nat) : BitVec 512 :=
  sealHeader 384 (3 + kind * 2 ^ 12 + stage * 2 ^ 16 + n * 2 ^ 32 + 1023 * 2 ^ 48 + 1 * 2 ^ 64 + 1 * 2 ^ 128 + elem0 * 2 ^ 160 +
    sig * 2 ^ 256 + jcred * 2 ^ 320)

/-! Communicators. -/

/-- The parameter block of COMM_CREATE for that communicator, its table at stack address 2000_0000h. -/
def commBlock : Nat := 1023 + 2 * 2 ^ 64 + 0 * 2 ^ 80 + 0x20000000 * 2 ^ 128 + 0x1FF * 2 ^ 192

def creating (tableOk : Bool) : State :=
  mgmtMsg 0x87 0x30000 (inHost 0x30000 28 commBlock
    (inStack 0x20000000 32 (2 + 2 ^ 128 + (if tableOk then 1 else 2 ^ 12) * 2 ^ 216)
      { gportTo1 with ctxs := [(0, ctx0)] }))

theorem witness_CommunicatorsAreSetUp :
    (let s := mgmtMsg 0x86 (131071 + 1 * 2 ^ 17 + 0x40000000 * 2 ^ 64 + 0x1000 * 2 ^ 128) up
     let h := hd s mgmtCtx
     let a := arg h 64 17 * 4096
     let n := arg h 81 18 * 4096
     Accepted s mgmtCtx 0x86 h ∧ a + n ≤ 2 ^ 29 ∧ meetsCached s a n = false ∧ s.ctxs = [] ∧
      arg h 128 64 + arg h 192 64 ≤ 2 ^ 56 ∧
      (∀ r ∈ privateRanges { s with band := { s.band with stkLen := 0 } },
        rangesMeet (arg h 128 64) (arg h 192 64) r.1 r.2 = false)) ∧
    (let s := mgmtMsg 0x86 (131071 + 2 * 2 ^ 17) up
     let h := hd s mgmtCtx
     Accepted s mgmtCtx 0x86 h ∧ 2 ^ 29 < arg h 64 17 * 4096 + arg h 81 18 * 4096) ∧
    (let s := mgmtMsg 0x88 1023 (bandIn [])
     Accepted s mgmtCtx 0x88 (hd s mgmtCtx) ∧ (getComm s (arg (hd s mgmtCtx) 64 10)).isSome = true ∧
      s.band.slots.any (fun e => e.2.cid == arg (hd s mgmtCtx) 64 10) = false) ∧
    (let s := mgmtMsg 0x88 1023 (bandIn [(63, slot0)])
     Accepted s mgmtCtx 0x88 (hd s mgmtCtx) ∧ (getComm s (arg (hd s mgmtCtx) 64 10)).isSome = true ∧
      s.band.slots.any (fun e => e.2.cid == arg (hd s mgmtCtx) 64 10) = true) ∧
    (let s := mgmtMsg 0x88 0 (bandIn [])
     Accepted s mgmtCtx 0x88 (hd s mgmtCtx) ∧ getComm s (arg (hd s mgmtCtx) 64 10) = none) := by decide +kernel

/-- Whether COMM_CREATE's table is refused, once block and table are read. -/
def commVerdict (s : State) : Option Bool :=
  let h := hd s mgmtCtx
  match readPblk 0 true (arg h 64 64) [10, 32, 16, 15, 12, 64, 9, 16] s with
  | (_, .error _) => none
  | (s1, .ok v) =>
    let g (k : Nat) : Nat := v.getD k 0
    match fetchMem s1 0 true 0 (g 5) (16 * Nat.min (g 2) 32768) with
    | (_, none) => none
    | (s2, some bs) => some (commBad s2 (g 0) (g 2) (g 3) (g 4) (g 6) (leWords 16 (Nat.min (g 2) 32768) bs))

theorem witness_CommunicatorsAreSetUp_create :
    (Accepted (creating true) mgmtCtx 0x87 (hd (creating true) mgmtCtx) ∧ commVerdict (creating true) = some false) ∧
    (Accepted (creating false) mgmtCtx 0x87 (hd (creating false) mgmtCtx) ∧ commVerdict (creating false) = some true) := by
  decide +kernel

/-! Launches and ends. -/

/-- COLL_LAUNCH with a descriptor at host address 3_0000h. -/
def launches (d : Nat) : State :=
  inHost 0x10000 64 (msg3 0x20 0x30000) (inHost 0x30000 64 d (bandIn []))

/-- The verdict of R303 on it. -/
def launchVerdict (s : State) : Option (Except Nat Comm) :=
  let h := hd s 0
  match readSrc 0 (arg h 64 64) 64 s with
  | (_, none) => none
  | (s1, some bs) =>
    let d := leNat bs
    let t0 := parseColl (waiterOf 0 h.msg) 0 d
    let x := match getComm s1 t0.cid with
      | some m => { t0 with direct := decide (m.treeMax * 4096 < t0.size m.nmemb) && t0.dlmode == 0 }
      | none => t0
    some (launchCheck s1 (waiterOf 0 h.msg) 0 d x)

/-- A slot of that collective that waits for its sites' deadline. -/
def slotD : Slot := { slot0 with dlmode := 1, redop := 1, auxOut := 0x20002000 }

theorem witness_CollectivesAreLaunchedAndEnd :
    (let s := launches collDesc
     Accepted s 0 0x20 (hd s 0) ∧ (launchVerdict s).any (fun r => okIs r comm2) = true) ∧
    (let s := launches (collDesc - 2 ^ 10)
     Accepted s 0 0x20 (hd s 0) ∧ (launchVerdict s).any (fun r => failIs r stBAD_COLL) = true) ∧
    (let s := ctxMsg ctx0 0x21 1023 (bandIn [])
     Accepted s 0 0x21 (hd s 0) ∧ getComm s (arg (hd s 0) 64 10) = some comm2 ∧ comm2.ctx = 0) ∧
    (let s := ctxMsg ctx0 0x21 1022 (bandIn [])
     Accepted s 0 0x21 (hd s 0) ∧ getComm s (arg (hd s 0) 64 10) = none) ∧
    (let s := bandIn [(63, slotD)]
     Up s ∧ liveSlot s 63 = some (slotD, comm2) ∧ deadlineAt slotD 4 = true ∧ s.band.slots = [(63, slotD)] ∧ s.pending = []) ∧
    (∀ st ∈ [0, 0x2005],
      let x : Slot := { slot0 with ended := some st, txDig := [⟨1, 4, 0, 5⟩] }
      let s := bandIn [(63, x)]
      Up s ∧ NoneQuiescing s ∧ s.band.slots.filter (fun e => e.2.cid == 1023) = [(63, x)] ∧ getComm s 1023 = some comm2 ∧
        x.folded = false ∧ x.waiter.via = none ∧ x.waiter.mgmt = false ∧ x.waiter.ctx < 4096) := by decide +kernel

theorem witness_CollectiveMessagesAreObeyed :
    (let s := bandIn [(63, slotD)]
     let hdr := bandHdr 0 4 0 stPEER_ABORT (signature slotD 0).toNat 16
     BandNamed s hdr comm2 63 slotD ∧ bhSig hdr = signature slotD comm2.cepoch ∧ tget? slotD.maps (bhStage hdr) = none ∧
      deadlineAt slotD (bhStage hdr) = true) ∧
    (let hdr := bandHdr 0 4 0 0 0 16
     BandNamed (bandIn [(63, slotD)]) hdr comm2 63 slotD ∧ bhSig hdr ≠ signature slotD comm2.cepoch) ∧
    (let s := bandIn []
     let hdr := bandHdr 0 4 0 0 0 16
     Up s ∧ hcrcOk 384 hdr.toNat = true ∧ getComm s (bhCid hdr) = some comm2 ∧ hf hdr 144 15 = comm2.myrank ∧
      comm2.cepoch = bhEpoch hdr ∧ slotOf s (bhCid hdr) (bhSeq hdr) = none ∧ comm2.lastSeq < bhSeq hdr ∧
      s.band.pend.length < 4096) ∧
    (let x : Slot := { slot0 with busy := [1] }
     let s := bandIn [(63, x)]
     Up s ∧ liveSlot s 63 = some (x, comm2) ∧ 1 ∈ x.busy ∧
      (routeOf s (((comm2.members[1]?).map (·.upath)).getD 0)).isSome = true ∧ (∀ b ∈ x.owed, b.dst ≠ 1)) := by decide +kernel

/-! Data. -/

/-- The stream of a chunk of these bytes. -/
def streamOf (bs : List Byte) : List Byte := bs ++ leBytes 8 (crc64 bs)

/-- Four ones. -/
def ones4 : List Byte := (List.range 4).flatMap (fun _ => leBytes 4 0x3F800000)

theorem witness_CollectiveDataMoves_chunks :
    (let s := bandIn [(63, slot0)]
     let hdr := bandHdr 1 4 15 0 (signature slot0 0).toNat 0
     BandNamed s hdr comm2 63 slot0 ∧ opReduces slot0.op = true ∧ hf hdr 9 1 = 0 ∧
      okIs (openBand s (.gport 3) 1 hdr false (streamOf ones4)) (ones4, []) = true ∧
      resultEmpty comm2 hdr slot0 = false ∧ bhSig hdr = signature slot0 comm2.cepoch) ∧
    (let s := bandIn [(63, slotD)]
     let hdr := bandHdr 7 4 7 0 0 0
     BandNamed s hdr comm2 63 slotD ∧ bhStage hdr = 4 ∧ takesPart comm2.members 4 comm2.myrank = true ∧
      okIs (openBand s (.gport 3) 1 hdr false (streamOf (leBytes 8 1))) (leBytes 8 1, []) = true) ∧
    (let x : Slot := { slot0 with fails := [(1, 4, 0), (1, 4, 0)] }
     let s := bandIn [(63, x)]
     let hdr := bandHdr 1 4 15 0 0 0
     BandNamed s hdr comm2 63 x ∧ failIs (openBand s (.gport 3) 1 hdr false (zeroBytes 15 ++ [1] ++ zeroBytes 8)) 1 = true ∧
      opReduces x.op = true ∧ 2 ≤ (x.fails.filter (· == (bhSrank hdr, bhStage hdr, bhChidx hdr))).length) := by decide +kernel

/-- The slot when rank 1 has joined with 16 credits, the flag of its first source chunk set. -/
def slotJ : Slot := { slot0 with joined := [1], credits := [(1, 16)], swait := true, sflag0 := 4095 }

/-- Its state, the source holding four ones. -/
def reading : State :=
  inStack 0x20000000 16 (leNat ones4)
    { bandIn [(63, slotJ)] with ctxs := [(0, { ctx0 with flags := 1#4096 <<< 4095 })] }

/-- Both ranks' values at the tree's root, in staging. -/
def slotR : Slot := { slotJ with rootDone := true, staged := [⟨0, 1, 0, [.fin 0, .fin 1, .inf true, .nan 3]⟩] }

theorem witness_CollectiveDataMoves :
    (let s := reading
     let m := slotJ.srcElems comm2.nmemb comm2.myrank
     let sp := slotJ.chunkSpan m 0
     let to_ := (if srcPrefix slotJ != 0 then firstPeers comm2 slotJ else (piecesOf comm2 slotJ [] sp.1 sp.2).map (·.dst)).filter
       (· != comm2.myrank)
     Up s ∧ liveSlot s 63 = some (slotJ, comm2) ∧ 0 < slotJ.chunksOf m ∧ 0 ∉ slotJ.srcRead ∧
      (getCtx s slotJ.ctx).flags.getLsbD (slotJ.sflag0 + 0 % slotJ.nflag) = true ∧
      readCounts 63 slotJ comm2 s = (s, some []) ∧ (∀ q ∈ to_, q ∈ slotJ.joined) ∧ to_.length = 1 ∧
      keysReady s comm2 to_ = true ∧ (routeOf s 1).isSome = true ∧ exposedPeer s 1 = false ∧
      (bandRead slotJ.ctx slotJ.srcSpace (slotJ.src + sp.1 * 4) (sp.2 * 4) s).2 = .got ones4) ∧
    (let x : Slot := { slotJ with staged := [⟨0, 0, 0, [.fin 1]⟩, ⟨1, 1, 0, [.fin 2]⟩], count := 1 }
     let s := bandIn [(63, x)]
     Up s ∧ liveSlot s 63 = some (x, comm2) ∧ x.straight = false ∧ opReduces x.op = true ∧
      keysReady s comm2 (partners comm2 x) = true ∧ takesPart comm2.members 4 comm2.myrank = true ∧
      stageVerified comm2 x 4 = true ∧ 0 ∈ unitsAt comm2 x 4 ∧
      (stageResult comm2 x 4 (x.chunkSpan (x.space comm2.nmemb) 0).1 (x.chunkSpan (x.space comm2.nmemb) 0).2).isSome = true) ∧
    (let x := slotR
     let s := bandIn [(63, x)]
     let m := x.dstElems comm2.nmemb comm2.myrank
     let sp := x.chunkSpan m 0
     let a := x.dst + sp.1 * 4
     Up s ∧ liveSlot s 63 = some (x, comm2) ∧ 0 < x.chunksOf m ∧ 0 ∉ x.written ∧ x.rootDone = true ∧ x.due = false ∧
      bandFree s x.ctx x.dstSpace a (sp.2 * 4) = true ∧ (outputEls comm2 x sp.1 sp.2).isSome = true ∧
      (bandWrite x.ctx x.dstSpace a (((outputEls comm2 x sp.1 sp.2).getD []).flatMap (fun e => leBytes 4 e.code)) s).2 = true ∧
      x.flag0 + 0 % x.nflag < 4096) := by decide +kernel

/-- What the clause on a source read by conditions alone asks of the first chunk of slot 63. -/
def sourceStands (s : State) (x : Slot) (cnts : List Int) (bs : List Byte) : Bool :=
  let sp := x.chunkSpan (x.srcElems comm2.nmemb comm2.myrank) 0
  let a := x.src + sp.1 * 4
  let n := sp.2 * 4
  let rs := (getCtx s x.ctx).regions
  decide (Up s ∧ liveSlot s 63 = some (x, comm2)) &&
    decide ((x.op ≠ opAllToAll ∧ cnts = []) ∨ (x.op = opAllToAll ∧ x.sendCounts = some cnts)) &&
    (if x.srcSpace = 0 then !tableBusy s false (partLines (viewParts rs a n)) && decide (a + n ≤ viewLen rs) &&
        s.ter.unfilled.isEmpty && s.ter.poison.isEmpty && s.ter.flips.isEmpty && bs == partBytes s.ter.mem (viewParts rs a n)
      else !extDenied s x.ctx 0 a n && (extPoisonIn s 0 a n).isEmpty && bs == extPeek s 0 a n)

/-- The same from the bottom of the Terrace, and to it. -/
def slotT : Slot := { slotJ with swait := false, srcSpace := 0, src := 0, dstSpace := 0, dst := 4096, rootDone := true }

/-- An all-to-all of four elements to each rank, whose counts are read. -/
def slotA : Slot := { slotT with op := opAllToAll, scap := 4, sendCounts := some [4, 4] }

def inTerrace (x : Slot) : State :=
  { bandIn [(63, x)] with ctxs := [(0, { ctx0 with regions := [(0, ⟨0, 16, false, false, false, false⟩)] })] }

theorem witness_CollectiveDataMoves_stands :
    (sourceStands reading slotJ [] ones4 && sourceStands (inTerrace slotT) slotT [] (zeroBytes 16) &&
      sourceStands (inTerrace slotA) slotA [4, 4] (zeroBytes 32)) = true := by decide +kernel

/-- An output chunk in the Terrace, which the access tables take or which stands in them. -/
theorem witness_CollectiveDataMoves_output :
    (let x : Slot := { slotT with staged := slotR.staged }
     let s := inTerrace x
     let sp := x.chunkSpan (x.dstElems comm2.nmemb comm2.myrank) 0
     Up s ∧ liveSlot s 63 = some (x, comm2) ∧ x.dstSpace = 0 ∧ (outputEls comm2 x sp.1 sp.2).isSome = true ∧
      bandFree s x.ctx x.dstSpace (x.dst + sp.1 * 4) (sp.2 * 4) = true) ∧
    (let x : Slot := { slotT with staged := slotR.staged, outOpen := [(0, [(16, 1)])] }
     let s := { inTerrace x with ter := { up.ter with access := [⟨2, true, false, 16, 1⟩] } }
     let sp := x.chunkSpan (x.dstElems comm2.nmemb comm2.myrank) 0
     liveSlot s 63 = some (x, comm2) ∧ (tget? x.outOpen 0).isSome = true ∧
      bandFree s x.ctx x.dstSpace (x.dst + sp.1 * 4) (sp.2 * 4) = false) ∧
    (let x := slotR
     let sp := x.chunkSpan (x.dstElems comm2.nmemb comm2.myrank) 0
     extDenied (bandIn [(63, x)]) x.ctx 0 (x.dst + sp.1 * 4)
      (((outputEls comm2 x sp.1 sp.2).getD []).flatMap (fun e => leBytes 4 e.code)).length = false) := by decide +kernel

/-- A band of time while a collective runs (R316, R328). -/
theorem witness_IdleStepCountsTime_slots :
    let s := bandIn [(63, slot0)]
    s.pending = [] ∧ OutOfReset s ∧ Up s ∧ s.band.slots ≠ [] := by decide +kernel

end Sys2Proof.Tests
end

