-- ==== Sys2Proof/Tests/WitnessControl.lean ====
section
/-!
SUPPORT. Witnesses: for each statement about registers, power, contexts, ports and reset, states and operands that meet its
hypotheses, one for each of its clauses. Where a statement splits on a value that no one can evaluate (a signature, a hash), its
two cases together leave nothing out and neither has a witness.
-/
namespace Sys2Proof.Tests
set_option Elab.async false
open Sys2Proof.Machine Sys2Proof.Claims

theorem witness_IdleStepCountsTime :
    (up.pending = [] ∧ OutOfReset up) ∧ (State.reset.pending = [] ∧ ¬ OutOfReset State.reset) := by decide +kernel

def destroyed : State := { up with sys := { up.sys with phase := .destroyed } }

theorem witness_ResetAndTestGateCommands : State.reset.sys.phase = .inReset ∧ destroyed.sys.phase = .destroyed := by
  decide +kernel

theorem witness_NoCommandChangesQueue : exec .idcode up = .next { up with
    jtag := { up.jtag with instrReg := irIdcode, wrapperOn := false, netOn := false, dr := 0x30A3D1EF },
    out := up.out ++ [.tdo 0x30A3D1EF] } := rfl

theorem witness_PowerAndLinksLeaveTheRest :
    exec (.temp 3) up = .next { up with out := up.out ++ [.pword (tempWord up 3)] } ∧
      (∃ p, getLink up (.path p) ≠ getLink (writePathCfg p 0x11 0xFF up) (.path p)) ∧
      exec (.pathEnable 0 0x11 0xFF) up = .next (effect (writePathCfg 0 0x11 0xFF) up) :=
  ⟨rfl, ⟨0, by decide +kernel⟩, rfl⟩

theorem witness_EveryStepKeepsMemoriesCanonical : MemoriesCanonical up ∧ step up = .next (quietTclk up) := ⟨by decide +kernel, rfl⟩

theorem witness_MemoryWordsAreWrittenAndAdded :
    Mem.wf [(5, 1), (9, 2)] = true ∧ Mem.wf Terrace.empty.mem = true ∧
    ({ Terrace.empty with poison := [3] }).poison.contains 3 = true ∧
    (Terrace.empty.poison.contains 3 = false ∧ tget Terrace.empty.tags 3 0 = 0 ∧ (⟨1, 0⟩ : AEl).tag = 0 ∧
      (⟨2, 3⟩ : AEl).tag ≠ 0) := by decide +kernel

/-- Bring-up mode. -/
def bringUp : State := { up with sys := { up.sys with mode := 1 } }

/-- The firmware range stands at 8 MiB. -/
def fwAt8 : State := { up with sys := { up.sys with fwBase := 8 } }

theorem witness_RegisterRowsWriteTheirRegister :
    OutOfReset up ∧ (State.reset.mgmt.en = false ∧ (0x400#64).getLsbD 10 = true) ∧
    (anyContext { up with ctxs := [(4095, ctx0)] } = true) ∧
    (anyContext fwAt8 = false ∧ OutOfReset fwAt8 ∧
      ∀ r ∈ privateRanges { fwAt8 with sys := { fwAt8.sys with ctxswLo := 0, ctxswHi := 0 } },
      rangesMeet (bits fwAt8.sys.ctxswHi.toNat 0 52 * 4096) (bits (0x10000#64).toNat 16 9 * 0x200000) r.1 r.2 = false) ∧
    (bringUp.sys.mode = 1 ∧ (1#64).getLsbD 0 = true ∧ bringUp.trace.cfg.getLsbD 0 = false) ∧
    (up.sys.mode ≠ 1 ∧ up.sys.mode ≠ 2) ∧ up.sys.cesSel < 4096 := by decide +kernel

theorem witness_FlippedBitsAreCorrected :
    (OutOfReset bringUp ∧ bringUp.sys.mode = 1 ∧
      ({ bringUp with ter := { bringUp.ter with flips := [(0, 1)] } }).ter.flips = [(bringUp.ter.dbgAddr / 8, 1)]) ∧
    (up.sys.mode ≠ 1 ∧ up.sys.mode ≠ 2) ∧ Up up ∧
    (wordIn (bankLine 15 63 2047) 256 (bankLine 15 63 2047 / 8) = true) := by decide +kernel

/-- A path with EN 1. -/
def pathOn : State := { up with prom := { up.prom with paths := [(3, { Link.down with cfg := 1, state := 1 })] } }

theorem witness_PathRegistersStartAndStopPaths :
    OutOfReset up ∧ ((getLink up (.path 3)).en = false ∧ (1#64).getLsbD 0 = true ∧
      cfgBad up 3 { getLink up (.path 3) with cfg := writeFields pathFields (getLink up (.path 3)).cfg 1 0xFF } = false) ∧
    (cfgBad up 3 { getLink up (.path 3) with cfg := writeFields pathFields (getLink up (.path 3)).cfg 0x701 0xFF } = true) ∧
    ((getLink pathOn (.path 3)).en = true ∧ (0#64).getLsbD 0 = false) := by decide +kernel

theorem witness_PortWordsSetBudgetMeasureAndClock :
    OutOfReset up ∧ bits (0x1#64).toNat 0 4 = 1 ∧ bits (0x2#64).toNat 0 4 = 2 ∧ bits (0x3#64).toNat 0 4 = 3 ∧
    bits (0xF#64).toNat 0 4 ≠ 1 ∧ bits (0xF#64).toNat 0 4 ≠ 2 ∧ bits (0xF#64).toNat 0 4 ≠ 3 ∧
    up.power.aclkChg = false ∧ Up up ∧ ({ up with power := { up.power with aclkChg := true } }).power.aclkChg = true := by
  decide +kernel

/-- Core 1 restarts. -/
def pumpRestarts : State := { up with sys := { up.sys with coreSts := tset up.sys.coreSts 1 1 } }

theorem witness_PortWordsSetBudgetMeasureAndClock_waits :
    OutOfReset pumpRestarts ∧ bits (0x1#64).toNat 0 4 = 1 ∧ coreState pumpRestarts 1 ≠ 0 ∧ coreState up 1 = 0 := by
  decide +kernel

theorem witness_PortWordsSent :
    OutOfReset up ∧ coreState up 1 = 0 ∧ (coreState pumpRestarts 1 = 1 ∧ OutOfReset pumpRestarts ∧
      pumpRestarts.power.fcstHi < 4096 ∧ pumpRestarts.power.fcstExp < 4096 ∧ pumpRestarts.power.fcstLo < 4096) := by
  decide +kernel

/-- Pavilion 15 asks for class 3 under a budget of 4,095 A. -/
def wantsLeave : State :=
  { up with power := { up.power with noBudget := false, pBudget := 4095, pCap := 4095 }
            pavs := [(15, { Pav.empty with leaveReq := 3 })] }

/-- The same with a budget of 0. -/
def noRoom : State := { wantsLeave with power := { wantsLeave.power with allowance := 0 } }

theorem witness_LeaveIsGrantedWithinBudget :
    (Up up ∧ up.power.noBudget = true) ∧
    (Up wantsLeave ∧ wantsLeave.power.noBudget = false ∧ wantsLeave.power.trip = false ∧
      grantedAccount wantsLeave ≤ effBudget wantsLeave ∧ (getPav wantsLeave 15).leave < (getPav wantsLeave 15).leaveReq ∧
      (account wantsLeave + (classCost wantsLeave 3 - classCost wantsLeave (accountClass wantsLeave 15)) ≤ effBudget wantsLeave) ∧
      20 * (classCost wantsLeave 3 - classCost wantsLeave (accountClass wantsLeave 15)) ≤ wantsLeave.power.allowance) ∧
    (noRoom.power.allowance < 20 * (classCost noRoom 3 - classCost noRoom (accountClass noRoom 15)) ∧
      grantedAccount noRoom ≤ effBudget noRoom) := by decide +kernel

theorem witness_LeaveIsGrantedWithinBudget_alone (q : Nat) (h : q ≠ 15) :
    (getPav wantsLeave q).leaveReq ≤ (getPav wantsLeave q).leave := by
  have hq : (q == 15) = false := by simpa using h
  simp [getPav, tget, wantsLeave, List.lookup, hq, Pav.empty]

def sensor (code : Nat) : State := { up with power := { up.power with temps := [(23, BitVec.ofNat 13 code)] } }

/-- Throttled to 1 A of 2 A, every reading at 0 °C. -/
def throttled : State :=
  { up with power := { up.power with throttle := true, working := some 100, pBudget := 2, noBudget := false } }

theorem witness_LoopsAndSensorsLimitPower :
    (OutOfReset (sensor 400) ∧ coreState (sensor 400) 1 = 0 ∧
      ∃ x ∈ allTemps (sensor 400), 4 * ((sensor 400).power.throttleC : Int) ≤ x) ∧
    (coreState throttled 1 = 0 ∧ throttled.power.throttle = true ∧
      (∀ x ∈ allTemps throttled, x < 4 * (throttled.power.throttleC : Int) - 12) ∧ throttled.power.working.getD 0 < 200) ∧
    coreState pumpRestarts 1 ≠ 0 ∧
    (({ up with power := { up.power with noBudget := false } }).power.noBudget = false ∧ up.power.throttle = false) ∧
    (4 * (tripLimit up : Int) ≤ (BitVec.ofNat 12 (4 * tripLimit up)).toInt) ∧
    (2 ≤ tget ({ up with power := { up.power with badRun := [(0, 2)] } }).power.badRun 0 0) := by decide +kernel

theorem witness_CoresRestart :
    (Up up ∧ coreState up 18 = 0 ∧ coreState up 0 = 0 ∧ up.sys.coreWait = []) ∧
    (coreState pumpRestarts 1 = 1 ∧ 0 < 1) ∧
    (let s := mgmtMsg 0x8F 18 up
     Accepted s mgmtCtx 0x8F (hd s mgmtCtx) ∧ arg (hd s mgmtCtx) 64 5 = 18 ∧ coreState s 18 = 0 ∧ coreState s 0 = 0) ∧
    (let s := mgmtMsg 0x8F 1 pumpRestarts
     Accepted s mgmtCtx 0x8F (hd s mgmtCtx) ∧ coreState s (arg (hd s mgmtCtx) 64 5) = 1) ∧
    (let s := mgmtMsg 0x8F 19 up
     Accepted s mgmtCtx 0x8F (hd s mgmtCtx) ∧ 19 ≤ arg (hd s mgmtCtx) 64 5) := by decide +kernel

/-! Attachments and contexts. -/

/-- ATTACH of major 3 where no host is attached. -/
def attaches : State := mgmtMsg 0x80 3 { up with mgmt := { up.mgmt with mdbState := 0 } }

/-- DETACH with context 4,095 of this attachment halted. -/
def detaches : State := mgmtMsg 0x81 0 { up with ctxs := [(4095, { ctx0 with state := .halted })] }

theorem witness_AttachmentsBeginAndEnd :
    (Accepted attaches mgmtCtx 0x80 (hd attaches mgmtCtx) ∧ attaches.mgmt.mdbState ≠ 1 ∧ bindsHost attaches = true ∧
      versionBad attaches (arg (hd attaches mgmtCtx) 64 8) = false) ∧
    (let s := mgmtMsg 0x80 3 up
     Accepted s mgmtCtx 0x80 (hd s mgmtCtx) ∧ s.mgmt.mdbState = 1) ∧
    (Accepted detaches mgmtCtx 0x81 (hd detaches mgmtCtx) ∧
      ∃ e ∈ detaches.ctxs, e.2.state = .halted ∧ e.2.bound = detaches.mgmt.attachNo) ∧
    (let s : State := { up with mgmt := { up.mgmt with hbAt := 5 } }
     Up s ∧ s.mgmt.mdbState = 1 ∧ s.mgmt.hbAt ≠ s.sys.time) ∧
    (Up up ∧ up.mgmt.mdbState = 1 ∧ up.mgmt.hbAt = up.sys.time) := by decide +kernel

/-- CTX_CREATE of any free context (CTX_REQ 1000h) with rings of 64 units. -/
def creates : State :=
  mgmtMsg 0x82 (0x1000 + 6 * 2 ^ 24 + 6 * 2 ^ 29 + 3 * 2 ^ 40 + 0x100000 * 2 ^ 64 + 0x200000 * 2 ^ 128) up

/-- An orphaned context 7 with token 9. -/
def orphan7 : Ctx := { ctx0 with state := .orphan, token := 9, haltPending := true }

def reattaches (c tok : Nat) : State := mgmtMsg 0x84 (c + tok * 2 ^ 64) { up with ctxs := [(7, orphan7)] }

theorem witness_ContextsAreCreatedAndReattached :
    (let h := hd creates mgmtCtx
     Accepted creates mgmtCtx 0x82 h ∧ h.msg.bits.getLsbD 77 = false ∧ versionBad creates (arg h 104 8) = false ∧
      ringsBad (arg h 128 64) (arg h 192 64) (arg h 88 5) (arg h 93 5) = false ∧ arg h 64 13 ≤ 0x1000 ∧
      (pickCtx creates (arg h 64 13)).isSome = true) ∧
    (let s := reattaches 7 9
     let h := hd s mgmtCtx
     Accepted s mgmtCtx 0x84 h ∧ (getCtx s (arg h 64 12)).state = .orphan ∧
      (getCtx s (arg h 64 12)).token.toNat = arg h 128 64 ∧ newRings h.msg = none) ∧
    (let s := reattaches 7 8
     let h := hd s mgmtCtx
     Accepted s mgmtCtx 0x84 h ∧ (getCtx s (arg h 64 12)).state = .orphan ∧
      (getCtx s (arg h 64 12)).token.toNat ≠ arg h 128 64) ∧
    (let s := reattaches 4095 9
     let h := hd s mgmtCtx
     Accepted s mgmtCtx 0x84 h ∧ (getCtx s (arg h 64 12)).state ≠ .orphan) := by decide +kernel

/-- Nothing that context c holds keeps it. -/
abbrev holdsNothing (s : State) (c : Nat) : Prop :=
  (getCtx s c).grove = false ∧ (getCtx s c).altWait = none ∧ (getCtx s c).regions = [] ∧ (getCtx s c).seqN = 0 ∧
    (getCtx s c).ring.held = [] ∧ s.jobs = [] ∧ s.band.slots = [] ∧ s.ter.windows = [] ∧ s.grove.fwd = [] ∧
    s.alt.configured = false

theorem witness_IdleContextIsFreed :
    (let s := mgmtMsg 0x83 4095 { up with ctxs := [(4095, ctx0)] }
     holdsNothing s 4095 ∧ Accepted s mgmtCtx 0x83 (hd s mgmtCtx) ∧ arg (hd s mgmtCtx) 64 12 = 4095 ∧
      (getCtx s 4095).state = .active) ∧
    (let s : State := { up with ctxs := [(7, orphan7)] }
     holdsNothing s 7 ∧ Up s ∧ (getCtx s 7).state = .orphan ∧ (getCtx s 8).state ≠ .orphan) := by decide +kernel

/-- Bring-up mode, with an image in force that the test key signed. -/
def testKeyed : State := { bringUp with sys := { bringUp.sys with testKeyUsed := true } }

theorem witness_ManagementMessagesAnswer :
    (let s := mgmtMsg 0x8E 3 bringUp
     Accepted s mgmtCtx 0x8E (hd s mgmtCtx) ∧ arg (hd s mgmtCtx) 64 3 < 4 ∧ s.sys.mode = 1 ∧ anyContext s = false ∧
      s.sys.testKeyUsed = false) ∧
    (let s := mgmtMsg 0x8E 2 testKeyed
     Accepted s mgmtCtx 0x8E (hd s mgmtCtx) ∧ s.sys.mode = 1 ∧ anyContext s = false ∧ s.sys.testKeyUsed = true ∧
      arg (hd s mgmtCtx) 64 3 = 2) ∧
    (let s := mgmtMsg 0x8E 3 testKeyed
     Accepted s mgmtCtx 0x8E (hd s mgmtCtx) ∧ s.sys.testKeyUsed = true ∧ arg (hd s mgmtCtx) 64 3 = 3) ∧
    (let s := mgmtMsg 0x8E 4 bringUp
     Accepted s mgmtCtx 0x8E (hd s mgmtCtx) ∧ 4 ≤ arg (hd s mgmtCtx) 64 3) ∧
    (let s := mgmtMsg 0x8E 0 up
     Accepted s mgmtCtx 0x8E (hd s mgmtCtx) ∧ arg (hd s mgmtCtx) 64 3 < 4 ∧ s.sys.mode ≠ 1) := by decide +kernel

theorem witness_ManagementMessagesAnswer_registers :
    (let s := mgmtMsg 0x90 0x4000 up
     Accepted s mgmtCtx 0x90 (hd s mgmtCtx) ∧ mregBad s (arg (hd s mgmtCtx) 64 22) = none) ∧
    (let s := mgmtMsg 0x90 0x100108 bringUp
     Accepted s mgmtCtx 0x90 (hd s mgmtCtx) ∧ mregBad s (arg (hd s mgmtCtx) 64 22) = none) ∧
    (let s := mgmtMsg 0x91 0x4008 up
     Accepted s mgmtCtx 0x91 (hd s mgmtCtx) ∧ mregBad s (arg (hd s mgmtCtx) 64 22) = none) ∧
    (let s := mgmtMsg 0x90 0x1FF8 up
     Accepted s mgmtCtx 0x90 (hd s mgmtCtx) ∧ arg (hd s mgmtCtx) 64 22 % 8 = 0 ∧ 0x1000 ≤ arg (hd s mgmtCtx) 64 22 ∧
      arg (hd s mgmtCtx) 64 22 < 0x2000 ∧ mregBad s (arg (hd s mgmtCtx) 64 22) = some 0x2002) ∧
    (let s := mgmtMsg 0x91 0x100000 up
     Accepted s mgmtCtx 0x91 (hd s mgmtCtx) ∧ s.sys.mode ≠ 1 ∧ s.sys.mode ≠ 2 ∧ 0x100000 ≤ arg (hd s mgmtCtx) 64 22 ∧
      mregBad s (arg (hd s mgmtCtx) 64 22) = some 0x1008) := by decide +kernel

theorem witness_ManagementMessagesAnswer_spdm :
    (let s := mgmtMsg 0x92 (0x30000 + 4 * 2 ^ 64 + 4096 * 2 ^ 80) up
     let h := hd s mgmtCtx
     Accepted s mgmtCtx 0x92 h ∧ coreState s 0 = 0 ∧ 4 ≤ arg h 128 16 ∧ arg h 128 16 ≤ 4096 ∧ 4096 ≤ arg h 144 16 ∧
      extPoisonIn s 1 (arg h 64 64) (arg h 128 16) = [] ∧ s.ter.lines = [] ∧ MemoriesCanonical s) ∧
    (let s := mgmtMsg 0x92 (0x30000 + 3 * 2 ^ 64 + 4096 * 2 ^ 80) up
     let h := hd s mgmtCtx
     Accepted s mgmtCtx 0x92 h ∧ coreState s 0 = 0 ∧ arg h 128 16 < 4 ∧ extPoisonIn s 1 (arg h 64 64) (arg h 128 16) = []) ∧
    (let s := mgmtMsg 0x92 (0x30000 + 4097 * 2 ^ 64 + 4096 * 2 ^ 80) up
     let h := hd s mgmtCtx
     Accepted s mgmtCtx 0x92 h ∧ 4096 < arg h 128 16 ∧ extPoisonIn s 1 (arg h 64 64) (arg h 128 16) = []) ∧
    (let s := mgmtMsg 0x92 (0x30000 + 4 * 2 ^ 64 + 4095 * 2 ^ 80) up
     let h := hd s mgmtCtx
     Accepted s mgmtCtx 0x92 h ∧ arg h 144 16 < 4096 ∧ extPoisonIn s 1 (arg h 64 64) (arg h 128 16) = []) ∧
    (let s := mgmtMsg 0x92 (0x30000 + 4 * 2 ^ 64 + 4096 * 2 ^ 80) { up with ext := { up.ext with hostPoison := [0x6000] } }
     let h := hd s mgmtCtx
     Accepted s mgmtCtx 0x92 h ∧ coreState s 0 = 0 ∧ extPoisonIn s 1 (arg h 64 64) (arg h 128 16) ≠ []) ∧
    (let s := mgmtMsg 0x92 0 { up with sys := { up.sys with coreSts := tset up.sys.coreSts 0 1 } }
     Accepted s mgmtCtx 0x92 (hd s mgmtCtx) ∧ coreState s 0 ≠ 0) := by decide +kernel

end Sys2Proof.Tests
end

