-- ==== Sys2Proof/Tests/WitnessGroves.lean ====
section
/-!
SUPPORT. Witnesses for the statements about groves. The clause of FormationMessagesAreObeyed on a verified GCONF has its
premises but for the signature, which rests on a function without a value.
-/
namespace Sys2Proof.Tests
set_option Elab.async false
open Sys2Proof.Machine Sys2Proof.Claims

/-- Instances 0 and 1 of a grove of the outermost level. -/
def inst0 : UPath := 0x00FFFFFFFFFF
def inst1 : UPath := 0x01FFFFFFFFFF

/-- A table entry (R333): an eligible instance. -/
def instEntry (i : Nat) : Nat := i * 2 ^ 40 + 0xFFFFFFFFFF + 1 * 2 ^ 49 + 1 * 2 ^ 64

/-- The two instances' table. -/
def table01 : List Byte := leBytes 16 (instEntry 0) ++ leBytes 16 (instEntry 1)

/-- The command that waits for a formation. -/
def formWaiter : Waiter := ⟨true, 0, 3, 0x8A, 7, none⟩

/-- Their grove, with epoch 5, led by instance 0. -/
def grove01 : GroveSt :=
  { gstate := 2, glevel := 0, gprefix := 0xFFFFFFFFFFFF, gepoch := 5, members := [parseGMember (instEntry 0), parseGMember (instEntry 1)]
    table := table01, formMs := 1000, ghbMs := 10, leader := inst0, myIndex := none, ninst := 2, tableCrc := 9, hellos := []
    nonces := [], devs := [], cert := [], lost := [], heard := [], waiter := none }

/-- The same while it forms. -/
def forming01 : GroveSt := { grove01 with gstate := 1, waiter := some formWaiter }

/-- An instance of this path, with a grove in formation and groves formed. -/
def groveAt (self : UPath) (forming : Option GroveSt) (formed : List GroveSt) : State :=
  { up with grove := { up.grove with upathSelf := self, forming := forming, formed := formed } }

/-- A header of R337 for that grove. -/
def gHdr (gtype gseq : Nat) : BitVec 128 := groveHdr grove01 gtype gseq

/-! Forming. -/

theorem witness_GrovesFormAndDissolve_commands :
    (let s := mgmtMsg 0x89 inst1.toNat up
     Accepted s mgmtCtx 0x89 (hd s mgmtCtx) ∧ s.ctxs = [] ∧ s.grove.formed = [] ∧ s.prom.paths = [] ∧
       pathOk (BitVec.ofNat 48 (arg (hd s mgmtCtx) 64 48)) = true) ∧
    (let s := mgmtMsg 0x89 0x01FF00000000 up
     Accepted s mgmtCtx 0x89 (hd s mgmtCtx) ∧ s.ctxs = [] ∧ s.grove.formed = [] ∧ s.prom.paths = [] ∧
       pathOk (BitVec.ofNat 48 (arg (hd s mgmtCtx) 64 48)) = false) ∧
    (let s := mgmtMsg 0x89 inst1.toNat (groveAt inst0 none [grove01])
     Accepted s mgmtCtx 0x89 (hd s mgmtCtx) ∧ (!s.grove.formed.isEmpty) = true) ∧
    (let s := mgmtMsg 0x8B 0 up
     Accepted s mgmtCtx 0x8B (hd s mgmtCtx) ∧ rootGrove s = none) ∧
    (let s := mgmtMsg 0x8B 0 (groveAt inst1 none [grove01])
     Accepted s mgmtCtx 0x8B (hd s mgmtCtx) ∧ rootGrove s = some grove01 ∧ leads s grove01 = false ∧ grove01.gstate ≠ 4) ∧
    (let s := mgmtMsg 0x8B 0 (groveAt inst0 none [grove01])
     Accepted s mgmtCtx 0x8B (hd s mgmtCtx) ∧ rootGrove s = some grove01 ∧ leads s grove01 = true ∧ groveCtxs s = [] ∧
       s.grove.fwd = [] ∧ reachable s grove01 = [inst1]) := by decide +kernel

/-- GROVE_FORM at instance 1 with this GLEVEL, its block at 3_0000h and its table at stack address 2000_0000h. -/
def forms (level : Nat) (s : State) : State :=
  mgmtMsg 0x8A 0x30000 (inHost 0x30000 36 (level + 0xFFFFFFFFFFFF * 2 ^ 64 + 5 * 2 ^ 128 + 2 * 2 ^ 160 + 0x20000000 * 2 ^ 192)
    (inStack 0x20000000 32 (instEntry 0 + instEntry 1 * 2 ^ 128) s))

/-- The arguments that R334 judges, the state when they have been read, and whether they are bad and busy. -/
def formVerdict (s : State) : Option (Bool × Bool × Option UPath) :=
  match readPblk mgmtCtx true (arg (hd s mgmtCtx) 64 64) [3, 48, 32, 8, 64, 16, 16] s with
  | (_, .error _) => none
  | (s1, .ok v) =>
    match fetchMem s1 mgmtCtx true 0 (v.getD 4 0) (16 * v.getD 3 0) with
    | (_, none) => none
    | (s2, some tab) =>
      let raw := leWords 16 (v.getD 3 0) tab
      let a : FormArgs :=
        { level := v.getD 0 0, gprefix := BitVec.ofNat 48 (v.getD 1 0), epoch := BitVec.ofNat 32 (v.getD 2 0)
          formMs := v.getD 5 0, ghbMs := v.getD 6 0, table := tab, raw := raw
          members := sortMembers (v.getD 0 0) (raw.map parseGMember) }
      some (formBad s2 a, formBusy s2 a, electLeader s2 a.level a.members)

/-- GROVE_INCOMPLETE at the leader and where nothing forms. -/
theorem witness_GrovesFormAndDissolve_forming :
    (let s := forms 0 (groveAt inst1 none [])
     Accepted s mgmtCtx 0x8A (hd s mgmtCtx) ∧ s.grove.forming = none ∧ (hd s mgmtCtx).msg.gen = 3 ∧
       formVerdict s = some (false, false, some inst0) ∧ inst0 ≠ s.grove.upathSelf) ∧
    (let s := inHost 0x10000 1 6 (forms 0 (groveAt inst1 none []))
     Accepted s mgmtCtx 0x8A (hd s mgmtCtx) ∧ s.grove.forming = none ∧ (hd s mgmtCtx).msg.gen = 2 ∧
       (formVerdict s).isSome = true) ∧
    (let s := forms 1 (groveAt inst1 none [])
     Accepted s mgmtCtx 0x8A (hd s mgmtCtx) ∧ s.grove.forming = none ∧ (formVerdict s).any (fun v => v.1) = true) ∧
    (let s := forms 0 (groveAt inst0 none [grove01])
     Accepted s mgmtCtx 0x8A (hd s mgmtCtx) ∧ s.grove.forming = none ∧
       (formVerdict s).any (fun v => !v.1 && v.2.1) = true) ∧
    (let s := groveAt inst0 (some forming01) []
     Up s ∧ s.grove.forming = some forming01 ∧ forming01.waiter = some formWaiter ∧ formWaiter.mgmt = true ∧
       formWaiter.via = none) ∧
    (Up up ∧ up.grove.forming = none) := by decide +kernel

/-! The messages of a formation. -/

theorem witness_FormationMessagesAreObeyed :
    (let s := groveAt inst0 (some forming01) []
     let h := gHdr 1 1
     Up s ∧ ghType h = 1 ∧ forming01.gprefix = ghPrefix h ∧ forming01.glevel = ghLevel h ∧ leads s forming01 = true ∧
       ghSeq h = tget s.grove.rxSeq inst1.toNat 0 + 1 ∧ forming01.gepoch = ghEpoch h ∧ forming01.tableCrc = 9 ∧
       (∃ e ∈ forming01.members, e.holds forming01.glevel inst1 = true) ∧ forming01.tableCrc ≠ 8) ∧
    (let s := groveAt inst1 (some forming01) []
     GroveTaken s inst0 (gHdr 2 1) 2 forming01 ∧ coreState s 0 = 0 ∧ forming01.leader = inst0 ∧ forming01.gstate = 1) ∧
    (let g := { forming01 with hellos := [inst1], nonces := [(inst1.toNat, 77)] }
     let s := groveAt inst0 (some g) []
     GroveTaken s inst1 (gHdr 3 1) 3 g ∧ coreState s 0 = 0 ∧ g.gstate = 1 ∧ leads s g = true ∧
       tget? g.nonces inst1.toNat = some 77) ∧
    (let s := groveAt inst1 (some forming01) []
     GroveTaken s inst0 (gHdr 4 1) 4 forming01 ∧ s.grove.forming = some forming01 ∧ forming01.leader = inst0 ∧
       GroveTaken s inst0 (gHdr 5 1) 5 forming01 ∧ leads s forming01 = false) := by decide +kernel

/-! Work across the grove. -/

/-- A member with an active grove context 0, and this job running in it. -/
def memberWith (js : List Job) : State :=
  { groveAt inst1 none [grove01] with ctxs := [(0, { ctx0 with grove := true })], jobs := js }

/-- The leader with the same. -/
def leaderWith (js : List Job) : State :=
  { groveAt inst0 none [grove01] with ctxs := [(0, { ctx0 with grove := true })], jobs := js }

/-- A forwarded ANGLE_SET whose table stands at 4_0000h, and a forwarded halt of job number 9. -/
def fwdAngles : BitVec 512 := BitVec.ofNat 512 (msg3 7 0x40000)
def fwdHalt : BitVec 512 := BitVec.ofNat 512 (stMEMBER_LOST * 2 ^ 16 + 9 * 2 ^ 192)

/-- A running job of number 9 that waits for the records of these members. -/
def jobWith (peers : List Nat) : Job := { job0 with ctx := 0, jobseq := 9, peers := peers }

/-- A record of 128 B for job 9, with this kind and status. -/
def jobRec (kind st : Nat) : List Byte := leBytes 128 (kind * 2 ^ 8 + st * 2 ^ 16 + 9 * 2 ^ 64)

theorem witness_GroveWorkIsForwardedAndReported_member :
    (let s := memberWith []
     let b := fwdAngles.toNat
     GroveTaken s inst0 (gHdr 7 1) 7 grove01 ∧ coreState s 2 = 0 ∧ rootGrove s = some grove01 ∧ s.grove.forming = none ∧
       grove01.leader = inst0 ∧ grove01.gstate ≠ 1 ∧ ownIndex s = 1 ∧ (msgOf fwdAngles).opc = 7 ∧
       (getCtx s 0).altWait = none ∧
       extDenied s 0 1 (bits b 64 64) 512 = false ∧ extPoisonIn s 1 (bits b 64 64) 512 = []) ∧
    (let s := memberWith [jobWith []]
     GroveTaken s inst0 (gHdr 7 1) 7 grove01 ∧ coreState s 2 = 0 ∧ rootGrove s = some grove01 ∧ s.grove.forming = none ∧
       findJob s 0 (BitVec.ofNat 32 (bits fwdHalt.toNat 192 32)) = some (jobWith []) ∧ (jobWith []).fault = none) ∧
    (let s := memberWith []
     findJob s 0 (BitVec.ofNat 32 (bits fwdHalt.toNat 192 32)) = none ∧ bits fwdHalt.toNat 16 16 / 4096 ≠ 2 ∧
       (getCtx s 0).state = .active) := by
  decide +kernel

theorem witness_GroveWorkIsForwardedAndReported_leader :
    (∀ st ∈ [0, stMEMBER_LOST],
      let s := leaderWith [jobWith [1]]
      let r := leNat ((jobRec 1 st).take 128)
      GroveTaken s inst1 (gHdr 8 1) 8 grove01 ∧ coreState s 2 = 0 ∧ leads s grove01 = true ∧ grove01.gstate ≠ 1 ∧
        (getCtx s 0).state = .active ∧ findJob s 0 (BitVec.ofNat 32 (bits r 64 32)) = some (jobWith [1]) ∧
        (jobWith [1]).fault = none ∧ bits r 8 8 = 1 ∧ 1 ∈ (jobWith [1]).peers ∧ bits r 16 16 = st) ∧
    (let s := leaderWith []
     let g := { grove01 with gepoch := 4 }
     Up s ∧ coreState s 2 = 0 ∧ ghType (groveHdr g 8 0) = 8 ∧ ghSeq (groveHdr g 8 0) = 0 ∧
       namedGrove s (groveHdr g 8 0) = some grove01 ∧ grove01.gepoch ≠ ghEpoch (groveHdr g 8 0)) := by decide +kernel

/-- CTX_RESUME on the ring of a halted grove context at the leader. -/
theorem witness_ResumedContextIsActive_grove :
    let s := ctxMsg { ctx0 with state := .halted, grove := true } 2 0 (groveAt inst0 none [grove01])
    Accepted s 0 0x02 (hd s 0) ∧ (getCtx s 0).grove = true ∧ rootGrove s = some grove01 ∧ leadsRoot s = true ∧
      grove01.lost = [] ∧ otherMembers s = [1] := by decide +kernel

/-! Heartbeats and acknowledgements. -/

theorem witness_GrovePeersAreWatched :
    (let s := groveAt inst0 none [grove01]
     GroveTaken s inst1 (gHdr 6 0) 6 grove01 ∧ s.grove.forming = none ∧ s.grove.formed = [grove01]) ∧
    (let s := groveAt inst1 none [grove01]
     Up s ∧ s.grove.formed = [grove01] ∧ leads s grove01 = false ∧ grove01.gstate ≠ 4 ∧
       grove01.leader ∉ grove01.heard ∧ groveCtxs s = []) ∧
    (let g := { grove01 with heard := [inst0] }
     let s := groveAt inst1 none [g]
     Up s ∧ s.grove.formed = [g] ∧ leads s g = false ∧ g.gstate ≠ 4 ∧ g.leader ∈ g.heard) ∧
    (let s := groveAt inst1 none [grove01]
     GroveTaken s inst0 (gHdr 9 0) 9 grove01) ∧
    (let t := groveAt inst1 none [grove01]
     let s := { t with grove := { t.grove with rxSeq := [(inst0.toNat, 3)], ackedSeq := [(inst0.toNat, 2)] } }
     Up s ∧ sharedGrove s inst0 = some grove01 ∧ tget s.grove.ackedSeq inst0.toNat 0 < tget s.grove.rxSeq inst0.toNat 0) ∧
    (let s := groveAt inst1 none [grove01]
     Up s ∧ sharedGrove s inst0 = some grove01 ∧ tget s.grove.rxSeq inst0.toNat 0 ≤ tget s.grove.ackedSeq inst0.toNat 0) := by
  decide +kernel

end Sys2Proof.Tests
end

