-- ==== Sys2Proof/Tests/WitnessJobs.lean ====
section
/-!
SUPPORT. Witnesses for the statements about jobs, programs, and their commands' dispatch, retirement and waits.
-/
namespace Sys2Proof.Tests
set_option Elab.async false
open Sys2Proof.Machine Sys2Proof.Claims

/-! A row-pass job of one program, whose only command is END. -/

/-- HDR of a row pass with 3 more blocks and 1 program, its table at view offset 0. -/
def hdrBlock : Nat := 1 + 3 * 2 ^ 8 + 3 * 2 ^ 12 + 1 * 2 ^ 32

/-- EPI with OUT_FMT BF16, ROWLEN 64, OSCALE 1. -/
def epiBlock : Nat := 5 + 1 * 2 ^ 17 + 64 * 2 ^ 21 + 0x3F800000 * 2 ^ 64

/-- A BF16 stream of 8 KiB in stack memory. -/
def rowBlock (sid use base : Nat) : Nat := 6 + sid * 2 ^ 8 + use * 2 ^ 16 + 1 * 2 ^ 24 + 1 * 2 ^ 53 + base * 2 ^ 64 + 8192 * 2 ^ 128

/-- An active context 4,095 with a region of 16 units at the bottom of the Terrace and role 4,095 here. -/
def ctxJ : Ctx :=
  { ctx0 with
    regions := [(0, ⟨0, 16, false, false, false, false⟩)]
    roles0 := [(4095, ⟨BitVec.allOnes 48, 15, true, 0⟩)], roles1 := [(4095, ⟨BitVec.allOnes 48, 15, true, 0⟩)] }

/-- s with the table entry, header and END command of a program on Pavilion 15, role 4,095, at view offset 256. -/
def withProgram (s : State) : State :=
  { s with ter := { s.ter with
      mem := memWrite (memWrite s.ter.mem 0 (leBytes 16 256)) 256
        (leBytes 32 (15 * 2 ^ 48 + 4095 * 2 ^ 52 + 1 * 2 ^ 64) ++ leBytes 16 0x1F) } }

/-- JOB_SUBMIT of the job at host address 4_0000h by context 4,095. -/
def submits (blocks : List Nat) : State :=
  inHost 0x10000 64 (msg3 0x01 0x40000)
    { withProgram up with
      ctxs := [(4095, ctxJ)]
      ext := { up.ext with host := memWrite up.ext.host 0x40000 (blocks.flatMap (leBytes 64)) } }

def goodJob : State := submits [hdrBlock, epiBlock, rowBlock 1 13 0x10000000, rowBlock 2 25 0x20000000]

/-- Without the stream of the results. -/
def badJob : State := submits [hdrBlock - 2 ^ 12, epiBlock, rowBlock 1 13 0x10000000]

/-- What admission says of the job at the head: whether its reads succeed, and its verdict. -/
def admission (s : State) : Option (Option Refused × Bool) :=
  let h := hd s 4095
  let s0 := modCtx 4095 (fun x => { x with jobCount := nextJobNo (getCtx s 4095).jobCount }) s
  match (readAdm 4095 (arg h 64 64)).exec s0 with
  | (.ok i, s1) =>
    let r := withKvalid h.msg i.raw
    some (admitChecks s1 4095 (ownIndex s0) h.msg.gen r i, kioskWait s1 (newJob s1 4095 (ownIndex s0) h.msg none r i))
  | (.error _, _) => none

theorem witness_JobIsAdmittedOrRefused :
    (Accepted goodJob 4095 0x01 (hd goodJob 4095) ∧ (getCtx goodJob 4095).grove = false ∧
      arg (hd goodJob 4095) 64 64 % 64 = 0 ∧ admission goodJob = some (none, false)) ∧
    (Accepted badJob 4095 0x01 (hd badJob 4095) ∧ (admission badJob).map (·.1) = some (some (stBAD_DESCRIPTOR, 0, 0))) := by
  decide +kernel

/-- A job whose rows land in entry 0 of its owner 4,095, in a region without RWIN, from role 4,094 at the instance of
path 1. -/
def landsOutside : State :=
  let x : Ctx := { ctxJ with
    roles0 := (4094, ⟨1, 0, true, 0⟩) :: ctxJ.roles0, roles1 := (4094, ⟨1, 0, true, 0⟩) :: ctxJ.roles1
    landing := [(0, ⟨4095, 4094, 0, 0, false, false, true, 2, 8, 0, 0, 1⟩)] }
  { submits [hdrBlock, epiBlock, rowBlock 1 13 0 + 2 * 2 ^ 53, rowBlock 2 25 0x20000000] with ctxs := [(4095, x)] }

/-- What the opening of the landing windows says of the job at the head. -/
def windowVerdict (s : State) : Option (Option Nat) :=
  let h := hd s 4095
  let s0 := modCtx 4095 (fun x => { x with jobCount := nextJobNo (getCtx s 4095).jobCount }) s
  match (readAdm 4095 (arg h 64 64)).exec s0 with
  | (.ok i, s1) => some (jobWinsBad s1 4095 (newJob s1 4095 (ownIndex s0) h.msg none (withKvalid h.msg i.raw) i).desc)
  | (.error _, _) => none

theorem witness_JobIsAdmittedOrRefused_windows :
    windowVerdict goodJob = some none ∧
    (Accepted landsOutside 4095 0x01 (hd landsOutside 4095) ∧ (admission landsOutside).map (·.1) = some none ∧
      windowVerdict landsOutside = some (some stBAD_REGION)) := by decide +kernel

/-! Jobs that end, programs that start, stop and resume. -/

/-- A program header at view offset 256: Pavilion 15, role 4,095, every tile, one command. -/
def hdr15 : ProgHdr := ⟨256, 0, 0xFFFF, 0xFFFF, 0xFFFF, 15, 4095, 1, 0⟩

/-- A row-pass job of context 4,095 with that program. -/
def jobJ : Job := { job0 with ctx := 4095, desc := { desc0 with jtype := 3 }, progs := [hdr15] }

/-- Its program at its first command. -/
def progJ : Prog := newProg up jobJ 0 hdr15

/-- The job runs with this Pavilion 15. -/
def running (x : Ctx) (v : Pav) : State := { withProgram up with ctxs := [(4095, x)], jobs := [jobJ], pavs := [(15, v)] }

/-- The job has halted its context with WAIT_TIMEOUT. -/
def halted : State :=
  { running { ctxJ with state := .halted } Pav.empty with
    jobs := [{ jobJ with fault := some ⟨stWAIT_TIMEOUT, 0, 15, 255, 2, 0, 0⟩ }] }

theorem witness_JobsEndAndContextsResume :
    (let j : Job := { jobJ with ended := [0] }
     let s : State := { running ctxJ Pav.empty with jobs := [j] }
     Up s ∧ findJob s 4095 1 = some j ∧ (getCtx s 4095).state ≠ .quiescing ∧ jobOver j = true ∧ j.via = none ∧
      (getCtx s 4095).resumeWait = [] ∧ j.invalid < 2 ^ 32) ∧
    (let s := running ctxJ Pav.empty
     Up s ∧ findJob s 4095 1 = some jobJ ∧ jobOver jobJ = false ∧ jobJ.fault = none) ∧
    (let s := inHost 0x10000 64 (msg3 0x02 0) halted
     Accepted s 4095 0x02 (hd s 4095) ∧ s.jobs.any (fun j => j.ctx == 4095 && j.fault.isSome) = true) ∧
    (let s := inHost 0x10000 64 (msg3 0x02 0) { halted with jobs := [] }
     Accepted s 4095 0x02 (hd s 4095) ∧ s.jobs.any (fun j => j.ctx == 4095 && j.fault.isSome) = false) := by decide +kernel

/-- The job's program waits at Pavilion 15. -/
def waitingProg (v : Pav) : State := running ctxJ { v with waitq := [(4095, 1, 0)] }

/-- A program of context 7 on Pavilion 15 that asks for every tile; the next command has SLOT set. -/
def slotted : State :=
  { waitingProg { Pav.empty with progA := some { progJ with ctx := 7, hdr := { hdr15 with ncmd := 2 } } } with
    ctxs := [(7, { ctxJ with jobCount := 1 }), (4095, ctxJ)]
    jobs := [{ jobJ with ctx := 7 }, jobJ]
    sys := { up.sys with ctxswLo := 1 + 1 * 2 ^ 16, ctxswHi := 0x10000 }
    ter := { up.ter with mem := memWrite [] 0 (leBytes 16 256 ++ zeroBytes 272 ++ leBytes 16 (0x12 + 2 ^ 63)) } }

/-- That program in save slot 0, first of the suspended ones. -/
def suspended (v : Pav) : State :=
  running ctxJ { v with saved := [⟨0, 15, { progJ with tok := [(63, 65535)] }⟩] }

/-- Kiosk 15 restarts. -/
def kioskRestarts (s : State) : State := { s with sys := { s.sys with coreSts := tset s.sys.coreSts 18 1 } }

theorem witness_ProgramsEnterAndResume :
    (let s := waitingProg Pav.empty
     Up s ∧ (getPav s 15).waitq = [(4095, 1, 0)] ∧ findJob s 4095 1 = some jobJ ∧ jobJ.progs[0]? = some hdr15 ∧
      coreState s 18 = 0 ∧ canHold s (occupants s 15) jobJ hdr15 = true ∧ jobJ.paramsRead = true) ∧
    (let s := waitingProg Pav.empty
     let j : Job := { jobJ with paramsRead := false }
     okIs ((readVecs 4095 j).exec (modPav 15 (fun v => { v with waitq := [] }) s)).1 [] = true) ∧
    coreState (kioskRestarts (waitingProg Pav.empty)) 18 ≠ 0 ∧
    (let s := slotted
     Up s ∧ getProg s 15 .a = some { progJ with ctx := 7, hdr := { hdr15 with ncmd := 2 } } ∧ freeSave s = some 0 ∧
      maySuspend s 15 .a = true ∧ suspendFirst s 15 .a = true) ∧
    maySuspend { slotted with sys := { slotted.sys with ctxswLo := 0 } } 15 .a = false ∧
    (let s := suspended Pav.empty
     let v : Saved := ⟨0, 15, { progJ with tok := [(63, 65535)] }⟩
     Up s ∧ (getPav s 15).saved = [v] ∧ findJob s v.prog.ctx v.prog.jobseq = some jobJ ∧ coreState s 18 = 0 ∧
      canHold s (occupants s 15) jobJ v.prog.hdr = true) ∧
    coreState (kioskRestarts (suspended Pav.empty)) 18 ≠ 0 := by decide +kernel

/-- A member has not taken its part in the job yet. -/
theorem witness_ProgramsEnterAndResume_untaken :
    let j : Job := { jobJ with untaken := [1] }
    let s : State := { waitingProg Pav.empty with jobs := [j] }
    Up s ∧ (getPav s 15).waitq = [(4095, 1, 0)] ∧ findJob s 4095 1 = some j ∧ j.untaken ≠ [] := by decide +kernel

/-- The first word of save slot 0 is poisoned. -/
theorem witness_ProgramsEnterAndResume_poisoned :
    let s : State := { suspended Pav.empty with
      sys := { up.sys with ctxswLo := 1 + 1 * 2 ^ 16, ctxswHi := 0x10000 }
      ext := { up.ext with stackPoison := [0x2000000] } }
    let v : Saved := ⟨0, 15, { progJ with tok := [(63, 65535)] }⟩
    Up s ∧ (getPav s 15).saved = [v] ∧ findJob s v.prog.ctx v.prog.jobseq = some jobJ ∧ coreState s 18 = 0 ∧
      canHold s (occupants s 15) jobJ v.prog.hdr = true ∧ savePoisoned s v.slot v.prog = true ∧
      savePoisoned (suspended Pav.empty) v.slot v.prog = false ∧ FirstHalt s v.prog.ctx := by decide +kernel

/-! Dispatch, retirement, waits and passes. -/

/-- Program B of Pavilion 15 runs. -/
def runs (g : Prog) : State := running ctxJ { Pav.empty with progB := some g }

/-- A queued command: its number and its text. -/
def cmd (num w : Nat) : QCmd := ⟨num, 0, 2, BitVec.ofNat 128 w, [0, 0, 0, 0]⟩

/-- The program with its fifth queue as given. -/
def queued (cs : List QCmd) : Prog := { progJ with queues := [(4, cs)] }

/-- Nothing is stored but zeros. -/
def blank (s : State) : State := { s with ter := { s.ter with mem := [] } }

theorem witness_CommandsAreDispatchedInOrder :
    (let s := runs progJ
     let r := terRead s 4095 288 16
     Up s ∧ liveProg s 15 (turnOf s 15) = some progJ ∧ progJ.slotStop = false ∧ dispatchHeld s 15 = false ∧
      stopsDispatch progJ = false ∧ progJ.hdr.addr + 16 * progJ.tpc = 288 ∧
      okIs r.2 (leBytes 16 0x1F, [0, 0]) = true ∧ fetchOk progJ (leNat (leBytes 16 0x1F)) = true ∧
      (tget progJ.queues (queueOf 0x1F) []).length < 8) ∧
    (let g := queued ((List.range 8).map (fun n => cmd n 0x10))
     stopsDispatch g = false ∧ fetchOk g 0x1F = true ∧ 8 ≤ (tget g.queues (queueOf 0x1F) []).length) ∧
    (let s := blank (runs progJ)
     okIs (terRead s 4095 288 16).2 (zeroBytes 16, [0, 0]) = true ∧ fetchOk progJ (leNat (zeroBytes 16)) = false ∧
      findJob s 4095 1 = some jobJ) ∧
    stopsDispatch (queued [cmd 0 0x12]) = true ∧
    dispatchHeld { runs progJ with power := { up.power with aclkChg := true } } 15 = true := by decide +kernel

/-- The program with one issued command. -/
def issuedOne (w : Nat) (chunks : List Nat) : Prog := { progJ with issued := [⟨cmd 3 w, [], [], [], 0, chunks⟩] }

/-- TOKADD of 255 with a signal to token 63; WAIT with a signal to token 63 of role 4,094; WAIT that sets flag 4,095. -/
def tokWord : Nat := 0x11 + 1 * 2 ^ 40 + 63 * 2 ^ 42 + 255 * 2 ^ 64
def sendWord : Nat := 0x12 + 2 * 2 ^ 40 + 63 * 2 ^ 42 + 4094 * 2 ^ 48
def flagWord : Nat := 0x12 + 3 * 2 ^ 40 + 4095 * 2 ^ 48

/-- Role 4,094 stands on the instance of path 1. -/
def awayRole (s : State) : State := modCtx 4095 (fun x => { x with roles0 := (4094, ⟨1, 0, true, 0⟩) :: x.roles0 }) s

theorem witness_RetiredCommandsAndTokensSignal :
    (∀ w ∈ [0x12, tokWord, sendWord, flagWord],
      let s := runs (issuedOne w [])
      Up s ∧ getProg s 15 .b = some (issuedOne w []) ∧ (issuedOne w []).halted = false ∧
        ((issuedOne w []).issued.find? (fun i => i.cmd.num == 3)).isSome = true ∧
        (getPav s 15).passes.any (fun x => x.q == .b && x.num == 3) = false) ∧
    ((issuedOne 0x12 [16383]).issued.all (fun i => !i.chunks.isEmpty) = true) ∧
    (cSkind 0x12 = 0 ∧ (cSkind tokWord = 1 ∧ cStok tokWord = 63 ∧ tokenInc tokWord = 255) ∧ cSkind sendWord = 2 ∧
      (cSkind flagWord = 3 ∧ setFlagOf flagWord [0, 0, 0, 0] = 4095)) ∧
    (let g : Prog := { issuedOne tokWord [] with tok := [(63, 65280)] }
     tget g.tok 63 0 + 255 ≤ 65535) ∧
    (let g : Prog := { issuedOne tokWord [] with tok := [(63, 65281)] }
     65535 < tget g.tok 63 0 + 255 ∧ findJob (runs g) 4095 1 = some jobJ) ∧
    (let s := awayRole (runs (issuedOne sendWord []))
     (roleOf (getCtx s 4095) 0 4094).valid = true ∧ roleHere s (roleOf (getCtx s 4095) 0 4094) = false) ∧
    (let s := runs { progJ with tok := [(63, 65280)] }
     Up s ∧ roleHolder s 4095 4095 none = some (jobJ, .run 15 .b, 0) ∧ (roleOf (getCtx s 4095) 0 4095).repoch = 0 ∧
      homeTok s (.run 15 .b) 63 + 255 ≤ 65535 ∧ (roleOf (getCtx s 4095) 0 4095).repoch ≠ 1) := by decide +kernel

/-- A WAIT on 1 of token 0 at the head of the fifth queue. -/
def waits : Prog := queued [cmd 3 (0x12 + 1 * 2 ^ 8 + 1 * 2 ^ 16)]

/-- A pass of array 1 that has failed n checks. -/
def pass (n : Nat) : Pass := ⟨.b, 1, 3, n, [], []⟩

theorem witness_WaitsAndPassesHaltTheContext :
    (let s := runs waits
     Up s ∧ liveProg s 15 .b = some waits ∧ headOf waits 4 = some (cmd 3 (0x12 + 1 * 2 ^ 8 + 1 * 2 ^ 16)) ∧
      findJob s 4095 1 = some jobJ ∧ headWait s 15 jobJ waits (cmd 3 (0x12 + 1 * 2 ^ 8 + 1 * 2 ^ 16)) ≠ 0 ∧
      jobSuspended s 4095 1 = false) ∧
    (let g : Prog := { waits with tok := [(0, 1)] }
     headWait (runs g) 15 jobJ g (cmd 3 (0x12 + 1 * 2 ^ 8 + 1 * 2 ^ 16)) = 0) ∧
    jobSuspended (suspended Pav.empty) 4095 1 = true ∧
    (∀ n ∈ [1, 2],
      let s := running ctxJ { Pav.empty with progB := some (issuedOne (0x02 + 2 ^ 64) []), passes := [pass n] }
      Up s ∧ (getPav s 15).passes.find? (fun y => y.q == .b && y.arr == 1) = some (pass n) ∧
        getProg s 15 .b = some (issuedOne (0x02 + 2 ^ 64) []) ∧ findJob s 4095 1 = some jobJ) ∧
    ((pass 1).fails < 2 ∧ 2 ≤ (pass 2).fails) := by decide +kernel

end Sys2Proof.Tests
end

