-- ==== Sys2Proof/Tests/WitnessSums.lean ====
section
/-!
SUPPORT. Witnesses for the statements about accumulator elements: values that meet the premises of each clause.
-/
namespace Sys2Proof.Tests
set_option Elab.async false
open Sys2Proof.Machine

/-- Lists with each cause, all of whose members have a cause that R47 gives; a permutation of the last; and two orders
of a pass's products. -/
theorem witness_ContributionsCombine :
    (∀ a ∈ [AV.nan 1, .nan 2, .inf true, .inf false, .fin 5], ∀ c, a = .nan c → 1 ≤ c ∧ c ≤ 3) ∧
    (∀ y : Int, AV.inf true ≠ .fin y) ∧
    (AV.nan 1 ∈ [AV.inf true, .nan 1]) ∧
    (AV.nan 1 ∉ [AV.inf true, .nan 2] ∧ AV.nan 2 ∈ [AV.inf true, .nan 2]) ∧
    (AV.nan 1 ∉ [AV.inf true, .inf false] ∧ AV.nan 2 ∉ [AV.inf true, .inf false] ∧
      AV.inf true ∈ [AV.inf true, .inf false] ∧ AV.inf false ∈ [AV.inf true, .inf false]) ∧
    [AV.inf true, .inf false].Perm [AV.inf false, .inf true] ∧
    (let t : Terms := ([some (.fin 1 0), some (.inf true)], [some (.fin 2 0), some (.fin 3 0)])
     let u : Terms := ([some (.inf true), some (.fin 1 0)], [some (.fin 3 0), some (.fin 2 0)])
     (t.1.zip t.2).Perm (u.1.zip u.2)) := by
  refine ⟨?_, by simp, by decide, by decide, by decide, List.Perm.swap _ _ _, List.Perm.swap _ _ _⟩
  intro a ha c hc
  subst hc
  simp at ha
  omega

/-- A nonzero significand; an element whose tag is not 00; a value that is not finite. -/
theorem witness_ProductsTakeTheirTags :
    (1 : Int) ≠ 0 ∧ (⟨2, 3⟩ : AEl).tag ≠ 0 ∧ (∀ t : Int, AV.nan 2 ≠ .fin t) := by
  refine ⟨by decide, by decide, by simp⟩

end Sys2Proof.Tests
end

