-- ==== Sys2Proof/Tests/WitnessTerrace.lean ====
section
/-!
SUPPORT. Witnesses for the statements about what a context owns in the Terrace, the X-ports, reset, test access and M-ports.
-/
namespace Sys2Proof.Tests
set_option Elab.async false
open Sys2Proof.Machine Sys2Proof.Claims

/-- A context with one region of 64 KiB at physical offset 0 that every port may use, and one at the Terrace's end. -/
def ctxR : Ctx :=
  { ctx0 with regions := [(0, ⟨0, 16, false, true, true, true⟩), (7, ⟨131056, 16, true, true, true, true⟩)] }

theorem witness_ContextTablesAreLoaded :
    (let s := ctxMsg ctx0 0x03 (0x30000 + 2 ^ 64) up
     Accepted s 0 0x03 (hd s 0) ∧ extDenied s 0 1 (arg (hd s 0) 64 64) 256 = false ∧ s.ter.cached = 0) ∧
    (let s := ctxMsg ctx0 0x03 0x30000 { up with ext := { up.ext with deny := [(0, 1, 0x300FF, 1)] } }
     Accepted s 0 0x03 (hd s 0) ∧ extDenied s 0 1 (arg (hd s 0) 64 64) 256 = true) ∧
    (let s := ctxMsg ctx0 0x07 0x30000 up
     Accepted s 0 0x07 (hd s 0) ∧ extDenied s 0 1 (arg (hd s 0) 64 64) 512 = false ∧
      extPoisonIn s 1 (arg (hd s 0) 64 64) 512 = []) ∧
    (let s := ctxMsg ctx0 0x0B 127 { up with ter := { up.ter with cached := 1#128 <<< 127 } }
     let g := arg (hd s 0) 64 4 * 8 + arg (hd s 0) 68 3
     Accepted s 0 0x0B (hd s 0) ∧ groupReached s g = false ∧ (hd s 0).msg.bits.getLsbD 71 = false ∧
      s.ter.cached.getLsbD g = true ∧ s.ter.lines = []) ∧
    (let s := ctxMsg ctx0 0x08 (4095 * 2 + 2 ^ 13 + 0x30000 * 2 ^ 64) (inHost 0x30000 16 (5 + 2 ^ 52) up)
     let h := hd s 0
     Accepted s 0 0x08 h ∧ arg h 77 13 = 1 ∧ extDenied s 0 1 (arg h 128 64) 16 = false ∧
      extPoisonIn s 1 (arg h 128 64) 16 = [] ∧ s.prom.routes = [] ∧ h.msg.bits.getLsbD 64 = false ∧ arg h 65 12 = 4095) ∧
    (let s := ctxMsg ctxR 0x09 (255 + 0x30000 * 2 ^ 64) (inHost 0x30000 32 (2 ^ 29 + 2 ^ 32 + 4095 * 2 ^ 108 + 2 ^ 128) up)
     let h := hd s 0
     let v := leNat (extPeek s 1 (arg h 128 64) 32)
     Accepted s 0 0x09 h ∧ extDenied s 0 1 (arg h 128 64) 32 = false ∧ extPoisonIn s 1 (arg h 128 64) 32 = [] ∧
      landingReserved v = false ∧ landingBusy s 0 (arg h 64 8) = false ∧ landingBad s 0 (arg h 64 8) (parseLanding v) = false) ∧
    (let s := ctxMsg ctxR 0x09 (0x30000 * 2 ^ 64) (inHost 0x30000 32 (2 ^ 30) up)
     let h := hd s 0
     Accepted s 0 0x09 h ∧ extDenied s 0 1 (arg h 128 64) 32 = false ∧ extPoisonIn s 1 (arg h 128 64) 32 = [] ∧
      landingReserved (leNat (extPeek s 1 (arg h 128 64) 32)) = true) := by decide +kernel

theorem witness_RegionSetZeroesWhatLeaves :
    (let s := ctxMsg ctxR 0x04 (7 + (131064 + 8 * 2 ^ 18) * 2 ^ 64) up
     let h := hd s 0
     let k := arg h 64 3
     let new := parseRegion (arg h 128 64)
     let old := tget (getCtx s 0).regions k Region.absent
     Accepted s 0 0x04 h ∧ k = 7 ∧ new.len4k ≠ 0 ∧ regionBad s 0 k new = false ∧
      (old.base4k * 4096 ≤ 131056 * 4096 ∧ 131056 * 4096 < new.base4k * 4096)) ∧
    (let s := ctxMsg ctxR 0x04 7 up
     Accepted s 0 0x04 (hd s 0) ∧ (parseRegion (arg (hd s 0) 128 64)).len4k = 0 ∧
      regionBad s 0 7 (parseRegion (arg (hd s 0) 128 64)) = false) ∧
    (let s := ctxMsg ctxR 0x04 (1 + (131065 + 8 * 2 ^ 18) * 2 ^ 64) up
     Accepted s 0 0x04 (hd s 0) ∧ regionBad s 0 1 (parseRegion (arg (hd s 0) 128 64)) = true) := by decide +kernel

/-- Window 4,095 of context 0 is open at GEN 0 over its first 4 KiB, for X-ports and stores. -/
def win : Window := { Window.closed0 with isOpen := true, wclass := 0xF, len4k := 1, credits := 1 }

def withWin (x : Window) (s : State) : State := { s with ter := { s.ter with windows := [(4095, x)] } }

theorem witness_WindowsOpenAndClose :
    (let s := ctxMsg ctxR 0x05 (4095 + 8 * 2 ^ 13 + 31 * 2 ^ 17 + 2 ^ 35) up
     let h := hd s 0
     Accepted s 0 0x05 h ∧ arg h 64 12 = 4095 ∧
      windowBad s 0 (BitVec.ofNat 4 (arg h 77 4)) (arg h 81 18) (arg h 99 18) = false ∧
      winFree (getWin s (arg h 64 12)) = true) ∧
    (let s := ctxMsg ctxR 0x06 4095 (withWin win up)
     Accepted s 0 0x06 (hd s 0) ∧ (getWin s (arg (hd s 0) 64 12)).isOpen = true ∧
      (getWin s (arg (hd s 0) 64 12)).ctx = 0 ∧ (getWin s (arg (hd s 0) 64 12)).inflight = 0) ∧
    (let s := ctxMsg ctxR 0x06 4095 (withWin { win with inflight := 1 } up)
     Accepted s 0 0x06 (hd s 0) ∧ (getWin s (arg (hd s 0) 64 12)).isOpen = true ∧
      (getWin s (arg (hd s 0) 64 12)).ctx = 0 ∧ (getWin s (arg (hd s 0) 64 12)).inflight ≠ 0) ∧
    (let w : Waiter := ⟨false, 0, 3, 6, 7, none⟩
     let s := withWin { win with isOpen := false, closing := some w } up
     Up s ∧ (getWin s 4095).closing = some w ∧ w.via = none ∧ w.mgmt = false ∧ (getWin s 4095).inflight = 0) := by
  decide +kernel

def xstate : State := withWin win { up with ctxs := [(0, ctxR)] }

/-- The state with its Terrace changed. -/
def xter (f : Terrace → Terrace) : State := { xstate with ter := f xstate.ter }

/-- A region without XRD. -/
def xdark : State := { xstate with ctxs := [(0, { ctxR with regions := [(0, ⟨0, 16, false, false, true, true⟩)] })] }

/-- What the clauses on X-port reads ask of an access of context 0: inside the view and XRD, and free access tables. -/
abbrev xInside (s : State) (off n : Nat) : Prop :=
  off + n ≤ viewLen (getCtx s 0).regions ∧ ∀ p ∈ viewParts (getCtx s 0).regions off n, p.region.xrd = true

abbrev xFree (s : State) (write : Bool) (off n : Nat) : Prop :=
  tableFree s write (partLines (viewParts (getCtx s 0).regions off n)) = true

/-- The last 16 lines of the Terrace are being written by a landing. -/
def xheld : State := xter (fun t => { t with access := [⟨0, true, false, 2097136, 16⟩] })

theorem witness_XPortsReadAndWrite_reads :
    (Up xstate ∧ ¬ xInside xstate (8 * 16384) 8 ∧ ¬ xInside xdark 0 8) ∧
    (xInside xheld (256 * 496) 4096 ∧ ¬ xFree xheld false (8 * 16383) 8) ∧
    (let s := xter (fun t => { t with unfilled := [131071] })
     let ps := viewParts (getCtx s 0).regions (256 * 496) 4096
     xInside s (256 * 496) 4096 ∧ xFree s false (256 * 496) 4096 ∧ (unfilledAt s.ter.unfilled ps).isSome = true) ∧
    (let s := xter (fun t => { t with poison := [67108863] })
     let ps := viewParts (getCtx s 0).regions (8 * 16383) 8
     xInside s (8 * 16383) 8 ∧ xFree s false (8 * 16383) 8 ∧ unfilledAt s.ter.unfilled ps = none ∧ poisonIn s ps = true) ∧
    (let s := xter (fun t => { t with flips := [(67108863, 2)] })
     let ps := viewParts (getCtx s 0).regions (8 * 16383) 8
     unfilledAt s.ter.unfilled ps = none ∧ ∃ e ∈ flipsIn s ps, e.2 ≠ 1) ∧
    (let s := xter (fun t => { t with flips := [(67108863, 1)] })
     let ps := viewParts (getCtx s 0).regions (8 * 16383) 8
     poisonIn s ps = false ∧ flipsIn s ps ≠ [] ∧ ∀ e ∈ flipsIn s ps, e.2 = 1) ∧
    (xInside xstate (256 * 496) 4096 ∧ xFree xstate false (256 * 496) 4096 ∧
      flipsIn xstate (viewParts (getCtx xstate 0).regions (256 * 496) 4096) = []) := by
  decide +kernel

theorem witness_XPortsReadAndWrite :
    (Up xstate ∧ viewLen (getCtx xstate 0).regions < 8 * 16384 + 8) ∧
    (8 * 16383 + 8 ≤ viewLen (getCtx xheld 0).regions ∧ ¬ xFree xheld true (8 * 16383) 8) ∧
    (8 * 511 + 8 ≤ viewLen (getCtx xstate 0).regions ∧ xFree xstate true (8 * 511) 8 ∧
      remoteCheck (getWin xstate 4095) 0 0 3 (8 * 511) 8 = none) ∧
    remoteCheck (getWin xstate 4095) 0 0 3 (8 * 512) 8 = some stWINDOW_RANGE ∧
    remoteCheck (getWin xstate 4095) 0 1 3 (8 * 511) 8 = some stWINDOW_CLOSED ∧
    remoteCheck (getWin (withWin { win with wclass := 4 } xstate) 4095) 0 0 3 (8 * 511) 8 = some stWINDOW_CLASS ∧
    remoteCheck (getWin (withWin { win with credits := 0 } xstate) 4095) 0 0 3 (8 * 511) 8 = some stWINDOW_NOCREDIT ∧
    (256 * 15 + 256 ≤ viewLen (getCtx xstate 0).regions ∧ xFree xstate true (256 * 15) 256 ∧
      remoteCheck (getWin xstate 4095) 0 0 3 (256 * 15) 256 = none ∧
      ∃ p ∈ viewParts (getCtx xstate 0).regions (256 * 15) 256, p.len = 256) := by
  decide +kernel

/-! Reset, start-up, test access, M-ports. Whether an image passes R408 rests on a signature, which no one can evaluate. -/

/-- A part that is fused off. -/
def off : State := { State.reset with ext := { State.reset.ext with fuses := [(18, 2)] } }

/-- Start-up, with no image in stack memory. -/
def starting : State := { State.reset with sys := { State.reset.sys with phase := .startUp } }

theorem witness_StartUpFollowsResetRise :
    (State.reset.sys.phase = .inReset ∧ fusedOff State.reset = false) ∧ (off.sys.phase = .inReset ∧ fusedOff off = true) ∧
    (starting.sys.phase = .startUp ∧
      [2, 3, 4].all (fun k => (imageCheck starting k (imageAddr starting k)).isNone) = false) := by decide +kernel

theorem witness_ResetLosesState : writingNow up = [] := by decide +kernel

/-- Test mode, with the network between TDI and TDO. -/
def onNet : State := { up with sys := { up.sys with mode := 2 }, jtag := { up.jtag with netOn := true } }

theorem witness_TestAccessAndInstruments :
    onNet.sys.mode = 2 ∧ up.sys.mode ≠ 2 ∧ (onNet.jtag.netOn = true ∧ onNet.sys.phase ≠ .inReset) ∧
    ¬ (up.jtag.netOn = true ∧ up.sys.mode = 2 ∧ up.sys.phase ≠ .inReset) := by decide +kernel

/-- A read of one line by context 0 portWaits on port 11, with these credits. -/
def portWaits (q w : Nat) (r : MReq) : State := { up with ctxs := [(0, ctx0)], mports := [(11, ⟨q, w, [r], []⟩)] }

/-- The same read is outstanding under tag 1,023. -/
def outstanding (r : MReq) : State := { up with ctxs := [(0, ctx0)], mports := [(11, ⟨0, 0, [], [(1023, (r, []))]⟩)] }

def rd : MReq := ⟨false, 0, false, 1, 0, 1⟩
def wr : MReq := ⟨true, 0, false, 1, 0, 4⟩

theorem witness_MPortsIssueAndAnswer :
    (Up (portWaits 1 4 wr) ∧ (getPort (portWaits 1 4 wr) 11).waiting = [wr] ∧ (freeTag (getPort (portWaits 1 4 wr) 11)).isSome = true ∧
      1 ≤ (getPort (portWaits 1 4 wr) 11).qcred ∧ wr.lines ≤ (getPort (portWaits 1 4 wr) 11).wcred) ∧
    ((getPort (portWaits 1 3 wr) 11).wcred < wr.lines ∧ (getPort (portWaits 0 0 rd) 11).qcred = 0) ∧
    (rd.write = false ∧ rd.lines = 1 ∧ tget? (getPort (outstanding rd) 11).outst 1023 = some (rd, []) ∧ rd.priv = false ∧
      (getCtx (outstanding rd) rd.ctx).state = .active) ∧
    (wr.write = true ∧ tget? (getPort (outstanding wr) 11).outst 1023 = some (wr, [])) ∧
    tget? (getPort (outstanding rd) 11).outst 1022 = none := by decide +kernel

end Sys2Proof.Tests
end

