-- ==== Sys2Proof/Tests/WitnessTiles.lean ====
section
/-!
SUPPORT. Witnesses for the statements about tile commands: each command ready at the head of its queue.
-/
namespace Sys2Proof.Tests
set_option Elab.async false
open Sys2Proof.Machine Sys2Proof.Claims

/-! A job of each type, and a command at the head of a queue of its program. -/

/-- A stream in stack memory whose elements stay within 2^8. -/
def str (sid use fmt : Nat) : Stream := ⟨sid, use, 0, fmt, 8, 0, 0, 1, 0x10000000 * (sid + 1), 0x1000000, 0, 0, 0⟩

/-- A forward job of 64×64 tiles, every position masked. -/
def dF : Desc :=
  { desc0 with
    jtype := 1, att := some (parseAtt (1 * 2 ^ 8)), pos := some zeroPos
    streams := [str 0 uQ 4, str 1 uK 4, str 2 uV 4, str 3 uODEST 1, str 4 uLSEDEST 0, str 5 uPART 0, str 6 uPART 0,
      str 7 uPART 0, str 8 uMAX 0, str 9 uMAX 0] }

/-- A backward job of 64×64 tiles with its DQ_ACC range at the view's start. -/
def dB : Desc :=
  { desc0 with
    jtype := 2, att := some (parseAtt (1 * 2 ^ 8)), pos := some zeroPos
    streams := [str 0 uDO 4, str 1 uO 4, str 2 uLSE 0, str 3 uDDEST 0, { str 4 uDQACC 10 with space := 0, base := 0 },
      str 5 uDQDEST 1, str 6 uDKDEST 1] }

/-- The same with every stream in stack memory. -/
def dBout : Desc := { dB with streams := dB.streams.filter (fun x => x.use != uDQACC) }

/-- A row pass of rows of one element. -/
def dR : Desc :=
  { desc0 with jtype := 3, epi := some (parseEpi epiBlock)
               streams := [str 0 uROW 1, str 1 uROWDEST 1] }

def jobOf (d : Desc) : Job := { jobJ with desc := d }

/-- The program of such a job with a command at the head of queue k. -/
def headed (k w : Nat) : Prog := { progJ with queues := [(k, [cmd 3 w])], tok := [(0, 1)], users := [(0, 2)] }

/-- Program B of Pavilion 15 runs with leave for both arrays. -/
def tiles (d : Desc) (g : Prog) : State :=
  { blank (running ctxJ { Pav.empty with progB := some g, leave := 3 }) with jobs := [jobOf d] }

/-- A command is ready. -/
abbrev Stands (d : Desc) (k o w : Nat) : Prop :=
  Ready (tiles d (headed k w)) 15 .b k o (headed k w) (jobOf d) (cmd 3 w)

/-! The commands, their payloads from R179. -/

def wLoad : Nat := 0x01 + 3 * 2 ^ 64 + 1 * 2 ^ 66
def wLoadFifo : Nat := wLoad + 1 * 2 ^ 98
def wMma : Nat := 0x02 + 1 * 2 ^ 64 + 15 * 2 ^ 77 + 0 * 2 ^ 91
def wDrain : Nat := 0x03
def wDrainP : Nat := 0x03 + 3 * 2 ^ 75
def wDrainDs : Nat := 0x03 + 4 * 2 ^ 75
def wEpi : Nat := 0x04 + 3 * 2 ^ 73 + 1 * 2 ^ 105
def wEpiB : Nat := 0x04 + 6 * 2 ^ 73
def wAccw : Nat := 0x05 + 4 * 2 ^ 73
def wPart : Nat := 0x06 + 5 * 2 ^ 73
def wComb : Nat := 0x07 + 5 * 2 ^ 65 + 6 * 2 ^ 73 + 7 * 2 ^ 81
def wMaxc : Nat := 0x08 + 8 * 2 ^ 65 + 2 * 2 ^ 73 + 9 * 2 ^ 89
def wFin : Nat := 0x09 + 1 * 2 ^ 8 + 4 * 2 ^ 65 + 5 * 2 ^ 97 + 1 * 2 ^ 109
def wSetq : Nat := 0x0A + 5 * 2 ^ 64 + 1 * 2 ^ 88
def wDpro : Nat := 0x0B
def wRowp : Nat := 0x0C + 0 * 2 ^ 65 + 1 * 2 ^ 73 + 1 * 2 ^ 105
def wPref : Nat := 0x0D + 0 * 2 ^ 65 + 1 * 2 ^ 73 + 1 * 2 ^ 105
def wZacc : Nat := 0x0E + 1 * 2 ^ 64 + 15 * 2 ^ 65
def wFlagclr : Nat := 0x10 + 4095 * 2 ^ 64
def wTokadd : Nat := 0x11 + 255 * 2 ^ 64
def wWait : Nat := 0x12
def wLoop : Nat := 0x13 + 1 * 2 ^ 64 + 1 * 2 ^ 80
def wEpoch (n : Nat) : Nat := 0x14 + n * 2 ^ 64
def wLeave (n : Nat) : Nat := 0x15 + n * 2 ^ 64
def wEnd : Nat := 0x1F

/-- The same as a Bool. -/
def ready (d : Desc) (k o w : Nat) : Bool := decide (Stands d k o w)

theorem ready_iff (d : Desc) (k o w : Nat) : ready d k o w = true ↔ Stands d k o w := decide_eq_true_iff

theorem witness_EveryTileCommandIssues_ready :
    (ready dF 3 oLOAD wLoad && ready dF 3 oLOAD wLoadFifo && ready dF 1 oMMA wMma && ready dF 2 oDRAIN wDrain &&
      ready dBout 2 oDRAIN wDrainP && ready dBout 2 oDRAIN wDrainDs && ready dF 2 oEPI wEpi && ready dBout 2 oEPI wEpiB &&
      ready dB 3 oACCW wAccw && ready dF 3 oPART wPart && ready dF 2 oCOMB wComb && ready dF 2 oMAXC wMaxc &&
      ready dB 2 oFIN wFin && ready dF 2 oSETQ wSetq && ready dBout 2 oDPRO wDpro && ready dR 2 oROWP wRowp &&
      ready dF 3 oPREF wPref && ready dF 1 oZACC wZacc && ready dR 4 oFLAGCLR wFlagclr && ready dR 4 oTOKADD wTokadd &&
      ready dR 4 oWAIT wWait && ready dR 4 oLOOP wLoop && ready dR 4 oEPOCH (wEpoch 1) && ready dR 4 oLEAVE (wLeave 3)) =
      true := by decide +kernel

/-- Program B's drain, with flipped bits in a word of its accumulator: one, which is corrected, or two. -/
def flipped (n : Nat) : State :=
  { tiles dF (headed 2 wDrain) with
    pavs := [(15, { Pav.empty with progB := some (headed 2 wDrain), leave := 3, flips := [((0, 0, 0), n)] })] }

theorem witness_WaitsAndPassesHaltTheContext_storage :
    (.drain 15 .b, 2, oDRAIN, drainBody) ∈ tileInstrs 15 .b 1 ∧
    (∀ n ∈ [1, 2], Heads (flipped n) 15 .b 2 oDRAIN (headed 2 wDrain) (jobOf dF) (cmd 3 wDrain) ∧
      storeMet (flipped n) 15 (jobOf dF) (headed 2 wDrain) (cmd 3 wDrain) ≠ []) ∧
    storeLost (storeMet (flipped 2) 15 (jobOf dF) (headed 2 wDrain) (cmd 3 wDrain)) = true ∧
    storeLost (storeMet (flipped 1) 15 (jobOf dF) (headed 2 wDrain) (cmd 3 wDrain)) = false ∧ FirstHalt (flipped 2) 4095 :=
  ⟨by simp [tileInstrs], by decide +kernel, by decide +kernel, by decide +kernel, by decide +kernel⟩

/-- What a command's meaning answers. -/
def answer (d : Desc) (k w : Nat) (g : Prog) (body : Body) : Except RFault (List Ev × List Nat) :=
  (Meaning (tiles d g) 15 .b k g (jobOf d) (cmd 3 w) body).1

theorem witness_EveryTileCommandIssues :
    (.setq 15 .b, 2, oSETQ, setqBody) ∈ tileInstrs 15 .b 1 ∧ okIs (answer dF 2 wSetq (headed 2 wSetq) setqBody) ([], []) = true ∧
    (.epoch 15 .b, 4, oEPOCH, epochBody) ∈ tileInstrs 15 .b 1 ∧
    failIs (answer dR 4 (wEpoch 2) (headed 4 (wEpoch 2)) epochBody) (plainFault stPROG_BAD) = true :=
  ⟨by simp [tileInstrs], by decide +kernel, by simp [tileInstrs], by decide +kernel⟩

theorem witness_ControlCommandsIssueAndEnd :
    (ready dF 2 oSETQ wSetq && ready dF 1 oZACC wZacc && ready dR 4 oFLAGCLR wFlagclr && ready dR 4 oTOKADD wTokadd &&
      ready dR 4 oWAIT wWait && ready dR 4 oLOOP wLoop && ready dR 4 oEPOCH (wEpoch 1) && ready dR 4 oEPOCH (wEpoch 2) &&
      ready dR 4 oLEAVE (wLeave 0) && ready dR 4 oLEAVE (wLeave 3)) = true ∧
    (let s := tiles dR (headed 4 (wEpoch 1))
     bits (wEpoch 1) 64 32 = (headed 4 (wEpoch 1)).epoch + 1 ∧ (roleOf (getCtx s 4095) 1 4095).valid = true ∧
      bits (wEpoch 2) 64 32 ≠ (headed 4 (wEpoch 2)).epoch + 1) ∧
    (let sig (n : Nat) : Nat := wEnd + n * 2 ^ 40 + 63 * 2 ^ 42 + 4095 * 2 ^ 48
     ready dR 4 oEND (sig 0) && ready dR 4 oEND (sig 1) && ready dR 4 oEND (sig 3)) = true ∧
    (let w := wEnd + 2 * 2 ^ 40 + 4094 * 2 ^ 48
     let g := headed 4 w
     let s := awayRole (tiles dR g)
     let r := roleOf (getCtx s 4095) g.epoch (cSdest w)
     Ready s 15 .b 4 oEND g (jobOf dR) (cmd 3 w) ∧ r.valid = true ∧ roleHere s r = false ∧ g.issued = [] ∧
      (getPav s 15).passes.any (fun x => x.q == .b && x.num == 3) = false) ∧
    tget (headed 4 wEnd).tok 63 0 + 1 ≤ 65535 := by decide +kernel

/-- The D of a query tile, whose DQ_ACC words in the context's view are zeroed too. -/
theorem witness_StreamCommandsComplete_dpro :
    let w := wDpro + 1 * 2 ^ 88
    Ready (tiles dB (headed 2 w)) 15 .b 2 oDPRO (headed 2 w) (jobOf dB) (cmd 3 w) ∧
      Served (tiles dB (headed 2 w)) dB [uDQACC] ∧ bit w 88 = true ∧ (dB.byUse uDQACC).isSome = true ∧
      (∀ r < dB.q, (dB.byUse uDQACC).all (fun x => x.space == 0 && decide (x.base + (0 * dB.q + r) * unitStride dB x + 8 * dB.dim ≤
        viewLen (getCtx (tiles dB (headed 2 w)) 4095).regions)) = true) := by decide +kernel

/-- A tile of one element 1 from a stream. -/
def one (use : Nat) : OpTile := ⟨1, 0, use, 0, 8, [[.fin 1 0]]⟩

/-- MMA's program with a query and a key tile resident in array 1. -/
def mmaProg : Prog := { headed 1 wMma with resident := [(1, [one uQ, one uK])] }

theorem witness_ArrayCommandsFillTiles_mma :
    Ready (tiles dF mmaProg) 15 .b 1 oMMA mmaProg (jobOf dF) (cmd 3 wMma) ∧
    okIs (answer dF 1 wMma mmaProg mmaBody) ([], []) = true := by decide +kernel

theorem witness_ArrayCommandsFillTiles_load :
    ready dF 3 oLOAD wLoadFifo = true ∧ okIs (answer dF 3 wLoadFifo (headed 3 wLoadFifo) loadBody) ([], []) = true := by
  decide +kernel

theorem witness_ArrayCommandsFillTiles_drain :
    ready dF 2 oDRAIN wDrain = true ∧ okIs (answer dF 2 wDrain (headed 2 wDrain) drainBody) ([], []) = true := by
  decide +kernel

theorem witness_OutputCommandsKeepTheTiles :
    ready dF 2 oMAXC wMaxc = true ∧ okIs (answer dF 2 wMaxc (headed 2 wMaxc) maxcBody) ([], []) = true ∧
    ready dF 3 oPREF wPref = true ∧ okIs (answer dF 3 wPref (headed 3 wPref) prefBody) ([], []) = true ∧
    Up up ∧ cachedGroups up = 0 := by decide +kernel

/-- A LOAD of a key tile of sequence 262,142 waits in its queue, and group 127 is in cache mode. -/
def prefetching : State :=
  seqIn (desc1 128 0 0) 1
    { tiles { dF with streams := dF.streams.map (fun x => if x.use = uK then { x with space := 2, base := 262142 } else x) }
        (headed 3 wLoad) with
      ter := { up.ter with cached := 1#128 <<< 127 } }

theorem witness_OutputCommandsKeepTheTiles_prefetch :
    let s := prefetching
    let g := headed 3 wLoad
    Up s ∧ liveProg s 15 .b = some g ∧ cachedGroups s ≠ 0 ∧ xfersNow s < 16384 ∧ (∀ l ∈ s.ter.lines, l.dirty = false) ∧
      ((findJob s 4095 1).bind (fun j =>
        (((loadsAhead s g).flatMap (fun l => loadPlots s j l.1 l.2)).eraseDups.take (getCtx s 4095).pfDepth).find?
          (fun x => !plotCached s x.1 x.2.1))) = some (0x2000C000, 16384, 262142) := by decide +kernel

theorem witness_StreamCommandsComplete :
    (Served (tiles dF progJ) dF [] ∧ Served (tiles dBout progJ) dBout [] ∧ Served (tiles dR progJ) dR [] ∧
      Served (tiles dB progJ) dB [uDQACC, uDKVACC]) ∧
    (dF.stream (bits wLoad 66 8) = some (str 1 uK 4) ∧ dF.hasPro (str 1 uK 4).use = false) ∧
    (bits wDrainP 75 3 ≠ 4 ∧ bits wDrainDs 75 3 = 4) := by decide +kernel

theorem witness_StreamCommandsComplete_mma :
    let fifo := tget mmaProg.fifo (queueOf wMma) []
    (bits wMma 65 2 ≤ 1 ∧ bits wMma 67 2 ≤ 1 ∧ bits wMma 83 1 = 0 ∧ bits wMma 84 1 = 0 ∧ bits wMma 91 4 ≠ 7) ∧
    (if bits wMma 65 2 = 0 then residentTile mmaProg (queueOf wMma) (bits wMma 91 4) false else fifo.head?) = some (one uQ) ∧
    (if bits wMma 67 2 = 0 then residentTile mmaProg (queueOf wMma) (bits wMma 91 4) true
      else (fifo.drop 0).head?) = some (one uK) ∧
    (one uQ).rows ≠ [] ∧ (∀ row ∈ (one uQ).rows, row.length = (one uK).rows.length) ∧
    (∀ row ∈ (one uK).rows, row.length = 1) ∧ tilesOf (one uQ).rows.length 1 ≤ bits wMma 87 4 + 1 := by decide +kernel

theorem witness_StreamCommandsComplete_words :
    let x : Stream := { str 4 uDQACC 10 with space := 0, base := 0 }
    dB.stream (bits wAccw 73 8) = some x ∧ dB.stream (bits wFin 65 8) = some x ∧ dB.jtype ≠ 3 ∧
      WordsStand (tiles dB progJ) 4095 dB x (0 * tileRows dB x.use) (tileRows dB x.use) := by decide +kernel

/-- A DMODE 4 drain finds the p_f that an earlier DMODE 3 drain of its tile left. -/
theorem witness_StreamCommandsComplete_dmode4 :
    let g : Prog := { headed 2 wDrainDs with pf := [⟨0, false, 0, 0, 0, []⟩] }
    Ready (tiles dBout g) 15 .b 2 oDRAIN g (jobOf dBout) (cmd 3 wDrainDs) ∧
      (∃ f ∈ g.pf, f.kt = (tref (cmd 3 wDrainDs).word.toNat [0, 0, 0, 0]).toNat) := by decide +kernel

/-- E4M3 stays below 2^9. -/
theorem witness_StreamCommandsComplete_bounded (sid use : Nat) : Bounded (str sid use 4) := by
  refine ⟨rfl, ?_⟩
  show ∀ n, n < 256 → ((fmtOf 4).val n).dv.exceeds 8 = false
  decide +kernel

end Sys2Proof.Tests
end

section
/-!
PROOFS. What framing leaves alone of a command that puts nothing on a link: the words of the P-port, the acknowledgement of
an ACLK change and the HELLO messages, which the link layer does not number (R272), leave as they are.
-/
namespace Sys2Proof.Proofs.Architecture
open Sys2Proof.Machine Sys2Proof.Laws

/-- What has left the ports from s to t is nothing that framing puts on a link. -/
def SendsUnframed (s t : State) : Prop := ∃ l, t.out = s.out ++ l ∧ ∀ o ∈ l, ∀ u, frameOut u o = u

theorem SendsUnframed.of_out_eq {s t : State} (h : t.out = s.out) : SendsUnframed s t := ⟨[], by simpa using h, by simp⟩

theorem SendsUnframed.emit (o : Out) (s : State) (h : ∀ u, frameOut u o = u) : SendsUnframed s (emit o s) :=
  ⟨[o], rfl, by simpa using h⟩

theorem SendsUnframed.trans {s t u : State} (h : SendsUnframed s t) (g : SendsUnframed t u) : SendsUnframed s u := by
  obtain ⟨l, hl, hf⟩ := h
  obtain ⟨m, hm, hg⟩ := g
  refine ⟨l ++ m, by rw [hm, hl, List.append_assoc], fun o ho => ?_⟩
  exact (List.mem_append.mp ho).elim (hf o) (hg o)

theorem frameNew_of_sendsUnframed {s t : State} (h : SendsUnframed s t) : frameNew s.out.length t = t := by
  obtain ⟨l, e, hl⟩ := h
  rw [frameNew, e, List.drop_left]
  clear e
  induction l with
  | nil => rfl
  | cons o l ih =>
    rw [List.foldl_cons, hl o List.mem_cons_self]
    exact ih (fun x hx => hl x (List.mem_cons_of_mem o hx))

/-- A command whose outputs go on no link is its meaning alone. -/
theorem effect_of_sendsUnframed {f : State → State} {s : State} (h : SendsUnframed s (f s))
    (hp : (f s).pending = s.pending) : effect f s = f s := by
  rw [effect, frameNew_of_sendsUnframed h, ← hp]

/-- Such a command, where it acts outside reset, has done nothing or its meaning. -/
theorem running_of_sendsUnframed {f : State → State} {s t : State} (h : running f s = .next t)
    (hs : SendsUnframed s (f s)) (hp : (f s).pending = s.pending) : t = s ∨ t = f s := by
  obtain ⟨-, -, rfl⟩ | ⟨-, rfl⟩ := running_cases f s t h
  · exact .inr (effect_of_sendsUnframed hs hp)
  · exact .inl rfl

/-- The same of a command that acts only once start-up has ended. -/
theorem live_of_sendsUnframed {f : State → State} {s t : State} (h : live f s = .next t)
    (hs : SendsUnframed s (f s)) (hp : (f s).pending = s.pending) : t = s ∨ t = f s := by
  obtain ⟨-, rfl⟩ | ⟨-, -, rfl⟩ := live_cases f s t h
  · exact .inr (effect_of_sendsUnframed hs hp)
  · exact .inl rfl

/-- A trace event changes the trace alone. -/
theorem traceEv_only (src type ctx pav status a b : Nat) (s : State) :
    ∃ r, traceEv src type ctx pav status a b s = { s with trace := r } := by
  unfold traceEv
  dsimp only
  split
  · exact ⟨_, rfl⟩
  · exact ⟨_, rfl⟩

end Sys2Proof.Proofs.Architecture
end

section
/-!
PROOFS. What power commands can change (R26, R421, R425, R428): one frame that every operation of the power unit keeps.
-/
namespace Sys2Proof.Proofs.Architecture
open Sys2Proof.Machine Sys2Proof.Laws

/-- s with everything of t that a power command may change. -/
def withPowerOf (s t : State) : State :=
  { s with
    sys := { s.sys with errSts := t.sys.errSts, errNow := t.sys.errNow, thermTrip := t.sys.thermTrip }
    power := t.power, pavs := t.pavs, trace := t.trace, out := t.out }

/-- A Pavilion v with the classes and the performance counters of w. -/
def withGrantsOf (v w : Pav) : Pav := { v with leave := w.leave, leaveReq := w.leaveReq, perfCnt := w.perfCnt }

/-- Two states that differ at most in what a power command may change. -/
structure PowerFrame (s t : State) : Prop where
  only : t = withPowerOf s t
  pav : ∀ p, getPav t p = withGrantsOf (getPav s p) (getPav t p)
  sends : SendsUnframed s t

theorem PowerFrame.refl (s : State) : PowerFrame s s := ⟨rfl, fun _ => rfl, .of_out_eq rfl⟩

theorem PowerFrame.trans {s t u : State} (h : PowerFrame s t) (g : PowerFrame t u) : PowerFrame s u where
  only := calc
    u = withPowerOf t u := g.only
    _ = withPowerOf (withPowerOf s t) u := by rw [← h.only]
    _ = withPowerOf s u := rfl
  pav p := calc
    getPav u p = withGrantsOf (getPav t p) (getPav u p) := g.pav p
    _ = withGrantsOf (withGrantsOf (getPav s p) (getPav t p)) (getPav u p) := by rw [← h.pav p]
    _ = withGrantsOf (getPav s p) (getPav u p) := rfl
  sends := h.sends.trans g.sends

theorem PowerFrame.pending {s t : State} (h : PowerFrame s t) : t.pending = s.pending := by
  rw [h.only]
  rfl

theorem PowerFrame.ite {c : Prop} [Decidable c] {s t u : State} (h : PowerFrame s t) (g : PowerFrame s u) :
    PowerFrame s (if c then t else u) := by
  split
  · exact h
  · exact g

theorem PowerFrame.running {f : State → State} {s t : State} (h : PowerFrame s (f s)) (e : running f s = .next t) :
    PowerFrame s t := by
  obtain rfl | rfl := running_of_sendsUnframed e h.sends h.pending
  · exact .refl _
  · exact h

theorem PowerFrame.live {f : State → State} {s t : State} (h : PowerFrame s (f s)) (e : live f s = .next t) :
    PowerFrame s t := by
  obtain rfl | rfl := live_of_sendsUnframed e h.sends h.pending
  · exact .refl _
  · exact h

/-! The shared updates. -/

theorem powerFrame_power (w : Power) (s : State) : PowerFrame s { s with power := w } := ⟨rfl, fun _ => rfl, .of_out_eq rfl⟩

theorem powerFrame_setErr (b : Nat) (s : State) : PowerFrame s (setErr b s) := ⟨rfl, fun _ => rfl, .of_out_eq rfl⟩

theorem powerFrame_emit (o : Out) (s : State) (h : ∀ u, frameOut u o = u) : PowerFrame s (emit o s) :=
  ⟨rfl, fun _ => rfl, .emit o s h⟩

theorem powerFrame_traceEv (src type ctx pav status a b : Nat) (s : State) :
    PowerFrame s (traceEv src type ctx pav status a b s) := by
  obtain ⟨r, h⟩ := traceEv_only src type ctx pav status a b s
  rw [h]
  exact ⟨rfl, fun _ => rfl, .of_out_eq rfl⟩

theorem powerFrame_modPav (p : Nat) (f : Pav → Pav) (s : State) (hf : ∀ v, f v = withGrantsOf v (f v)) :
    PowerFrame s (modPav p f s) where
  only := rfl
  pav q := by
    rw [getPav_modPav]
    split
    · rename_i h
      subst h
      exact hf _
    · rfl
  sends := .of_out_eq rfl

theorem powerFrame_perfEvent (p ev n : Nat) (s : State) : PowerFrame s (perfEvent p ev n s) :=
  powerFrame_modPav p _ s (fun _ => rfl)

theorem powerFrame_setLeave (p n : Nat) (s : State) : PowerFrame s (setLeave p n s) := by
  unfold setLeave
  exact .ite (.refl s) ((powerFrame_power _ s).trans (powerFrame_modPav p _ _ (fun _ => rfl)))

/-! Revoking and granting (R420, R421, R428). -/

/-- A revocation is a change of a Pavilion's class, its performance event and its trace event. -/
theorem powerFrame_revocation (p old new : Nat) (s : State) :
    PowerFrame s (traceEv 6 1 0 p 0 old new (perfEvent p 0x10 1 (setLeave p new s))) :=
  ((powerFrame_setLeave p new s).trans (powerFrame_perfEvent p 0x10 1 _)).trans (powerFrame_traceEv ..)

theorem powerFrame_revokeTo (budget n : Nat) (s : State) : PowerFrame s (revokeTo budget n s) := by
  induction n generalizing s with
  | zero => exact .refl s
  | succ n ih => exact .ite (.refl s) ((powerFrame_revocation ..).trans (ih (revokeOne budget s)))

theorem powerFrame_revoke (s : State) : PowerFrame s (revoke s) := powerFrame_revokeTo _ _ s

theorem powerFrame_revokeAll (s : State) : PowerFrame s (revokeAll s) := by
  unfold revokeAll
  generalize List.range 16 = l
  induction l generalizing s with
  | nil => exact .refl s
  | cons _ l ih => exact .trans (.ite (.refl s) (powerFrame_revocation ..)) (ih _)

theorem powerFrame_grantRound (ps : List Nat) (s : State) : PowerFrame s (grantRound ps s) := by
  induction ps generalizing s with
  | nil => exact .refl s
  | cons p ps ih =>
    refine .ite (ih s) (.ite (.refl s) (.trans ?_ (ih _)))
    exact ((powerFrame_setLeave p _ s).trans (powerFrame_modPav p _ _ (fun _ => rfl))).trans (powerFrame_power _ _)

theorem powerFrame_arbitrate (s : State) : PowerFrame s (arbitrate s) :=
  .ite (.refl s) ((powerFrame_revoke s).trans (powerFrame_grantRound _ _))

/-! Samples and the forecast (R424, R425). -/

theorem powerFrame_takeSample (q x : Nat) (s : State) : PowerFrame s (takeSample q x s) :=
  .ite ((powerFrame_power _ s).trans (powerFrame_setErr _ _)) (.ite (powerFrame_power _ s) (powerFrame_power _ s))

theorem powerFrame_takeMeas (w : BitVec 64) (s : State) : PowerFrame s (takeMeas w s) := by
  unfold takeMeas
  dsimp only
  refine .ite (.refl s) ?_
  split
  · exact .ite (powerFrame_power _ s) ((powerFrame_takeSample _ _ s).trans (powerFrame_power _ _))
  · exact powerFrame_power _ s

theorem powerFrame_publish (s : State) : PowerFrame s (publish s) := .ite (.refl s) (powerFrame_power _ s)

theorem powerFrame_sendFcst (s : State) : PowerFrame s (sendFcst s) :=
  .ite ((powerFrame_publish s).trans (powerFrame_emit _ _ (fun _ => rfl))) (.refl s)

/-! Pumphouse's loops and the sensors (R423, R427, R428). -/

theorem powerFrame_powerLoop (s : State) : PowerFrame s (powerLoop s) := by
  refine .ite (.refl s) (.trans (.trans (.trans ?_ (powerFrame_power _ _)) (powerFrame_revoke _)) (powerFrame_publish _))
  exact .ite (powerFrame_takeSample _ _ s) (.refl s)

theorem powerFrame_thermalLoop (s : State) : PowerFrame s (thermalLoop s) :=
  .ite (.refl s) (.ite ((powerFrame_power _ s).trans (powerFrame_revoke _)) (.ite (powerFrame_power _ s) (.refl s)))

theorem powerFrame_thermTrip (s : State) : PowerFrame s (thermTrip s) := by
  have latch : PowerFrame s
      { s with power := { s.power with trip := true }, sys := { s.sys with thermTrip := true } } :=
    ⟨rfl, fun _ => rfl, .of_out_eq rfl⟩
  exact (latch.trans (powerFrame_setErr _ _)).trans (powerFrame_revokeAll _)

theorem powerFrame_readSensor (n : Nat) (x : BitVec 12) (invalid : Bool) (s : State) :
    PowerFrame s (readSensor n x invalid s) :=
  .ite ((powerFrame_power _ s).trans (powerFrame_thermTrip _)) (powerFrame_power _ s)

/-! Words of the P-port and the ACLK handshake (R434, R457). -/

theorem powerFrame_adoptBudget (budget ramp : Nat) (s : State) : PowerFrame s (adoptBudget budget ramp s) :=
  powerFrame_power _ s

theorem powerFrame_takeBudget (w : BitVec 64) (s : State) : PowerFrame s (takeBudget w s) := by
  have noted := powerFrame_power { s.power with pCap := bits w.toNat 16 12, lastBudget := w } s
  exact .ite (.refl s) (.ite ((noted.trans (powerFrame_adoptBudget _ _ _)).trans (powerFrame_revoke _))
    ((noted.trans (powerFrame_power _ _)).trans (powerFrame_revoke _)))

theorem powerFrame_takeAclkf (w : BitVec 64) (s : State) : PowerFrame s (takeAclkf w s) :=
  .ite (.refl s) (powerFrame_power _ s)

theorem powerFrame_aclkRises (s : State) : PowerFrame s (aclkRises s) :=
  .ite (.refl s) ((powerFrame_power _ s).trans (powerFrame_emit _ _ (fun _ => rfl)))

theorem powerFrame_aclkFalls (s : State) : PowerFrame s (aclkFalls s) :=
  .ite (.refl s) (((powerFrame_power _ s).trans (powerFrame_revoke _)).trans (powerFrame_emit _ _ (fun _ => rfl)))

/-- A word of the P-port that is only sent. -/
theorem powerFrame_pword (w : BitVec 64) (s : State) : PowerFrame s (emit (.pword w) s) := powerFrame_emit _ s (fun _ => rfl)

/-- What a power command changes at most. -/
theorem powerFrame_exec (c : Instr) (s t : State) (h : exec c s = .next t)
    (hc : (∃ w, c = .budget w ∨ c = .meas w ∨ c = .aclkf w) ∨ c = .aclkReqRise ∨ c = .aclkReqFall ∨ c = .leaveGrant ∨
      c = .powerLoop ∨ c = .thermalLoop ∨ c = .fcst ∨ (∃ n, c = .temp n) ∨ c = .status ∨
      ∃ n x invalid, c = .sensorRead n x invalid) : PowerFrame s t := by
  obtain ⟨w, rfl | rfl | rfl⟩ | rfl | rfl | rfl | rfl | rfl | rfl | ⟨n, rfl⟩ | rfl | ⟨n, x, invalid, rfl⟩ := hc
  · exact (powerFrame_takeBudget w s).running h
  · exact (powerFrame_takeMeas w s).running h
  · exact (powerFrame_takeAclkf w s).running h
  · exact (powerFrame_aclkRises s).running h
  · exact (powerFrame_aclkFalls s).running h
  · exact (powerFrame_arbitrate s).live h
  · exact (powerFrame_powerLoop s).running h
  · exact (powerFrame_thermalLoop s).running h
  · exact (powerFrame_sendFcst s).running h
  · exact (powerFrame_pword (tempWord s n.val) s).running (f := fun s => emit (.pword (tempWord s n.val)) s) h
  · exact (powerFrame_pword (statusWord s) s).running (f := fun s => emit (.pword (statusWord s)) s) h
  · exact (powerFrame_readSensor n.val x invalid s).running h

end Sys2Proof.Proofs.Architecture
end

section
/-!
PROOFS. What the configuration, bring-up and failure of a path or a G-port can change (R26, R264, R293, R294).
-/
namespace Sys2Proof.Proofs.Architecture
open Sys2Proof.Machine Sys2Proof.Laws

/-- s with everything of t that a command of link bring-up may change. -/
def withLinksOf (s t : State) : State :=
  { s with
    sys := { s.sys with errSts := t.sys.errSts, errNow := t.sys.errNow }
    prom := { s.prom with paths := t.prom.paths, gports := t.prom.gports }
    trace := t.trace, out := t.out }

/-- Two states that differ at most in what a command of link bring-up may change. -/
structure BringUpFrame (s t : State) : Prop where
  only : t = withLinksOf s t
  sends : SendsUnframed s t

theorem BringUpFrame.refl (s : State) : BringUpFrame s s := ⟨rfl, .of_out_eq rfl⟩

theorem BringUpFrame.trans {s t u : State} (h : BringUpFrame s t) (g : BringUpFrame t u) : BringUpFrame s u where
  only := calc
    u = withLinksOf t u := g.only
    _ = withLinksOf (withLinksOf s t) u := by rw [← h.only]
    _ = withLinksOf s u := rfl
  sends := h.sends.trans g.sends

theorem BringUpFrame.pending {s t : State} (h : BringUpFrame s t) : t.pending = s.pending := by
  rw [h.only]
  rfl

theorem BringUpFrame.ite {c : Prop} [Decidable c] {s t u : State} (h : BringUpFrame s t) (g : BringUpFrame s u) :
    BringUpFrame s (if c then t else u) := by
  split
  · exact h
  · exact g

theorem BringUpFrame.running {f : State → State} {s t : State} (h : BringUpFrame s (f s)) (e : running f s = .next t) :
    BringUpFrame s t := by
  obtain rfl | rfl := running_of_sendsUnframed e h.sends h.pending
  · exact .refl _
  · exact h

theorem BringUpFrame.live {f : State → State} {s t : State} (h : BringUpFrame s (f s)) (e : live f s = .next t) :
    BringUpFrame s t := by
  obtain rfl | rfl := live_of_sendsUnframed e h.sends h.pending
  · exact .refl _
  · exact h

/-! The shared updates. -/

theorem bringUpFrame_setErr (b : Nat) (s : State) : BringUpFrame s (setErr b s) := ⟨rfl, .of_out_eq rfl⟩

theorem bringUpFrame_traceEv (src type ctx pav status a b : Nat) (s : State) :
    BringUpFrame s (traceEv src type ctx pav status a b s) := by
  obtain ⟨r, h⟩ := traceEv_only src type ctx pav status a b s
  rw [h]
  exact ⟨rfl, .of_out_eq rfl⟩

theorem bringUpFrame_setLink (port : LinkPort) (l : Link) (s : State) : BringUpFrame s (setLink port l s) := by
  cases port with
  | path p => exact ⟨rfl, .of_out_eq rfl⟩
  | gport g => exact ⟨rfl, .of_out_eq rfl⟩

theorem bringUpFrame_modLink (port : LinkPort) (f : Link → Link) (s : State) : BringUpFrame s (modLink port f s) :=
  bringUpFrame_setLink port _ s

theorem bringUpFrame_traceLink (port : LinkPort) (st cause : Nat) (s : State) :
    BringUpFrame s (traceLink port st cause s) := by
  cases port with
  | path p => exact bringUpFrame_traceEv ..
  | gport g => exact bringUpFrame_traceEv ..

/-- A change of a link's state. -/
theorem bringUpFrame_linkState (port : LinkPort) (st cause : Nat) (s : State) :
    BringUpFrame s (linkState port st cause s) := by
  have entered (c : Nat) (l : Link) : BringUpFrame s (traceLink port st c (setLink port l s)) :=
    (bringUpFrame_setLink port l s).trans (bringUpFrame_traceLink port st c _)
  exact .ite ((entered _ _).trans (bringUpFrame_setErr _ _)) (.ite ((entered _ _).trans (bringUpFrame_setErr _ _)) (entered _ _))

/-- A change of a link's registers and then of its state. -/
theorem bringUpFrame_setLink_linkState (port : LinkPort) (l : Link) (st cause : Nat) (s : State) :
    BringUpFrame s (linkState port st cause (setLink port l s)) :=
  (bringUpFrame_setLink port l s).trans (bringUpFrame_linkState port st cause _)

/-! PATH_CFG and PATH_RSTORE (R263, R270). -/

theorem bringUpFrame_writePathCfg (p : Fin 4) (v : BitVec 64) (be : BitVec 8) (s : State) :
    BringUpFrame s (writePathCfg p v be s) := by
  have locked (c : Bool) : BringUpFrame s (if c then setErr ebCFG_LOCKED s else s) := .ite (bringUpFrame_setErr _ s) (.refl s)
  refine .ite (.ite (locked _) ((locked _).trans (bringUpFrame_setLink_linkState ..))) (.ite ?_ (.ite ?_ ?_))
  · exact bringUpFrame_setLink ..
  · exact bringUpFrame_setLink_linkState ..
  · exact bringUpFrame_setLink_linkState ..

theorem bringUpFrame_writePathRstore (p : Fin 4) (v : BitVec 64) (be : BitVec 8) (s : State) :
    BringUpFrame s (writePathRstore p v be s) := .ite (bringUpFrame_setErr _ s) (bringUpFrame_setLink ..)

/-! HELLO (R272, R293). -/

theorem bringUpFrame_sendHello (port : LinkPort) (ack : Bool) (s : State) : BringUpFrame s (sendHello port ack s) :=
  (bringUpFrame_modLink port _ s).trans ⟨rfl, .emit _ _ (fun _ => rfl)⟩

theorem bringUpFrame_enterHello (port : LinkPort) (s : State) : BringUpFrame s (enterHello port s) :=
  (bringUpFrame_setLink_linkState port _ lsHello 0 s).trans (bringUpFrame_sendHello port false _)

theorem bringUpFrame_enterUp (port : LinkPort) (s : State) : BringUpFrame s (enterUp port s) :=
  .ite (.refl s) (bringUpFrame_setLink_linkState ..)

theorem bringUpFrame_helloDone (port : LinkPort) (s : State) : BringUpFrame s (helloDone port s) :=
  .ite (.ite (bringUpFrame_linkState ..) (bringUpFrame_enterUp port s)) (.refl s)

theorem bringUpFrame_takeHelloBody (port : LinkPort) (ack : Bool) (body : BitVec 256) (s : State) :
    BringUpFrame s (takeHelloBody port ack body s) :=
  .ite (bringUpFrame_linkState ..) (.ite (bringUpFrame_linkState ..)
    ((bringUpFrame_setLink port _ s).trans (bringUpFrame_helloDone port _)))

theorem bringUpFrame_takeHello (port : LinkPort) (body : BitVec 256) (s : State) :
    BringUpFrame s (takeHello port body s) :=
  .ite ((bringUpFrame_sendHello port true s).trans (bringUpFrame_takeHelloBody port false body _)) (.refl s)

theorem bringUpFrame_takeHelloAck (port : LinkPort) (body : BitVec 256) (s : State) :
    BringUpFrame s (takeHelloAck port body s) := .ite (bringUpFrame_takeHelloBody port true body s) (.refl s)

theorem bringUpFrame_resendHello (port : LinkPort) (s : State) :
    BringUpFrame s (if (getLink s port).state = lsHello then sendHello port false s else s) :=
  .ite (bringUpFrame_sendHello port false s) (.refl s)

/-! Timeouts, retraining, lanes and the G-ports (R293, R294, R453). -/

theorem bringUpFrame_failFrom (port : LinkPort) (st cause : Nat) (s : State) :
    BringUpFrame s (failFrom port st cause s) := .ite (bringUpFrame_linkState ..) (.refl s)

theorem bringUpFrame_keyConfirmed (p : Fin 4) (s : State) : BringUpFrame s (keyConfirmed p s) :=
  .ite (bringUpFrame_enterUp _ s) (.refl s)

theorem bringUpFrame_enterRetrain (port : LinkPort) (s : State) : BringUpFrame s (enterRetrain port s) :=
  .ite (bringUpFrame_linkState ..) (bringUpFrame_setLink_linkState ..)

theorem bringUpFrame_lanesLock (p : Fin 4) (lanes : BitVec 16) (s : State) : BringUpFrame s (lanesLock p lanes s) := by
  have noted := bringUpFrame_setLink (.path p) { getLink s (.path p) with lanesOk := lanes } s
  exact .ite (noted.trans (bringUpFrame_enterHello _ _)) (.ite (noted.trans (bringUpFrame_enterUp _ _)) noted)

theorem bringUpFrame_laneLost (lane : Nat) (s : State) : BringUpFrame s (laneLost lane s) := by
  unfold laneLost
  split
  · exact .refl s
  · exact .ite ((bringUpFrame_modLink _ _ s).trans (bringUpFrame_enterRetrain _ _)) (bringUpFrame_modLink _ _ s)

theorem bringUpFrame_gRises (g : Fin 4) (s : State) : BringUpFrame s (gRises g s) :=
  .ite (.refl s) ((bringUpFrame_setLink _ _ s).trans (bringUpFrame_enterHello _ _))

theorem bringUpFrame_gFalls (g : Fin 4) (s : State) : BringUpFrame s (gFalls g s) :=
  .ite ((bringUpFrame_setLink _ _ s).trans (bringUpFrame_enterRetrain _ _)) (bringUpFrame_setLink _ _ s)

/-- What a command of link bring-up changes at most. -/
theorem bringUpFrame_exec (c : Instr) (s t : State) (h : exec c s = .next t)
    (hc : (∃ p v be, c = .pathEnable p v be ∨ c = .pathDisable p v be ∨ c = .pathRstoreWrite p v be) ∨
      (∃ p x, c = .laneLockGain p x) ∨ (∃ n, c = .laneLockLoss n) ∨ (∃ p skew, c = .trainTimeout p skew) ∨
      (∃ port, c = .helloResend port ∨ c = .helloTimeout port ∨ c = .retrainTimeout port) ∨
      (∃ port body, c = .hello port body ∨ c = .helloAck port body) ∨
      ∃ p, c = .secureTimeout p ∨ c = .pathIdentityKeyConfirm p ∨ c = .gUpRise p ∨ c = .gUpFall p) :
    BringUpFrame s t := by
  obtain ⟨p, v, be, rfl | rfl | rfl⟩ | ⟨p, x, rfl⟩ | ⟨n, rfl⟩ | ⟨p, skew, rfl⟩ | ⟨port, rfl | rfl | rfl⟩ |
    ⟨port, body, rfl | rfl⟩ | ⟨p, rfl | rfl | rfl | rfl⟩ := hc
  · exact (bringUpFrame_writePathCfg p v be s).running h
  · exact (bringUpFrame_writePathCfg p v be s).running h
  · exact (bringUpFrame_writePathRstore p v be s).running h
  · exact (bringUpFrame_lanesLock p x s).live h
  · exact (bringUpFrame_laneLost n.val s).live h
  · exact (bringUpFrame_failFrom (.path p) lsTrain _ s).live h
  · exact (bringUpFrame_resendHello port s).live
      (f := fun s => if (getLink s port).state = lsHello then sendHello port false s else s) h
  · exact (bringUpFrame_failFrom port lsHello 4 s).live h
  · exact (bringUpFrame_failFrom port lsRetrain 8 s).live h
  · exact (bringUpFrame_takeHello port body s).live h
  · exact (bringUpFrame_takeHelloAck port body s).live h
  · exact (bringUpFrame_failFrom (.path p) lsSecure 7 s).live h
  · exact (bringUpFrame_keyConfirmed p s).live h
  · exact (bringUpFrame_gRises p s).live h
  · exact (bringUpFrame_gFalls p s).live h

/-- Settles O60: a power command keeps the power frame and a command of link bring-up keeps the link frame, since none of
them sends anything that the link layer frames. -/
theorem powerAndLinksLeaveTheRest : Obligations.PowerAndLinksLeaveTheRest := by
  unfold Obligations.PowerAndLinksLeaveTheRest
  refine ⟨fun c s t h hc => ?_, fun c s t h hc => (bringUpFrame_exec c s t h hc).only⟩
  have frame := powerFrame_exec c s t h hc
  exact ⟨frame.only, frame.pav⟩

end Sys2Proof.Proofs.Architecture
end

section
/-!
PROOFS. The A64 combine of R48 with the causes that R47 gives: any order of the contributions gives the same element, and
the least cause among them stays. How products take their tags (R47), and what a tagged element keeps (R49).
-/
namespace Sys2Proof.Proofs.Arithmetic
open Sys2Proof.Machine

/-- A contribution that is no NaN, or a NaN of one of the causes 1 to 3 (R47, R48). -/
def Caused (a : AV) : Prop := ∀ c, a = .nan c → 1 ≤ c ∧ c ≤ 3

/-! The table of R48. -/

@[simp] theorem combine_fin_fin (x y : Int) : AV.combine (.fin x) (.fin y) = .fin (x + y) := rfl

/-- A finite element takes any contribution but a finite one as it is. -/
theorem combine_fin_left (x : Int) (a : AV) (h : ∀ y, a ≠ .fin y) : AV.combine (.fin x) a = a := by
  cases a with
  | fin y => exact absurd rfl (h y)
  | inf s => rfl
  | nan c => rfl

theorem combine_inf_not (s : Bool) : AV.combine (.inf s) (.inf (!s)) = .nan 3 := by cases s <;> rfl

/-- Two infinities give an infinity or NaN with cause 3. -/
theorem combine_inf_inf (s t : Bool) : AV.combine (.inf s) (.inf t) = if s = t then .inf s else .nan 3 := rfl

@[simp] theorem combine_nan_fin (c : Nat) (x : Int) : AV.combine (.nan c) (.fin x) = .nan c := rfl

@[simp] theorem combine_nan_inf (c : Nat) (s : Bool) : AV.combine (.nan c) (.inf s) = .nan c := rfl

@[simp] theorem combine_inf_nan (s : Bool) (c : Nat) : AV.combine (.inf s) (.nan c) = .nan c := rfl

@[simp] theorem combine_nan_nan (c d : Nat) : AV.combine (.nan c) (.nan d) = .nan (Nat.min c d) := rfl

theorem combine_comm (a b : AV) : AV.combine a b = AV.combine b a := by
  cases a with
  | fin x => cases b with
    | fin y => rw [combine_fin_fin, combine_fin_fin, Int.add_comm]
    | inf t => rfl
    | nan d => rfl
  | inf s => cases b with
    | fin y => rfl
    | inf t => cases s <;> cases t <;> rfl
    | nan d => rfl
  | nan c => cases b with
    | fin y => rfl
    | inf t => rfl
    | nan d => exact congrArg AV.nan (Nat.min_comm c d)

theorem combine_fin_right (x : Int) (a : AV) (h : ∀ y, a ≠ .fin y) : AV.combine a (.fin x) = a := by
  rw [combine_comm, combine_fin_left x a h]

/-! The order of the contributions. -/

/-- A finite contribution may come before or after another one. -/
theorem combine_fin_swap (z b : AV) (x : Int) :
    AV.combine (AV.combine z (.fin x)) b = AV.combine (AV.combine z b) (.fin x) := by
  cases z with
  | fin w => cases b with
    | fin y => exact congrArg AV.fin (Int.add_right_comm w x y)
    | inf t => rfl
    | nan d => rfl
  | inf s => cases b with
    | fin y => rfl
    | inf t => cases s <;> cases t <;> rfl
    | nan d => rfl
  | nan c => cases b <;> rfl

/-- So may a NaN whose cause is at most that of two infinities, 3. -/
theorem combine_nan_swap (z b : AV) (c : Nat) (hc : c ≤ 3) :
    AV.combine (AV.combine z (.nan c)) b = AV.combine (AV.combine z b) (.nan c) := by
  have h3 : Nat.min 3 c = c := Nat.min_eq_right hc
  cases z with
  | fin w => cases b with
    | fin y => rfl
    | inf t => rfl
    | nan d => exact congrArg AV.nan (Nat.min_comm c d)
  | inf s => cases b with
    | fin y => rfl
    | inf t =>
      rw [combine_inf_inf]
      split
      · rfl
      · rw [combine_nan_nan, h3, combine_inf_nan, combine_nan_inf]
    | nan d => exact congrArg AV.nan (Nat.min_comm c d)
  | nan e => cases b with
    | fin y => rfl
    | inf t => rfl
    | nan d => exact congrArg AV.nan (Nat.min_right_comm e c d)

/-- Two contributions of R47's causes may change places, whatever the element holds. -/
theorem combine_swap (z a b : AV) (ha : Caused a) (hb : Caused b) :
    AV.combine (AV.combine z a) b = AV.combine (AV.combine z b) a := by
  cases a with
  | fin x => exact combine_fin_swap z b x
  | nan c => exact combine_nan_swap z b c (ha c rfl).2
  | inf s => cases b with
    | fin y => exact (combine_fin_swap z _ y).symm
    | nan d => exact (combine_nan_swap z _ d (hb d rfl).2).symm
    | inf t => cases z with
      | fin w => exact combine_comm (.inf s) (.inf t)
      | inf r => cases r <;> cases s <;> cases t <;> rfl
      | nan c => rfl

theorem combine_assoc (a b c : AV) (ha : Caused a) (hc : Caused c) :
    AV.combine (AV.combine a b) c = AV.combine a (AV.combine b c) := calc
  AV.combine (AV.combine a b) c = AV.combine (AV.combine b a) c := by rw [combine_comm a b]
  _ = AV.combine (AV.combine b c) a := combine_swap b a c ha hc
  _ = AV.combine a (AV.combine b c) := combine_comm _ _

/-- The order of contributions does not matter. -/
theorem foldl_combine_perm (z : AV) {l m : List AV} (hl : ∀ a ∈ l, Caused a) (h : l.Perm m) :
    l.foldl AV.combine z = m.foldl AV.combine z :=
  h.foldl_eq' (fun a ha b hb w => combine_swap w a b (hl a ha) (hl b hb)) z

/-! Products (R47) and the sum of a pass. -/

theorem gridProduct_nan_left (u : Int) (x : DV) : gridProduct u .nan x = .nan 1 := by cases x <;> rfl

theorem gridProduct_nan_right (u : Int) (x : DV) : gridProduct u x .nan = .nan 1 := by cases x <;> rfl

theorem gridProduct_inf_fin (u : Int) (s : Bool) (m e : Int) :
    gridProduct u (.inf s) (.fin m e) = if m = 0 then .nan 2 else .inf (s != decide (m < 0)) := rfl

theorem gridProduct_fin_inf (u : Int) (m e : Int) (s : Bool) :
    gridProduct u (.fin m e) (.inf s) = if m = 0 then .nan 2 else .inf (s != decide (m < 0)) := rfl

theorem caused_fin (x : Int) : Caused (.fin x) := fun _ h => by cases h

theorem caused_inf (s : Bool) : Caused (.inf s) := fun _ h => by cases h

theorem caused_nan {c : Nat} (h : 1 ≤ c ∧ c ≤ 3) : Caused (.nan c) := fun d hd => by
  cases hd
  exact h

/-- A product is NaN only with cause 1 or 2. -/
theorem caused_gridProduct (u : Int) (a b : DV) : Caused (gridProduct u a b) := by
  have zero_or_inf (m : Int) (s : Bool) : Caused (if m = 0 then .nan 2 else .inf s) := by
    split
    · exact caused_nan (by decide)
    · exact caused_inf s
  cases a with
  | nan => rw [gridProduct_nan_left]; exact caused_nan (by decide)
  | inf s => cases b with
    | nan => exact caused_nan (by decide)
    | inf t => exact caused_inf _
    | fin m e => exact zero_or_inf m _
  | fin m e => cases b with
    | nan => exact caused_nan (by decide)
    | inf t => exact zero_or_inf m _
    | fin n f => exact caused_fin _

/-- What one position of a row of A and a column of B adds to an element: its product, where it forms one. -/
def addTerm (e : Int) (acc : AV) (p : Option DV × Option DV) : AV :=
  match p.1, p.2 with
  | some x, some y => acc.combine (gridProduct (e - 62) x y)
  | _, _ => acc

theorem elemSum_eq (e : Int) (a : AV) (t : Terms) : elemSum e a t = (t.1.zip t.2).foldl (addTerm e) a := rfl

/-- Two positions of a pass may change places. -/
theorem addTerm_swap (e : Int) (z : AV) (p q : Option DV × Option DV) :
    addTerm e (addTerm e z p) q = addTerm e (addTerm e z q) p := by
  obtain ⟨a, b⟩ := p
  obtain ⟨c, d⟩ := q
  cases a with
  | none => rfl
  | some x => cases b with
    | none => cases c <;> rfl
    | some y => cases c with
      | none => rfl
      | some v => cases d with
        | none => rfl
        | some w => exact combine_swap z _ _ (caused_gridProduct _ x y) (caused_gridProduct _ v w)

/-- The sum of a pass does not depend on the order of its products. -/
theorem elemSum_perm (e : Int) (a : AV) {t u : Terms} (h : (t.1.zip t.2).Perm (u.1.zip u.2)) :
    elemSum e a t = elemSum e a u := by
  rw [elemSum_eq, elemSum_eq]
  exact h.foldl_eq' (fun p _ q _ z => addTerm_swap e z p q) a

/-! The resulting cause. -/

/-- A NaN stays under contributions of no smaller cause. -/
theorem foldl_combine_nan (c : Nat) (l : List AV) (h : ∀ d, AV.nan d ∈ l → c ≤ d) :
    l.foldl AV.combine (.nan c) = .nan c := by
  induction l with
  | nil => rfl
  | cons a l ih =>
    have keeps : AV.combine (.nan c) a = .nan c := by
      cases a with
      | fin x => rfl
      | inf s => rfl
      | nan d => exact congrArg AV.nan (Nat.min_eq_left (h d List.mem_cons_self))
    rw [List.foldl_cons, keeps]
    exact ih (fun d hd => h d (List.mem_cons_of_mem a hd))

/-- The least cause among the contributions of a finite element is the cause of the result. -/
theorem foldl_combine_least (x : Int) (c : Nat) (l : List AV) (hl : ∀ a ∈ l, Caused a) (hc : .nan c ∈ l)
    (h : ∀ d, AV.nan d ∈ l → c ≤ d) : l.foldl AV.combine (.fin x) = .nan c := by
  rw [foldl_combine_perm _ hl (List.perm_cons_erase hc), List.foldl_cons,
    combine_fin_left x (.nan c) (fun y hy => by cases hy)]
  exact foldl_combine_nan c _ (fun d hd => h d (List.mem_of_mem_erase hd))

/-- Both infinities, and no NaN of a smaller cause, give cause 3. -/
theorem foldl_combine_infs (x : Int) (l : List AV) (hl : ∀ a ∈ l, Caused a) (ht : .inf true ∈ l) (hf : .inf false ∈ l)
    (h : ∀ d, AV.nan d ∈ l → 3 ≤ d) : l.foldl AV.combine (.fin x) = .nan 3 := by
  have hf' : AV.inf false ∈ l.erase (.inf true) := (List.mem_erase_of_ne (by decide)).mpr hf
  have perm : l.Perm (.inf true :: .inf false :: (l.erase (.inf true)).erase (.inf false)) :=
    (List.perm_cons_erase ht).trans ((List.perm_cons_erase hf').cons _)
  have start : AV.combine (AV.combine (.fin x) (.inf true)) (.inf false) = .nan 3 := rfl
  rw [foldl_combine_perm _ hl perm, List.foldl_cons, List.foldl_cons, start]
  exact foldl_combine_nan 3 _ (fun d hd => h d (List.mem_of_mem_erase (List.mem_of_mem_erase hd)))

/-- Settles O45: the cases are those of R48's table, and every law of order follows from two contributions changing
places. -/
theorem contributionsCombine : Obligations.ContributionsCombine := by
  unfold Obligations.ContributionsCombine
  refine ⟨combine_fin_fin, fun x a h => ⟨combine_fin_left x a h, combine_fin_right x a h⟩,
    fun s => ⟨by rw [combine_inf_inf, if_pos rfl], combine_inf_not s⟩, combine_nan_inf, combine_nan_nan, combine_comm,
    fun a b c ha _ hc => combine_assoc a b c ha hc, fun a _ _ _ hl h => foldl_combine_perm a hl h,
    fun e a _ _ _ h => elemSum_perm e a h, fun x l hl => ?_⟩
  have least (d : Nat) (hd : .nan d ∈ l) : 1 ≤ d := (hl _ hd d rfl).1
  have ne (c d : Nat) (hc : .nan c ∉ l) (hd : .nan d ∈ l) : d ≠ c := by
    rintro rfl
    exact hc hd
  refine ⟨fun h1 => foldl_combine_least x 1 l hl h1 least, fun h1 h2 => ?_, fun h1 h2 ht hf => ?_⟩
  · refine foldl_combine_least x 2 l hl h2 (fun d hd => ?_)
    have := least d hd
    have := ne 1 d h1 hd
    omega
  · refine foldl_combine_infs x l hl ht hf (fun d hd => ?_)
    have := least d hd
    have := ne 1 d h1 hd
    have := ne 2 d h2 hd
    omega

/-! Stored elements (R38, R49). -/

/-- The value of an element whose tag is not 00 is not finite. -/
theorem av_not_fin (a : AEl) (h : a.tag ≠ 0) (t : Int) : a.av ≠ .fin t := by
  have h0 : a.tag.toNat ≠ 0 := fun e => h (BitVec.eq_of_toNat_eq e)
  unfold AEl.av
  split <;> simp_all

/-- Settles O46: by the operands' kinds for R47, and by the element's tag for R49. -/
theorem productsTakeTheirTags : Obligations.ProductsTakeTheirTags := by
  unfold Obligations.ProductsTakeTheirTags
  refine ⟨fun u m e n f => ⟨_, rfl⟩, fun u m e s hm => ⟨?_, ?_⟩, fun u s t => rfl, fun u e s => ⟨rfl, rfl⟩,
    fun u x => ⟨gridProduct_nan_left u x, gridProduct_nan_right u x⟩, fun t => rfl, rfl, rfl, fun c => rfl,
    fun c a ha => ?_, fun a ha => ?_⟩
  · rw [gridProduct_inf_fin, if_neg hm]
  · rw [gridProduct_fin_inf, if_neg hm, bne_comm]
  · unfold AEl.rescale
    split
    · rename_i t _ _ e
      exact absurd e (av_not_fin a ha t)
    · rfl
  · cases a with
    | fin t => exact absurd rfl (ha t)
    | inf s => rfl
    | nan c => rfl

end Sys2Proof.Proofs.Arithmetic
end

section
/-!
PROOFS. Byte memory and the memories behind the M-ports as a context's message meets them: what a write leaves to be read,
what a cleared range reads, and the two ways in which a source or a destination answers (R393, R449, R511).
-/
namespace Sys2Proof.Proofs.Arithmetic
open Sys2Proof.Machine Sys2Proof.Laws

/-! Bit fields and bytes. -/

theorem bits_lt (x lo w : Nat) : bits x lo w < 2 ^ w := Nat.mod_lt _ (Nat.two_pow_pos w)

@[simp] theorem length_leBytes (n x : Nat) : (leBytes n x).length = n := by
  induction n generalizing x with
  | zero => rfl
  | succ n ih => rw [leBytes, List.length_cons, ih]

/-- Word k of a byte list. -/
theorem leWords_getElem? (w n : Nat) (bs : List Byte) (k : Nat) (h : k < n) :
    (leWords w n bs)[k]? = some (leNat ((bs.drop (w * k)).take w)) := by
  induction n generalizing bs k with
  | zero => omega
  | succ n ih =>
    cases k with
    | zero => simp [leWords]
    | succ k =>
      rw [leWords, List.getElem?_cons_succ, ih _ k (by omega), List.drop_drop]
      congr 4
      ring

/-! Byte memory. -/

@[simp] theorem length_memWalk (n a : Nat) (cs : List Host.Cell) : (memWalk n a cs).length = n := by
  induction n generalizing a cs with
  | zero => cases cs <;> rfl
  | succ n ih =>
    cases cs with
    | nil => rw [memWalk, List.length_cons, ih]
    | cons c cs =>
      rw [memWalk]
      split <;> rw [List.length_cons, ih]

theorem length_memRead (m : Mem) (a n : Nat) : (memRead m a n).length = n := length_memWalk _ _ _

/-- Where no cell is listed, it does not matter where a read starts. -/
theorem memWalk_nil (n a b : Nat) : memWalk n a [] = memWalk n b [] := by
  cases n <;> rfl

theorem memWalk_cellsOf (bs : List Byte) (a : Nat) : memWalk bs.length a (cellsOf a bs) = bs := by
  induction bs generalizing a with
  | nil => rfl
  | cons b bs ih =>
    rw [List.length_cons, cellsOf]
    split
    · rename_i hb
      have later := ih (a + 1)
      have above := mem_cellsOf bs (a + 1)
      cases hc : cellsOf (a + 1) bs with
      | nil =>
        rw [hc, memWalk_nil bs.length (a + 1) 0] at later
        rw [memWalk, later, hb]
      | cons c cs =>
        rw [hc] at later above
        have := (above c List.mem_cons_self).1
        rw [memWalk, if_neg (by omega), later, hb]
    · rw [memWalk, if_pos rfl, ih]

/-- What is written is what is read. -/
theorem memRead_memWrite (m : Mem) (a : Nat) (bs : List Byte) : memRead (memWrite m a bs) a bs.length = bs := by
  unfold memRead memWrite
  rw [List.filter_append, List.filter_append, List.filter_filter, List.filter_filter]
  have below : m.filter (fun c => (decide (a ≤ c.1) && decide (c.1 < a + bs.length)) && decide (c.1 < a)) = [] := by
    rw [List.filter_eq_nil_iff]
    intro c _
    simp
    omega
  have above : m.filter (fun c => (decide (a ≤ c.1) && decide (c.1 < a + bs.length)) && decide (a + bs.length ≤ c.1)) = [] := by
    rw [List.filter_eq_nil_iff]
    intro c _
    simp
  have here : (cellsOf a bs).filter (fun c => decide (a ≤ c.1) && decide (c.1 < a + bs.length)) = cellsOf a bs := by
    rw [List.filter_eq_self]
    intro c hc
    obtain ⟨h1, h2, -⟩ := mem_cellsOf bs a c hc
    simp [h1, h2]
  rw [below, above, here, List.nil_append, List.append_nil, memWalk_cellsOf]

/-- A cleared range reads 0, and every other byte stays. -/
theorem memByte_memZero (m : Mem) (a n x : Nat) :
    memByte (memZero m a n) x = if a ≤ x ∧ x < a + n then 0 else memByte m x := by
  unfold memByte memZero
  rw [List.lookup_append, lookup_filter m (fun k => decide (k < a)), lookup_filter m (fun k => decide (a + n ≤ k))]
  by_cases h1 : x < a
  · have h2 : ¬ a + n ≤ x := by omega
    simp [h1, h2, Nat.not_le.mpr h1]
  · by_cases h2 : a + n ≤ x
    · have h3 : ¬ x < a + n := by omega
      simp [h1, h2, h3]
    · have h3 : a ≤ x ∧ x < a + n := by omega
      simp [h1, h2, h3]

/-! The memories behind the M-ports. -/

theorem length_extPeek (s : State) (space a n : Nat) : (extPeek s space a n).length = n := by
  unfold extPeek
  generalize s.ter.lines.filter _ = ls
  suffices h : ∀ bs : List Byte, (ls.foldl (overlay a) bs).length = bs.length by
    rw [h, length_memRead]
  induction ls with
  | nil => exact fun _ => rfl
  | cons l ls ih =>
    intro bs
    rw [List.foldl_cons, ih]
    simp [overlay]

/-- A read of outside memory sees the Terrace's lines and the memories alone. -/
theorem extPeek_congr {s t : State} (hter : t.ter = s.ter) (hext : t.ext = s.ext) (space a n : Nat) :
    extPeek t space a n = extPeek s space a n := by
  unfold extPeek extMem
  rw [hter, hext]

/-- Lines of host memory that are written back change host memory alone. -/
theorem writeBacks_host (ls : List CacheLine) (s : State) (h : ∀ l ∈ ls, l.space = 1) :
    ∃ m, ls.foldl (fun s l => writeBack l s) s = { s with ext := { s.ext with host := m } } := by
  induction ls generalizing s with
  | nil => exact ⟨s.ext.host, rfl⟩
  | cons l ls ih =>
    have one : ∃ m, writeBack l s = { s with ext := { s.ext with host := m } } := by
      unfold writeBack
      rw [h l List.mem_cons_self]
      split
      · exact ⟨_, rfl⟩
      · exact ⟨s.ext.host, rfl⟩
    obtain ⟨m, hm⟩ := one
    rw [List.foldl_cons, hm]
    exact ih { s with ext := { s.ext with host := m } } (fun x hx => h x (List.mem_cons_of_mem l hx))

/-- A line that lies over a range of host memory. -/
def hitsHost (a n : Nat) (l : CacheLine) : Bool := l.space == 1 && rangesMeet a n (l.addr * 256) 256

/-- A write of Ixdon's own to host memory, past the cached groups (R227): memory takes the bytes, and no line that lies
over them stays. -/
theorem extPut_host (a : Nat) (bs : List Byte) (pw : List Nat) (s : State) :
    ∃ m p, extPut 1 a bs pw false s =
      { s with
        ext := { s.ext with host := memWrite m a bs, hostPoison := p }
        ter := { s.ter with lines := s.ter.lines.filter (fun l => !hitsHost a bs.length l) } } := by
  obtain ⟨m, hm⟩ := writeBacks_host (s.ter.lines.filter (hitsHost a bs.length)) s (fun l hl => by
    have := (List.mem_filter.mp hl).2
    unfold hitsHost at this
    simp only [Bool.and_eq_true, beq_iff_eq] at this
    exact this.1)
  have e : s.ter.lines.filter (fun l => l.space == 1 && rangesMeet a bs.length (l.addr * 256) 256) =
      s.ter.lines.filter (hitsHost a bs.length) := rfl
  refine ⟨m, (extPut 1 a bs pw false s).ext.hostPoison, ?_⟩
  unfold extPut
  simp only [Bool.false_eq_true, if_false]
  rw [e, hm]
  rfl

/-- What such a write leaves is what a read answers. -/
theorem extPeek_extPut_host (a : Nat) (bs : List Byte) (pw : List Nat) (s : State) :
    extPeek (extPut 1 a bs pw false s) 1 a bs.length = bs := by
  obtain ⟨m, p, h⟩ := extPut_host a bs pw s
  have none_over : (s.ter.lines.filter (fun l => !hitsHost a bs.length l)).filter
      (fun l => l.space == 1 && rangesMeet a bs.length (l.addr * 256) 256) = [] := by
    rw [List.filter_filter, List.filter_eq_nil_iff]
    intro l _
    simp [hitsHost]
  rw [h]
  unfold extPeek
  rw [none_over]
  exact memRead_memWrite m a bs

/-- A write for a context that the surroundings deny changes the error status alone (R393). -/
theorem extWrite_denied (s : State) (c space a : Nat) (bs : List Byte) (pw : List Nat) (cached : Bool)
    (h : extDenied s c space a bs.length = true) :
    extWrite s c false space a bs pw cached = (setErr ebM_DENY s, false) := by
  simp [extWrite, h]

theorem extWrite_taken (s : State) (c space a : Nat) (bs : List Byte) (pw : List Nat) (cached : Bool)
    (h : extDenied s c space a bs.length = false) :
    extWrite s c false space a bs pw cached =
      (mQueue true c false space a bs.length (extPut space a bs pw cached s), true) := by
  simp [extWrite, h]

/-- A source in host memory that is neither denied nor poisoned gives its bytes, and only its requests are queued (R511). -/
theorem readSrc_clean (s : State) (c a n : Nat) (hd : extDenied s c 1 a n = false) (hp : extPoisonIn s 1 a n = []) :
    ∃ ps, readSrc c a n s = ({ s with mports := ps }, some (extPeek s 1 a n)) := by
  obtain ⟨ps, hq⟩ := mQueue_only false c false 1 a n s
  refine ⟨ps, ?_⟩
  rw [← hq]
  simp [readSrc, fetchMem, hd, hp]

end Sys2Proof.Proofs.Arithmetic
end

section
/-!
PROOFS. The context commands that load a context's tables (R52, R127, R196, R228, R276): what an accepted message of a
context leaves beside its record, and what each command does to its table.
-/
namespace Sys2Proof.Proofs.Arithmetic
open Sys2Proof.Machine Sys2Proof.Laws Sys2Proof.Claims

/-! Tables with an absent entry. -/

/-- Entry k of a table set, where the absent entry leaves none. -/
def putEntry {α : Type} [DecidableEq α] (absent : α) (k : Nat) (e : α) (t : Tbl α) : Tbl α :=
  if e = absent then tdel t k else tset t k e

theorem tget_putEntry {α : Type} [DecidableEq α] (absent : α) (k : Nat) (e : α) (t : Tbl α) :
    tget (putEntry absent k e t) k absent = e := by
  unfold putEntry
  split
  · rename_i h
    have none_there := tget?_tdel t k k
    rw [if_pos rfl] at none_there
    exact (congrArg (fun o => o.getD absent) none_there).trans h.symm
  · exact tget_tset_self t k e _

theorem tget?_putEntry_ne {α : Type} [DecidableEq α] (absent : α) (k j : Nat) (e : α) (t : Tbl α) (h : j ≠ k) :
    tget? (putEntry absent k e t) j = tget? t j := by
  unfold putEntry
  split
  · rw [tget?_tdel, if_neg h]
  · exact tget?_tset_ne t k j e h

/-! The end of an accepted message of a context. -/

/-- From s to t only the ring of context c and the requests on the M-ports change. -/
structure RingFrame (c : Nat) (s t : State) : Prop where
  only : t = { s with ctxs := t.ctxs, mports := t.mports }
  same : getCtx t c = { getCtx s c with ring := (getCtx t c).ring }
  other : ∀ d, d ≠ c → getCtx t d = getCtx s d

theorem RingFrame.trans {c : Nat} {s t u : State} (h : RingFrame c s t) (g : RingFrame c t u) : RingFrame c s u where
  only := by
    rw [g.only, h.only]
  same := by
    rw [g.same, h.same]
  other d hd := (g.other d hd).trans (h.other d hd)

theorem RingFrame.ter {c : Nat} {s t : State} (h : RingFrame c s t) : t.ter = s.ter := (congrArg State.ter h.only :)

theorem RingFrame.ext {c : Nat} {s t : State} (h : RingFrame c s t) : t.ext = s.ext := (congrArg State.ext h.only :)

theorem RingFrame.out {c : Nat} {s t : State} (h : RingFrame c s t) : t.out = s.out := (congrArg State.out h.only :)

theorem RingFrame.pending {c : Nat} {s t : State} (h : RingFrame c s t) : t.pending = s.pending :=
  (congrArg State.pending h.only :)

theorem ringFrame_mports (c : Nat) (s : State) (ps : Tbl MPort) : RingFrame c s { s with mports := ps } :=
  ⟨rfl, rfl, fun _ _ => rfl⟩

theorem ctx_ne_mgmt (c : CtxId) : c.val ≠ mgmtCtx := Nat.ne_of_lt c.isLt

theorem ringFrame_modRing (c : CtxId) (f : Ring → Ring) (s : State) : RingFrame c.val s (modRing c.val f s) := by
  have e : modRing c.val f s = modCtx c.val (fun x => { x with ring := f x.ring }) s := if_neg (ctx_ne_mgmt c)
  rw [e]
  refine ⟨rfl, ?_, fun d hd => getCtx_modCtx_ne _ _ _ _ hd⟩
  rw [getCtx_modCtx_self]

theorem ringFrame_consume (c : CtxId) (h : HeadMsg) (s : State) : RingFrame c.val s (consume c.val h s) := by
  obtain ⟨ps, e⟩ := takeUnits_eq c.val ((h.pos + h.units) % 2 ^ 24) s
  rw [consume, e]
  exact (ringFrame_mports c.val s ps).trans (ringFrame_modRing c _ _)

/-- A context's command that ends at once: its record is queued and its ring stands past it, and beside its own meaning
nothing else has changed. -/
theorem live_takeMsg_done {s s1 : State} {c : CtxId} {o st ret : Nat} {h : HeadMsg} {act : MsgAct}
    (ha : Accepted s c.val o h) (ho : o ≠ 1)
    (hact : act c.val (waiterOf c.val h.msg) h.msg s = (s1, cmdRet (waiterOf c.val h.msg) st ret))
    (hout : s1.out = s.out) (hpend : s1.pending = s.pending)
    (hheld : (getCtx s1 c.val).ring.held = (getCtx s c.val).ring.held) :
    ∃ t, live (takeMsg c.val o act) s = .next t ∧ Answered s t c.val h st (cmdBody o ret 0 0 0) ∧ RingFrame c.val s1 t := by
  obtain ⟨hup, hhead, hopc, hcheck, hfwd⟩ := ha
  have frame : RingFrame c.val s1 (postRec c.val
      (mkRec h.msg.gen (recKind (c.val == mgmtCtx) h.msg.opc) st h.msg.tag (cmdBody o ret 0 0 0)) (consume c.val h s1)) :=
    (ringFrame_consume c h s1).trans (ringFrame_modRing c _ _)
  have meaning : takeMsg c.val o act s = postRec c.val
      (mkRec h.msg.gen (recKind (c.val == mgmtCtx) h.msg.opc) st h.msg.tag (cmdBody o ret 0 0 0)) (consume c.val h s1) := by
    have hm : (c.val == mgmtCtx) = false := by simpa using ctx_ne_mgmt c
    rw [takeMsg_accepted c.val o act s h hhead hopc hcheck hfwd (.inl ho), hact]
    simp [cmdRet, finish, waiterOf, hm, hopc]
  refine ⟨_, ?_, ?_, frame⟩
  · rw [live_up _ _ hup, effect_silent _ _ (by rw [meaning, frame.out, hout]) (by rw [meaning, frame.pending, hpend]), meaning]
  · obtain ⟨hpos, hrest⟩ := consume_head c.val h s1
    have held : (ringAt s1 c.val).held = (ringAt s c.val).held := by
      simpa [ringAt, ctx_ne_mgmt c] using hheld
    refine ⟨?_, ?_⟩
    · rw [← hpos, postRec, ringAt_modRing_self]
    · rw [postRec_held, hrest, held]

/-! LOG_READ (R52, R511). -/

theorem length_logBytes (l : List LogEnt) : (logBytes l).length = 256 := by
  simp [logBytes, List.length_flatMap]

/-- The log and its total are cleared where the message says so. -/
def clearLog (c : Nat) (m : Msg) (s : State) : State :=
  if m.bits.getLsbD 128 then modCtx c (fun x => { x with log := [], logTotal := 0 }) s else s

theorem clearLog_only (c : Nat) (m : Msg) (s : State) : clearLog c m s = { s with ctxs := (clearLog c m s).ctxs } := by
  unfold clearLog
  split <;> rfl

theorem getCtx_clearLog (c : Nat) (m : Msg) (s : State) :
    getCtx (clearLog c m s) c = { getCtx s c with
      log := if m.bits.getLsbD 128 then [] else (getCtx s c).log
      logTotal := if m.bits.getLsbD 128 then 0 else (getCtx s c).logTotal } := by
  unfold clearLog
  split
  · rw [getCtx_modCtx_self]
  · rfl

/-- A log's bytes in host memory. -/
def storeLog (a : Nat) (l : List LogEnt) (s : State) : State := extPut 1 a (logBytes l) [] false s

theorem storeLog_only (a : Nat) (l : List LogEnt) (s : State) : ∃ m p ls,
    storeLog a l s = { s with ext := { s.ext with host := m, hostPoison := p }, ter := { s.ter with lines := ls } } := by
  obtain ⟨m, p, h⟩ := extPut_host a (logBytes l) [] s
  exact ⟨_, p, _, h⟩

theorem extPeek_storeLog (a : Nat) (l : List LogEnt) (s : State) : extPeek (storeLog a l s) 1 a 256 = logBytes l := by
  have h := extPeek_extPut_host a (logBytes l) [] s
  rwa [length_logBytes] at h

theorem logReadAct_taken (c : Nat) (w : Waiter) (m : Msg) (s : State)
    (hd : extDenied s c 1 (bits m.bits.toNat 64 64) 256 = false) :
    ∃ ps, logReadAct c w m s =
      (clearLog c m { storeLog (bits m.bits.toNat 64 64) (getCtx s c).log s with mports := ps },
        cmdRet w stOK (getCtx s c).logTotal) := by
  obtain ⟨ps, hq⟩ := mQueue_only true c false 1 (bits m.bits.toNat 64 64) 256
    (storeLog (bits m.bits.toNat 64 64) (getCtx s c).log s)
  have write : extWrite s c false 1 (bits m.bits.toNat 64 64) (logBytes (getCtx s c).log) [] false =
      ({ storeLog (bits m.bits.toNat 64 64) (getCtx s c).log s with mports := ps }, true) := by
    rw [extWrite_taken _ _ _ _ _ _ _ (by rwa [length_logBytes]), length_logBytes, ← hq, storeLog]
  refine ⟨ps, ?_⟩
  unfold logReadAct
  dsimp only
  rw [write]
  rfl

theorem logReadAct_denied (c : Nat) (w : Waiter) (m : Msg) (s : State)
    (hd : extDenied s c 1 (bits m.bits.toNat 64 64) 256 = true) :
    logReadAct c w m s = (setErr ebM_DENY s, cmdRet w stRESOURCE 0) := by
  unfold logReadAct
  dsimp only
  rw [extWrite_denied _ _ _ _ _ _ _ (by rwa [length_logBytes])]
  rfl

theorem exec_logRead_taken (s : State) (c : CtxId) (h : HeadMsg) (ha : Accepted s c.val 0x03 h)
    (hd : extDenied s c.val 1 (arg h 64 64) 256 = false) :
    ∃ t, exec (.logRead c) s = .next t ∧ Answered s t c.val h 0 (cmdBody 0x03 (getCtx s c.val).logTotal 0 0 0) ∧
      extPeek t 1 (arg h 64 64) 256 = logBytes (getCtx s c.val).log ∧
      (getCtx t c.val).log = (if h.msg.bits.getLsbD 128 then [] else (getCtx s c.val).log) ∧
      (getCtx t c.val).logTotal = (if h.msg.bits.getLsbD 128 then 0 else (getCtx s c.val).logTotal) ∧
      t.ter.mem = s.ter.mem ∧ t.ext.stack = s.ext.stack := by
  obtain ⟨ps, hact⟩ := logReadAct_taken c.val (waiterOf c.val h.msg) h.msg s hd
  obtain ⟨m, p, ls, hstore⟩ := storeLog_only (arg h 64 64) (getCtx s c.val).log s
  have hpeek := extPeek_storeLog (arg h 64 64) (getCtx s c.val).log s
  generalize hv : ({ storeLog (arg h 64 64) (getCtx s c.val).log s with mports := ps } : State) = v at hact
  have hctx : getCtx v c.val = getCtx s c.val := by
    rw [← hv, hstore]
    rfl
  have hcl := getCtx_clearLog c.val h.msg v
  have honly := clearLog_only c.val h.msg v
  obtain ⟨t, hex, hans, frame⟩ := live_takeMsg_done ha (by decide) hact
    (by rw [honly, ← hv, hstore]) (by rw [honly, ← hv, hstore]) (by rw [hcl, hctx])
  have hter : t.ter = { s.ter with lines := ls } := by rw [frame.ter, honly, ← hv, hstore]
  have hext : t.ext = { s.ext with host := m, hostPoison := p } := by rw [frame.ext, honly, ← hv, hstore]
  refine ⟨t, hex, hans, ?_, ?_, ?_, ?_, ?_⟩
  · rw [← hpeek]
    exact extPeek_congr (by rw [hter, hstore]) (by rw [hext, hstore]) _ _ _
  · rw [frame.same, hcl, hctx]
  · rw [frame.same, hcl, hctx]
  · rw [hter]
  · rw [hext]

theorem exec_logRead_denied (s : State) (c : CtxId) (h : HeadMsg) (ha : Accepted s c.val 0x03 h)
    (hd : extDenied s c.val 1 (arg h 64 64) 256 = true) :
    ∃ t, exec (.logRead c) s = .next t ∧ Answered s t c.val h 0x2006 (cmdBody 0x03 0 0 0 0) ∧
      (getCtx t c.val).log = (getCtx s c.val).log ∧ t.ext.host = s.ext.host := by
  obtain ⟨t, hex, hans, frame⟩ :=
    live_takeMsg_done ha (by decide) (logReadAct_denied c.val (waiterOf c.val h.msg) h.msg s hd) rfl rfl rfl
  refine ⟨t, hex, hans, ?_, ?_⟩
  · rw [frame.same]
    rfl
  · rw [frame.ext]
    rfl

/-! ANGLE_SET (R127). -/

/-- Entry k of numbered values. -/
theorem lookup_zip_range' {α : Type} (xs : List α) (a k : Nat) :
    ((List.range' a xs.length).zip xs).lookup (a + k) = xs[k]? := by
  induction xs generalizing a k with
  | nil => rfl
  | cons x xs ih =>
    rw [List.length_cons, List.range'_succ, List.zip_cons_cons, List.lookup_cons]
    cases k with
    | zero => simp
    | succ k =>
      have hne : (a + (k + 1) == a) = false := by simp
      rw [hne, show a + (k + 1) = a + 1 + k by omega]
      exact ih (a + 1) k

/-- A table without its entries of the default value reads the same. -/
theorem tget_filter_ne {α : Type} [BEq α] [LawfulBEq α] (t : Tbl α) (d : α) (k : Nat) (h : (t.map (·.1)).Nodup) :
    tget (t.filter (fun e => e.2 != d)) k d = tget t k d := by
  unfold tget
  induction t with
  | nil => rfl
  | cons e t ih =>
    obtain ⟨j, v⟩ := e
    rw [List.map_cons, List.nodup_cons] at h
    have rest := ih h.2
    by_cases hk : k = j
    · subst hk
      have absent : t.lookup k = none := by
        rw [List.lookup_eq_none_iff]
        rintro ⟨i, x⟩ hx
        rw [bne_iff_ne]
        rintro rfl
        exact h.1 (List.mem_map.mpr ⟨_, hx, rfl⟩)
      by_cases hv : v = d
      · simp [hv, rest, absent]
      · have hv' : (v != d) = true := by simpa using hv
        simp [hv']
    · have hkj : (k == j) = false := by simpa using hk
      by_cases hv : v = d
      · simpa [hv, List.lookup_cons, hkj] using rest
      · have hv' : (v != d) = true := by simpa using hv
        simpa [hv', List.lookup_cons, hkj] using rest

/-- The angle table that 512 bytes give. -/
def angleTable (bs : List Byte) : Tbl (BitVec 32) :=
  ((List.range 128).zip ((leWords 4 128 bs).map (BitVec.ofNat 32))).filter (fun e => e.2 != 0)

theorem length_leWords (w n : Nat) (bs : List Byte) : (leWords w n bs).length = n := by
  induction n generalizing bs with
  | zero => rfl
  | succ n ih => rw [leWords, List.length_cons, ih]

theorem tget_angleTable (bs : List Byte) (k : Nat) (hk : k < 128) :
    tget (angleTable bs) k 0 = BitVec.ofNat 32 (leNat ((bs.drop (4 * k)).take 4)) := by
  have hlen : ((leWords 4 128 bs).map (BitVec.ofNat 32)).length = 128 := by rw [List.length_map, length_leWords]
  have hkeys : (((List.range 128).zip ((leWords 4 128 bs).map (BitVec.ofNat 32))).map (·.1)).Nodup := by
    rw [List.map_fst_zip (by rw [hlen, List.length_range])]
    exact List.nodup_range
  have hlook := lookup_zip_range' ((leWords 4 128 bs).map (BitVec.ofNat 32)) 0 k
  rw [hlen, ← List.range_eq_range', Nat.zero_add, List.getElem?_map, leWords_getElem? 4 128 bs k hk] at hlook
  rw [angleTable, tget_filter_ne _ _ _ hkeys, tget, hlook]
  rfl

theorem angleSetAct_read (c : Nat) (w : Waiter) (m : Msg) (s : State)
    (hd : extDenied s c 1 (bits m.bits.toNat 64 64) 512 = false) (hp : extPoisonIn s 1 (bits m.bits.toNat 64 64) 512 = []) :
    ∃ ps, angleSetAct c w m s =
      (modCtx c (fun x => { x with angles := angleTable (extPeek s 1 (bits m.bits.toNat 64 64) 512) })
        { s with mports := ps }, cmdRet w stOK 0) := by
  obtain ⟨ps, h⟩ := readSrc_clean s c _ 512 hd hp
  refine ⟨ps, ?_⟩
  unfold angleSetAct
  rw [h]
  rfl

theorem exec_angleSet (s : State) (c : CtxId) (h : HeadMsg) (ha : Accepted s c.val 0x07 h)
    (hd : extDenied s c.val 1 (arg h 64 64) 512 = false) (hp : extPoisonIn s 1 (arg h 64 64) 512 = []) :
    ∃ t, exec (.angleSet c) s = .next t ∧ Answered s t c.val h 0 (cmdBody 0x07 0 0 0 0) ∧
      (∀ k, k < 128 → tget (getCtx t c.val).angles k 0 =
        BitVec.ofNat 32 (leNat ((extPeek s 1 (arg h 64 64) 512).drop (4 * k) |>.take 4))) ∧
      t.ter = s.ter ∧ t.ext.host = s.ext.host := by
  obtain ⟨ps, hact⟩ := angleSetAct_read c.val (waiterOf c.val h.msg) h.msg s hd hp
  obtain ⟨t, hex, hans, frame⟩ := live_takeMsg_done ha (by decide) hact rfl rfl (by rw [getCtx_modCtx_self]; rfl)
  refine ⟨t, hex, hans, fun k hk => ?_, frame.ter, by rw [frame.ext]; rfl⟩
  rw [frame.same, getCtx_modCtx_self]
  exact tget_angleTable _ k hk

/-! TER_GROUP_MODE (R228). -/

/-- A drain of no line changes nothing. -/
theorem drainLines_nil (s : State) : drainLines [] s = s := by
  simp [drainLines]

/-- A group that leaves cache mode while no line is held: it is zero, and the other groups stay (R228). -/
theorem switchGroup_leaves (g : Nat) (s : State) (hc : s.ter.cached.getLsbD g = true) (hl : s.ter.lines = []) :
    switchGroup g false s =
      { s with ter := terClear (g * 2 ^ 22) (2 ^ 22) { s.ter with cached := s.ter.cached &&& ~~~(1#128 <<< g) } } := by
  simp [switchGroup, hc, hl, drainLines_nil]

theorem exec_terGroupMode_leaves (s : State) (c : CtxId) (h : HeadMsg) (ha : Accepted s c.val 0x0B h)
    (hr : groupReached s (arg h 64 4 * 8 + arg h 68 3) = false) (hb : h.msg.bits.getLsbD 71 = false)
    (hc : s.ter.cached.getLsbD (arg h 64 4 * 8 + arg h 68 3) = true) (hl : s.ter.lines = []) :
    ∃ t, exec (.terGroupMode c) s = .next t ∧ Answered s t c.val h 0 (cmdBody 0x0B 0 0 0 0) ∧
      t.ter.cached.getLsbD (arg h 64 4 * 8 + arg h 68 3) = false ∧
      (∀ a, a / 2 ^ 22 = arg h 64 4 * 8 + arg h 68 3 → memByte t.ter.mem a = 0) ∧
      (∀ a, a / 2 ^ 22 ≠ arg h 64 4 * 8 + arg h 68 3 → memByte t.ter.mem a = memByte s.ter.mem a) := by
  have hg : arg h 64 4 * 8 + arg h 68 3 < 128 := by
    have : arg h 64 4 < 2 ^ 4 := bits_lt _ 64 4
    have : arg h 68 3 < 2 ^ 3 := bits_lt _ 68 3
    omega
  have hbit : bit h.msg.bits.toNat 71 = false := hb
  have hact : terGroupModeAct c.val (waiterOf c.val h.msg) h.msg s =
      (switchGroup (arg h 64 4 * 8 + arg h 68 3) false s, cmdRet (waiterOf c.val h.msg) stOK 0) := by
    unfold terGroupModeAct
    simp only [hr, hbit, Bool.false_and, Bool.false_eq_true, if_false]
    rfl
  generalize arg h 64 4 * 8 + arg h 68 3 = g at *
  have hsw := switchGroup_leaves g s hc hl
  obtain ⟨t, hex, hans, frame⟩ := live_takeMsg_done ha (by decide) hact (by rw [hsw]) (by rw [hsw]) (by rw [hsw]; rfl)
  have hter := frame.ter
  rw [hsw] at hter
  have byte (a : Nat) : memByte t.ter.mem a = if a / 2 ^ 22 = g then 0 else memByte s.ter.mem a := by
    rw [hter]
    refine (memByte_memZero _ _ _ a).trans ?_
    have : (g * 2 ^ 22 ≤ a ∧ a < g * 2 ^ 22 + 2 ^ 22) ↔ a / 2 ^ 22 = g := by omega
    simp only [this]
  refine ⟨t, hex, hans, ?_, fun a h => ?_, fun a h => ?_⟩
  · rw [hter]
    simp [terClear, hg]
  · rw [byte, if_pos h]
  · rw [byte, if_neg h]

/-! ROLE_LOAD (R196). -/

/-- Without a route no peer lies behind an exposed path (R265, R290). -/
theorem exposedPeer_no_routes (s : State) (u : UPath) (h : s.prom.routes = []) : exposedPeer s u = false := by
  simp [exposedPeer, routeOf, h]

/-- Erasing unused keys changes the keys alone (R414). -/
theorem eraseUnused_only (s : State) : ∃ ks, eraseUnused s = { s with prom := { s.prom with keys := ks } } := by
  unfold eraseUnused
  generalize (s.prom.keys.map (fun e => e.2.peer)).eraseDups = us
  dsimp only
  suffices h : ∀ u : State, ∃ ks, us.foldl _ u = { u with prom := { u.prom with keys := ks } } from h s
  induction us with
  | nil => exact fun u => ⟨u.prom.keys, rfl⟩
  | cons p us ih =>
    intro u
    rw [List.foldl_cons]
    split
    · exact ih u
    · obtain ⟨ks, h⟩ := ih { u with prom := { u.prom with keys := u.prom.keys.filter (fun e => e.2.peer != p) } }
      exact ⟨ks, h⟩

/-- A context with one role loaded into bank 0. -/
def withRole (k : Nat) (r : Role) (x : Ctx) : Ctx := { x with roles0 := putEntry Role.absent k r x.roles0 }

/-- One role loaded into bank 0 while there is no route: no peer needs a handshake. -/
theorem loadRoles_one (c k : Nat) (r : Role) (s : State) (h : s.prom.routes = []) :
    loadRoles c false k [r] s = eraseUnused (modCtx c (withRole k r) s) := by
  unfold loadRoles
  simp only [exposedPeer_no_routes s _ h, Bool.and_false, Bool.false_and, List.filter_false, List.map_nil]
  rfl

theorem newPeers_no_routes (s : State) (rs : List Role) (h : s.prom.routes = []) : newPeers s rs = [] := by
  unfold newPeers
  simp only [exposedPeer_no_routes s _ h, Bool.and_false, Bool.false_and, List.filter_false, List.map_nil]
  rfl

/-- The role that stands at an address of host memory. -/
def hostRole (s : State) (a : Nat) : Role := parseRole (leNat (extPeek s 1 a 16))

theorem leWords_hostRole (s : State) (a : Nat) : (leWords 16 1 (extPeek s 1 a 16)).map parseRole = [hostRole s a] := by
  rw [leWords, List.take_of_length_le (by rw [length_extPeek])]
  rfl

/-- ROLE_LOAD of one role into bank 0 that reads its source. -/
theorem roleLoadAct_one (c : Nat) (w : Waiter) (m : Msg) (s : State) (hn : bits m.bits.toNat 77 13 = 1)
    (hd : extDenied s c 1 (bits m.bits.toNat 128 64) 16 = false)
    (hp : extPoisonIn s 1 (bits m.bits.toNat 128 64) 16 = []) (hr : s.prom.routes = []) (hb : m.bits.getLsbD 64 = false) :
    ∃ ps ks, roleLoadAct c w m s =
      ({ modCtx c (withRole (bits m.bits.toNat 65 12) (hostRole s (bits m.bits.toNat 128 64))) s with
        mports := ps, prom := { s.prom with keys := ks } }, cmdRet w stOK 0) := by
  obtain ⟨ps, hsrc⟩ := readSrc_clean s c _ 16 hd hp
  have hfirst : bits m.bits.toNat 65 12 < 2 ^ 12 := bits_lt _ 65 12
  have hbit : bit m.bits.toNat 64 = false := hb
  have hlimit : ¬ (1 = 0 ∨ 4096 < 1 ∨ 4096 < bits m.bits.toNat 65 12 + 1) := by omega
  obtain ⟨ks, hks⟩ := eraseUnused_only
    (modCtx c (withRole (bits m.bits.toNat 65 12) (hostRole s (bits m.bits.toNat 128 64))) { s with mports := ps })
  refine ⟨ps, ks, ?_⟩
  unfold roleLoadAct
  dsimp only
  rw [hn, Nat.mul_one, hsrc]
  dsimp only
  rw [if_neg hlimit, leWords_hostRole, newPeers_no_routes { s with mports := ps } _ hr, if_neg (by simp), hbit,
    loadRoles_one c _ _ { s with mports := ps } hr, hks]
  rfl

theorem exec_roleLoad_one (s : State) (c : CtxId) (h : HeadMsg) (ha : Accepted s c.val 0x08 h) (hn : arg h 77 13 = 1)
    (hd : extDenied s c.val 1 (arg h 128 64) 16 = false) (hp : extPoisonIn s 1 (arg h 128 64) 16 = [])
    (hr : s.prom.routes = []) (hb : h.msg.bits.getLsbD 64 = false) :
    ∃ t, exec (.roleLoad c) s = .next t ∧ Answered s t c.val h 0 (cmdBody 0x08 0 0 0 0) ∧
      tget (getCtx t c.val).roles0 (arg h 65 12) Role.absent = parseRole (leNat (extPeek s 1 (arg h 128 64) 16)) ∧
      (∀ k, k ≠ arg h 65 12 → tget? (getCtx t c.val).roles0 k = tget? (getCtx s c.val).roles0 k) ∧
      (getCtx t c.val).roles1 = (getCtx s c.val).roles1 ∧ (∀ d, d ≠ c.val → getCtx t d = getCtx s d) := by
  obtain ⟨ps, ks, hact⟩ := roleLoadAct_one c.val (waiterOf c.val h.msg) h.msg s hn hd hp hr hb
  generalize hv : ({ modCtx c.val (withRole (arg h 65 12) (hostRole s (arg h 128 64))) s with
    mports := ps, prom := { s.prom with keys := ks } } : State) = v at hact
  have own : getCtx v c.val = withRole (arg h 65 12) (hostRole s (arg h 128 64)) (getCtx s c.val) := by
    rw [← hv]
    exact getCtx_modCtx_self c.val _ s
  have other (d : Nat) (hd : d ≠ c.val) : getCtx v d = getCtx s d := by
    rw [← hv]
    exact getCtx_modCtx_ne c.val d _ s hd
  obtain ⟨t, hex, hans, frame⟩ := live_takeMsg_done ha (by decide) hact (by rw [← hv]; rfl) (by rw [← hv]; rfl)
    (by rw [own]; rfl)
  have htab : (getCtx t c.val).roles0 = putEntry Role.absent (arg h 65 12) (hostRole s (arg h 128 64)) (getCtx s c.val).roles0 := by
    rw [frame.same, own]
    rfl
  refine ⟨t, hex, hans, ?_, fun k hk => ?_, ?_, fun d hd => (frame.other d hd).trans (other d hd)⟩
  · rw [htab, tget_putEntry, hostRole]
  · rw [htab, tget?_putEntry_ne _ _ k _ _ hk]
  · rw [frame.same, own]
    rfl

/-! LAND_SET (R276, R277). -/

/-- A context with a landing entry set: an entry that is absent leaves none, and its PLOT mark goes (R276, R258). -/
def withLanding (lid : Nat) (e : Landing) (x : Ctx) : Ctx :=
  { x with
    landing := putEntry Landing.absent lid e x.landing
    plotLids := x.plotLids.filter (· != lid) }

/-- LAND_SET that reads its source: refused under R276 and R277, or its entry is written. -/
theorem landSetAct_read (c : Nat) (w : Waiter) (m : Msg) (s : State)
    (hd : extDenied s c 1 (bits m.bits.toNat 128 64) 32 = false)
    (hp : extPoisonIn s 1 (bits m.bits.toNat 128 64) 32 = []) :
    let lid := bits m.bits.toNat 64 8
    let v := leNat (extPeek s 1 (bits m.bits.toNat 128 64) 32)
    ∃ ps, landSetAct c w m s =
      if landingReserved v || landingBusy s c lid || landingBad s c lid (parseLanding v) then
        ({ s with mports := ps }, cmdRet w stBAD_LANDING 0)
      else (modCtx c (withLanding lid (parseLanding v)) { s with mports := ps }, cmdRet w stOK 0) := by
  obtain ⟨ps, hsrc⟩ := readSrc_clean s c _ 32 hd hp
  refine ⟨ps, ?_⟩
  unfold landSetAct
  dsimp only
  rw [hsrc]
  rfl

theorem exec_landSet (s : State) (c : CtxId) (h : HeadMsg) (ha : Accepted s c.val 0x09 h)
    (hd : extDenied s c.val 1 (arg h 128 64) 32 = false) (hp : extPoisonIn s 1 (arg h 128 64) 32 = []) (v : Nat)
    (hv : leNat (extPeek s 1 (arg h 128 64) 32) = v) (hr : landingReserved v = false)
    (hbusy : landingBusy s c.val (arg h 64 8) = false) (hbad : landingBad s c.val (arg h 64 8) (parseLanding v) = false) :
    ∃ t, exec (.landSet c) s = .next t ∧ Answered s t c.val h 0 (cmdBody 0x09 0 0 0 0) ∧
      tget (getCtx t c.val).landing (arg h 64 8) Landing.absent = parseLanding v ∧
      (∀ k, k ≠ arg h 64 8 → tget? (getCtx t c.val).landing k = tget? (getCtx s c.val).landing k) ∧
      t.ter = s.ter ∧ (∀ d, d ≠ c.val → getCtx t d = getCtx s d) := by
  obtain ⟨ps, hact⟩ := landSetAct_read c.val (waiterOf c.val h.msg) h.msg s hd hp
  rw [hv, hr, hbusy, hbad] at hact
  have own := getCtx_modCtx_self c.val (withLanding (arg h 64 8) (parseLanding v)) { s with mports := ps }
  obtain ⟨t, hex, hans, frame⟩ := live_takeMsg_done ha (by decide) hact rfl rfl (by rw [own]; rfl)
  have htab : (getCtx t c.val).landing =
      putEntry Landing.absent (arg h 64 8) (parseLanding v) (getCtx s c.val).landing := by
    rw [frame.same, own]
    rfl
  refine ⟨t, hex, hans, ?_, fun k hk => ?_, frame.ter, fun d hd => (frame.other d hd).trans (getCtx_modCtx_ne _ d _ _ hd)⟩
  · rw [htab, tget_putEntry]
  · rw [htab, tget?_putEntry_ne _ _ k _ _ hk]

theorem exec_landSet_reserved (s : State) (c : CtxId) (h : HeadMsg) (ha : Accepted s c.val 0x09 h)
    (hd : extDenied s c.val 1 (arg h 128 64) 32 = false) (hp : extPoisonIn s 1 (arg h 128 64) 32 = [])
    (hr : landingReserved (leNat (extPeek s 1 (arg h 128 64) 32)) = true) :
    ∃ t, exec (.landSet c) s = .next t ∧ Answered s t c.val h 0x4002 (cmdBody 0x09 0 0 0 0) ∧
      (getCtx t c.val).landing = (getCtx s c.val).landing := by
  obtain ⟨ps, hact⟩ := landSetAct_read c.val (waiterOf c.val h.msg) h.msg s hd hp
  rw [hr] at hact
  obtain ⟨t, hex, hans, frame⟩ := live_takeMsg_done ha (by decide) hact rfl rfl rfl
  refine ⟨t, hex, hans, ?_⟩
  rw [frame.same]
  rfl

/-- Settles O20: each command's meaning at its accepted message, and the frame of a message's end. -/
theorem contextTablesAreLoaded : Obligations.ContextTablesAreLoaded := by
  unfold Obligations.ContextTablesAreLoaded
  refine ⟨fun s c h => ⟨fun ha hd _ => exec_logRead_taken s c h ha hd, exec_logRead_denied s c h, exec_angleSet s c h,
    fun ha hr hb hc hl => exec_terGroupMode_leaves s c h ha hr hb hc hl⟩, fun s c h => ⟨exec_roleLoad_one s c h,
    fun ha hd hp hr hbusy hbad => exec_landSet s c h ha hd hp _ rfl hr hbusy hbad, exec_landSet_reserved s c h⟩⟩

end Sys2Proof.Proofs.Arithmetic
end

section
/-!
PROOFS. Computations that may raise a fault: how they run, and what every run of one keeps. A relation between the state
before and after that is reflexive and transitive is kept by a computation once its parts keep it.
-/
namespace Sys2Proof.Proofs.Arithmetic
open Sys2Proof.Machine Sys2Proof.Laws

variable {α β : Type}

/-! Runs. -/

@[simp] theorem exec_pure (a : α) (s : State) : (pure a : Eff α).exec s = (.ok a, s) := rfl

@[simp] theorem exec_raise (f : RFault) (s : State) : (raise f : Eff α).exec s = (.error f, s) := rfl

@[simp] theorem exec_get (s : State) : (get : Eff State).exec s = (.ok s, s) := rfl

@[simp] theorem exec_set (s t : State) : (set t : Eff Unit).exec s = (.ok (), t) := rfl

@[simp] theorem exec_modify (f : State → State) (s : State) : (modify f : Eff Unit).exec s = (.ok (), f s) := rfl

@[simp] theorem exec_modifyThe (f : State → State) (s : State) : (modifyThe State f : Eff Unit).exec s = (.ok (), f s) := rfl

/-- What follows a computation runs where it has succeeded. -/
theorem exec_bind (m : Eff α) (f : α → Eff β) (s : State) :
    (m >>= f).exec s = match m.exec s with
      | (.ok a, t) => (f a).exec t
      | (.error e, t) => (.error e, t) := by
  have h : (m >>= f).exec s = (ExceptT.bindCont f (m.exec s).1).run (m.exec s).2 := rfl
  rw [h]
  rcases m.exec s with ⟨a | e, t⟩ <;> rfl

theorem exec_bind_ok {m : Eff α} {f : α → Eff β} {s u : State} {b : β} (h : (m >>= f).exec s = (.ok b, u)) :
    ∃ a t, m.exec s = (.ok a, t) ∧ (f a).exec t = (.ok b, u) := by
  rw [exec_bind] at h
  rcases hm : m.exec s with ⟨e | a, t⟩
  · rw [hm] at h
    cases h
  · rw [hm] at h
    exact ⟨a, t, rfl, h⟩

/-! What every run keeps. -/

/-- A relation that holds from each state to itself and along steps that follow each other. -/
structure Chains (R : State → State → Prop) : Prop where
  refl : ∀ s, R s s
  trans : ∀ {s t u}, R s t → R t u → R s u

/-- R holds from the state before to the state after, whether the run succeeds or raises a fault. -/
def Keeps (R : State → State → Prop) (m : Eff α) : Prop := ∀ s, R s (m.exec s).2

/-- Every result that m answers meets P. -/
def Gives (P : α → Prop) (m : Eff α) : Prop := ∀ s a t, m.exec s = (.ok a, t) → P a

theorem Keeps.mono {R S : State → State → Prop} {m : Eff α} (h : Keeps R m) (hRS : ∀ s t, R s t → S s t) : Keeps S m :=
  fun s => hRS s _ (h s)

section
variable {R : State → State → Prop} (hR : Chains R)
include hR

theorem keeps_pure (a : α) : Keeps R (pure a : Eff α) := hR.refl

theorem keeps_raise (f : RFault) : Keeps R (raise f : Eff α) := hR.refl

theorem keeps_get : Keeps R (get : Eff State) := hR.refl

/-- What follows need only be kept for the results that come. -/
theorem keeps_bind_gives {m : Eff α} {f : α → Eff β} {P : α → Prop} (hm : Keeps R m) (hP : Gives P m)
    (hf : ∀ a, P a → Keeps R (f a)) : Keeps R (m >>= f) := by
  intro s
  have first := hm s
  rw [exec_bind]
  rcases h : m.exec s with ⟨e | a, t⟩
  · rw [h] at first
    exact first
  · rw [h] at first
    exact hR.trans first (hf a (hP s a t h) t)

theorem keeps_bind {m : Eff α} {f : α → Eff β} (hm : Keeps R m) (hf : ∀ a, Keeps R (f a)) : Keeps R (m >>= f) :=
  keeps_bind_gives hR (P := fun _ => True) hm (fun _ _ _ _ => trivial) (fun a _ => hf a)

/-- A step that replaces the state by what g makes of it. -/
theorem keeps_get_set {g : State → State} {k : State → Eff α} (hg : ∀ s, R s (g s)) (hk : ∀ s, Keeps R (k s)) :
    Keeps R (get >>= fun s => set (g s) >>= fun _ => k s) :=
  fun s => hR.trans (hg s) (hk s (g s))

theorem keeps_mapM (xs : List α) {f : α → Eff β} (hf : ∀ a, Keeps R (f a)) : Keeps R (xs.mapM f) := by
  induction xs with
  | nil => exact keeps_pure hR _
  | cons x xs ih =>
    rw [List.mapM_cons]
    exact keeps_bind hR (hf x) (fun b => keeps_bind hR ih (fun bs => keeps_pure hR _))

end

theorem keeps_ite {R : State → State → Prop} {c : Prop} [Decidable c] {m n : Eff α} (hm : Keeps R m) (hn : Keeps R n) :
    Keeps R (if c then m else n) := by
  split
  · exact hm
  · exact hn

theorem keeps_modify {R : State → State → Prop} (f : State → State) (h : ∀ s, R s (f s)) : Keeps R (modify f : Eff Unit) := h

theorem keeps_modifyThe {R : State → State → Prop} (f : State → State) (h : ∀ s, R s (f s)) :
    Keeps R (modifyThe State f : Eff Unit) := h

/-- A check that raises a fault before the rest. -/
theorem keeps_guard {R : State → State → Prop} (hR : Chains R) {c : Prop} [Decidable c] {f : RFault} {m : Eff α}
    (hm : Keeps R m) : Keeps R (if c then raise (α := PUnit) f >>= fun _ => m else m) :=
  keeps_ite (keeps_bind hR (keeps_raise hR f) (fun _ => hm)) hm

/-- An optional step before the rest. -/
theorem keeps_optional {R : State → State → Prop} (hR : Chains R) {c : Prop} [Decidable c]
    {n : Eff PUnit} {m : Eff α} (hn : Keeps R n) (hm : Keeps R m) : Keeps R (if c then n >>= fun _ => m else m) :=
  keeps_ite (keeps_bind hR hn (fun _ => hm)) hm

/-- What follows reads the state as it stands. -/
theorem keeps_get_then {R : State → State → Prop} {k : State → Eff α} (h : ∀ s, R s ((k s).exec s).2) :
    Keeps R (get >>= k) := h

theorem keeps_filterM {R : State → State → Prop} (hR : Chains R) (xs : List α) {f : α → Eff Bool}
    (hf : ∀ a, Keeps R (f a)) : Keeps R (xs.filterM f) := by
  have aux (acc : List α) : Keeps R (xs.filterAuxM f acc) := by
    induction xs generalizing acc with
    | nil => exact keeps_pure hR _
    | cons x xs ih => exact keeps_bind hR (hf x) (fun b => ih _)
  exact keeps_bind hR (aux []) (fun _ => keeps_pure hR _)

/-- A list of runs answers as many results. -/
theorem gives_mapM_length (xs : List α) (f : α → Eff β) : Gives (fun bs => bs.length = xs.length) (xs.mapM f) := by
  induction xs with
  | nil =>
    rintro s bs t h
    cases h
    rfl
  | cons x xs ih =>
    intro s bs t h
    rw [List.mapM_cons] at h
    obtain ⟨b, u, -, h⟩ := exec_bind_ok h
    obtain ⟨bs', v, h', h⟩ := exec_bind_ok h
    cases h
    rw [List.length_cons, List.length_cons, ih u bs' _ h']

/-! Reads (R66, R207, R216, R226, R229, R254). -/

/-- A read leaves every Pavilion and every byte of the Terrace as they are. -/
structure ReadFrame (s t : State) : Prop where
  pavs : t.pavs = s.pavs
  mem : t.ter.mem = s.ter.mem

theorem chains_readFrame : Chains ReadFrame where
  refl _ := ⟨rfl, rfl⟩
  trans h g := ⟨g.pavs.trans h.pavs, g.mem.trans h.mem⟩

theorem readFrame_foldl {γ : Type} (f : State → γ → State) (h : ∀ s a, ReadFrame s (f s a)) (l : List γ) (s : State) :
    ReadFrame s (l.foldl f s) := by
  induction l generalizing s with
  | nil => exact chains_readFrame.refl s
  | cons a l ih => exact chains_readFrame.trans (h s a) (ih (f s a))

theorem readFrame_countMarked (sl : Nat) (s : State) : ReadFrame s (countMarked sl s) := ⟨rfl, rfl⟩

theorem readFrame_mQueue (write : Bool) (c : Nat) (priv : Bool) (space a n : Nat) (s : State) :
    ReadFrame s (mQueue write c priv space a n s) := by
  obtain ⟨ps, h⟩ := mQueue_only write c priv space a n s
  rw [h]
  exact ⟨rfl, rfl⟩

theorem readFrame_writeBack (l : CacheLine) (s : State) : ReadFrame s (writeBack l s) := by
  unfold writeBack
  split <;> exact ⟨rfl, rfl⟩

theorem readFrame_cacheAlloc (space line : Nat) (s : State) : ReadFrame s (cacheAlloc space line s) := by
  have evict (l : CacheLine) : ReadFrame s
      (if l.dirty then mQueue true 0 true l.space (l.addr * 256) 256 (writeBack l s) else s) := by
    split
    · exact chains_readFrame.trans (readFrame_writeBack l s) (readFrame_mQueue ..)
    · exact chains_readFrame.refl s
  unfold cacheAlloc
  dsimp only
  split
  · split
    · exact ⟨rfl, rfl⟩
    · exact ⟨(evict _).pavs, (evict _).mem⟩
  · exact ⟨rfl, rfl⟩

theorem readFrame_cacheFill (space a n : Nat) (s : State) : ReadFrame s (cacheFill space a n s) := by
  unfold cacheFill
  split
  · exact chains_readFrame.refl s
  · refine readFrame_foldl _ (fun s x => ?_) _ s
    dsimp only
    split
    · exact ⟨rfl, rfl⟩
    · exact chains_readFrame.trans (readFrame_cacheAlloc _ _ _) (readFrame_foldl _ (fun s _ => readFrame_countMarked _ s) _ _)

theorem readFrame_extRead (s : State) (c : Nat) (priv : Bool) (space a n : Nat) :
    ReadFrame s (extRead s c priv space a n).1 := by
  have queued := chains_readFrame.trans (readFrame_cacheFill space a n s)
    (readFrame_mQueue false c priv space a n (cacheFill space a n s))
  unfold extRead
  split
  · exact ⟨rfl, rfl⟩
  · dsimp only
    split
    · exact queued
    · exact ⟨queued.pavs, queued.mem⟩

theorem readFrame_eccTouch (ws : List (Nat × Nat)) (s : State) : ReadFrame s (eccTouch ws s) := by
  refine ⟨?_, eccTouch_mem ws s⟩
  unfold eccTouch
  induction ws generalizing s with
  | nil => rfl
  | cons e ws ih =>
    rw [List.foldl_cons, ih]
    split <;> rfl

theorem readFrame_terRead (s : State) (c off n : Nat) : ReadFrame s (terRead s c off n).1 := by
  unfold terRead
  split
  · exact chains_readFrame.refl s
  · dsimp only
    split <;> exact readFrame_eccTouch _ s

theorem readFrame_terReadTags (s : State) (c off n : Nat) : ReadFrame s (terReadTags s c off n).1 := by
  unfold terReadTags
  split
  · exact chains_readFrame.refl s
  · rename_i ps _
    dsimp only
    generalize hside : s.ter.flips.filter _ = fs
    have both := chains_readFrame.trans (readFrame_eccTouch fs s) (readFrame_terRead (eccTouch fs s) c off n)
    split
    · rename_i h
      rw [h] at both
      split <;> exact both
    · exact both

theorem readFrame_descLookup (seq : Nat) (s : State) : ReadFrame s (descLookup seq s) := by
  unfold descLookup
  dsimp only
  split <;> exact ⟨rfl, rfl⟩

theorem keeps_liftStep {γ : Type} {R : State → State → Prop} (hR : Chains R) (sid : Nat)
    (f : State → State × Except RFault γ) (h : ∀ s, R s (f s).1) : Keeps R (liftStep sid f) := by
  unfold liftStep
  dsimp only
  refine keeps_get_set hR h (fun s => ?_)
  split
  · exact keeps_pure hR _
  · exact keeps_raise hR _

theorem keeps_streamRead (c ep : Nat) (x : Stream) (off n : Nat) : Keeps ReadFrame (streamRead c ep x off n) := by
  have hR := chains_readFrame
  have terrace (a m : Nat) :
      Keeps ReadFrame (liftStep x.sid (fun s => if x.fmt = 10 then terReadTags s c a m else terRead s c a m)) := by
    refine keeps_liftStep hR _ _ (fun s => ?_)
    split
    · exact readFrame_terReadTags s c a m
    · exact readFrame_terRead s c a m
  unfold streamRead
  dsimp only
  split
  case h_1 => exact terrace _ _
  case h_5 => exact keeps_pure hR _
  case' h_2 => refine keeps_bind hR ?_ (fun bs => keeps_pure hR _)
  case' h_3 => refine keeps_bind hR ?_ (fun bs => keeps_pure hR _)
  case' h_4 =>
    refine keeps_bind hR (keeps_get hR) (fun s => keeps_bind hR (keeps_mapM hR _ (fun p => ?_)) (fun rs => keeps_pure hR _))
    refine keeps_ite (terrace _ _) (keeps_bind hR ?_ (fun bs => keeps_pure hR _))
  all_goals
    refine keeps_get_set hR (fun s => readFrame_extRead s ..) (fun s => ?_)
    split
    · exact keeps_raise hR _
    · exact keeps_ite (keeps_pure hR _) (keeps_raise hR _)

theorem keeps_plotOf (sid seq l g j : Nat) : Keeps ReadFrame (plotOf sid seq l g j) := by
  have hR := chains_readFrame
  unfold plotOf
  dsimp only
  refine keeps_bind hR (keeps_get hR) (fun s => keeps_guard hR (keeps_guard hR ?_))
  split
  · exact keeps_raise hR _
  · exact keeps_guard hR (keeps_ite (keeps_pure hR _) (keeps_raise hR _))

theorem keeps_plotRow (fmt dim : Nat) (isV : Bool) (k : Nat) (rd : Nat → Nat → Eff (List Byte))
    (h : ∀ off n, Keeps ReadFrame (rd off n)) : Keeps ReadFrame (plotRow fmt dim isV k rd) := by
  have hR := chains_readFrame
  unfold plotRow
  dsimp only
  refine keeps_bind hR (h _ _) (fun bs => keeps_ite (keeps_ite ?_ ?_) (keeps_pure hR _))
  · exact keeps_bind hR (h _ _) (fun sc => keeps_pure hR _)
  · exact keeps_bind hR (h _ _) (fun sc => keeps_pure hR _)

theorem keeps_tokenRow (c : Nat) (j : Job) (x : Stream) (tok : Nat) : Keeps ReadFrame (tokenRow c j x tok) := by
  have hR := chains_readFrame
  unfold tokenRow
  dsimp only
  refine keeps_ite (keeps_pure hR _) (keeps_bind hR (keeps_plotOf _ _ _ _ _) (fun a => keeps_plotRow _ _ _ _ _ (fun off n => ?_)))
  refine keeps_get_set hR (fun s => readFrame_extRead s ..) (fun s => ?_)
  split
  · exact keeps_raise hR _
  · exact keeps_ite (keeps_pure hR _) (keeps_raise hR _)

theorem keeps_rowVals (j : Job) (ep : Nat) (x : Stream) (r col0 n : Nat) : Keeps ReadFrame (rowVals j ep x r col0 n) := by
  have hR := chains_readFrame
  have read (off m : Nat) := keeps_streamRead j.ctx ep x off m
  unfold rowVals
  dsimp only
  refine keeps_bind hR (keeps_get hR) (fun s => keeps_ite ?token (keeps_ite ?image ?plain))
  case token => exact keeps_bind hR (keeps_tokenRow _ _ _ _) (fun xs => keeps_pure hR _)
  case image =>
    refine keeps_bind hR (keeps_plotRow _ _ _ _ _ (fun off m => ?_)) (fun xs => keeps_pure hR _)
    exact keeps_bind hR (read _ _) (fun bs => keeps_pure hR _)
  case plain =>
    refine keeps_bind hR (read _ _) (fun bs => keeps_ite (keeps_ite ?_ ?_) (keeps_pure hR _))
    · exact keeps_bind hR (read _ _) (fun sc => keeps_pure hR _)
    · exact keeps_bind hR (read _ _) (fun sc => keeps_pure hR _)

end Sys2Proof.Proofs.Arithmetic
end

section
/-!
PROOFS. A tile command that issues with its own effect (R181 to R184): what stands in the Pavilion before its meaning runs,
and what the counting of its events leaves of what the meaning has done.
-/
namespace Sys2Proof.Proofs.Arithmetic
open Sys2Proof.Machine Sys2Proof.Laws Sys2Proof.Claims

/-! Programs in their slots. -/

theorem getPav_congr {s t : State} (h : t.pavs = s.pavs) (p : Nat) : getPav t p = getPav s p := by
  unfold getPav
  rw [h]

theorem getProg_congr {s t : State} (h : t.pavs = s.pavs) (p : Nat) (q : PSlot) : getProg t p q = getProg s p q := by
  unfold getProg
  rw [getPav_congr h]

/-- A change of a Pavilion that keeps its programs. -/
theorem getProg_modPav (a p : Nat) (q : PSlot) (f : Pav → Pav) (s : State)
    (hf : ∀ v, (f v).progA = v.progA ∧ (f v).progB = v.progB) : getProg (modPav a f s) p q = getProg s p q := by
  have kept : (getPav (modPav a f s) p).progA = (getPav s p).progA ∧ (getPav (modPav a f s) p).progB = (getPav s p).progB := by
    rw [getPav_modPav]
    split
    · rename_i h
      subst h
      exact hf _
    · exact ⟨rfl, rfl⟩
  cases q
  · exact kept.1
  · exact kept.2

theorem getProg_perfEvent (a ev n p : Nat) (q : PSlot) (s : State) : getProg (perfEvent a ev n s) p q = getProg s p q :=
  getProg_modPav a p q _ s (fun _ => ⟨rfl, rfl⟩)

theorem passes_modPav (a p : Nat) (f : Pav → Pav) (s : State) (hf : ∀ v, (f v).passes = v.passes) :
    (getPav (modPav a f s) p).passes = (getPav s p).passes := by
  rw [getPav_modPav]
  split
  · rename_i h
    subst h
    exact hf _
  · rfl

theorem passes_perfEvent (a ev n p : Nat) (s : State) : (getPav (perfEvent a ev n s) p).passes = (getPav s p).passes :=
  passes_modPav a p _ s (fun _ => rfl)

theorem passes_setProg (a p : Nat) (q : PSlot) (g : Option Prog) (s : State) :
    (getPav (setProg a q g s) p).passes = (getPav s p).passes :=
  passes_modPav a p _ s (fun v => by cases q <;> rfl)

theorem passes_modProg (a p : Nat) (q : PSlot) (f : Prog → Prog) (s : State) :
    (getPav (modProg a q f s) p).passes = (getPav s p).passes := by
  unfold modProg
  split
  · rfl
  · exact passes_setProg a p q _ s

@[simp] theorem getProg_modProg_self (p : Nat) (q : PSlot) (f : Prog → Prog) (s : State) :
    getProg (modProg p q f s) p q = (getProg s p q).map f := by
  unfold modProg
  split
  · rename_i h
    rw [h]
    rfl
  · rename_i g h
    rw [getProg_setProg_self, h]
    rfl

/-- A change of a program changes the Pavilions alone. -/
theorem modProg_only (p : Nat) (q : PSlot) (f : Prog → Prog) (s : State) :
    modProg p q f s = { s with pavs := (modProg p q f s).pavs } := by
  unfold modProg
  split <;> rfl

@[simp] theorem modProg_ter (p : Nat) (q : PSlot) (f : Prog → Prog) (s : State) : (modProg p q f s).ter = s.ter := by
  rw [modProg_only]

@[simp] theorem modProg_out (p : Nat) (q : PSlot) (f : Prog → Prog) (s : State) : (modProg p q f s).out = s.out := by
  rw [modProg_only]

@[simp] theorem modProg_pending (p : Nat) (q : PSlot) (f : Prog → Prog) (s : State) :
    (modProg p q f s).pending = s.pending := by
  rw [modProg_only]

/-! Events (R50 to R53, R381). -/

theorem addEvents_only (c : Nat) (seq : BitVec 32) (es : List EvKey) (s : State) :
    ∃ cs js, addEvents c seq es s = { s with ctxs := cs, jobs := js } := by
  unfold addEvents
  induction es generalizing s with
  | nil => exact ⟨s.ctxs, s.jobs, rfl⟩
  | cons e es ih =>
    have one : ∃ cs js, addEvent c seq e s = { s with ctxs := cs, jobs := js } := by
      unfold addEvent
      dsimp only
      by_cases h : e.kind = 4
      · rw [if_pos h]
        exact ⟨_, _, rfl⟩
      · rw [if_neg h]
        exact ⟨_, _, rfl⟩
    obtain ⟨cs, js, h⟩ := one
    rw [List.foldl_cons, h]
    obtain ⟨cs', js', h'⟩ := ih { s with ctxs := cs, jobs := js }
    exact ⟨cs', js', h'⟩

/-- From s to t no program, pass, byte or line of the Terrace, output or waiting command changes. -/
structure CountFrame (s t : State) : Prop where
  progs : ∀ p q, getProg t p q = getProg s p q
  passes : ∀ p, (getPav t p).passes = (getPav s p).passes
  ter : t.ter = s.ter
  out : t.out = s.out
  pending : t.pending = s.pending

theorem CountFrame.trans {s t u : State} (h : CountFrame s t) (g : CountFrame t u) : CountFrame s u where
  progs p q := (g.progs p q).trans (h.progs p q)
  passes p := (g.passes p).trans (h.passes p)
  ter := g.ter.trans h.ter
  out := g.out.trans h.out
  pending := g.pending.trans h.pending

theorem countFrame_perfEvent (p ev n : Nat) (s : State) : CountFrame s (perfEvent p ev n s) :=
  ⟨fun a q => getProg_perfEvent p ev n a q s, fun a => passes_perfEvent p ev n a s, rfl, rfl, rfl⟩

theorem countFrame_kioskQueue (p n : Nat) (s : State) : CountFrame s (kioskQueue p n s) := by
  unfold kioskQueue
  split
  · exact ⟨fun _ _ => rfl, fun _ => rfl, rfl, rfl, rfl⟩
  · exact ⟨fun a q => getProg_modPav p a q _ s (fun _ => ⟨rfl, rfl⟩),
      fun a => passes_modPav p a _ s (fun _ => rfl), rfl, rfl, rfl⟩

theorem countFrame_countEvents (c : Nat) (seq : BitVec 32) (member pav tpc : Nat) (es : List Ev) (s : State) :
    CountFrame s (countEvents c seq member pav tpc es s) := by
  unfold countEvents
  generalize es.map _ = ks
  obtain ⟨cs, js, h⟩ := addEvents_only c seq ks s
  have counted : CountFrame s { s with ctxs := cs, jobs := js } := ⟨fun _ _ => rfl, fun _ => rfl, rfl, rfl, rfl⟩
  rw [h]
  exact counted.trans (countFrame_kioskQueue pav es.length _)

/-! Issue. -/

/-- The state that the meaning of a head runs on. -/
abbrev issueStart (s : State) (p : Nat) (q : PSlot) (k : Nat) (g : Prog) (j : Job) (c : QCmd) : State :=
  perfEvent p 0x0A 1 (setProg p q (some (headTaken s k g j c)) s)

theorem getProg_issueStart (s : State) (p : Nat) (q : PSlot) (k : Nat) (g : Prog) (j : Job) (c : QCmd) :
    getProg (issueStart s p q k g j c) p q = some (headTaken s k g j c) := by
  rw [getProg_perfEvent, getProg_setProg_self]

theorem passes_issueStart (s : State) (p : Nat) (q : PSlot) (k : Nat) (g : Prog) (j : Job) (c : QCmd) :
    (getPav (issueStart s p q k g j c) p).passes = (getPav s p).passes := by
  rw [passes_perfEvent, passes_setProg]

/-- A head that is ready and whose meaning succeeds issues: its program has the command's chunks noted, and beside that
what the meaning has done stands. -/
theorem live_issueOp_ok {s s2 : State} {p : PavId} {q : PSlot} {k o : Nat} {g : Prog} {j : Job} {c : QCmd} {body : Body}
    {evs : List Ev} {stags : List Nat} (hr : Ready s p q k o g j c)
    (hm : Meaning s p q k g j c body = (.ok (evs, stags), s2)) :
    ∃ t, live (issueOp p.val q k o body) s = .next t ∧
      getProg t p.val q = (getProg s2 p.val q).map (noteChunks c.num stags) ∧
      (getPav t p.val).passes = (getPav s2 p.val).passes ∧ t.ter.mem = s2.ter.mem ∧
      (s2.out = s.out → s2.pending = s.pending → t.ter = s2.ter) := by
  obtain ⟨⟨hup, hg, hc, hj, hh, hd, ho, hf, hw, hu, h1, h2, h3⟩, h4⟩ := hr
  have ends : issueOp p.val q k o body s =
      countEvents g.ctx g.jobseq g.hdr.member p.val c.tpc evs (modProg p.val q (noteChunks c.num stags) s2) :=
    (issueOp_runs p.val q k o body s g c j hg hc hj hh hd ho hf hw hu h1 h2 h3 h4).trans
      (runHead_ok p.val q k g j c body s s2 evs stags hm)
  have counted := countFrame_countEvents g.ctx g.jobseq g.hdr.member p.val c.tpc evs
    (modProg p.val q (noteChunks c.num stags) s2)
  have noted := modProg_only p.val q (noteChunks c.num stags) s2
  rw [← ends] at counted
  have framed := effect_frame (issueOp p.val q k o body) s
  have pavs : (effect (issueOp p.val q k o body) s).pavs = (issueOp p.val q k o body s).pavs := framed.pavs
  have mem : (effect (issueOp p.val q k o body) s).ter.mem = (issueOp p.val q k o body s).ter.mem := framed.terMem
  refine ⟨_, live_up _ _ hup, ?_, ?_, ?_, fun hout hpend => ?_⟩
  · rw [getProg_congr pavs, counted.progs, getProg_modProg_self]
  · rw [getPav, pavs]
    exact (counted.passes p.val).trans (passes_modProg ..)
  · rw [mem, counted.ter, noted]
  · rw [effect_silent _ _ (by rw [counted.out, noted, hout]) (by rw [counted.pending, noted, hpend]), counted.ter, noted]

/-! What the issue itself does to the program. -/

/-- A program that runs on as another does: its issued commands, queues, counters and place are the same. -/
structure RunsAs (g h : Prog) : Prop where
  issued : h.issued = g.issued
  queues : h.queues = g.queues
  halted : h.halted = g.halted
  tpc : h.tpc = g.tpc
  tok : h.tok = g.tok

/-- A program that has lost its head: the command is issued, and its tokens are consumed (R181, R183). -/
theorem takeHead_only (k : Nat) (i : Issued) (g : Prog) : ∃ us, takeHead k i g =
    { g with
      queues := tset g.queues k ((tget g.queues k []).drop 1), issued := g.issued ++ [i], users := us
      tok := (consumeToken i.cmd.word.toNat g).tok } := by
  unfold takeHead consumeToken
  dsimp only
  by_cases h : waitsToken i.cmd.word.toNat = true
  · simp only [h, if_true]
    exact ⟨_, rfl⟩
  · simp only [h, if_false, Bool.false_eq_true]
    exact ⟨_, rfl⟩

/-- A program that runs on as its head has left it has issued the command, once the chunks that it waits on are noted
(R184). -/
theorem issuedIn_noteChunks {s t : State} {p : PavId} {q : PSlot} {k : Nat} {g h : Prog} {j : Job} {c : QCmd}
    {stags : List Nat} (hp : getProg t p.val q = some (noteChunks c.num stags h)) (hr : RunsAs (headTaken s k g j c) h)
    (hh : g.halted = false) : IssuedIn t p q k g (noteChunks c.num stags h) c stags := by
  obtain ⟨us, e⟩ := takeHead_only k
    ⟨c, (cmdLines s j g c).1, (cmdLines s j g c).2.1, (cmdLines s j g c).2.2, cmdEntries s j g c, []⟩ g
  obtain ⟨issued, queues, halted, tpc, tok⟩ := hr
  rw [headTaken, e] at issued queues halted tpc tok
  refine ⟨hp, ?_, ?_, halted.trans hh, tpc, tok⟩
  · refine ⟨⟨c, (cmdLines s j g c).1, (cmdLines s j g c).2.1, (cmdLines s j g c).2.2, cmdEntries s j g c, stags⟩,
      ?_, rfl, rfl⟩
    refine List.mem_map.mpr ⟨_, by rw [issued]; exact List.mem_append_right _ List.mem_cons_self, ?_⟩
    rw [if_pos rfl]
    rfl
  · show tget h.queues k [] = _
    rw [queues]
    exact tget_tset_self ..

/-- Two programs with the same tiles, entries, buffers and row state. -/
structure SameTiles (g h : Prog) : Prop where
  acc : h.acc = g.acc
  feed : h.feed = g.feed
  resident : h.resident = g.resident
  fifo : h.fifo = g.fifo
  rsu : h.rsu = g.rsu

/-- Leaving its queue touches none of a program's tiles. -/
theorem sameTiles_headTaken (s : State) (k : Nat) (g : Prog) (j : Job) (c : QCmd) : SameTiles g (headTaken s k g j c) := by
  obtain ⟨us, e⟩ := takeHead_only k
    ⟨c, (cmdLines s j g c).1, (cmdLines s j g c).2.1, (cmdLines s j g c).2.2, cmdEntries s j g c, []⟩ g
  rw [headTaken, e]
  exact ⟨rfl, rfl, rfl, rfl, rfl⟩

end Sys2Proof.Proofs.Arithmetic
end

section
/-!
PROOFS. LOAD (R35, R178): the tile that its reads and its prologue give stands last in the FIFO or in the resident region of
each array that it names, and nothing else of the program changes.
-/
namespace Sys2Proof.Proofs.Arithmetic
open Sys2Proof.Machine Sys2Proof.Laws Sys2Proof.Claims

/-! Tables that are set entry by entry. -/

/-- Entries changed one after the other, each once. -/
theorem tget_foldl_tmod {α : Type} (d : α) (f : α → α) (l : List Nat) (hl : l.Nodup) (t : Tbl α) (k : Nat) :
    tget (l.foldl (fun t a => tmod t a d f) t) k d = if k ∈ l then f (tget t k d) else tget t k d := by
  induction l generalizing t with
  | nil => rfl
  | cons a l ih =>
    obtain ⟨ha, hl⟩ := List.nodup_cons.mp hl
    rw [List.foldl_cons, ih hl, tmod, tget_tset]
    by_cases hk : k = a
    · subst hk
      rw [if_neg ha, if_pos rfl, if_pos List.mem_cons_self]
    · rw [if_neg hk]
      by_cases hkl : k ∈ l
      · rw [if_pos hkl, if_pos (List.mem_cons_of_mem a hkl)]
      · rw [if_neg hkl, if_neg (fun h => (List.mem_cons.mp h).elim hk hkl)]

/-- An entry that none of the keys names stays. -/
theorem tget?_foldl_tset_ne {α β : Type} (key : β → Nat) (val : β → α) (l : List β) (t : Tbl α) (k : Nat)
    (h : ∀ x ∈ l, key x ≠ k) : tget? (l.foldl (fun t x => tset t (key x) (val x)) t) k = tget? t k := by
  induction l generalizing t with
  | nil => rfl
  | cons x l ih =>
    rw [List.foldl_cons, ih _ (fun y hy => h y (List.mem_cons_of_mem x hy)),
      tget?_tset_ne _ _ _ _ (h x List.mem_cons_self).symm]

/-! The buffers of the arrays. -/

theorem nodup_loadArrays (w : Nat) : (loadArrays w).Nodup := by
  unfold loadArrays
  cases bit w 64 <;> cases bit w 65 <;> decide

/-- A program with a tile entered into the buffers of the arrays that a LOAD names. -/
def fillArrays (w : Nat) (o : OpTile) (g : Prog) : Prog :=
  (loadArrays w).foldl (fun g a =>
    if bit w 98 then { g with fifo := tset g.fifo a (tget g.fifo a [] ++ [o]) }
    else { g with resident := tset g.resident a ((tget g.resident a []).filter (fun y => y.use != o.use) ++ [o]) }) g

/-- A LOAD of the stream FIFOs. -/
theorem fillArrays_fifo (w : Nat) (o : OpTile) (g : Prog) (h : bit w 98 = true) :
    fillArrays w o g = { g with fifo := (loadArrays w).foldl (fun t a => tmod t a [] (· ++ [o])) g.fifo } := by
  unfold fillArrays
  simp only [h, if_true]
  generalize loadArrays w = l
  induction l generalizing g with
  | nil => rfl
  | cons a l ih => exact ih { g with fifo := tset g.fifo a (tget g.fifo a [] ++ [o]) }

/-- A resident tile in place of the one of its USE. -/
def replaceUse (o : OpTile) (l : List OpTile) : List OpTile := l.filter (fun y => y.use != o.use) ++ [o]

/-- A LOAD of the resident regions. -/
theorem fillArrays_resident (w : Nat) (o : OpTile) (g : Prog) (h : bit w 98 = false) :
    fillArrays w o g = { g with resident := (loadArrays w).foldl (fun t a => tmod t a [] (replaceUse o)) g.resident } := by
  unfold fillArrays
  simp only [h, if_false, Bool.false_eq_true]
  generalize loadArrays w = l
  induction l generalizing g with
  | nil => rfl
  | cons a l ih => exact ih { g with resident := tset g.resident a (replaceUse o (tget g.resident a [])) }

/-- Beside the buffers a LOAD leaves the program as it is. -/
theorem fillArrays_only (w : Nat) (o : OpTile) (g : Prog) :
    ∃ fs rs, fillArrays w o g = { g with fifo := fs, resident := rs } := by
  by_cases h : bit w 98 = true
  · exact ⟨_, g.resident, fillArrays_fifo w o g h⟩
  · exact ⟨g.fifo, _, fillArrays_resident w o g (by simpa using h)⟩

theorem tget_fifo_fillArrays (w : Nat) (o : OpTile) (g : Prog) (a : Nat) (h : bit w 98 = true) (ha : a ∈ loadArrays w) :
    tget (fillArrays w o g).fifo a [] = tget g.fifo a [] ++ [o] := by
  rw [fillArrays_fifo w o g h]
  exact (tget_foldl_tmod [] _ _ (nodup_loadArrays w) g.fifo a).trans (if_pos ha)

theorem tget_resident_fillArrays (w : Nat) (o : OpTile) (g : Prog) (a : Nat) (h : bit w 98 = false)
    (ha : a ∈ loadArrays w) : tget (fillArrays w o g).resident a [] = replaceUse o (tget g.resident a []) := by
  rw [fillArrays_resident w o g h]
  exact (tget_foldl_tmod [] _ _ (nodup_loadArrays w) g.resident a).trans (if_pos ha)

/-! The bound of R35. -/

/-- Rows that hold no first element above the bound hold none. -/
theorem not_exceeds_of_loadExceeds (xbnd : Int) (r0 : Nat) (rows : List (List DV)) (h : loadExceeds xbnd r0 rows = none) :
    ∀ row ∈ rows, ∀ v ∈ row, v.exceeds xbnd = false := by
  intro row hrow v hv
  obtain ⟨r, hr, rfl⟩ := List.mem_iff_getElem.mp hrow
  obtain ⟨c, hc, rfl⟩ := List.mem_iff_getElem.mp hv
  have none_in_row := List.findSome?_eq_none_iff.mp h r (List.mem_range.mpr hr)
  rw [List.getD_eq_getElem _ _ hr, Option.map_eq_none_iff, List.find?_eq_none] at none_in_row
  have := none_in_row c (List.mem_range.mpr hc)
  rw [List.getD_eq_getElem _ _ hc] at this
  simpa using this

/-! LOAD's meaning. -/

/-- The rows of a LOAD's tile, read and through their prologue. -/
def loadRows (e : Env) (x : Stream) : Eff (List (List CV)) :=
  let n := tileRows e.j.desc x.use
  let r0 := (tref e.w e.c.regs).toNat * n
  (List.range n).mapM (fun r => do
    let row ← rowVals e.j e.g.epoch x (r0 + r) 0 (rowElems e.j.desc x)
    pure (loadRow e.j.desc e.j.params x (r0 + r) row))

/-- The tile that rows give. -/
def loadTile (e : Env) (x : Stream) (rows : List (List CV)) : OpTile :=
  ⟨e.c.num, x.sid, x.use, (tref e.w e.c.regs).toNat, x.xbnd, rows.map (fun row => row.map (fun v => v.x.dv))⟩

/-- A LOAD once its rows are read: the check of R35, and the tile's entry. -/
def loadEnter (e : Env) (x : Stream) (rows : List (List CV)) : Eff (List Ev × List Nat) :=
  match loadExceeds x.xbnd ((tref e.w e.c.regs).toNat * tileRows e.j.desc x.use) (loadTile e x rows).rows with
  | some (r, c) => raise ⟨stEXP_BOUND, x.sid, r, c⟩
  | none => do
    e.modify (fillArrays e.w (loadTile e x rows))
    pure (rowEvents rows, [])

/-- The descriptor lookups of a LOAD of a sequence's blocks (R254). -/
def loadLookups (e : Env) (x : Stream) (s : State) : State :=
  let n := tileRows e.j.desc x.use
  (blocksOf ((tref e.w e.c.regs).toNat * n) n).foldl (fun s _ => descLookup (x.base % 2 ^ 18) s) s

theorem loadBody_of_stream {e : Env} {x : Stream} (h : e.j.desc.stream (bits e.w 66 8) = some x) :
    loadBody e = (if x.space = 2 then modifyThe State (loadLookups e x) >>= fun _ => loadRows e x >>= loadEnter e x
      else loadRows e x >>= loadEnter e x) := by
  unfold loadBody
  dsimp only
  rw [h]
  rfl

theorem loadBody_no_stream {e : Env} (h : e.j.desc.stream (bits e.w 66 8) = none) :
    loadBody e = raise (plainFault stPROG_BAD) := by
  unfold loadBody
  dsimp only
  rw [h]

theorem keeps_loadRows (e : Env) (x : Stream) : Keeps ReadFrame (loadRows e x) :=
  keeps_mapM chains_readFrame _ (fun _ =>
    keeps_bind chains_readFrame (keeps_rowVals _ _ _ _ _ _) (fun _ => keeps_pure chains_readFrame _))

/-- A tile as LOAD may enter it: of a stream, and within the stream's declared bound (R35). -/
structure Loaded (e : Env) (x : Stream) (o : OpTile) : Prop where
  stream : e.j.desc.stream (bits e.w 66 8) = some x
  use : o.use = x.use
  tile : o.tile = (tref e.w e.c.regs).toNat
  rows : o.rows.length = tileRows e.j.desc x.use
  bound : ∀ row ∈ o.rows, ∀ v ∈ row, v.exceeds x.xbnd = false

/-- A LOAD whose rows pass the check of R35 enters its tile. -/
theorem loadEnter_ok {e : Env} {x : Stream} {rows : List (List CV)} {s t : State} {evs : List Ev} {stags : List Nat}
    (h : (loadEnter e x rows).exec s = (.ok (evs, stags), t)) :
    (∀ row ∈ (loadTile e x rows).rows, ∀ v ∈ row, v.exceeds x.xbnd = false) ∧
      t = modProg e.p e.q (fillArrays e.w (loadTile e x rows)) s ∧ stags = [] := by
  unfold loadEnter at h
  split at h
  · cases h
  · rename_i within
    cases h
    exact ⟨not_exceeds_of_loadExceeds _ _ _ within, rfl, rfl⟩

/-- A LOAD that succeeds has read its tile, and has entered it into the buffers. -/
theorem loadBody_ok {e : Env} {s t : State} {evs : List Ev} {stags : List Nat}
    (h : (loadBody e).exec s = (.ok (evs, stags), t)) :
    ∃ x o u, Loaded e x o ∧ ReadFrame s u ∧ t = modProg e.p e.q (fillArrays e.w o) u ∧ stags = [] := by
  rcases hx : e.j.desc.stream (bits e.w 66 8) with - | x
  · rw [loadBody_no_stream hx] at h
    cases h
  · have entered (s1 : State) (h1 : (loadRows e x >>= loadEnter e x).exec s1 = (.ok (evs, stags), t)) :
        ∃ o u, Loaded e x o ∧ ReadFrame s1 u ∧ t = modProg e.p e.q (fillArrays e.w o) u ∧ stags = [] := by
      obtain ⟨rows, u, hrows, henter⟩ := exec_bind_ok h1
      have read := keeps_loadRows e x s1
      rw [hrows] at read
      obtain ⟨bound, htile, hstags⟩ := loadEnter_ok henter
      have len : rows.length = tileRows e.j.desc x.use :=
        (gives_mapM_length _ _ s1 rows u hrows).trans List.length_range
      exact ⟨_, u, ⟨hx, rfl, rfl, (List.length_map _).trans len, bound⟩, read, htile, hstags⟩
    rw [loadBody_of_stream hx] at h
    split at h
    · obtain ⟨o, u, loaded, read, rest⟩ := entered (loadLookups e x s) h
      have looked : ReadFrame s (loadLookups e x s) := readFrame_foldl _ (fun s _ => readFrame_descLookup _ s) _ s
      exact ⟨x, o, u, loaded, chains_readFrame.trans looked read, rest⟩
    · obtain ⟨o, u, rest⟩ := entered s h
      exact ⟨x, o, u, rest⟩

/-- LOAD's part of O42. -/
theorem load_fills {s : State} {p : PavId} {q : PSlot} {g : Prog} {j : Job} {c : QCmd} {evs : List Ev} {stags : List Nat}
    (hr : Ready s p q 3 oLOAD g j c) (hm : (Meaning s p q 3 g j c loadBody).1 = .ok (evs, stags)) :
    let w := c.word.toNat
    let d := j.desc
    ∃ (t : State) (h : Prog) (x : Stream) (o : OpTile), exec (.load p q) s = .next t ∧ IssuedIn t p q 3 g h c [] ∧
      d.stream (bits w 66 8) = some x ∧ o.use = x.use ∧ o.tile = (tref w c.regs).toNat ∧
      o.rows.length = tileRows d x.use ∧ (∀ row ∈ o.rows, ∀ v ∈ row, v.exceeds x.xbnd = false) ∧
      (∀ a ∈ loadArrays w, (bit w 98 = true → tget h.fifo a [] = tget g.fifo a [] ++ [o]) ∧
        (bit w 98 = false → o ∈ tget h.resident a [] ∧
          ∀ y ∈ tget g.resident a [], y.use ≠ x.use → y ∈ tget h.resident a [])) ∧
      h.acc = g.acc ∧ h.feed = g.feed ∧ h.rsu = g.rsu ∧ t.ter.mem = s.ter.mem := by
  rcases hrun : Meaning s p q 3 g j c loadBody with ⟨r, s2⟩
  rw [hrun] at hm
  dsimp only at hm
  subst hm
  obtain ⟨t, hex, hprog, -, hmem, -⟩ := live_issueOp_ok hr hrun
  obtain ⟨x, o, u, loaded, read, hs2, rfl⟩ := loadBody_ok hrun
  have slot : getProg s2 p.val q = some (fillArrays c.word.toNat o (headTaken s 3 g j c)) := by
    rw [hs2, getProg_modProg_self, getProg_congr read.pavs, getProg_issueStart]
    rfl
  rw [slot] at hprog
  obtain ⟨fs, rs, only⟩ := fillArrays_only c.word.toNat o (headTaken s 3 g j c)
  have kept := sameTiles_headTaken s 3 g j c
  have runs : RunsAs (headTaken s 3 g j c) (fillArrays c.word.toNat o (headTaken s 3 g j c)) := by
    rw [only]
    exact ⟨rfl, rfl, rfl, rfl, rfl⟩
  have others : SameTiles g { fillArrays c.word.toNat o (headTaken s 3 g j c) with
      fifo := g.fifo, resident := g.resident } := by
    rw [only]
    exact ⟨kept.acc, kept.feed, rfl, rfl, kept.rsu⟩
  obtain ⟨⟨-, -, -, -, hh, -⟩, -⟩ := hr
  refine ⟨t, _, x, o, hex, issuedIn_noteChunks hprog runs hh, loaded.stream, loaded.use, loaded.tile, loaded.rows,
    loaded.bound, fun a ha => ⟨fun hb => ?_, fun hb => ?_⟩, others.acc, others.feed, others.rsu, ?_⟩
  · rw [← kept.fifo]
    exact tget_fifo_fillArrays _ o _ a hb ha
  · have entered := tget_resident_fillArrays c.word.toNat o (headTaken s 3 g j c) a hb ha
    rw [kept.resident] at entered
    have there (y : OpTile) : y ∈ tget (noteChunks c.num [] (fillArrays c.word.toNat o (headTaken s 3 g j c))).resident a [] ↔
        y ∈ replaceUse o (tget g.resident a []) := by rw [← entered]; rfl
    refine ⟨(there o).mpr (List.mem_append_right _ List.mem_cons_self), fun y hy hne => (there y).mpr ?_⟩
    refine List.mem_append_left _ (List.mem_filter.mpr ⟨hy, ?_⟩)
    rw [loaded.use]
    simpa using hne
  · rw [hmem, hs2, modProg_only]
    exact read.mem

end Sys2Proof.Proofs.Arithmetic
end

section
/-!
PROOFS. MMA (R45, R60, R179, R182, R499): it writes only the accumulator tiles that it names, records their GRID, takes what it
pops from its array's FIFO, and its pass awaits its check.
-/
namespace Sys2Proof.Proofs.Arithmetic
open Sys2Proof.Machine Sys2Proof.Laws Sys2Proof.Claims

/-! Operands. -/

theorem exec_prog (e : Env) (s : State) : (e.prog).exec s = (.ok ((getProg s e.p e.q).getD e.g), s) := by
  unfold Env.prog
  rw [exec_bind, exec_get]
  dsimp only
  rcases getProg s e.p e.q with - | g <;> rfl

/-- The first tile of an array's FIFO popped. -/
def popFifo (arr : Nat) (g : Prog) : Prog := { g with fifo := tset g.fifo arr ((tget g.fifo arr []).drop 1) }

/-- The state after an operand of source src is taken: source 1 pops the FIFO (R179). -/
def takeOperand (e : Env) (arr src : Nat) (s : State) : State := if src = 1 then modProg e.p e.q (popFifo arr) s else s

theorem operand_ok {e : Env} {arr grid src fe tr : Nat} {isB : Bool} {s t : State} {m : List (List (Option DV))}
    (h : (operand e arr grid src fe tr isB).exec s = (.ok m, t)) : t = takeOperand e arr src s := by
  unfold operand at h
  dsimp only at h
  obtain ⟨g, u, hg, h⟩ := exec_bind_ok h
  rw [exec_prog] at hg
  cases hg
  unfold takeOperand
  split at h
  · cases h
    rfl
  · cases h
    rfl
  · rename_i hsrc
    rw [if_neg hsrc]
    split at h <;> cases h
    rfl

/-! The product. -/

/-- A product's accumulator rows with their groups, and the events and repeats of each. -/
abbrev MmaRows := List (List AccPart × AccRow × List (Nat × Nat) × Nat)

/-- A program with a product's rows in the nt tiles from acc on, and their GRID recorded. -/
def mmaStore (arr acc nt grid : Nat) (res : MmaRows) (g : Prog) : Prog :=
  { g with
    acc := res.foldl (fun t x => accPut arr acc x.1 x.2.1 t) g.acc
    accG := (List.range nt).foldl (fun t i => tset t (16 * arr + acc + i) grid) g.accG
    accN := tset g.accN (16 * arr + acc) nt }

/-- A Pavilion with one more pass under check. -/
def addPass (x : Pass) (v : Pav) : Pav := { v with passes := v.passes ++ [x] }

theorem passes_addPass (p : Nat) (x : Pass) (s : State) :
    (getPav (modPav p (addPass x) s) p).passes = (getPav s p).passes ++ [x] := by
  rw [getPav_modPav, if_pos rfl]
  rfl

/-- The first accumulator tile of an MMA. -/
def mmaAcc (e : Env) : Nat := bits e.w 77 4 + (if bit e.w 86 then lreg e.c.regs 0 % 2 else 0)

/-- An MMA that succeeds has taken its operands, stored its product's rows, and put its pass under check. -/
theorem mmaBody_ok {e : Env} {s t : State} {evs : List Ev} {stags : List Nat}
    (h : (mmaBody e).exec s = (.ok (evs, stags), t)) :
    ∃ m n res x F reps, (∀ y ∈ res, y.1 ∈ accGroups m n (bits e.w 87 4 + 1)) ∧
      t = perfEvent e.p 0x0C reps (modJob e.g.ctx e.g.jobseq F (modPav e.p (addPass x) (modProg e.p e.q
        (mmaStore (queueOf e.w) (mmaAcc e) (bits e.w 87 4 + 1) (bits e.w 91 4) res)
        (takeOperand e (queueOf e.w) (bits e.w 67 2) (takeOperand e (queueOf e.w) (bits e.w 65 2) s))))) ∧
      x.q = e.q ∧ x.arr = queueOf e.w ∧ x.num = e.c.num ∧ x.fails = 0 ∧ stags = [] := by
  unfold mmaBody at h
  dsimp only at h
  obtain ⟨a, s1, ha, h⟩ := exec_bind_ok h
  obtain ⟨b, s2, hb, h⟩ := exec_bind_ok h
  rw [operand_ok ha] at hb
  have taken := operand_ok hb
  generalize (if bits e.w 91 4 = 7 then List.replicate (a.headD []).length [some (DV.fin 1 0)] else b) = b' at h
  split at h
  · cases h
  · obtain ⟨g, u, hg, h⟩ := exec_bind_ok h
    rw [exec_prog] at hg
    cases hg
    obtain ⟨⟨⟩, u, hstore, h⟩ := exec_bind_ok h
    cases hstore
    obtain ⟨g2, u, hg2, h⟩ := exec_bind_ok h
    rw [exec_prog] at hg2
    cases hg2
    cases h
    rw [taken]
    refine ⟨a.length, (transpose b').length, _, _, _, _, ?groups, rfl, rfl, rfl, rfl, rfl, rfl⟩
    case groups =>
      intro y hy
      obtain ⟨ps, hps, rfl⟩ := List.mem_map.mp hy
      exact hps

/-! Which tiles a product's rows stand in (R190, R192). -/

/-- Rows written back touch no tile outside theirs. -/
theorem tget_accPut_ne (arr acc : Nat) (ps : List AccPart) (r : AccRow) (t : Tbl (Tbl AccRow)) (k : Nat)
    (h : ∀ p ∈ ps, 16 * arr + acc + p.seg.tile ≠ k) : tget (accPut arr acc ps r t) k [] = tget t k [] := by
  induction ps generalizing r t with
  | nil => rfl
  | cons p ps ih =>
    unfold accPut
    dsimp only
    rw [ih _ _ (fun x hx => h x (List.mem_cons_of_mem p hx)), tmod, tget_tset, if_neg (h p List.mem_cons_self).symm]

/-- A product's rows written back touch no tile outside theirs. -/
theorem tget_foldl_accPut_ne (arr acc : Nat) (res : MmaRows) (t : Tbl (Tbl AccRow)) (k : Nat)
    (h : ∀ y ∈ res, ∀ p ∈ y.1, 16 * arr + acc + p.seg.tile ≠ k) :
    tget (res.foldl (fun t x => accPut arr acc x.1 x.2.1 t) t) k [] = tget t k [] := by
  induction res generalizing t with
  | nil => rfl
  | cons y res ih =>
    rw [List.foldl_cons, ih _ (fun z hz => h z (List.mem_cons_of_mem y hz)),
      tget_accPut_ne _ _ _ _ _ _ (h y List.mem_cons_self)]

/-- A row's parts stand in the product's nt tiles. -/
theorem tile_lt_of_mem_rowPieces {m n nt r : Nat} {p : AccPart} (hnt : 0 < nt) (h : p ∈ rowPieces m n nt r) :
    p.seg.tile < nt := by
  obtain ⟨y, -, rfl⟩ := List.mem_map.mp h
  have bound : y.2.tile % Nat.max nt 1 < Nat.max nt 1 := Nat.mod_lt _ (Nat.le_max_right nt 1)
  exact bound.trans_eq (Nat.max_eq_left hnt)

/-- The parts of every accumulator row of a product stand in its nt tiles. -/
theorem tile_lt_of_mem_accGroups {m n nt : Nat} {ps : List AccPart} (hnt : 0 < nt) (h : ps ∈ accGroups m n nt) :
    ∀ p ∈ ps, p.seg.tile < nt := by
  unfold accGroups at h
  intro p hp
  split at h
  · obtain ⟨k, -, rfl⟩ := List.mem_map.mp h
    obtain ⟨i, -, hi⟩ := List.mem_flatMap.mp hp
    exact tile_lt_of_mem_rowPieces hnt hi
  · split at h
    · obtain ⟨r, -, rfl⟩ := List.mem_map.mp h
      exact tile_lt_of_mem_rowPieces hnt hp
    · obtain ⟨r, -, h⟩ := List.mem_flatMap.mp h
      obtain ⟨p', hp', rfl⟩ := List.mem_map.mp h
      rw [List.mem_singleton.mp hp]
      exact tile_lt_of_mem_rowPieces hnt hp'

/-- The entries from a on that are set to one value hold it. -/
theorem tget_foldl_tset_range {α : Type} (a n : Nat) (v d : α) (t : Tbl α) (i : Nat) (h : i < n) :
    tget ((List.range n).foldl (fun t i => tset t (a + i) v) t) (a + i) d = v := by
  induction n with
  | zero => exact absurd h (Nat.not_lt_zero i)
  | succ n ih =>
    rw [List.range_succ, List.foldl_append, List.foldl_cons, List.foldl_nil, tget_tset]
    split
    · rfl
    · exact ih (by omega)

/-! What an MMA's operands pop. -/

/-- The tiles that an operand of source src pops. -/
def operandPops (src : Nat) : Nat := if src = 1 then 1 else 0

/-- The program once an operand of source src is taken. -/
def popOperand (arr src : Nat) (g : Prog) : Prog := if src = 1 then popFifo arr g else g

theorem getProg_takeOperand (e : Env) (arr src : Nat) (s : State) :
    getProg (takeOperand e arr src s) e.p e.q = (getProg s e.p e.q).map (popOperand arr src) := by
  unfold takeOperand popOperand
  split
  · exact getProg_modProg_self ..
  · exact Option.map_id'.symm

theorem takeOperand_only (e : Env) (arr src : Nat) (s : State) :
    takeOperand e arr src s = { s with pavs := (takeOperand e arr src s).pavs } := by
  unfold takeOperand
  split
  · exact modProg_only ..
  · rfl

theorem passes_takeOperand (e : Env) (arr src : Nat) (s : State) :
    (getPav (takeOperand e arr src s) e.p).passes = (getPav s e.p).passes := by
  unfold takeOperand
  split
  · exact passes_modProg ..
  · rfl

@[simp] theorem takeOperand_ter (e : Env) (arr src : Nat) (s : State) : (takeOperand e arr src s).ter = s.ter := by
  rw [takeOperand_only]

@[simp] theorem takeOperand_out (e : Env) (arr src : Nat) (s : State) : (takeOperand e arr src s).out = s.out := by
  rw [takeOperand_only]

@[simp] theorem takeOperand_pending (e : Env) (arr src : Nat) (s : State) :
    (takeOperand e arr src s).pending = s.pending := by
  rw [takeOperand_only]

theorem popOperand_only (arr src : Nat) (g : Prog) : ∃ fs, popOperand arr src g = { g with fifo := fs } := by
  unfold popOperand
  split
  · exact ⟨_, rfl⟩
  · exact ⟨_, rfl⟩

theorem fifo_popOperand (arr src : Nat) (g : Prog) :
    tget (popOperand arr src g).fifo arr [] = (tget g.fifo arr []).drop (operandPops src) := by
  unfold popOperand operandPops
  split
  · exact tget_tset_self ..
  · rfl

/-- An MMA pops a tile for each operand that it takes from the FIFO (R179). -/
theorem cmdPops_mma {w : Nat} (h : cOpc w = oMMA) : cmdPops w = operandPops (bits w 65 2) + operandPops (bits w 67 2) :=
  if_pos h

/-! MMA's part of O42. -/

/-- The program that an MMA leaves. -/
def mmaProgram (e : Env) (res : MmaRows) (g : Prog) : Prog :=
  mmaStore (queueOf e.w) (mmaAcc e) (bits e.w 87 4 + 1) (bits e.w 91 4) res
    (popOperand (queueOf e.w) (bits e.w 67 2) (popOperand (queueOf e.w) (bits e.w 65 2) g))

/-- An MMA leaves the feed entries, the row state, the resident regions and the program's course as they are. -/
theorem mmaProgram_keeps (e : Env) (res : MmaRows) (g : Prog) :
    RunsAs g (mmaProgram e res g) ∧ (mmaProgram e res g).feed = g.feed ∧ (mmaProgram e res g).rsu = g.rsu ∧
      (mmaProgram e res g).resident = g.resident := by
  obtain ⟨f1, h1⟩ := popOperand_only (queueOf e.w) (bits e.w 65 2) g
  obtain ⟨f2, h2⟩ := popOperand_only (queueOf e.w) (bits e.w 67 2) { g with fifo := f1 }
  unfold mmaProgram mmaStore
  rw [h1, h2]
  exact ⟨⟨rfl, rfl, rfl, rfl, rfl⟩, rfl, rfl, rfl⟩

/-- An MMA changes none of the tiles that it does not name. -/
theorem acc_mmaProgram_ne {e : Env} {m n : Nat} {res : MmaRows} (g : Prog)
    (hres : ∀ y ∈ res, y.1 ∈ accGroups m n (bits e.w 87 4 + 1)) {k : Nat}
    (hk : ¬ (16 * queueOf e.w + mmaAcc e ≤ k ∧ k < 16 * queueOf e.w + mmaAcc e + (bits e.w 87 4 + 1))) :
    tget (mmaProgram e res g).acc k [] = tget g.acc k [] := by
  have operands : (popOperand (queueOf e.w) (bits e.w 67 2) (popOperand (queueOf e.w) (bits e.w 65 2) g)).acc = g.acc := by
    obtain ⟨f1, h1⟩ := popOperand_only (queueOf e.w) (bits e.w 65 2) g
    obtain ⟨f2, h2⟩ := popOperand_only (queueOf e.w) (bits e.w 67 2) { g with fifo := f1 }
    rw [h1, h2]
  rw [← operands]
  refine tget_foldl_accPut_ne _ _ res _ k (fun y hy p hp hpk => hk ?_)
  have := tile_lt_of_mem_accGroups (Nat.succ_pos _) (hres y hy) p hp
  omega

theorem fifo_mmaProgram (e : Env) (res : MmaRows) (g : Prog) (h : cOpc e.w = oMMA) :
    tget (mmaProgram e res g).fifo (queueOf e.w) [] = (tget g.fifo (queueOf e.w) []).drop (cmdPops e.w) := by
  show tget (popOperand _ _ (popOperand _ _ g)).fifo (queueOf e.w) [] = _
  rw [fifo_popOperand, fifo_popOperand, List.drop_drop, cmdPops_mma h]

/-- What an MMA that succeeds does: its program is that of `mmaProgram`, one pass is added, and beside the Pavilion and the
job's counts nothing changes. -/
structure MmaRuns (e : Env) (g : Prog) (res : MmaRows) (x : Pass) (s t : State) : Prop where
  groups : ∃ m n, ∀ y ∈ res, y.1 ∈ accGroups m n (bits e.w 87 4 + 1)
  prog : getProg t e.p e.q = some (mmaProgram e res g)
  passes : (getPav t e.p).passes = (getPav s e.p).passes ++ [x]
  slot : x.q = e.q
  arr : x.arr = queueOf e.w
  num : x.num = e.c.num
  fails : x.fails = 0
  ter : t.ter = s.ter
  out : t.out = s.out
  pending : t.pending = s.pending

theorem mmaRuns_of_ok {e : Env} {g : Prog} {s t : State} {evs : List Ev} {stags : List Nat}
    (hg : getProg s e.p e.q = some g) (h : (mmaBody e).exec s = (.ok (evs, stags), t)) :
    stags = [] ∧ ∃ res x, MmaRuns e g res x s t := by
  obtain ⟨m, n, res, x, F, reps, hres, rfl, slot, arr, num, fails, hstags⟩ := mmaBody_ok h
  refine ⟨hstags, res, x, ⟨m, n, hres⟩, ?_, ?_, slot, arr, num, fails, ?_, ?_, ?_⟩
  · rw [getProg_perfEvent, getProg_congr (modJob_pavs ..), getProg_modPav e.p e.p e.q (addPass x) _ (fun _ => ⟨rfl, rfl⟩),
      getProg_modProg_self, getProg_takeOperand, getProg_takeOperand, hg]
    rfl
  · rw [passes_perfEvent, getPav_congr (modJob_pavs ..), passes_addPass, passes_modProg, passes_takeOperand,
      passes_takeOperand]
  all_goals simp

/-- MMA's part of O42. -/
theorem mma_fills {s : State} {p : PavId} {q : PSlot} {k : Nat} {g : Prog} {j : Job} {c : QCmd} {evs : List Ev} {stags : List Nat}
    (hr : Ready s p q k oMMA g j c) (hm : (Meaning s p q k g j c mmaBody).1 = .ok (evs, stags)) :
    let w := c.word.toNat
    let a0 := 16 * queueOf w + bits w 77 4 + (if bit w 86 then lreg c.regs 0 % 2 else 0)
    let n := bits w 87 4 + 1
    ∃ (t : State) (h : Prog) (x : Pass), live (issueOp p.val q k oMMA mmaBody) s = .next t ∧ IssuedIn t p q k g h c [] ∧
      (∀ i, ¬ (a0 ≤ i ∧ i < a0 + n) → tget h.acc i [] = tget g.acc i []) ∧
      (∀ i, i < n → tget h.accG (a0 + i) 15 = bits w 91 4) ∧
      tget h.fifo (queueOf w) [] = (tget g.fifo (queueOf w) []).drop (cmdPops w) ∧
      (getPav t p.val).passes = (getPav s p.val).passes ++ [x] ∧ x.q = q ∧ x.arr = queueOf w ∧ x.num = c.num ∧
      x.fails = 0 ∧ h.feed = g.feed ∧ h.rsu = g.rsu ∧ h.resident = g.resident ∧ t.ter = s.ter := by
  rcases hrun : Meaning s p q k g j c mmaBody with ⟨r, s2⟩
  rw [hrun] at hm
  dsimp only at hm
  subst hm
  obtain ⟨t, hex, hprog, hpasses, -, hter⟩ := live_issueOp_ok hr hrun
  obtain ⟨rfl, res, x, mma⟩ := mmaRuns_of_ok (getProg_issueStart ..) hrun
  obtain ⟨m, n, hres⟩ := mma.groups
  rw [mma.prog] at hprog
  have kept := sameTiles_headTaken s k g j c
  obtain ⟨runs, feed, rsu, resident⟩ := mmaProgram_keeps ⟨p.val, q, headTaken s k g j c, j, c⟩ res (headTaken s k g j c)
  obtain ⟨⟨-, -, -, -, hh, -, ho, -⟩, -⟩ := hr
  have first : 16 * queueOf c.word.toNat + bits c.word.toNat 77 4 + (if bit c.word.toNat 86 then lreg c.regs 0 % 2 else 0) =
      16 * queueOf c.word.toNat + mmaAcc ⟨p.val, q, headTaken s k g j c, j, c⟩ := Nat.add_assoc _ _ _
  dsimp only
  rw [first]
  refine ⟨t, _, x, hex, issuedIn_noteChunks hprog runs hh, fun i hi => ?_, fun i hi => ?_, ?_, ?_, mma.slot, mma.arr,
    mma.num, mma.fails, feed.trans kept.feed, rsu.trans kept.rsu, resident.trans kept.resident, ?_⟩
  · rw [← kept.acc]
    exact acc_mmaProgram_ne _ hres hi
  · exact tget_foldl_tset_range _ _ _ _ _ i hi
  · rw [← kept.fifo]
    exact fifo_mmaProgram _ res _ ho
  · exact hpasses.trans (mma.passes.trans (congrArg (· ++ [x]) (passes_issueStart s p.val q k g j c)))
  · exact (hter mma.out mma.pending).trans mma.ter

end Sys2Proof.Proofs.Arithmetic
end

section
/-!
PROOFS. Writes of rows of values to a stream (R204, R273): of a program they change no more than the chunk numbers of its
landing entries.
-/
namespace Sys2Proof.Proofs.Arithmetic
open Sys2Proof.Machine Sys2Proof.Laws

/-- From s to t the program in slot q of Pavilion p changes no more than the chunk numbers of its landing entries. -/
def Renumbers (p : Nat) (q : PSlot) (s t : State) : Prop :=
  ∀ g, getProg s p q = some g → ∃ cs, getProg t p q = some { g with cseq := cs }

theorem renumbers_of_pavs {p : Nat} {q : PSlot} {s t : State} (h : t.pavs = s.pavs) : Renumbers p q s t :=
  fun g hg => ⟨g.cseq, (getProg_congr h p q).trans hg⟩

theorem chains_renumbers (p : Nat) (q : PSlot) : Chains (Renumbers p q) where
  refl _ := renumbers_of_pavs rfl
  trans hst htu g hg := by
    obtain ⟨cs, ht⟩ := hst g hg
    obtain ⟨cs', hu⟩ := htu _ ht
    exact ⟨cs', hu⟩

/-! What a write does to the state. -/

theorem readFrame_extPut (space a : Nat) (bs : List Byte) (pw : List Nat) (cached : Bool) (s : State) :
    ReadFrame s (extPut space a bs pw cached s) := by
  have backs (ls : List CacheLine) := readFrame_foldl (fun s l => if cached then s else writeBack l s)
    (fun s l => by
      split
      · exact chains_readFrame.refl s
      · exact readFrame_writeBack l s) ls s
  unfold extPut
  exact ⟨(backs _).pavs, (backs _).mem⟩

theorem readFrame_extWrite (s : State) (c : Nat) (priv : Bool) (space a : Nat) (bs : List Byte) (pw : List Nat) (cached : Bool) :
    ReadFrame s (extWrite s c priv space a bs pw cached).1 := by
  unfold extWrite
  split
  · exact ⟨rfl, rfl⟩
  · exact chains_readFrame.trans (readFrame_extPut ..) (readFrame_mQueue ..)

theorem pavs_terWrite (s : State) (c off : Nat) (bs : List Byte) (tags : List (BitVec 2)) :
    (terWrite s c off bs tags).1.pavs = s.pavs := by
  unfold terWrite
  dsimp only
  split <;> rfl

theorem pavs_terMark (ws : List Nat) (s : State) : (terMark ws s).pavs = s.pavs := by
  unfold terMark
  generalize ws.filter _ = ws
  induction ws generalizing s with
  | nil => rfl
  | cons w ws ih => exact ih _

theorem renumbers_takeCseq (w : Writer) (lid : Nat) (s : State) : Renumbers w.pav w.slot s (takeCseq w lid s).2 := by
  intro g hg
  unfold takeCseq
  rw [hg]
  exact ⟨_, getProg_setProg_self ..⟩

/-! The parts of a plain write. -/

theorem keeps_landChunk (w : Writer) (x : Stream) (plot : Bool) (p : LPart) (off : Nat) (bs : List Byte)
    (tags : List (BitVec 2)) (bad : List Int) : Keeps (Renumbers w.pav w.slot) (landChunk w x false plot p off bs tags bad) := by
  have hR := chains_renumbers w.pav w.slot
  unfold landChunk
  dsimp only
  have landed (f : State → State) (hf : ∀ s, (f s).pavs = s.pavs) :
      Keeps (Renumbers w.pav w.slot) (modify f >>= fun _ => (pure [] : Eff (List Nat))) :=
    keeps_bind hR (keeps_modify f (fun s => renumbers_of_pavs (hf s))) (fun _ => keeps_pure hR _)
  refine keeps_get_set hR (fun s => renumbers_takeCseq w p.lid s)
    (fun s => keeps_guard hR (keeps_ite (keeps_ite ?terrace ?outside) ?sent))
  case terrace =>
    rw [if_neg Bool.false_ne_true]
    refine keeps_bind hR (keeps_liftStep hR _ _ (fun s => renumbers_of_pavs (pavs_terWrite s ..))) (fun _ => ?_)
    exact keeps_bind hR (keeps_modifyThe _ (fun s => renumbers_of_pavs (pavs_terMark _ s)))
      (fun _ => landed _ (fun _ => rfl))
  case outside =>
    exact keeps_get_set hR (fun s => renumbers_of_pavs (readFrame_extWrite s ..).pavs)
      (fun s => keeps_guard hR (landed _ (fun _ => rfl)))
  case sent =>
    refine keeps_get_then (fun s => ?_)
    split
    · exact renumbers_of_pavs rfl
    · split <;> exact renumbers_of_pavs rfl

theorem keeps_landWrite (w : Writer) (x : Stream) (sp : WSpan) : Keeps (Renumbers w.pav w.slot) (landWrite w x false sp) := by
  have hR := chains_renumbers w.pav w.slot
  unfold landWrite
  dsimp only
  exact keeps_bind hR (keeps_get hR) (fun s =>
    keeps_bind hR (keeps_mapM hR _ (fun c => keeps_landChunk w x _ _ _ _ _ _)) (fun _ => keeps_pure hR _))

theorem keeps_spanWrite (w : Writer) (x : Stream) (sp : WSpan) : Keeps (Renumbers w.pav w.slot) (spanWrite w x sp) := by
  have hR := chains_renumbers w.pav w.slot
  unfold spanWrite
  dsimp only
  split
  · exact keeps_bind hR (keeps_liftStep hR _ _ (fun s => renumbers_of_pavs (pavs_terWrite s ..))) (fun _ => keeps_pure hR _)
  · exact keeps_landWrite w x sp
  · exact keeps_get_set hR (fun s => renumbers_of_pavs (readFrame_extWrite s ..).pavs)
      (fun s => keeps_ite (keeps_pure hR _) (keeps_raise hR _))

theorem keeps_streamWrite (w : Writer) (x : Stream) (sps : List WSpan) :
    Keeps (Renumbers w.pav w.slot) (streamWrite w x sps) := by
  have hR := chains_renumbers w.pav w.slot
  exact keeps_bind hR (keeps_mapM hR _ (fun sp => keeps_spanWrite w x sp)) (fun _ => keeps_pure hR _)

theorem pavs_noteOut (c : Nat) (seq : BitVec 32) (x : Stream) (vs : List XV) (s : State) :
    (noteOut c seq x vs s).pavs = s.pavs := by
  unfold noteOut
  split
  · rfl
  · split <;> rfl

theorem keeps_writeRows (w : Writer) (j : Job) (x : Stream) (r0 col0 unit : Nat) (rows : List (List XV)) :
    Keeps (Renumbers w.pav w.slot) (writeRows w j x r0 col0 unit rows) := by
  have hR := chains_renumbers w.pav w.slot
  unfold writeRows
  dsimp only
  exact keeps_bind hR (keeps_streamWrite w x _) (fun _ =>
    keeps_bind hR (keeps_modify _ (fun s => renumbers_of_pavs (pavs_noteOut _ _ _ _ s))) (fun _ => keeps_pure hR _))

theorem keeps_writeTo (e : Env) (x : Option Stream) (r0 col0 : Nat) (rows : List (List XV)) :
    Keeps (Renumbers e.p e.q) (writeTo e x r0 col0 rows) := by
  unfold writeTo
  split
  · exact keeps_pure (chains_renumbers ..) _
  · exact keeps_writeRows (e.writer false) e.j _ _ _ _ _

end Sys2Proof.Proofs.Arithmetic
end

section
/-!
PROOFS. DRAIN (R58, R95, R178, R514): what it reads, and what it changes of its program and of the Terrace.
-/
namespace Sys2Proof.Proofs.Arithmetic
open Sys2Proof.Machine Sys2Proof.Laws Sys2Proof.Claims

/-! What a DRAIN reads. -/

theorem keeps_maskBits (e : Env) (i : Nat) : Keeps ReadFrame (maskBits e i) := by
  have hR := chains_readFrame
  unfold maskBits
  split
  · exact keeps_pure hR _
  · exact keeps_bind hR (keeps_streamRead _ _ _ _ _) (fun _ => keeps_pure hR _)

theorem keeps_rowScalar (e : Env) (use i : Nat) : Keeps ReadFrame (rowScalar e use i) := by
  have hR := chains_readFrame
  unfold rowScalar
  split
  · exact keeps_pure hR _
  · exact keeps_bind hR (keeps_rowVals _ _ _ _ _ _) (fun _ => keeps_pure hR _)

theorem keeps_prog (e : Env) : Keeps ReadFrame e.prog := by
  intro s
  rw [exec_prog]
  exact chains_readFrame.refl s

theorem keeps_drainScores (e : Env) (arr acc kt : Nat) : Keeps ReadFrame (drainScores e arr acc kt) := by
  have hR := chains_readFrame
  unfold drainScores
  dsimp only
  refine keeps_bind hR (keeps_prog e) (fun g => keeps_mapM hR _ (fun r => ?_))
  have row {γ : Type} (k : XV → γ) : Keeps ReadFrame (if e.j.desc.jtype = 2 then
      rowScalar e uLSE (e.c.qt * e.j.desc.q + r) >>= fun lam => pure (k lam) else pure XV.zero >>= fun lam => pure (k lam)) :=
    keeps_ite (keeps_bind hR (keeps_rowScalar _ _ _) (fun _ => keeps_pure hR _))
      (keeps_bind hR (keeps_pure hR _) (fun _ => keeps_pure hR _))
  exact keeps_ite (keeps_bind hR (keeps_maskBits _ _) (fun _ => row _)) (keeps_bind hR (keeps_pure hR _) (fun _ => row _))

/-- A DRAIN takes as many rows as the query tile has. -/
theorem gives_drainScores (e : Env) (arr acc kt : Nat) :
    Gives (fun rows => rows.length = e.j.desc.q) (drainScores e arr acc kt) := by
  intro s rows t h
  obtain ⟨g, u, -, h⟩ := exec_bind_ok h
  exact (gives_mapM_length _ _ u rows t h).trans List.length_range

theorem keeps_peekEff {α : Type} (m : Eff α) (dflt : α) : Keeps ReadFrame (peekEff m dflt) := by
  have hR := chains_readFrame
  refine keeps_bind hR (keeps_get hR) (fun s => ?_)
  split <;> exact keeps_pure hR _

theorem keeps_rowOpen (e : Env) (i : Nat) : Keeps ReadFrame (rowOpen e i) := by
  have hR := chains_readFrame
  unfold rowOpen
  dsimp only
  exact keeps_ite (keeps_bind hR (keeps_peekEff _ _) (fun _ => keeps_pure hR _))
    (keeps_bind hR (keeps_pure hR _) (fun _ => keeps_pure hR _))

theorem keeps_countMaskedRows (e : Env) (rows : List Nat) : Keeps ReadFrame (countMaskedRows e rows) :=
  keeps_modifyThe _ (fun _ => ⟨rfl, rfl⟩)

theorem keeps_noteLambda (e : Env) (kt : Nat) (lams : List XV) : Keeps ReadFrame (noteLambda e kt lams) :=
  keeps_ite (keeps_countMaskedRows e _) (keeps_pure chains_readFrame _)

theorem keeps_noteDump (e : Env) (kt : Nat) : Keeps ReadFrame (noteDump e kt) := by
  have hR := chains_readFrame
  refine keeps_ite (keeps_bind hR (keeps_filterM hR _ (fun i => ?_)) (fun _ => keeps_countMaskedRows e _)) (keeps_pure hR _)
  exact keeps_bind hR (keeps_rowOpen e i) (fun _ => keeps_pure hR _)

/-! What a DRAIN changes. -/

theorem RunsAs.trans {g h k : Prog} (a : RunsAs g h) (b : RunsAs h k) : RunsAs g k where
  issued := b.issued.trans a.issued
  queues := b.queues.trans a.queues
  halted := b.halted.trans a.halted
  tpc := b.tpc.trans a.tpc
  tok := b.tok.trans a.tok

/-- The feed entries that a DRAIN names. -/
def drainEntry (e : Env) (k : Nat) : Prop := feedD e.w e.c.regs ≤ k ∧ k < feedD e.w e.c.regs + scoreTiles e.j.desc

/-- The rows of a DRAIN's query tile. -/
def drainRow (e : Env) (i : Nat) : Prop := e.c.qt * e.j.desc.q ≤ i ∧ i < e.c.qt * e.j.desc.q + e.j.desc.q

/-- What a DRAIN may change of its program: the feed entries that it names, but not in DMODE 1, and the row state of its
query tile in DMODE 0 to 2. -/
structure DrainsTo (e : Env) (g h : Prog) : Prop where
  runs : RunsAs g h
  acc : h.acc = g.acc
  fifo : h.fifo = g.fifo
  resident : h.resident = g.resident
  feed : ∀ k, ¬ drainEntry e k → tget? h.feed k = tget? g.feed k
  rows : ∀ i, ¬ drainRow e i → rowState h i = rowState g i
  noFeed : bits e.w 75 3 = 1 → h.feed = g.feed
  noRows : 3 ≤ bits e.w 75 3 → h.rsu = g.rsu

theorem drainsTo_cseq (e : Env) (g : Prog) (cs : Tbl Nat) : DrainsTo e g { g with cseq := cs } :=
  ⟨⟨rfl, rfl, rfl, rfl, rfl⟩, rfl, rfl, rfl, fun _ _ => rfl, fun _ _ => rfl, fun _ => rfl, fun _ => rfl⟩

theorem DrainsTo.trans {e : Env} {g h k : Prog} (a : DrainsTo e g h) (b : DrainsTo e h k) : DrainsTo e g k where
  runs := a.runs.trans b.runs
  acc := b.acc.trans a.acc
  fifo := b.fifo.trans a.fifo
  resident := b.resident.trans a.resident
  feed i hi := (b.feed i hi).trans (a.feed i hi)
  rows i hi := (b.rows i hi).trans (a.rows i hi)
  noFeed hd := (b.noFeed hd).trans (a.noFeed hd)
  noRows hd := (b.noRows hd).trans (a.noRows hd)

/-- From s to t a DRAIN changes of its program what it may, and in DMODE 3 and 4 no byte of the Terrace. -/
structure DrainFrame (e : Env) (s t : State) : Prop where
  prog : ∀ g, getProg s e.p e.q = some g → ∃ h, getProg t e.p e.q = some h ∧ DrainsTo e g h
  mem : 3 ≤ bits e.w 75 3 → t.ter.mem = s.ter.mem

theorem drainFrame_of_read {e : Env} {s t : State} (h : ReadFrame s t) : DrainFrame e s t where
  prog g hg := ⟨g, (getProg_congr h.pavs _ _).trans hg, drainsTo_cseq e g g.cseq⟩
  mem _ := h.mem

theorem drainFrame_of_renumbers {e : Env} {s t : State} (hd : bits e.w 75 3 ≤ 2) (h : Renumbers e.p e.q s t) :
    DrainFrame e s t where
  prog g hg := by
    obtain ⟨cs, ht⟩ := h g hg
    exact ⟨_, ht, drainsTo_cseq e g cs⟩
  mem hd' := absurd (hd'.trans hd) (by decide)

theorem chains_drainFrame (e : Env) : Chains (DrainFrame e) where
  refl s := drainFrame_of_read (chains_readFrame.refl s)
  trans a b := by
    refine ⟨fun g hg => ?_, fun hd => (b.mem hd).trans (a.mem hd)⟩
    obtain ⟨h, hh, hgh⟩ := a.prog g hg
    obtain ⟨k, hk, hhk⟩ := b.prog h hh
    exact ⟨k, hk, hgh.trans hhk⟩

theorem keeps_drain_of_read {α : Type} {e : Env} {m : Eff α} (h : Keeps ReadFrame m) : Keeps (DrainFrame e) m :=
  h.mono (fun _ _ => drainFrame_of_read)

/-- A change of the program within what a DRAIN may change. -/
theorem keeps_drain_modify {e : Env} {f : Prog → Prog} (h : ∀ g, DrainsTo e g (f g)) : Keeps (DrainFrame e) (e.modify f) :=
  keeps_modifyThe _ (fun s => by
    refine ⟨fun g hg => ⟨f g, ?_, h g⟩, fun _ => by rw [modProg_ter]⟩
    rw [getProg_modProg_self, hg]
    rfl)

/-- Feed entries stored from the first that a DRAIN names on. -/
theorem tget?_feedStore_ne (e : Env) (fmt : Nat) (isDs : Bool) (kt row0 col0 : Nat) (rows : List (List FeedEl))
    (t : Tbl FeedEnt) (k : Nat) (hk : ¬ drainEntry e k) :
    tget? (feedStore e.j.desc (feedD e.w e.c.regs) fmt isDs kt row0 col0 rows t) k = tget? t k := by
  refine tget?_foldl_tset_ne _ _ _ t k (fun i hi hik => hk ?_)
  have := List.mem_range.mp hi
  exact ⟨by omega, by omega⟩

/-- A DRAIN of DMODE 3 or 4 stores feed entries alone. -/
theorem drainsTo_feedStore {e : Env} (hd : 3 ≤ bits e.w 75 3) (fmt : Nat) (isDs : Bool) (kt row0 col0 : Nat)
    (rows : List (List FeedEl)) (pf : Prog → List FeedEnt) (g : Prog) :
    DrainsTo e g { g with
      feed := feedStore e.j.desc (feedD e.w e.c.regs) fmt isDs kt row0 col0 rows g.feed, pf := pf g } where
  runs := ⟨rfl, rfl, rfl, rfl, rfl⟩
  acc := rfl
  fifo := rfl
  resident := rfl
  feed := tget?_feedStore_ne e fmt isDs kt row0 col0 rows g.feed
  rows _ _ := rfl
  noFeed hd' := absurd (hd.trans_eq hd') (by decide)
  noRows _ := rfl

/-! DRAIN's meaning by DMODE (R514). -/

theorem keeps_drainP {e : Env} (hd : 3 ≤ bits e.w 75 3) (arr acc kt : Nat) :
    Keeps (DrainFrame e) (drainP e arr acc (feedD e.w e.c.regs) kt) := by
  have hR := chains_drainFrame e
  refine keeps_bind hR (keeps_drain_of_read (keeps_drainScores _ _ _ _)) (fun sc => ?_)
  refine keeps_bind hR (keeps_drain_of_read (keeps_noteLambda _ _ _)) (fun _ => ?_)
  exact keeps_bind hR (keeps_drain_modify (drainsTo_feedStore hd _ _ _ _ _ _ _)) (fun _ => keeps_pure hR _)

theorem keeps_drainDs {e : Env} (hd : 3 ≤ bits e.w 75 3) (arr acc kt : Nat) :
    Keeps (DrainFrame e) (drainDs e arr acc (feedD e.w e.c.regs) kt) := by
  have hR := chains_drainFrame e
  unfold drainDs
  dsimp only
  generalize (if e.j.desc.a.dMode = 1 then uD else uDDEST) = use
  refine keeps_bind hR (keeps_drain_of_read (keeps_prog e)) (fun g => ?_)
  split
  · exact keeps_raise hR _
  · refine keeps_bind hR (keeps_drain_of_read (keeps_mapM chains_readFrame _ (fun r => ?_))) (fun ds => ?_)
    · exact keeps_bind chains_readFrame (keeps_rowScalar _ _ _) (fun _ => keeps_pure chains_readFrame _)
    · exact keeps_bind hR (keeps_drain_modify (drainsTo_feedStore hd _ _ _ _ _ _ (fun g => g.pf))) (fun _ => keeps_pure hR _)

/-- Rows of row state set from the first of the query tile on. -/
theorem tget?_foldl_rows_ne (e : Env) (rows : List FwdRow) (hlen : rows.length = e.j.desc.q) (t : Tbl RowState) (i : Nat)
    (hi : ¬ drainRow e i) :
    tget? (((List.range rows.length).zip rows).foldl (fun t x => tset t (e.c.qt * e.j.desc.q + x.1) x.2.st) t) i =
      tget? t i := by
  refine tget?_foldl_tset_ne _ _ _ t i (fun x hx hxi => hi ?_)
  have := List.mem_range.mp (List.of_mem_zip hx).1
  exact ⟨by omega, by omega⟩

/-- A DRAIN of DMODE 0 to 2 sets the row state of its query tile and, but in DMODE 1, stores feed entries. -/
theorem drainsTo_rows {e : Env} (hd : bits e.w 75 3 ≤ 2) (fmt kt row0 col0 : Nat) (rows : List FwdRow)
    (hlen : rows.length = e.j.desc.q) (g : Prog) :
    DrainsTo e g { g with
      rsu := ((List.range rows.length).zip rows).foldl (fun t x => tset t (e.c.qt * e.j.desc.q + x.1) x.2.st) g.rsu
      feed := if bits e.w 75 3 = 1 then g.feed
        else feedStore e.j.desc (feedD e.w e.c.regs) fmt false kt row0 col0 (rows.map (·.feed)) g.feed } where
  runs := ⟨rfl, rfl, rfl, rfl, rfl⟩
  acc := rfl
  fifo := rfl
  resident := rfl
  feed k hk := by
    dsimp only
    split
    · rfl
    · exact tget?_feedStore_ne e fmt false kt row0 col0 _ g.feed k hk
  rows i hi := congrArg (fun r => Option.getD r RowState.init) (tget?_foldl_rows_ne e rows hlen g.rsu i hi)
  noFeed hd' := if_pos hd'
  noRows hd' := absurd (hd'.trans hd) (by decide)

theorem keeps_drainFwd {e : Env} (hd : bits e.w 75 3 ≤ 2) (arr acc kt : Nat) :
    Keeps (DrainFrame e) (drainFwd e (bits e.w 75 3) arr acc (feedD e.w e.c.regs) kt) := by
  have hR := chains_drainFrame e
  have writes (x : Option Stream) (r0 col0 : Nat) (rows : List (List XV)) : Keeps (DrainFrame e) (writeTo e x r0 col0 rows) :=
    (keeps_writeTo e x r0 col0 rows).mono (fun _ _ => drainFrame_of_renumbers hd)
  unfold drainFwd
  dsimp only
  refine keeps_bind_gives hR (keeps_drain_of_read (keeps_drainScores _ _ _ _)) (gives_drainScores _ _ _ _) (fun sc hlen =>
    keeps_bind hR (writes _ _ _ _) (fun w => keeps_optional hR (keeps_drain_of_read (keeps_noteDump _ _))
      (keeps_ite (keeps_pure hR _) (keeps_bind hR (keeps_drain_of_read (keeps_prog e)) (fun g => ?_)))))
  refine keeps_bind hR (keeps_drain_modify (drainsTo_rows hd _ _ _ _ _ ?_)) (fun _ =>
    keeps_bind hR (writes _ _ _ _) (fun _ => keeps_pure hR _))
  simpa using hlen

theorem drainFrame_perfEvent (e : Env) (p ev n : Nat) (s : State) : DrainFrame e s (perfEvent p ev n s) where
  prog g hg := ⟨g, (getProg_perfEvent ..).trans hg, drainsTo_cseq e g g.cseq⟩
  mem _ := rfl

theorem keeps_drainBody {e : Env} (hd : bits e.w 75 3 ≤ 4) : Keeps (DrainFrame e) (drainBody e) := by
  have hR := chains_drainFrame e
  unfold drainBody
  dsimp only
  refine keeps_bind hR (keeps_modifyThe _ (fun s => drainFrame_perfEvent e _ _ _ s)) (fun _ => ?_)
  split
  · rename_i hdm
    exact keeps_drainP hdm.ge _ _ _
  · rename_i hdm
    exact keeps_drainDs (by omega) _ _ _
  · rename_i hp hds
    have low : bits e.w 75 3 ≤ 2 := Nat.le_of_lt_succ (Nat.lt_of_le_of_ne
      (Nat.le_of_lt_succ (Nat.lt_of_le_of_ne hd hds)) hp)
    exact keeps_drainFwd low _ _ _

/-! DRAIN's part of O42. -/

/-- A DRAIN that passes the checks of R200 names a DMODE of 4 at most. -/
theorem dmode_le_of_cmdOk {d : Desc} {w : Nat} (ho : cOpc w = oDRAIN) (h : cmdOk d w = true) : bits w 75 3 ≤ 4 := by
  simp only [cmdOk, fieldsOk, Bool.and_eq_true] at h
  obtain ⟨⟨⟨⟨reserved, -⟩, -⟩, -⟩, -⟩ := h
  have own := (Bool.and_eq_true _ _ ▸ reserved).2
  rw [ho] at own
  exact of_decide_eq_true own

/-- DRAIN's part of O42. -/
theorem drain_fills {s : State} {p : PavId} {q : PSlot} {g : Prog} {j : Job} {c : QCmd} {evs : List Ev} {stags : List Nat}
    (hr : Ready s p q 2 oDRAIN g j c) (hm : (Meaning s p q 2 g j c drainBody).1 = .ok (evs, stags)) :
    let w := c.word.toNat
    let d := j.desc
    ∃ (t : State) (h : Prog), exec (.drain p q) s = .next t ∧ IssuedIn t p q 2 g h c stags ∧ h.acc = g.acc ∧
      h.fifo = g.fifo ∧ h.resident = g.resident ∧
      (∀ k, ¬ (feedD w c.regs ≤ k ∧ k < feedD w c.regs + scoreTiles d) → tget? h.feed k = tget? g.feed k) ∧
      (∀ i, ¬ (c.qt * d.q ≤ i ∧ i < c.qt * d.q + d.q) → rowState h i = rowState g i) ∧
      (bits w 75 3 = 1 → h.feed = g.feed) ∧ (3 ≤ bits w 75 3 → h.rsu = g.rsu ∧ t.ter.mem = s.ter.mem) := by
  rcases hrun : Meaning s p q 2 g j c drainBody with ⟨r, s2⟩
  rw [hrun] at hm
  dsimp only at hm
  subst hm
  obtain ⟨t, hex, hprog, -, hmem, -⟩ := live_issueOp_ok hr hrun
  obtain ⟨⟨-, -, -, -, hh, -, ho, -, -, -, hok, -⟩, -⟩ := hr
  have frame := keeps_drainBody (e := ⟨p.val, q, headTaken s 2 g j c, j, c⟩) (dmode_le_of_cmdOk ho hok)
    (issueStart s p.val q 2 g j c)
  have after : ((drainBody ⟨p.val, q, headTaken s 2 g j c, j, c⟩).exec (issueStart s p.val q 2 g j c)).2 = s2 :=
    congrArg Prod.snd hrun
  rw [after] at frame
  obtain ⟨h, hh2, drains⟩ := frame.prog _ (getProg_issueStart ..)
  rw [show getProg s2 p.val q = some h from hh2] at hprog
  have kept := sameTiles_headTaken s 2 g j c
  refine ⟨t, _, hex, issuedIn_noteChunks hprog drains.runs hh, drains.acc.trans kept.acc, drains.fifo.trans kept.fifo,
    drains.resident.trans kept.resident, fun k hk => ?_, fun i hi => ?_, fun hd => (drains.noFeed hd).trans kept.feed,
    fun hd => ⟨(drains.noRows hd).trans kept.rsu, hmem.trans (frame.mem hd)⟩⟩
  · rw [← kept.feed]
    exact drains.feed k hk
  · unfold rowState
    rw [← kept.rsu]
    exact drains.rows i hi

/-- Settles O42: what each of the three commands does to its program comes from its meaning, and its issue leaves the
program's tiles as the meaning has put them. -/
theorem arrayCommandsFillTiles : Obligations.ArrayCommandsFillTiles := by
  unfold Obligations.ArrayCommandsFillTiles
  intro s p q g j c evs stags
  exact ⟨load_fills, fun arr => mma_fills, drain_fills⟩

end Sys2Proof.Proofs.Arithmetic
end

section
/-!
PROOFS. Reads through the cached groups (R225 to R227) and the prefetch of a plot (R255, R256): a fill changes lines, M-port
requests and error counts, writes back to memory what was dirty, and leaves every line that it names in its group.
-/
namespace Sys2Proof.Proofs.Attention
open Sys2Proof.Machine Sys2Proof.Laws Sys2Proof.Proofs.Arithmetic

/-! What a fill leaves alone. -/

/-- No line of the cached groups is dirty. -/
abbrev Clean (s : State) : Prop := ∀ l ∈ s.ter.lines, l.dirty = false

/-- From s to t the cached groups fill at most: lines, M-port requests, error counts and, where a line was dirty, the
memories behind the M-ports change. -/
structure FillFrame (s t : State) : Prop where
  mem : t.ter.mem = s.ter.mem
  cached : t.ter.cached = s.ter.cached
  pavs : t.pavs = s.pavs
  ctxs : t.ctxs = s.ctxs
  jobs : t.jobs = s.jobs
  alt : t.alt = s.alt
  phase : t.sys.phase = s.sys.phase
  time : t.sys.time = s.sys.time
  out : t.out = s.out
  pending : t.pending = s.pending
  clean : Clean s → t.ext = s.ext ∧ Clean t

theorem chains_fillFrame : Chains FillFrame where
  refl _ := ⟨rfl, rfl, rfl, rfl, rfl, rfl, rfl, rfl, rfl, rfl, fun h => ⟨rfl, h⟩⟩
  trans h g :=
    ⟨g.mem.trans h.mem, g.cached.trans h.cached, g.pavs.trans h.pavs, g.ctxs.trans h.ctxs, g.jobs.trans h.jobs,
      g.alt.trans h.alt, g.phase.trans h.phase, g.time.trans h.time, g.out.trans h.out, g.pending.trans h.pending,
      fun c => ⟨(g.clean (h.clean c).2).1.trans (h.clean c).1, (g.clean (h.clean c).2).2⟩⟩

theorem fillFrame_foldl {γ : Type} (f : State → γ → State) (h : ∀ s a, FillFrame s (f s a)) (l : List γ) (s : State) :
    FillFrame s (l.foldl f s) := by
  induction l generalizing s with
  | nil => exact chains_fillFrame.refl s
  | cons a l ih => exact chains_fillFrame.trans (h s a) (ih (f s a))

theorem fillFrame_mQueue (write : Bool) (c : Nat) (priv : Bool) (space a n : Nat) (s : State) :
    FillFrame s (mQueue write c priv space a n s) := by
  obtain ⟨ps, h⟩ := mQueue_only write c priv space a n s
  rw [h]
  exact ⟨rfl, rfl, rfl, rfl, rfl, rfl, rfl, rfl, rfl, rfl, fun c => ⟨rfl, c⟩⟩

theorem fillFrame_countMarked (sl : Nat) (s : State) : FillFrame s (countMarked sl s) :=
  ⟨rfl, rfl, rfl, rfl, rfl, rfl, rfl, rfl, rfl, rfl, fun c => ⟨rfl, c⟩⟩

theorem fillFrame_setErr (b : Nat) (s : State) : FillFrame s (setErr b s) :=
  ⟨rfl, rfl, rfl, rfl, rfl, rfl, rfl, rfl, rfl, rfl, fun c => ⟨rfl, c⟩⟩

/-- The lines replaced by lines of which no more are dirty. -/
theorem fillFrame_lines (ls : List CacheLine) (s : State) (h : ∀ l ∈ ls, l.dirty = true → l ∈ s.ter.lines) :
    FillFrame s { s with ter := { s.ter with lines := ls } } :=
  ⟨rfl, rfl, rfl, rfl, rfl, rfl, rfl, rfl, rfl, rfl, fun c => ⟨rfl, fun l hl => by
    by_contra hd
    have hd : l.dirty = true := by simpa using hd
    exact absurd (c l (h l hl hd)) (by simp [hd])⟩⟩

/-- A line of the groups is written back. -/
theorem fillFrame_writeBack (l : CacheLine) (s : State) (hl : l ∈ s.ter.lines) : FillFrame s (writeBack l s) := by
  by_cases hd : l.dirty = true
  · unfold writeBack
    rw [if_pos hd]
    exact ⟨rfl, rfl, rfl, rfl, rfl, rfl, rfl, rfl, rfl, rfl, fun c => absurd (c l hl) (by simp [hd])⟩
  · unfold writeBack
    rw [if_neg hd]
    exact chains_fillFrame.refl s

/-! Allocation of one line (R225, R226). -/

/-- The lines that share a line's set. -/
def setLines (s : State) (line : Nat) : List CacheLine :=
  s.ter.lines.filter (fun l => lineSet (cachedGroups s) l.addr == lineSet (cachedGroups s) line)

/-- A line leaves its group, written back where it is dirty. -/
def evict (l : CacheLine) (s : State) : State :=
  let s1 := if l.dirty then mQueue true 0 true l.space (l.addr * 256) 256 (writeBack l s) else s
  { s1 with ter := { s1.ter with lines := s1.ter.lines.filter (· != l) } }

/-- Room made in a line's set. -/
def makeRoom (line : Nat) (s : State) : State :=
  match setLines s line with
  | l :: _ => if (setLines s line).length < 16 then s else evict l s
  | [] => s

/-- A clean line enters its set last. -/
def enterLine (space line : Nat) (s : State) : State :=
  { s with ter := { s.ter with
    lines := s.ter.lines ++ [⟨space, line, memRead (extMem s space) (line * 256) 256, false⟩] } }

theorem cacheAlloc_eq (space line : Nat) (s : State) : cacheAlloc space line s = enterLine space line (makeRoom line s) := rfl

theorem lines_evict (l : CacheLine) (s : State) : (evict l s).ter.lines = s.ter.lines.filter (· != l) := by
  unfold evict
  dsimp only
  split
  · rw [(mQueue_ext ..).2]
    unfold writeBack
    split <;> rfl
  · rfl

theorem fillFrame_evict (l : CacheLine) (s : State) (hl : l ∈ s.ter.lines) : FillFrame s (evict l s) := by
  have hR := chains_fillFrame
  unfold evict
  dsimp only
  refine hR.trans ?_ (fillFrame_lines _ _ (fun x hx _ => (List.mem_filter.mp hx).1))
  split
  · exact hR.trans (fillFrame_writeBack l s hl) (fillFrame_mQueue ..)
  · exact hR.refl s

/-- Making room evicts a line of the set at most. -/
theorem makeRoom_cases (line : Nat) (s : State) :
    makeRoom line s = s ∨ ∃ l ∈ setLines s line, makeRoom line s = evict l s := by
  unfold makeRoom
  split
  · rename_i l rest h
    split
    · exact .inl rfl
    · exact .inr ⟨l, by rw [h]; exact List.mem_cons_self, rfl⟩
  · exact .inl rfl

theorem fillFrame_cacheAlloc (space line : Nat) (s : State) : FillFrame s (cacheAlloc space line s) := by
  rw [cacheAlloc_eq]
  refine chains_fillFrame.trans ?_ (fillFrame_lines _ _ (fun l hl hd => ?_))
  · rcases makeRoom_cases line s with h | ⟨l, hl, h⟩
    · rw [h]
      exact chains_fillFrame.refl s
    · rw [h]
      exact fillFrame_evict l s (List.mem_filter.mp hl).1
  · rcases List.mem_append.mp hl with hl | hl
    · exact hl
    · rw [List.mem_singleton.mp hl] at hd
      exact absurd hd Bool.false_ne_true

/-! A fill line by line (R226). -/

/-- Line x of an outside memory is used where a group holds it, and else allocated. -/
def fillLine (space x : Nat) (s : State) : State :=
  match s.ter.lines.find? (fun l => l.space == space && l.addr == x) with
  | some l => { s with ter := { s.ter with lines := s.ter.lines.filter (fun y => !(y.space == space && y.addr == x)) ++ [l] } }
  | none => ((extPoison s space).filter (fun w => w / 32 == x)).foldl (fun s _ => countMarked (lineSlice s x) s)
      (cacheAlloc space x s)

/-- The lines that n bytes from address a on reach. -/
def linesOf (a n : Nat) : List Nat := (List.range ((a + n - 1) / 256 + 1 - a / 256)).map (· + a / 256)

theorem cacheFill_of_none (space a n : Nat) (s : State) (h : cachedGroups s = 0 ∨ n = 0) : cacheFill space a n s = s :=
  if_pos h

theorem cacheFill_of_some (space a n : Nat) (s : State) (h : ¬ (cachedGroups s = 0 ∨ n = 0)) :
    cacheFill space a n s = (linesOf a n).foldl (fun s x => fillLine space x s) s :=
  if_neg h

theorem fillFrame_fillLine (space x : Nat) (s : State) : FillFrame s (fillLine space x s) := by
  unfold fillLine
  split
  · rename_i l h
    refine fillFrame_lines _ s (fun y hy _ => ?_)
    rcases List.mem_append.mp hy with hy | hy
    · exact (List.mem_filter.mp hy).1
    · rw [List.mem_singleton.mp hy]
      exact List.mem_of_find?_eq_some h
  · exact chains_fillFrame.trans (fillFrame_cacheAlloc ..) (fillFrame_foldl _ (fun s _ => fillFrame_countMarked _ s) _ _)

theorem fillFrame_cacheFill (space a n : Nat) (s : State) : FillFrame s (cacheFill space a n s) := by
  by_cases h : cachedGroups s = 0 ∨ n = 0
  · rw [cacheFill_of_none space a n s h]
    exact chains_fillFrame.refl s
  · rw [cacheFill_of_some space a n s h]
    exact fillFrame_foldl _ (fun s x => fillFrame_fillLine space x s) _ s

theorem fillFrame_extRead (s : State) (c : Nat) (priv : Bool) (space a n : Nat) :
    FillFrame s (extRead s c priv space a n).1 := by
  have queued := chains_fillFrame.trans (fillFrame_cacheFill space a n s)
    (fillFrame_mQueue false c priv space a n (cacheFill space a n s))
  unfold extRead
  split
  · exact fillFrame_setErr _ s
  · dsimp only
    split
    · exact queued
    · exact chains_fillFrame.trans queued (fillFrame_setErr _ _)

/-! Which lines a fill leaves held. -/

/-- Whether some group holds line x of an outside memory. -/
def Held (s : State) (space x : Nat) : Prop := ∃ l ∈ s.ter.lines, l.space = space ∧ l.addr = x

theorem cachedGroups_congr {s t : State} (h : t.ter.cached = s.ter.cached) : cachedGroups t = cachedGroups s := by
  unfold cachedGroups
  rw [h]

/-- Two lines less than 1,024 apart are never of one set (R225). -/
theorem lineSet_ne {g x y : Nat} (hg : 0 < g) (hxy : x < y) (hd : y < x + 1024) : lineSet g x ≠ lineSet g y := by
  intro h
  obtain ⟨hm, hq⟩ := Prod.mk.inj h
  have hx := Nat.div_add_mod x g
  have hy := Nat.div_add_mod y g
  rw [← hm] at hy
  have above : x / g < y / g := Nat.lt_of_mul_lt_mul_left (a := g) (by omega)
  have close : y / g < x / g + 1024 := by
    by_contra hc
    have := Nat.mul_le_mul_left g (Nat.le_of_not_lt hc)
    have := Nat.le_mul_of_pos_left 1024 hg
    rw [Nat.mul_add] at *
    omega
  omega

/-- The line that is allocated is held, and so is every line of another set that was. -/
theorem held_cacheAlloc {s : State} {space x : Nat} (y : Nat)
    (h : y = x ∨ Held s space y ∧ lineSet (cachedGroups s) y ≠ lineSet (cachedGroups s) x) :
    Held (cacheAlloc space x s) space y := by
  rw [cacheAlloc_eq]
  rcases h with rfl | ⟨⟨l, hl, hs, rfl⟩, hset⟩
  · exact ⟨_, List.mem_append_right _ List.mem_cons_self, rfl, rfl⟩
  · refine ⟨l, List.mem_append_left _ ?_, hs, rfl⟩
    rcases makeRoom_cases x s with room | ⟨v, hv, room⟩
    · rw [room]
      exact hl
    · rw [room, lines_evict]
      have same_set := (List.mem_filter.mp hv).2
      refine List.mem_filter.mpr ⟨hl, ?_⟩
      have other : l ≠ v := fun e => hset (by subst e; exact eq_of_beq same_set)
      simpa using other

theorem lines_foldl_countMarked (ws : List Nat) (sl : State → Nat) (s : State) :
    (ws.foldl (fun s _ => countMarked (sl s) s) s).ter.lines = s.ter.lines := by
  induction ws generalizing s with
  | nil => rfl
  | cons w ws ih => exact ih (countMarked (sl s) s)

/-- The line that is filled is held, and so is every line of another set that was. -/
theorem held_fillLine {s : State} {space x : Nat} (y : Nat)
    (h : y = x ∨ Held s space y ∧ lineSet (cachedGroups s) y ≠ lineSet (cachedGroups s) x) :
    Held (fillLine space x s) space y := by
  unfold fillLine
  split
  · rename_i l hfind
    have hit := List.find?_some hfind
    simp only [Bool.and_eq_true, beq_iff_eq] at hit
    rcases h with rfl | ⟨⟨v, hv, hs, rfl⟩, hset⟩
    · exact ⟨l, List.mem_append_right _ List.mem_cons_self, hit⟩
    · refine ⟨v, List.mem_append_left _ (List.mem_filter.mpr ⟨hv, ?_⟩), hs, rfl⟩
      have other : v.addr ≠ x := fun e => hset (by rw [e])
      simp [other]
  · obtain ⟨l, hl, held⟩ := held_cacheAlloc y h
    exact ⟨l, (lines_foldl_countMarked _ (fun s => lineSlice s x) _).symm ▸ hl, held⟩

/-- A run of at most 1,024 lines that is filled line by line is held whole. -/
theorem held_foldl_fillLine (space a m : Nat) (s : State) (hg : 0 < cachedGroups s) (hm : m ≤ 1024) (i : Nat) (hi : i < m) :
    Held (((List.range m).map (· + a)).foldl (fun s x => fillLine space x s) s) space (i + a) := by
  induction m with
  | zero => exact absurd hi (Nat.not_lt_zero i)
  | succ m ih =>
    rw [List.range_succ, List.map_append, List.foldl_append]
    have before := fillFrame_foldl _ (fun s x => fillFrame_fillLine space x s) ((List.range m).map (· + a)) s
    have groups := cachedGroups_congr before.cached
    refine held_fillLine (i + a) ?_
    rcases Nat.lt_succ_iff_lt_or_eq.mp hi with hlt | rfl
    · refine .inr ⟨ih (by omega) hlt, ?_⟩
      rw [groups]
      exact lineSet_ne (x := i + a) (y := m + a) hg (by omega) (by omega)
    · exact .inl rfl

/-- A plot of at most 64 KiB that the cached groups fill is held whole (R255). -/
theorem plotCached_cacheFill (a n : Nat) (s : State) (hg : cachedGroups s ≠ 0) (hn : n ≤ 65536) :
    plotCached (cacheFill 0 a n s) a n = true := by
  unfold plotCached
  rw [List.all_eq_true]
  intro i hi
  have hi := List.mem_range.mp hi
  rw [cacheFill_of_some 0 a n s (by omega)]
  obtain ⟨l, hl, hs, ha⟩ := held_foldl_fillLine 0 (a / 256) ((a + n - 1) / 256 + 1 - a / 256) s (Nat.pos_of_ne_zero hg)
    (by omega) i (by omega)
  rw [List.any_eq_true]
  refine ⟨l, hl, ?_⟩
  rw [hs, ha, Nat.add_comm]
  simp

/-! PLOT_PREFETCH (R22, R255, R256). -/

/-- The plots that a program is to read next, as stack addresses with their lengths and sequences. -/
abbrev plotsAhead (s : State) (g : Prog) (j : Job) : List (Nat × Nat × Nat) :=
  (((loadsAhead s g).flatMap (fun l => loadPlots s j l.1 l.2)).eraseDups).take (getCtx s g.ctx).pfDepth

/-- A lookup and a transfer of the plot of sequence k, and its lines filled. -/
def fetchPlot (a n k : Nat) (s : State) : State :=
  mQueue false 0 true 0 a n (cacheFill 0 a n (beginXfers 1 (descLookup k s)))

theorem prefetchPlot_of_some {s : State} {p : Nat} {q : PSlot} {g : Prog} {j : Job} {a n k : Nat}
    (hg : liveProg s p q = some g) (hj : findJob s g.ctx g.jobseq = some j) (hc : cachedGroups s ≠ 0)
    (hx : xfersNow s < 16384)
    (hf : (plotsAhead s g j).find? (fun x => !plotCached s x.1 x.2.1) = some (a, n, k)) :
    prefetchPlot p q s = fetchPlot a n k s := by
  unfold prefetchPlot
  rw [hg]
  dsimp only
  rw [hj]
  dsimp only
  rw [if_neg (by omega), hf]
  rfl

/-- A prefetch does nothing or fetches one plot. -/
theorem prefetchPlot_cases (p : Nat) (q : PSlot) (s : State) :
    prefetchPlot p q s = s ∨ cachedGroups s ≠ 0 ∧ ∃ a n k, prefetchPlot p q s = fetchPlot a n k s := by
  unfold prefetchPlot
  split
  · exact .inl rfl
  · split
    · exact .inl rfl
    · split
      · exact .inl rfl
      · rename_i hc
        dsimp only
        split
        · exact .inl rfl
        · exact .inr ⟨fun h => hc (.inl h), _, _, _, rfl⟩

theorem descLookup_only (k : Nat) (s : State) : ∃ ds hs ms,
    descLookup k s = { s with alt := { s.alt with dcache := ds, dcHits := hs, dcMiss := ms } } := by
  unfold descLookup
  dsimp only
  split <;> exact ⟨_, _, _, rfl⟩

/-- Beside the lookup and the transfer, a fetch fills lines. -/
theorem fillFrame_fetchPlot (a n k : Nat) (s : State) :
    FillFrame (beginXfers 1 (descLookup k s)) (fetchPlot a n k s) :=
  chains_fillFrame.trans (fillFrame_cacheFill ..) (fillFrame_mQueue ..)

/-- What a prefetch leaves alone. -/
structure PrefetchFrame (s t : State) : Prop where
  mem : t.ter.mem = s.ter.mem
  jobs : t.jobs = s.jobs
  pavs : t.pavs = s.pavs
  ctxs : t.ctxs = s.ctxs
  out : t.out = s.out
  pending : t.pending = s.pending
  clean : Clean s → t.ext = s.ext

theorem prefetchFrame_prefetchPlot (p : Nat) (q : PSlot) (s : State) : PrefetchFrame s (prefetchPlot p q s) := by
  rcases prefetchPlot_cases p q s with h | ⟨-, a, n, k, h⟩
  · rw [h]
    exact ⟨rfl, rfl, rfl, rfl, rfl, rfl, fun _ => rfl⟩
  · have fill := fillFrame_fetchPlot a n k s
    obtain ⟨ds, hs, ms, looked⟩ := descLookup_only k s
    rw [looked] at fill
    rw [h]
    exact ⟨fill.mem, fill.jobs, fill.pavs, fill.ctxs, fill.out, fill.pending, fun c => (fill.clean c).1⟩

theorem prefetchPlot_of_no_group {p : Nat} {q : PSlot} {s : State} (h : cachedGroups s = 0) : prefetchPlot p q s = s := by
  rcases prefetchPlot_cases p q s with same | ⟨hc, -⟩
  · exact same
  · exact absurd h hc

theorem exec_plotPrefetch {s : State} (hup : s.sys.phase = .up) (p : PavId) (q : PSlot) :
    exec (.plotPrefetch p q) s = .next (prefetchPlot p.val q s) := by
  have frame := prefetchFrame_prefetchPlot p.val q s
  exact (live_up _ _ hup).trans (congrArg _ (effect_silent _ _ frame.out frame.pending))

/-- A fetch is one transfer (R256), and leaves its plot cached. -/
theorem fetchPlot_holds {a n k : Nat} {s : State} (hc : cachedGroups s ≠ 0) (hx : xfersNow s < 16384) (hn : n ≤ 65536) :
    plotCached (fetchPlot a n k s) a n = true ∧ xfersNow (fetchPlot a n k s) = xfersNow s + 1 := by
  obtain ⟨ds, hs, ms, looked⟩ := descLookup_only k s
  constructor
  · have lines : (fetchPlot a n k s).ter = (cacheFill 0 a n (beginXfers 1 (descLookup k s))).ter := (mQueue_ext ..).2
    unfold plotCached
    rw [lines]
    exact plotCached_cacheFill a n _ (by rw [looked]; exact hc) hn
  · have fill := fillFrame_fetchPlot a n k s
    rw [looked] at fill
    unfold xfersNow at hx ⊢
    rw [fill.alt, fill.time]
    show (if s.sys.time = s.sys.time then Nat.min 16384 (xfersNow s + 1) else 0) = _
    rw [if_pos rfl]
    exact Nat.min_eq_right hx

end Sys2Proof.Proofs.Attention
end

section
/-!
PROOFS. Writes to the Terrace (R204, R205, R207, R222): they change no byte outside the regions of the context that writes, and
leave its regions as they are.
-/
namespace Sys2Proof.Proofs.Attention
open Sys2Proof.Machine Sys2Proof.Laws Sys2Proof.Claims Sys2Proof.Proofs.Arithmetic

/-! Bytes. -/

/-- A byte at an address that no cell lists. -/
theorem lookup_eq_none_of_ne (cs : List Host.Cell) (x : Nat) (h : ∀ c ∈ cs, c.1 ≠ x) : cs.lookup x = none :=
  List.lookup_eq_none_iff.mpr (fun c hc => by simpa using (h c hc).symm)

/-- A write leaves every byte outside its range as it is. -/
theorem memByte_memWrite_ne (m : Mem) (a : Nat) (bs : List Byte) (x : Nat) (h : x < a ∨ a + bs.length ≤ x) :
    memByte (memWrite m a bs) x = memByte m x := by
  have apart : (cellsOf a bs).lookup x = none := lookup_eq_none_of_ne _ x (fun c hc => by
    obtain ⟨h1, h2, -⟩ := mem_cellsOf bs a c hc
    omega)
  unfold memByte memWrite
  rw [List.lookup_append, List.lookup_append, lookup_filter m (fun k => decide (k < a)),
    lookup_filter m (fun k => decide (a + bs.length ≤ k)), apart]
  rcases h with h | h
  · have h2 : ¬ a + bs.length ≤ x := by omega
    simp [h, h2]
  · have h2 : ¬ x < a := by omega
    simp [h, h2]

/-! The parts of an access lie in regions (R205). -/

/-- Part p lies in one of the regions of t. -/
def InRegion (t : Tbl Region) (p : Part) : Prop :=
  ∃ e ∈ t, e.2.base4k * 4096 ≤ p.phys ∧ p.phys + p.len ≤ e.2.base4k * 4096 + e.2.len4k * 4096

theorem inRegion_of_mem_viewGo {lo hi base : Nat} {t : Tbl Region} {p : Part} (h : p ∈ viewGo lo hi base t) :
    InRegion t p := by
  induction t generalizing base with
  | nil => cases h
  | cons e t ih =>
    have later (h : p ∈ viewGo lo hi (base + e.2.len4k * 4096) t) : InRegion (e :: t) p := by
      obtain ⟨x, hx, hp⟩ := ih h
      exact ⟨x, List.mem_cons_of_mem e hx, hp⟩
    unfold viewGo at h
    dsimp only at h
    split at h
    · rename_i hab
      rcases List.mem_cons.mp h with rfl | h
      · have from_base : base ≤ Nat.max lo base := Nat.le_max_right lo base
        have to_end : Nat.min hi (base + e.2.len4k * 4096) ≤ base + e.2.len4k * 4096 := Nat.min_le_right ..
        refine ⟨e, List.mem_cons_self, Nat.le_add_right _ _, ?_⟩
        simp only
        omega
      · exact later h
    · exact later h

theorem inRegion_of_mem_viewParts {t : Tbl Region} {off n : Nat} {p : Part} (h : p ∈ viewParts t off n) : InRegion t p :=
  inRegion_of_mem_viewGo h

/-- A byte outside every region lies outside a part of one. -/
theorem outside_part {s : State} {c a : Nat} {p : Part} (h : OutsideRegions s c a) (hp : InRegion (getCtx s c).regions p) :
    a < p.phys ∨ p.phys + p.len ≤ a := by
  obtain ⟨e, he, hlo, hhi⟩ := hp
  have := h e he
  omega

/-! Plain writes and accumulate-writes. -/

theorem memByte_terPut_ne (phys : Nat) (bs : List Byte) (tags : List (BitVec 2)) (t : Terrace) (a : Nat)
    (h : a < phys ∨ phys + bs.length ≤ a) : memByte (terPut phys bs tags t).mem a = memByte t.mem a := by
  unfold terPut
  dsimp only
  split
  · rfl
  · exact memByte_memWrite_ne _ _ _ _ h

theorem memByte_terPutParts_ne (ps : List Part) (bs : List Byte) (tags : List (BitVec 2)) (t : Terrace) (a : Nat)
    (h : ∀ p ∈ ps, a < p.phys ∨ p.phys + p.len ≤ a) : memByte (terPutParts ps bs tags t).mem a = memByte t.mem a := by
  induction ps generalizing bs tags t with
  | nil => rfl
  | cons p ps ih =>
    unfold terPutParts
    rw [ih _ _ _ (fun x hx => h x (List.mem_cons_of_mem p hx))]
    have apart := h p List.mem_cons_self
    have len := List.length_take_le p.len bs
    exact memByte_terPut_ne _ _ _ _ _ (by omega)

theorem memByte_terAddWord_ne (w : Nat) (x : AEl) (t : Terrace) (a : Nat) (h : a < 8 * w ∨ 8 * w + 8 ≤ a) :
    memByte (terAddWord w x t).mem a = memByte t.mem a := by
  unfold terAddWord
  dsimp only
  split
  · rfl
  · exact memByte_memWrite_ne _ _ _ _ (by rw [length_leBytes]; exact h)

theorem memByte_foldl_terAddWord_ne (ws : List (Nat × AEl)) (t : Terrace) (a : Nat)
    (h : ∀ e ∈ ws, a < 8 * e.1 ∨ 8 * e.1 + 8 ≤ a) :
    memByte (ws.foldl (fun t e => terAddWord e.1 e.2 t) t).mem a = memByte t.mem a := by
  induction ws generalizing t with
  | nil => rfl
  | cons e ws ih =>
    rw [List.foldl_cons, ih _ (fun x hx => h x (List.mem_cons_of_mem e hx)),
      memByte_terAddWord_ne _ _ _ _ (h e List.mem_cons_self)]

/-- A region begins and ends at a word, so the words of a part in a region lie in it whole. -/
theorem outside_word {s : State} {c a w : Nat} {ps : List Part} (h : OutsideRegions s c a)
    (hps : ∀ p ∈ ps, InRegion (getCtx s c).regions p) (hw : w ∈ partWords ps) : a < 8 * w ∨ 8 * w + 8 ≤ a := by
  obtain ⟨p, hp, hw⟩ := List.mem_flatMap.mp hw
  obtain ⟨i, hi, rfl⟩ := List.mem_map.mp hw
  have hi := List.mem_range.mp hi
  obtain ⟨e, he, hlo, hhi⟩ := hps p hp
  have := h e he
  omega

/-! What a context's writes keep. -/

/-- From s to t no byte of the Terrace outside the regions of context c changes, nor those regions, nor the phase. -/
structure RegionFrame (c : Nat) (s t : State) : Prop where
  regions : (getCtx t c).regions = (getCtx s c).regions
  mem : ∀ a, OutsideRegions s c a → memByte t.ter.mem a = memByte s.ter.mem a
  phase : t.sys.phase = s.sys.phase

theorem regionFrame_of_mem {c : Nat} {s t : State} (hr : (getCtx t c).regions = (getCtx s c).regions)
    (hm : t.ter.mem = s.ter.mem) (hp : t.sys.phase = s.sys.phase) : RegionFrame c s t :=
  ⟨hr, fun a _ => by rw [hm], hp⟩

theorem chains_regionFrame (c : Nat) : Chains (RegionFrame c) where
  refl _ := regionFrame_of_mem rfl rfl rfl
  trans h g := by
    refine ⟨g.regions.trans h.regions, fun a ha => (g.mem a ?_).trans (h.mem a ha), g.phase.trans h.phase⟩
    unfold OutsideRegions
    rw [h.regions]
    exact ha

theorem regionFrame_terWrite (s : State) (c off : Nat) (bs : List Byte) (tags : List (BitVec 2)) :
    RegionFrame c s (terWrite s c off bs tags).1 := by
  rcases terWrite_cases s c off bs tags with ⟨-, h⟩ | ⟨-, h⟩
  · rw [h]
    exact ⟨rfl, fun a ha => memByte_terPutParts_ne _ _ _ _ _
      (fun p hp => outside_part ha (inRegion_of_mem_viewParts hp)), rfl⟩
  · rw [h]
    exact (chains_regionFrame c).refl s

/-- Correction and poison change the Terrace's side tables and error counts alone (R229). -/
theorem eccTouch_keeps (ws : List (Nat × Nat)) (s : State) :
    (eccTouch ws s).ctxs = s.ctxs ∧ (eccTouch ws s).sys.phase = s.sys.phase := by
  unfold eccTouch
  induction ws generalizing s with
  | nil => exact ⟨rfl, rfl⟩
  | cons e ws ih =>
    rw [List.foldl_cons]
    refine ⟨(ih _).1.trans ?_, (ih _).2.trans ?_⟩ <;> split <;> rfl

theorem getCtx_congr {s t : State} (h : t.ctxs = s.ctxs) (c : Nat) : getCtx t c = getCtx s c := by
  unfold getCtx
  rw [h]

theorem regionFrame_terAdd (s : State) (c off : Nat) (xs : List AEl) : RegionFrame c s (terAdd s c off xs).1 := by
  unfold terAdd
  dsimp only
  refine ⟨?_, fun a ha => ?_, (eccTouch_keeps _ s).2⟩
  · exact congrArg Ctx.regions (getCtx_congr (eccTouch_keeps _ s).1 c)
  · refine (memByte_foldl_terAddWord_ne _ _ a (fun e he => ?_)).trans (congrArg (memByte · a) (eccTouch_mem _ s))
    exact outside_word ha (fun p hp => inRegion_of_mem_viewParts hp) (List.of_mem_zip (List.mem_filter.mp he).1).1

theorem terAccum_cases (s : State) (c off : Nat) (xs : List AEl) :
    (terAccum s c off xs).1 = s ∨ (terAccum s c off xs).1 = (terAdd s c off xs).1 := by
  unfold terAccum
  dsimp only
  split
  · exact .inl rfl
  · split <;> rename_i h <;> exact .inr (by rw [h])

theorem pavs_terAdd (s : State) (c off : Nat) (xs : List AEl) : (terAdd s c off xs).1.pavs = s.pavs :=
  (readFrame_eccTouch _ s).pavs

theorem terMark_keeps (ws : List Nat) (s : State) :
    (terMark ws s).ter.mem = s.ter.mem ∧ (terMark ws s).ctxs = s.ctxs ∧ (terMark ws s).sys.phase = s.sys.phase := by
  unfold terMark
  generalize ws.filter _ = ws
  induction ws generalizing s with
  | nil => exact ⟨rfl, rfl, rfl⟩
  | cons w ws ih => exact ih _

end Sys2Proof.Proofs.Attention
end

section
/-!
PROOFS. Reads and writes of streams (R66, R204, R207, R213, R222, R273): of their program they change no more than the chunk
numbers of its landing entries, and of the Terrace no byte outside their context's regions.
-/
namespace Sys2Proof.Proofs.Attention
open Sys2Proof.Machine Sys2Proof.Laws Sys2Proof.Claims Sys2Proof.Proofs.Arithmetic

/-- A computation whose result is put in form. -/
theorem keeps_then_pure {α β : Type} {R : State → State → Prop} (hR : Chains R) {m : Eff α} {f : α → β}
    (hm : Keeps R m) : Keeps R (m >>= fun a => (pure (f a) : Eff β)) :=
  keeps_bind hR hm (fun _ => keeps_pure hR _)

/-! Reads, for every relation that the single reads keep. -/

/-- A relation that a read of outside memory, a read of the Terrace and a lookup of a descriptor keep. -/
structure ReadsKeep (R : State → State → Prop) : Prop where
  chains : Chains R
  ext : ∀ s c priv space a n, R s (extRead s c priv space a n).1
  ter : ∀ s c off n, R s (terRead s c off n).1
  tags : ∀ s c off n, R s (terReadTags s c off n).1
  look : ∀ seq s, R s (descLookup seq s)

namespace ReadsKeep
variable {R : State → State → Prop} (hR : ReadsKeep R)
include hR

theorem streamRead {c ep : Nat} {x : Stream} {off n : Nat} : Keeps R (streamRead c ep x off n) := by
  have hC := hR.chains
  have terrace (a m : Nat) :
      Keeps R (liftStep x.sid (fun s => if x.fmt = 10 then terReadTags s c a m else terRead s c a m)) := by
    refine keeps_liftStep hC _ _ (fun s => ?_)
    split
    · exact hR.tags s c a m
    · exact hR.ter s c a m
  unfold Machine.streamRead
  dsimp only
  split
  case h_1 => exact terrace _ _
  case h_5 => exact keeps_pure hC _
  case' h_2 => refine keeps_then_pure hC ?_
  case' h_3 => refine keeps_then_pure hC ?_
  case' h_4 =>
    refine keeps_bind hC (keeps_get hC) (fun s => keeps_then_pure hC (keeps_mapM hC _ (fun p => ?_)))
    refine keeps_ite (terrace _ _) (keeps_then_pure hC ?_)
  all_goals
    refine keeps_get_set hC (fun s => hR.ext s ..) (fun s => ?_)
    split
    · exact keeps_raise hC _
    · exact keeps_ite (keeps_pure hC _) (keeps_raise hC _)

theorem plotOf {sid seq l g j : Nat} : Keeps R (plotOf sid seq l g j) := by
  have hC := hR.chains
  unfold Machine.plotOf
  dsimp only
  refine keeps_bind hC (keeps_get hC) (fun s => keeps_guard hC (keeps_guard hC ?_))
  split
  · exact keeps_raise hC _
  · exact keeps_guard hC (keeps_ite (keeps_pure hC _) (keeps_raise hC _))

theorem plotRow {fmt dim : Nat} {isV : Bool} {k : Nat} {rd : Nat → Nat → Eff (List Byte)}
    (h : ∀ off n, Keeps R (rd off n)) : Keeps R (plotRow fmt dim isV k rd) := by
  have hC := hR.chains
  have scaled {γ : Type} (a m : Nat) (f : List Byte → γ) : Keeps R (rd a m >>= fun sc => pure (f sc)) :=
    keeps_then_pure hC (h a m)
  exact keeps_bind hC (h _ _) (fun bs => keeps_ite (keeps_ite (scaled _ _ _) (scaled _ _ _)) (keeps_pure hC _))

theorem tokenRow {c : Nat} {j : Job} {x : Stream} {tok : Nat} : Keeps R (tokenRow c j x tok) := by
  have hC := hR.chains
  unfold Machine.tokenRow
  dsimp only
  refine keeps_ite (keeps_pure hC _) (keeps_bind hC hR.plotOf (fun a => hR.plotRow (fun off n => ?_)))
  refine keeps_get_set hC (fun s => hR.ext s ..) (fun s => ?_)
  split
  · exact keeps_raise hC _
  · exact keeps_ite (keeps_pure hC _) (keeps_raise hC _)

theorem rowVals {j : Job} {ep : Nat} {x : Stream} {r col0 n : Nat} : Keeps R (rowVals j ep x r col0 n) := by
  have hC := hR.chains
  have then_pure {γ : Type} (off m : Nat) (f : List Byte × List (BitVec 2) → γ) :
      Keeps R (Machine.streamRead j.ctx ep x off m >>= fun b => pure (f b)) :=
    keeps_then_pure hC hR.streamRead
  unfold Machine.rowVals
  dsimp only
  refine keeps_bind hC (keeps_get hC) (fun s => keeps_ite ?token (keeps_ite ?image ?plain))
  case token => exact keeps_then_pure hC hR.tokenRow
  case image =>
    exact keeps_then_pure hC (hR.plotRow (fun off m => then_pure _ _ _))
  case plain =>
    exact keeps_bind hC hR.streamRead (fun bs =>
      keeps_ite (keeps_ite (then_pure _ _ _) (then_pure _ _ _)) (keeps_pure hC _))

theorem rowWords {j : Job} {ep : Nat} {x : Stream} {r col0 n : Nat} : Keeps R (rowWords j ep x r col0 n) :=
  keeps_then_pure hR.chains hR.streamRead

theorem rowScalar {e : Env} {use i : Nat} : Keeps R (rowScalar e use i) := by
  unfold Machine.rowScalar
  split
  · exact keeps_pure hR.chains _
  · exact keeps_then_pure hR.chains hR.rowVals

theorem prog {e : Env} : Keeps R e.prog := by
  intro s
  rw [exec_prog]
  exact hR.chains.refl s

theorem peekEff {α : Type} {m : Eff α} {dflt : α} : Keeps R (peekEff m dflt) :=
  keeps_bind hR.chains (keeps_get hR.chains) (fun s => by split <;> exact keeps_pure hR.chains _)

theorem rowOpen {e : Env} {i : Nat} : Keeps R (rowOpen e i) := by
  have hC := hR.chains
  exact keeps_ite (keeps_then_pure hC hR.peekEff)
    (keeps_then_pure hC (keeps_pure hC _))

theorem streamRows {e : Env} {x : Stream} {r0 n cols : Nat} : Keeps R (streamRows e x r0 n cols) :=
  keeps_mapM hR.chains _ (fun _ => hR.rowVals)

theorem optRows {e : Env} {on : Bool} {use r0 n cols : Nat} : Keeps R (optRows e on use r0 n cols) := by
  unfold Machine.optRows
  split
  · exact keeps_pure hR.chains _
  · exact hR.streamRows

theorem outRows {e : Env} {m n : Nat} : Keeps R (outRows e m n) :=
  keeps_then_pure hR.chains hR.prog

theorem checkedRow {e : Env} {x : Stream} {i : Nat} : Keeps R (checkedRow e x i) :=
  keeps_bind hR.chains hR.rowVals (fun row => by
    split
    · exact keeps_raise hR.chains _
    · exact keeps_pure hR.chains _)

theorem outputRows {e : Env} {qt : Nat} : Keeps R (outputRows e qt) := by
  have hC := hR.chains
  unfold Machine.outputRows
  refine keeps_bind hC hR.prog (fun g => ?_)
  dsimp only
  split
  · exact keeps_mapM hC _ (fun r => keeps_bind hC hR.rowWords (fun ws =>
      keeps_then_pure hC hR.rowOpen))
  · exact keeps_then_pure hC hR.outRows

theorem copyOutside {e : Env} {sid space a n : Nat} {priv : Bool} : Keeps R (copyOutside e sid space a n priv) :=
  keeps_get_set hR.chains (fun s => hR.ext s ..) (fun s => by
    split
    · exact keeps_raise hR.chains _
    · exact keeps_pure hR.chains _)

theorem copyRead {e : Env} {x : Stream} {off n : Nat} : Keeps R (copyRead e x off n) := by
  unfold Machine.copyRead
  split
  · exact hR.copyOutside
  · exact hR.copyOutside
  · exact keeps_then_pure hR.chains hR.streamRead

end ReadsKeep

/-! What the writes of a context's program keep. -/

/-- From s to t the program in slot q of Pavilion p changes no more than the chunk numbers of its landing entries, and no
byte of the Terrace outside the regions of context c changes. -/
structure WriteFrame (c p : Nat) (q : PSlot) (s t : State) : Prop where
  region : RegionFrame c s t
  prog : Renumbers p q s t

theorem chains_writeFrame (c p : Nat) (q : PSlot) : Chains (WriteFrame c p q) where
  refl s := ⟨(chains_regionFrame c).refl s, (chains_renumbers p q).refl s⟩
  trans h g := ⟨(chains_regionFrame c).trans h.region g.region, (chains_renumbers p q).trans h.prog g.prog⟩

/-- What changes neither the Pavilions, nor the Terrace's bytes, nor the context's regions. -/
theorem writeFrame_of_read {c p : Nat} {q : PSlot} {s t : State} (h : ReadFrame s t)
    (hr : (getCtx t c).regions = (getCtx s c).regions) (hp : t.sys.phase = s.sys.phase) : WriteFrame c p q s t :=
  ⟨regionFrame_of_mem hr h.mem hp, renumbers_of_pavs h.pavs⟩

theorem writeFrame_of_fill {c p : Nat} {q : PSlot} {s t : State} (h : FillFrame s t) : WriteFrame c p q s t :=
  writeFrame_of_read ⟨h.pavs, h.mem⟩ (congrArg Ctx.regions (getCtx_congr h.ctxs c)) h.phase

theorem writeFrame_eccTouch (c p : Nat) (q : PSlot) (ws : List (Nat × Nat)) (s : State) : WriteFrame c p q s (eccTouch ws s) :=
  writeFrame_of_read (readFrame_eccTouch ws s) (congrArg Ctx.regions (getCtx_congr (eccTouch_keeps ws s).1 c))
    (eccTouch_keeps ws s).2

theorem writeFrame_terRead (c p : Nat) (q : PSlot) (s : State) (d off n : Nat) : WriteFrame c p q s (terRead s d off n).1 := by
  unfold terRead
  split
  · exact (chains_writeFrame c p q).refl s
  · dsimp only
    split <;> exact writeFrame_eccTouch c p q _ s

theorem writeFrame_terReadTags (c p : Nat) (q : PSlot) (s : State) (d off n : Nat) :
    WriteFrame c p q s (terReadTags s d off n).1 := by
  unfold terReadTags
  split
  · exact (chains_writeFrame c p q).refl s
  · dsimp only
    generalize s.ter.flips.filter _ = fs
    have both := (chains_writeFrame c p q).trans (writeFrame_eccTouch c p q fs s)
      (writeFrame_terRead c p q (eccTouch fs s) d off n)
    split
    · rename_i h
      rw [h] at both
      split <;> exact both
    · exact both

theorem writeFrame_descLookup (c p : Nat) (q : PSlot) (seq : Nat) (s : State) : WriteFrame c p q s (descLookup seq s) := by
  obtain ⟨ds, hs, ms, h⟩ := descLookup_only seq s
  rw [h]
  exact writeFrame_of_read ⟨rfl, rfl⟩ rfl rfl

theorem readsKeep_writeFrame (c p : Nat) (q : PSlot) : ReadsKeep (WriteFrame c p q) where
  chains := chains_writeFrame c p q
  ext s d priv space a n := writeFrame_of_fill (fillFrame_extRead s d priv space a n)
  ter := writeFrame_terRead c p q
  tags := writeFrame_terReadTags c p q
  look := writeFrame_descLookup c p q

/-! Single writes. -/

theorem writeFrame_terWrite (c p : Nat) (q : PSlot) (s : State) (off : Nat) (bs : List Byte) (tags : List (BitVec 2)) :
    WriteFrame c p q s (terWrite s c off bs tags).1 :=
  ⟨regionFrame_terWrite s c off bs tags, renumbers_of_pavs (pavs_terWrite s c off bs tags)⟩

theorem writeFrame_terAccum (c p : Nat) (q : PSlot) (s : State) (off : Nat) (xs : List AEl) :
    WriteFrame c p q s (terAccum s c off xs).1 := by
  rcases terAccum_cases s c off xs with h | h
  · rw [h]
    exact (chains_writeFrame c p q).refl s
  · rw [h]
    exact ⟨regionFrame_terAdd s c off xs, renumbers_of_pavs (pavs_terAdd s c off xs)⟩

theorem writeFrame_markBad (c p : Nat) (q : PSlot) (d off n : Nat) (bad : List Int) (s : State) :
    WriteFrame c p q s (markBad d off n bad s) := by
  obtain ⟨mem, ctxs, phase⟩ := terMark_keeps ((viewParts (getCtx s d).regions off n).flatMap (fun p =>
    badWords p.phys p.len (bad.map (fun b => b - ((p.off - off : Nat) : Int))))) s
  exact writeFrame_of_read ⟨pavs_terMark _ s, mem⟩ (congrArg Ctx.regions (getCtx_congr ctxs c)) phase

/-- A write to outside memory leaves every context and the phase as they are. -/
theorem extWrite_keeps (s : State) (c : Nat) (priv : Bool) (space a : Nat) (bs : List Byte) (pw : List Nat) (cached : Bool) :
    (extWrite s c priv space a bs pw cached).1.ctxs = s.ctxs ∧
      (extWrite s c priv space a bs pw cached).1.sys.phase = s.sys.phase := by
  unfold extWrite
  split
  · exact ⟨rfl, rfl⟩
  · have frame := (frame_extPut space a bs pw cached s).trans (frame_mQueue true c priv space a bs.length _)
    exact ⟨frame.ctxs, congrArg Sys.phase frame.sys⟩

theorem writeFrame_extWrite (c p : Nat) (q : PSlot) (s : State) (d : Nat) (priv : Bool) (space a : Nat) (bs : List Byte)
    (pw : List Nat) (cached : Bool) : WriteFrame c p q s (extWrite s d priv space a bs pw cached).1 :=
  writeFrame_of_read (readFrame_extWrite s d priv space a bs pw cached)
    (congrArg Ctx.regions (getCtx_congr (extWrite_keeps s d priv space a bs pw cached).1 c))
    (extWrite_keeps s d priv space a bs pw cached).2

theorem takeCseq_only (w : Writer) (lid : Nat) (s : State) : ∃ ps, (takeCseq w lid s).2 = { s with pavs := ps } := by
  unfold takeCseq
  split
  · exact ⟨s.pavs, rfl⟩
  · exact ⟨_, rfl⟩

theorem writeFrame_takeCseq (w : Writer) (lid c : Nat) (s : State) :
    WriteFrame c w.pav w.slot s (takeCseq w lid s).2 := by
  refine ⟨?_, renumbers_takeCseq w lid s⟩
  obtain ⟨ps, h⟩ := takeCseq_only w lid s
  rw [h]
  exact regionFrame_of_mem rfl rfl rfl

/-- A change of a context that keeps its regions. -/
theorem writeFrame_modCtx (c p : Nat) (q : PSlot) (d : Nat) (f : Ctx → Ctx) (s : State)
    (hf : ∀ x, (f x).regions = x.regions) : WriteFrame c p q s (modCtx d f s) := by
  refine writeFrame_of_read ⟨rfl, rfl⟩ ?_ rfl
  rw [getCtx_modCtx]
  split
  · rename_i h
    subst h
    exact hf _
  · rfl

theorem writeFrame_setFlag (c p : Nat) (q : PSlot) (d f : Nat) (s : State) : WriteFrame c p q s (setFlag d f s) :=
  writeFrame_modCtx c p q d _ s (fun x => by split <;> rfl)

theorem writeFrame_noteOut (c p : Nat) (q : PSlot) (d : Nat) (seq : BitVec 32) (x : Stream) (vs : List XV) (s : State) :
    WriteFrame c p q s (noteOut d seq x vs s) := by
  unfold noteOut
  split
  · exact (chains_writeFrame c p q).refl s
  · split <;> exact writeFrame_of_read ⟨rfl, rfl⟩ rfl rfl

/-! Writes of streams. -/

theorem keeps_eachThenRaise {α β : Type} {R : State → State → Prop} (hR : Chains R) (xs : List α)
    {f : α → Eff (List β)} (hf : ∀ a, Keeps R (f a)) : Keeps R (eachThenRaise xs f) := by
  unfold eachThenRaise
  refine keeps_bind hR (keeps_mapM hR _ (fun a => ?_)) (fun rs => ?_)
  · exact keeps_get_set hR (hf a) (fun _ => keeps_pure hR _)
  · split
    · exact keeps_raise hR _
    · exact keeps_pure hR _

section
variable {w : Writer}

theorem keeps_write_landChunk {x : Stream} {acc plot : Bool} {p : LPart} {off : Nat} {bs : List Byte}
    {tags : List (BitVec 2)} {bad : List Int} :
    Keeps (WriteFrame w.ctx w.pav w.slot) (landChunk w x acc plot p off bs tags bad) := by
  have hR := chains_writeFrame w.ctx w.pav w.slot
  unfold landChunk
  dsimp only
  have landed (f : Ctx → Ctx) (k : Nat) (hf : ∀ y, (f y).regions = y.regions) :
      Keeps (WriteFrame w.ctx w.pav w.slot)
        (modify (fun s => setFlag w.ctx k (modCtx w.ctx f s)) >>= fun _ => (pure [] : Eff (List Nat))) :=
    keeps_bind hR (keeps_modify _ (fun s => hR.trans (writeFrame_modCtx _ _ _ _ _ s hf) (writeFrame_setFlag ..)))
      (fun _ => keeps_pure hR _)
  refine keeps_get_set hR (fun s => writeFrame_takeCseq w p.lid w.ctx s)
    (fun s => keeps_guard hR (keeps_ite (keeps_ite (keeps_ite ?added ?written) ?outside) ?sent))
  case added =>
    exact keeps_bind hR (keeps_liftStep hR _ _ (fun s => writeFrame_terAccum ..)) (fun _ => landed _ _ (fun _ => rfl))
  case written =>
    refine keeps_bind hR (keeps_liftStep hR _ _ (fun s => writeFrame_terWrite ..)) (fun _ => ?_)
    exact keeps_bind hR (keeps_modifyThe _ (fun s => writeFrame_markBad ..)) (fun _ => landed _ _ (fun _ => rfl))
  case outside =>
    exact keeps_get_set hR (fun s => writeFrame_extWrite ..) (fun s => keeps_guard hR (landed _ _ (fun _ => rfl)))
  case sent =>
    refine keeps_get_then (fun s => ?_)
    split
    · exact hR.refl s
    · split
      · exact hR.refl s
      · exact writeFrame_of_read ⟨rfl, rfl⟩ rfl rfl

theorem keeps_write_landWrite {x : Stream} {acc : Bool} {sp : WSpan} :
    Keeps (WriteFrame w.ctx w.pav w.slot) (landWrite w x acc sp) := by
  have hR := chains_writeFrame w.ctx w.pav w.slot
  unfold landWrite
  dsimp only
  exact keeps_bind hR (keeps_get hR) (fun s => keeps_ite
    (keeps_eachThenRaise hR _ (fun c => keeps_write_landChunk))
    (keeps_then_pure hR (keeps_mapM hR _ (fun c => keeps_write_landChunk))))

theorem keeps_write_spanWrite {x : Stream} {sp : WSpan} :
    Keeps (WriteFrame w.ctx w.pav w.slot) (spanWrite w x sp) := by
  have hR := chains_writeFrame w.ctx w.pav w.slot
  unfold spanWrite
  dsimp only
  split
  · exact keeps_then_pure hR (keeps_liftStep hR _ _ (fun s => writeFrame_terWrite ..))
  · exact keeps_write_landWrite
  · exact keeps_get_set hR (fun s => writeFrame_extWrite ..) (fun s => keeps_ite (keeps_pure hR _) (keeps_raise hR _))

theorem keeps_write_streamWrite {x : Stream} {sps : List WSpan} :
    Keeps (WriteFrame w.ctx w.pav w.slot) (streamWrite w x sps) := by
  have hR := chains_writeFrame w.ctx w.pav w.slot
  exact keeps_then_pure hR (keeps_mapM hR _ (fun sp => keeps_write_spanWrite))

theorem keeps_write_streamAccum {x : Stream} {sps : List WSpan} :
    Keeps (WriteFrame w.ctx w.pav w.slot) (streamAccum w x sps) := by
  have hR := chains_writeFrame w.ctx w.pav w.slot
  refine keeps_eachThenRaise hR _ (fun sp => ?_)
  split
  · exact keeps_write_landWrite
  · exact keeps_then_pure hR (keeps_liftStep hR _ _ (fun s => writeFrame_terAccum ..))

theorem keeps_write_writeRows {j : Job} {x : Stream} {r0 col0 unit : Nat} {rows : List (List XV)} :
    Keeps (WriteFrame w.ctx w.pav w.slot) (writeRows w j x r0 col0 unit rows) := by
  have hR := chains_writeFrame w.ctx w.pav w.slot
  exact keeps_bind hR keeps_write_streamWrite (fun _ =>
    keeps_then_pure hR (keeps_modify _ (fun s => writeFrame_noteOut ..)))

end

end Sys2Proof.Proofs.Attention
end

section
/-!
PROOFS. The commands that write results (R62, R83, R86, R105 to R112, R133, R136, R140, R178, R222, R223, R258): what their
meanings keep, and how they issue.
-/
namespace Sys2Proof.Proofs.Attention
open Sys2Proof.Machine Sys2Proof.Laws Sys2Proof.Claims Sys2Proof.Proofs.Arithmetic

/-! The steps that the meanings share. -/

section
variable {e : Env}

/-- What a command of this environment that writes streams keeps. -/
abbrev EnvWrites (e : Env) : State → State → Prop := WriteFrame e.g.ctx e.p e.q

theorem readsKeep_env (e : Env) : ReadsKeep (EnvWrites e) := readsKeep_writeFrame ..

theorem chains_env (e : Env) : Chains (EnvWrites e) := chains_writeFrame ..

theorem keeps_write_writeTo {x : Option Stream} {r0 col0 : Nat} {rows : List (List XV)} :
    Keeps (EnvWrites e) (writeTo e x r0 col0 rows) := by
  unfold writeTo
  split
  · exact keeps_pure (chains_env e) _
  · exact keeps_write_writeRows (w := e.writer false)

theorem keeps_write_countMaskedRows {rows : List Nat} : Keeps (EnvWrites e) (countMaskedRows e rows) :=
  keeps_modifyThe _ (fun _ => writeFrame_of_read ⟨rfl, rfl⟩ rfl rfl)

theorem keeps_write_gradWrite {x : Stream} {r0 : Nat} {rows : List (List CV)} :
    Keeps (EnvWrites e) (gradWrite e x r0 rows) :=
  keeps_then_pure (chains_env e) keeps_write_writeTo

theorem keeps_write_finalise {x : Stream} {qt : Nat} {lse : Bool} {rows : List FinRow} :
    Keeps (EnvWrites e) (finalise e x qt lse rows) := by
  have hR := chains_env e
  have hK := readsKeep_env e
  exact keeps_bind hR keeps_write_countMaskedRows (fun _ => keeps_bind hR hK.optRows (fun _ =>
    keeps_bind hR hK.optRows (fun _ => keeps_bind hR keeps_write_writeTo (fun _ =>
      keeps_bind hR keeps_write_writeTo (fun _ => keeps_then_pure hR keeps_write_writeTo)))))

/-! The meanings, MAXC's but for its last step. -/

theorem keeps_epiBody : Keeps (EnvWrites e) (epiBody e) := by
  have hR := chains_env e
  have hK := readsKeep_env e
  unfold epiBody
  dsimp only
  split
  · exact keeps_raise hR _
  · refine keeps_ite (keeps_bind hR hK.outRows (fun _ => keeps_write_gradWrite)) (keeps_ite (keeps_pure hR _) ?_)
    exact keeps_bind hR hK.outputRows (fun _ => keeps_write_finalise)

theorem keeps_accwBody : Keeps (EnvWrites e) (accwBody e) := by
  have hR := chains_env e
  have hK := readsKeep_env e
  unfold accwBody
  dsimp only
  split
  · exact keeps_raise hR _
  · exact keeps_bind hR hK.prog (fun _ => keeps_bind hR hK.outRows (fun _ =>
      keeps_then_pure hR (keeps_write_streamAccum (w := e.writer true))))

theorem keeps_partBody : Keeps (EnvWrites e) (partBody e) := by
  have hR := chains_env e
  have hK := readsKeep_env e
  exact keeps_ite (keeps_pure hR _) (keeps_bind hR hK.prog (fun _ => keeps_bind hR hK.outRows (fun _ =>
    keeps_then_pure hR keeps_write_writeTo)))

theorem keeps_combBody : Keeps (EnvWrites e) (combBody e) := by
  have hR := chains_env e
  have hK := readsKeep_env e
  unfold combBody
  dsimp only
  split
  · refine keeps_ite (keeps_pure hR _) (keeps_bind hR hK.streamRows (fun _ => keeps_bind hR hK.streamRows (fun _ => ?_)))
    exact keeps_ite (keeps_then_pure hR keeps_write_finalise) (keeps_then_pure hR keeps_write_writeTo)
  · exact keeps_raise hR _

theorem keeps_finBody : Keeps (EnvWrites e) (finBody e) := by
  have hR := chains_env e
  have hK := readsKeep_env e
  unfold finBody
  dsimp only
  split
  · refine keeps_bind hR (keeps_mapM hR _ (fun _ => hK.rowWords)) (fun _ => ?_)
    refine keeps_ite (keeps_bind hR (keeps_mapM hR _ (fun _ => hK.rowScalar)) (fun _ =>
      keeps_optional hR keeps_write_countMaskedRows ?_)) ?_ <;> exact keeps_then_pure hR keeps_write_gradWrite
  · exact keeps_raise hR _

theorem keeps_zeroRows {x : Option Stream} {r0 : Nat} : Keeps (EnvWrites e) (zeroRows e x r0) := by
  unfold zeroRows
  split
  · exact keeps_pure (chains_env e) _
  · exact keeps_write_streamWrite (w := e.writer false)

theorem keeps_dproBody : Keeps (EnvWrites e) (dproBody e) := by
  have hR := chains_env e
  have hK := readsKeep_env e
  unfold dproBody
  dsimp only
  refine keeps_bind hR keeps_zeroRows (fun _ => ?_)
  split
  · refine keeps_bind hR (keeps_mapM hR _ (fun _ => keeps_ite ?_ (keeps_pure hR _)))
      (fun _ => keeps_then_pure hR keeps_write_writeTo)
    exact keeps_bind hR hK.checkedRow (fun _ => keeps_then_pure hR hK.checkedRow)
  · exact keeps_pure hR _

theorem keeps_rowpBody : Keeps (EnvWrites e) (rowpBody e) := by
  have hR := chains_env e
  have hK := readsKeep_env e
  unfold rowpBody
  dsimp only
  split
  · refine keeps_then_pure hR (keeps_mapM hR _ (fun _ => ?_))
    exact keeps_bind hR hK.streamRows (fun _ => keeps_bind hR hK.optRows (fun _ => keeps_bind hR hK.optRows (fun _ =>
      keeps_then_pure hR keeps_write_writeTo)))
  · exact keeps_raise hR _

/-! PREF (R258, R501). -/

theorem keeps_write_copyWrite {y : Stream} {off : Nat} {c : Copied} : Keeps (EnvWrites e) (copyWrite e y off c) := by
  have hR := chains_env e
  unfold copyWrite
  dsimp only
  split
  · refine keeps_bind hR (keeps_liftStep hR _ _ (fun s => writeFrame_terWrite ..)) (fun _ => ?_)
    exact keeps_then_pure hR (keeps_modifyThe _ (fun s => writeFrame_markBad ..))
  · exact keeps_bind hR (keeps_get hR) (fun s => keeps_then_pure hR (keeps_mapM hR _ (fun _ =>
      keeps_then_pure hR (keeps_mapM hR _ (fun _ => keeps_write_landChunk (w := e.writer true))))))
  · exact keeps_get_set hR (fun s => writeFrame_extWrite ..) (fun s => keeps_ite (keeps_pure hR _) (keeps_raise hR _))

theorem writeFrame_beginXfers (c p : Nat) (q : PSlot) (n : Nat) (s : State) : WriteFrame c p q s (beginXfers n s) :=
  writeFrame_of_read ⟨rfl, rfl⟩ rfl rfl

theorem keeps_write_copyPlots {x y : Stream} {r0 n : Nat} : Keeps (EnvWrites e) (copyPlots e x y r0 n) := by
  have hR := chains_env e
  have hK := readsKeep_env e
  unfold copyPlots
  dsimp only
  refine keeps_then_pure hR (keeps_mapM hR _ (fun b => ?_))
  refine keeps_ite (keeps_bind hR (keeps_modifyThe _ (fun s => hR.trans (hK.look _ s) (writeFrame_beginXfers ..))) (fun _ =>
    keeps_bind hR hK.plotOf (fun _ => keeps_bind hR hK.copyOutside (fun c => ?_))))
    (keeps_bind hR (keeps_pure hR _) (fun c => ?_))
  all_goals
    refine keeps_ite (keeps_bind hR (keeps_get hR) (fun s => ?_)) keeps_write_copyWrite
    exact keeps_then_pure hR (keeps_mapM hR _ (fun _ =>
      keeps_then_pure hR (keeps_mapM hR _ (fun _ => keeps_write_landChunk (w := e.writer true)))))

theorem keeps_prefBody : Keeps (EnvWrites e) (prefBody e) := by
  have hR := chains_env e
  have hK := readsKeep_env e
  unfold prefBody
  dsimp only
  split
  · refine keeps_ite (keeps_then_pure hR keeps_write_copyPlots) (keeps_ite ?whole ?units)
    case whole => exact keeps_bind hR hK.copyRead (fun _ => keeps_then_pure hR keeps_write_copyWrite)
    case units =>
      exact keeps_then_pure hR (keeps_mapM hR _ (fun _ => keeps_bind hR hK.copyRead (fun _ => keeps_write_copyWrite)))
  · exact keeps_raise hR _

end

/-! MAXC (R83): of the row state it changes the maxima alone. -/

/-- From g to h a command that writes results may change the chunk numbers of landing entries and, as MAXC, the maxima of
rows. -/
structure ResultsTo (o : Nat) (g h : Prog) : Prop where
  only : ∃ cs rs, h = { g with cseq := cs, rsu := rs }
  sums : ∀ i, (rowState h i).l = (rowState g i).l ∧ (rowState h i).c = (rowState g i).c
  maxima : o ≠ oMAXC → h.rsu = g.rsu

theorem resultsTo_cseq (o : Nat) (g : Prog) (cs : Tbl Nat) : ResultsTo o g { g with cseq := cs } :=
  ⟨⟨cs, g.rsu, rfl⟩, fun _ => ⟨rfl, rfl⟩, fun _ => rfl⟩

/-- From s to t a command of opcode o that writes results changes of its program what it may, and no byte of the Terrace
outside its context's regions. -/
structure ResultFrame (o : Nat) (e : Env) (s t : State) : Prop where
  region : RegionFrame e.g.ctx s t
  prog : ∀ g, getProg s e.p e.q = some g → ∃ h, getProg t e.p e.q = some h ∧ ResultsTo o g h

theorem resultFrame_of_write {o : Nat} {e : Env} {s t : State} (h : EnvWrites e s t) : ResultFrame o e s t where
  region := h.region
  prog g hg := by
    obtain ⟨cs, ht⟩ := h.prog g hg
    exact ⟨_, ht, resultsTo_cseq o g cs⟩

/-- The maxima of rows from r0 on. -/
def putMaxima (r0 : Nat) (ms : List XV) (g : Prog) : Prog :=
  { g with rsu := (enum ms).foldl (fun t m => tset t (r0 + m.1) { rowState g (r0 + m.1) with m := f32code m.2 }) g.rsu }

/-- Entries set one after the other: what holds of each entry at first and of each value at its key holds of each at last. -/
theorem tget_foldl_tset_all {α γ : Type} (key : γ → Nat) (val : γ → α) (d : α) (P : Nat → α → Prop) (l : List γ)
    (hval : ∀ x, P (key x) (val x)) (t : Tbl α) (ht : ∀ i, P i (tget t i d)) (i : Nat) :
    P i (tget (l.foldl (fun t x => tset t (key x) (val x)) t) i d) := by
  induction l generalizing t with
  | nil => exact ht i
  | cons x l ih =>
    refine ih (tset t (key x) (val x)) (fun k => ?_)
    rw [tget_tset]
    split
    · rename_i hk
      rw [hk]
      exact hval x
    · exact ht k

theorem rowState_putMaxima (r0 : Nat) (ms : List XV) (g : Prog) (i : Nat) :
    ∃ m, rowState (putMaxima r0 ms g) i = { rowState g i with m := m } :=
  tget_foldl_tset_all (α := RowState) (fun x : Nat × XV => r0 + x.1)
    (fun x => { rowState g (r0 + x.1) with m := f32code x.2 }) RowState.init
    (fun i z => ∃ m, z = { rowState g i with m := m }) (enum ms) (fun x => ⟨f32code x.2, rfl⟩) g.rsu
    (fun i => ⟨(rowState g i).m, rfl⟩) i

theorem resultsTo_putMaxima (r0 : Nat) (ms : List XV) (g : Prog) : ResultsTo oMAXC g (putMaxima r0 ms g) where
  only := ⟨g.cseq, _, rfl⟩
  sums i := by
    obtain ⟨m, h⟩ := rowState_putMaxima r0 ms g i
    rw [h]
    exact ⟨rfl, rfl⟩
  maxima h := absurd rfl h

theorem ResultsTo.trans {o : Nat} {g h k : Prog} (a : ResultsTo o g h) (b : ResultsTo o h k) : ResultsTo o g k where
  only := by
    obtain ⟨cs, rs, rfl⟩ := a.only
    obtain ⟨cs', rs', rfl⟩ := b.only
    exact ⟨cs', rs', rfl⟩
  sums i := ⟨(b.sums i).1.trans (a.sums i).1, (b.sums i).2.trans (a.sums i).2⟩
  maxima ho := (b.maxima ho).trans (a.maxima ho)

theorem chains_resultFrame (o : Nat) (e : Env) : Chains (ResultFrame o e) where
  refl s := resultFrame_of_write ((chains_env e).refl s)
  trans a b := by
    refine ⟨(chains_regionFrame _).trans a.region b.region, fun g hg => ?_⟩
    obtain ⟨h, hh, hgh⟩ := a.prog g hg
    obtain ⟨k, hk, hhk⟩ := b.prog h hh
    exact ⟨k, hk, hgh.trans hhk⟩

theorem keeps_results_of_write {α : Type} {o : Nat} {m : Eff α} (h : Keeps (EnvWrites e) m) : Keeps (ResultFrame o e) m :=
  h.mono (fun _ _ => resultFrame_of_write)

/-- A change of the program within what the command may change. -/
theorem keeps_results_modify {o : Nat} {e : Env} {f : Prog → Prog} (h : ∀ g, ResultsTo o g (f g)) :
    Keeps (ResultFrame o e) (e.modify f) :=
  keeps_modifyThe _ (fun s => by
    refine ⟨by rw [modProg_only]; exact regionFrame_of_mem rfl rfl rfl, fun g hg => ⟨f g, ?_, h g⟩⟩
    rw [getProg_modProg_self, hg]
    rfl)

theorem keeps_maxcBody {e : Env} : Keeps (ResultFrame oMAXC e) (maxcBody e) := by
  have hR := chains_resultFrame oMAXC e
  have hK := readsKeep_env e
  refine keeps_bind hR (keeps_results_of_write (keeps_mapM (chains_env e) _ (fun _ => hK.streamRows))) (fun _ =>
    keeps_bind hR (keeps_results_of_write keeps_write_writeTo) (fun _ => ?_))
  exact keeps_bind hR (keeps_results_modify (resultsTo_putMaxima _ _)) (fun _ => keeps_pure hR _)

/-! Issue. -/

theorem countEvents_sys (c : Nat) (seq : BitVec 32) (member pav tpc : Nat) (es : List Ev) (s : State) :
    (countEvents c seq member pav tpc es s).sys = s.sys := by
  unfold countEvents
  generalize es.map _ = ks
  obtain ⟨cs, js, h⟩ := addEvents_only c seq ks s
  rw [h]
  unfold kioskQueue
  split <;> rfl

/-- A head that is ready and whose meaning succeeds leaves the registers as the meaning has left them. -/
theorem sys_of_live_issueOp {s s2 t : State} {p : PavId} {q : PSlot} {k o : Nat} {g : Prog} {j : Job} {c : QCmd} {body : Body}
    {evs : List Ev} {stags : List Nat} (hr : Ready s p q k o g j c)
    (hm : Meaning s p q k g j c body = (.ok (evs, stags), s2)) (ht : live (issueOp p.val q k o body) s = .next t) :
    t.sys = s2.sys := by
  obtain ⟨⟨hup, hg, hc, hj, hh, hd, ho, hf, hw, hu, h1, h2, h3⟩, h4⟩ := hr
  have ends : issueOp p.val q k o body s =
      countEvents g.ctx g.jobseq g.hdr.member p.val c.tpc evs (modProg p.val q (noteChunks c.num stags) s2) :=
    (issueOp_runs p.val q k o body s g c j hg hc hj hh hd ho hf hw hu h1 h2 h3 h4).trans
      (runHead_ok p.val q k g j c body s s2 evs stags hm)
  rw [live_up _ _ hup] at ht
  obtain rfl := Host.Outcome.next.inj ht
  have framed : (effect (issueOp p.val q k o body) s).sys = (issueOp p.val q k o body s).sys := (effect_frame ..).sys
  rw [framed, ends, countEvents_sys, modProg_only]

/-- Leaving its queue touches neither a program's query tile nor its epoch. -/
theorem headTaken_keeps (s : State) (k : Nat) (g : Prog) (j : Job) (c : QCmd) :
    (headTaken s k g j c).qtile = g.qtile ∧ (headTaken s k g j c).epoch = g.epoch ∧ (headTaken s k g j c).ctx = g.ctx := by
  obtain ⟨us, e⟩ := takeHead_only k
    ⟨c, (cmdLines s j g c).1, (cmdLines s j g c).2.1, (cmdLines s j g c).2.2, cmdEntries s j g c, []⟩ g
  rw [headTaken, e]
  exact ⟨rfl, rfl, rfl⟩

/-- What a command that writes results leaves as it is (R83, R178, R205). -/
structure KeepsTiles (o c : Nat) (g h : Prog) (s t : State) : Prop where
  acc : h.acc = g.acc
  feed : h.feed = g.feed
  fifo : h.fifo = g.fifo
  resident : h.resident = g.resident
  qtile : h.qtile = g.qtile
  epoch : h.epoch = g.epoch
  maxima : o ≠ oMAXC → h.rsu = g.rsu
  sums : ∀ i, (rowState h i).l = (rowState g i).l ∧ (rowState h i).c = (rowState g i).c
  mem : ∀ a, OutsideRegions s c a → memByte t.ter.mem a = memByte s.ter.mem a
  phase : t.sys.phase = s.sys.phase

/-- A command that is ready, whose meaning succeeds and keeps what a command that writes results keeps, issues. -/
theorem results_issue {s : State} {p : PavId} {q : PSlot} {k o : Nat} {g : Prog} {j : Job} {c : QCmd} {body : Body}
    {evs : List Ev} {stags : List Nat} (hr : Ready s p q k o g j c)
    (hm : (Meaning s p q k g j c body).1 = .ok (evs, stags)) (hk : ∀ e, Keeps (ResultFrame o e) (body e)) :
    ∃ (t : State) (h : Prog), live (issueOp p.val q k o body) s = .next t ∧ IssuedIn t p q k g h c stags ∧
      KeepsTiles o g.ctx g h s t := by
  rcases hrun : Meaning s p q k g j c body with ⟨r, s2⟩
  rw [hrun] at hm
  dsimp only at hm
  subst hm
  obtain ⟨t, hex, hprog, -, hmem, -⟩ := live_issueOp_ok hr hrun
  have hsys := sys_of_live_issueOp hr hrun hex
  have frame := hk ⟨p.val, q, headTaken s k g j c, j, c⟩ (issueStart s p.val q k g j c)
  have after : ((body ⟨p.val, q, headTaken s k g j c, j, c⟩).exec (issueStart s p.val q k g j c)).2 = s2 :=
    congrArg Prod.snd hrun
  rw [after] at frame
  obtain ⟨qtile, epoch, ctx⟩ := headTaken_keeps s k g j c
  have region : RegionFrame (headTaken s k g j c).ctx (issueStart s p.val q k g j c) s2 := frame.region
  rw [ctx] at region
  obtain ⟨h, hh2, results⟩ := frame.prog _ (getProg_issueStart ..)
  obtain ⟨cs, rs, rfl⟩ := results.only
  rw [show getProg s2 p.val q = some _ from hh2] at hprog
  have kept := sameTiles_headTaken s k g j c
  obtain ⟨⟨-, -, -, -, hh, -⟩, -⟩ := hr
  refine ⟨t, _, hex, issuedIn_noteChunks hprog ⟨rfl, rfl, rfl, rfl, rfl⟩ hh, kept.acc, kept.feed, kept.fifo,
    kept.resident, qtile, epoch, fun ho => (results.maxima ho).trans kept.rsu, fun i => ?_, fun a ha => ?_, ?_⟩
  · have before : rowState (headTaken s k g j c) i = rowState g i := by
      unfold rowState
      rw [kept.rsu]
    rw [← before]
    exact results.sums i
  · rw [hmem]
    exact region.mem a ha
  · rw [hsys]
    exact region.phase

/-- The commands that write results, each with its queue, its opcode and its meaning. -/
abbrev outputInstrs (p : PavId) (q : PSlot) : List (Instr × Nat × Nat × Body) :=
  [(.epi p q, 2, oEPI, epiBody), (.accw p q, 3, oACCW, accwBody), (.part p q, 3, oPART, partBody),
    (.comb p q, 2, oCOMB, combBody), (.maxc p q, 2, oMAXC, maxcBody), (.fin p q, 2, oFIN, finBody),
    (.dpro p q, 2, oDPRO, dproBody), (.rowp p q, 2, oROWP, rowpBody), (.pref p q, 3, oPREF, prefBody)]

/-- The row of a command that writes results issues the head of its queue with a meaning that keeps what it may not change. -/
theorem outputInstrs_keep (p : PavId) (q : PSlot) : ∀ i ∈ outputInstrs p q,
    (∀ s, exec i.1 s = live (issueOp p.val q i.2.1 i.2.2.1 i.2.2.2) s) ∧
      ∀ e, Keeps (ResultFrame i.2.2.1 e) (i.2.2.2 e) := by
  simp only [outputInstrs, List.forall_mem_cons]
  exact ⟨⟨fun _ => rfl, fun _ => keeps_results_of_write keeps_epiBody⟩,
    ⟨fun _ => rfl, fun _ => keeps_results_of_write keeps_accwBody⟩,
    ⟨fun _ => rfl, fun _ => keeps_results_of_write keeps_partBody⟩,
    ⟨fun _ => rfl, fun _ => keeps_results_of_write keeps_combBody⟩,
    ⟨fun _ => rfl, fun _ => keeps_maxcBody⟩,
    ⟨fun _ => rfl, fun _ => keeps_results_of_write keeps_finBody⟩,
    ⟨fun _ => rfl, fun _ => keeps_results_of_write keeps_dproBody⟩,
    ⟨fun _ => rfl, fun _ => keeps_results_of_write keeps_rowpBody⟩,
    ⟨fun _ => rfl, fun _ => keeps_results_of_write keeps_prefBody⟩, List.forall_mem_nil _⟩

/-- Settles O43: each meaning keeps the tiles and its context's regions, which its issue keeps as well; and a prefetch fills
lines of the cached groups alone, of which two of one plot are never of one set. -/
theorem outputCommandsKeepTheTiles : Obligations.OutputCommandsKeepTheTiles := by
  unfold Obligations.OutputCommandsKeepTheTiles
  intro s p q
  refine ⟨fun e he g j c evs stags hr hm => ?_, fun hup => ?_, fun g j a n k hup hg hj hc hx hn hf => ?_⟩
  · obtain ⟨row, keeps⟩ := outputInstrs_keep p q e he
    obtain ⟨t, h, hex, issued, kept⟩ := results_issue hr hm keeps
    exact ⟨t, h, (row s).trans hex, issued, kept.acc, kept.feed, kept.fifo, kept.resident, kept.qtile, kept.epoch,
      kept.maxima, kept.sums, kept.mem, kept.phase⟩
  · have frame := prefetchFrame_prefetchPlot p.val q s
    exact ⟨_, exec_plotPrefetch hup p q, frame.mem, frame.jobs, frame.pavs, frame.ctxs, frame.clean,
      prefetchPlot_of_no_group⟩
  · refine ⟨_, exec_plotPrefetch hup p q, ?_⟩
    rw [prefetchPlot_of_some hg hj hc hx hf]
    exact fetchPlot_holds hc hx hn

end Sys2Proof.Proofs.Attention
end

section
/-!
PROOFS. What a halt of a program's job does (R189, R369, R480, R484), and commands that send nothing.
-/
namespace Sys2Proof.Proofs.Sequencer
open Sys2Proof.Machine Sys2Proof.Laws Sys2Proof.Claims Sys2Proof.Proofs.Arithmetic Sys2Proof.Proofs.Attention

/-! Halts (R189, R369, R480, R484). -/

/-- What a halt of job seq of context c with fault f does, from s to t. -/
structure Halts (c : Nat) (seq : BitVec 32) (f : JFault) (s t : State) : Prop where
  job : ∀ j, findJob s c seq = some j → ∃ k, findJob t c seq = some k ∧ (FirstHalt s c → k.fault = some f)
  last : FirstHalt s c → (getCtx t c).counts.lastHalt = f.status
  count : (getCtx t c).counts.halts = Nat.min ((getCtx s c).counts.halts + 1) 0xFFFFFFFF
  state : (getCtx s c).state = .active → (getCtx t c).state = .halted
  others : ∀ d, d ≠ c → getCtx t d = getCtx s d
  errs : t.sys.errSts = s.sys.errSts ||| (1#64 <<< ebCTX_HALT)
  ter : t.ter = s.ter
  ext : t.ext = s.ext
  out : t.out = s.out
  pending : t.pending = s.pending

/-- A job once it has halted with fault f: of several halts of one TCLK the fault of the latest key stays (R502). -/
def faulted (s : State) (c : Nat) (seq : BitVec 32) (f : JFault) (j : Job) : Job :=
  let late := (haltsNow s (getCtx s c)).any (fun k => k.head? == some seq.toNat && lexLt (haltKey seq f) k)
  { j with fault := if late && j.fault.isSome then j.fault else some f }

theorem fault_faulted {s : State} {c : Nat} (seq : BitVec 32) (f : JFault) (j : Job) (first : FirstHalt s c) :
    (faulted s c seq f j).fault = some f := by
  unfold faulted
  rw [first]
  rfl

theorem findJob_haltJob (c : Nat) (seq : BitVec 32) (f : JFault) (s : State) :
    findJob (haltJob c seq f s) c seq = (findJob s c seq).map (faulted s c seq f) := by
  refine Eq.trans ?_ (findJob_modJob_self c seq (faulted s c seq f) s (fun _ => ⟨rfl, rfl⟩))
  unfold findJob haltJob traceEv
  dsimp only
  split <;> rfl

/-- A halt leaves the outside memories and the waiting commands as they are. -/
theorem haltJob_keeps (c : Nat) (seq : BitVec 32) (f : JFault) (s : State) :
    (haltJob c seq f s).ext = s.ext ∧ (haltJob c seq f s).pending = s.pending := by
  unfold haltJob traceEv
  dsimp only
  split <;> exact ⟨rfl, rfl⟩

theorem getCtx_haltJob (c : Nat) (seq : BitVec 32) (f : JFault) (s : State) (d : Nat) :
    getCtx (haltJob c seq f s) d =
      if d = c then Ctx.halt s f.status (haltKey seq f) (getCtx s c) else getCtx s d := by
  unfold getCtx
  rw [(haltJob_ctx c seq f s).1]
  exact tget_tset ..

theorem halts_haltJob (c : Nat) (seq : BitVec 32) (f : JFault) (s : State) : Halts c seq f s (haltJob c seq f s) := by
  obtain ⟨-, errs, -, ter, out⟩ := haltJob_ctx c seq f s
  obtain ⟨ext, pending⟩ := haltJob_keeps c seq f s
  have own : getCtx (haltJob c seq f s) c = Ctx.halt s f.status (haltKey seq f) (getCtx s c) := by
    rw [getCtx_haltJob, if_pos rfl]
  refine ⟨fun j hj => ⟨faulted s c seq f j, by rw [findJob_haltJob, hj]; rfl, fault_faulted seq f j⟩, fun first => ?_, ?_, fun active => ?_, fun d hd => ?_, errs, ter, ext, out, pending⟩
  · rw [own]
    show (if (haltsNow s (getCtx s c)).any _ then _ else f.status) = f.status
    rw [first]
    rfl
  · rw [own]
    unfold Ctx.halt CtxCounts.halted
    dsimp only
    split <;> rfl
  · rw [own]
    exact if_pos active
  · rw [getCtx_haltJob, if_neg hd]

/-- The queue of a Kiosk that restarts is a count of its Pavilion alone (R381). -/
theorem kioskQueue_only (p n : Nat) (s : State) : ∃ ps, kioskQueue p n s = { s with pavs := ps } := by
  unfold kioskQueue
  split
  · exact ⟨s.pavs, rfl⟩
  · exact ⟨_, rfl⟩

/-- The Pavilions do not enter into what a halt does. -/
theorem Halts.with_pavs {c : Nat} {seq : BitVec 32} {f : JFault} {s t : State} (h : Halts c seq f s t) (ps : Tbl Pav) :
    Halts c seq f s { t with pavs := ps } :=
  ⟨h.job, h.last, h.count, h.state, h.others, h.errs, h.ter, h.ext, h.out, h.pending⟩

theorem halts_haltProg (p : Nat) (g : Prog) (tpc : Nat) (f : RFault) (s : State) :
    Halts g.ctx g.jobseq (progFault p g tpc f) s (haltProg p g tpc f s) := by
  obtain ⟨ps, h⟩ := kioskQueue_only p 1 (haltJob g.ctx g.jobseq (progFault p g tpc f) s)
  rw [haltProg, h]
  exact (halts_haltJob ..).with_pavs ps

/-- What a halt reads of the state: the time, its context's halts, and whether its job is admitted. -/
structure SameHalts (c : Nat) (seq : BitVec 32) (s t : State) : Prop where
  time : t.sys.time = s.sys.time
  haltNow : (getCtx t c).haltNow = (getCtx s c).haltNow
  state : (getCtx t c).state = (getCtx s c).state
  job : (findJob s c seq).isSome → (findJob t c seq).isSome

theorem SameHalts.first {c : Nat} {seq : BitVec 32} {s t : State} (h : SameHalts c seq s t) (hs : FirstHalt s c) :
    FirstHalt t c := by
  unfold FirstHalt haltsNow at *
  rw [h.time, h.haltNow]
  exact hs

/-- A halt that comes after steps that no halt reads. -/
theorem Halts.job_after {c : Nat} {seq : BitVec 32} {f : JFault} {s u t : State} (h : Halts c seq f u t)
    (same : SameHalts c seq s u) {j : Job} (hj : findJob s c seq = some j) :
    ∃ k, findJob t c seq = some k ∧ (FirstHalt s c → k.fault = some f) := by
  obtain ⟨i, hi⟩ := Option.isSome_iff_exists.mp (same.job (by rw [hj]; rfl))
  obtain ⟨k, hk, first⟩ := h.job i hi
  exact ⟨k, hk, fun hs => first (same.first hs)⟩

theorem sameHalts_of_eq {c : Nat} {seq : BitVec 32} {s t : State} (hx : t.ctxs = s.ctxs) (hj : t.jobs = s.jobs)
    (ht : t.sys.time = s.sys.time) : SameHalts c seq s t := by
  refine ⟨ht, by rw [getCtx_congr hx], by rw [getCtx_congr hx], fun h => ?_⟩
  unfold findJob at *
  rw [hj]
  exact h

/-- A meaning that sends nothing and leaves the waiting commands is all that a command does while the system is up. -/
theorem live_silent {f : State → State} {s : State} (hup : s.sys.phase = .up) (ho : (f s).out = s.out)
    (hp : (f s).pending = s.pending) : live f s = .next (f s) := by
  rw [live_up f s hup, effect_silent f s ho hp]

/-- A command whose meaning leaves the state as it is. -/
theorem live_idle {f : State → State} {s : State} (hup : s.sys.phase = .up) (h : f s = s) : live f s = .next s := by
  have := live_silent hup (congrArg State.out h) (congrArg State.pending h)
  rwa [h] at this

/-- The bit of a halt reads 1. -/
theorem Halts.ctxHalt {c : Nat} {seq : BitVec 32} {f : JFault} {s t : State} (h : Halts c seq f s t) :
    t.sys.errSts.getLsbD 16 = true := by
  rw [h.errs]
  exact setErr_reads ebCTX_HALT s (by decide)

end Sys2Proof.Proofs.Sequencer
end

section
/-!
PROOFS. COMMAND_DISPATCH (R180, R181, R188, R434).
-/
namespace Sys2Proof.Proofs.Sequencer
open Sys2Proof.Machine Sys2Proof.Laws Sys2Proof.Claims Sys2Proof.Proofs.Arithmetic Sys2Proof.Proofs.Attention

/-- Correction and poison change error counts, registers and the Terrace's side tables alone (R229). -/
theorem eccTouch_only (ws : List (Nat × Nat)) (s : State) :
    ∃ sys ter, eccTouch ws s = { s with sys := sys, ter := ter } ∧ sys.time = s.sys.time ∧ ter.mem = s.ter.mem := by
  unfold eccTouch
  induction ws generalizing s with
  | nil => exact ⟨s.sys, s.ter, rfl, rfl, rfl⟩
  | cons e ws ih =>
    rw [List.foldl_cons]
    dsimp only
    split
    · exact ih _
    · exact ih _

/-- A read of the Terrace changes no more than the correction of what it reads. -/
theorem terRead_only (s : State) (c off n : Nat) :
    ∃ sys ter, (terRead s c off n).1 = { s with sys := sys, ter := ter } ∧ sys.time = s.sys.time ∧ ter.mem = s.ter.mem := by
  unfold terRead
  split
  · exact ⟨s.sys, s.ter, rfl, rfl, rfl⟩
  · dsimp only
    split <;> exact eccTouch_only _ s

/-- While a program's turn has no SLOT stop behind it, dispatch is held or takes place from it (R188, R434). -/
theorem dispatchStep_of_turn {s : State} {p : Nat} {g : Prog} (hg : liveProg s p (turnOf s p) = some g)
    (hs : g.slotStop = false) :
    dispatchStep p s = if dispatchHeld s p then s else dispatchFrom p (turnOf s p) g s := by
  unfold dispatchStep
  dsimp only
  rw [hg]
  simp [hs]

theorem dispatchFrom_stopped {p : Nat} {q : PSlot} {g : Prog} {s : State} (h : stopsDispatch g = true) :
    dispatchFrom p q g s = s := if_pos h

/-- A Pavilion whose turn is slot q's (R188). -/
def turnTo (q : PSlot) (v : Pav) : Pav :=
  { v with turnB := match q with
    | .a => false
    | .b => true }

/-- What dispatch does with a command that it has fetched. -/
theorem dispatchFrom_fetched {p : Nat} {q : PSlot} {g : Prog} {s s1 : State} {bs : List Byte} {tags : List (BitVec 2)}
    (h : stopsDispatch g = false) (hr : terRead s g.ctx (g.hdr.addr + 16 * g.tpc) 16 = (s1, .ok (bs, tags))) :
    dispatchFrom p q g s =
      if !fetchOk g (leNat bs) then haltProg p g g.tpc (plainFault stPROG_BAD) s1
      else if 8 ≤ (tget g.queues (queueOf (leNat bs)) []).length then s
      else setProg p q (some (enqueue (leNat bs) g)) (modPav p (turnTo q) s1) := by
  unfold dispatchFrom
  rw [h, hr]
  rfl

/-- The command that enters a queue (R180, R181). -/
def dispatched (w : Nat) (g : Prog) : QCmd := ⟨g.nextNum, g.qdisp, g.tpc, BitVec.ofNat 128 w, loopRegs g.loops⟩

theorem queues_enqueue (w : Nat) (g : Prog) :
    (enqueue w g).queues = tset g.queues (queueOf w) (tget g.queues (queueOf w) [] ++ [dispatched w g]) := rfl

/-- Outside every loop a command that is no LOOP moves the TPC on by one. -/
theorem tpc_enqueue {w : Nat} {g : Prog} (hl : g.loops = []) (hw : cOpc w ≠ oLOOP) : (enqueue w g).tpc = g.tpc + 1 := by
  have none_open : (if cOpc w = oLOOP then ⟨g.tpc, bits w 92 2, 0, bits w 64 16, bits w 80 12⟩ :: g.loops else g.loops) =
      [] := (if_neg hw).trans hl
  show (nextTpc (g.tpc + 1) (if cOpc w = oLOOP then _ else _)).1 = _
  rw [none_open]
  rfl

/-- Settles O37: dispatch is held, or a fetched command breaks a check, meets a full queue, or enters its queue. -/
theorem commandsAreDispatchedInOrder : Obligations.CommandsAreDispatchedInOrder := by
  unfold Obligations.CommandsAreDispatchedInOrder
  intro s s1 p g bs tags hup hg hs
  have run : exec (.commandDispatch p) s = live (dispatchStep p.val) s := rfl
  have step := dispatchStep_of_turn hg hs
  dsimp only
  refine ⟨fun held => ?_, fun free moves hr => ?_⟩
  · refine run.trans (live_idle hup ?_)
    rcases held with held | stopped
    · rw [step, if_pos held]
    · rw [step, dispatchFrom_stopped stopped, ite_self]
  have fetched : dispatchStep p.val s = _ :=
    step.trans ((if_neg (by simp [free])).trans (dispatchFrom_fetched moves hr))
  obtain ⟨sys, ter, read, time, mem⟩ := terRead_only s g.ctx (g.hdr.addr + 16 * g.tpc) 16
  rw [hr] at read
  dsimp only at read
  subst read
  refine ⟨fun ok room => ?enters, fun ok full => ?full, fun bad j hj => ?halts⟩
  case full =>
    refine run.trans (live_idle hup (fetched.trans ?_))
    rw [if_neg (by simp [ok]), if_pos full]
  case enters =>
    rw [if_neg (by simp [ok]), if_neg (by omega)] at fetched
    refine ⟨_, enqueue (leNat bs) g, dispatched (leNat bs) g,
      run.trans (live_silent hup (by rw [fetched]; rfl) (by rw [fetched]; rfl)), ?_, ?_, BitVec.toNat_ofNat .., rfl, rfl, rfl,
      rfl, fun k hk => ?_, tpc_enqueue, rfl, rfl, rfl, ?_, ?_⟩
    · rw [fetched, getProg_setProg_self]
    · rw [queues_enqueue, tget_tset_self]
    · rw [queues_enqueue, tget_tset_ne _ _ _ _ _ hk]
    · rw [fetched]
      exact mem
    · rw [fetched]
      rfl
  case halts =>
    rw [if_pos (by simp [bad])] at fetched
    have halted := halts_haltProg p.val g g.tpc (plainFault stPROG_BAD) { s with sys := sys, ter := ter }
    have same : SameHalts g.ctx g.jobseq s { s with sys := sys, ter := ter } := sameHalts_of_eq rfl rfl time
    obtain ⟨k, hk, fault⟩ := halted.job_after same hj
    refine ⟨_, k, run.trans (live_silent hup (by rw [fetched, halted.out]) (by rw [fetched, halted.pending])), ?_, fault, ?_, ?_⟩
    · rw [fetched, hk]
    · rw [fetched]
      exact halted.ctxHalt
    · rw [fetched]
      exact halted.state

end Sys2Proof.Proofs.Sequencer
end

section
/-!
PROOFS. COMMAND_RETIRE and REMOTE_TOKEN_ARRIVAL (R184, R186, R197, R499): what retiring does to the Pavilion, and how a signal
reaches a counter, a flag or a link.
-/
namespace Sys2Proof.Proofs.Sequencer
open Sys2Proof.Machine Sys2Proof.Laws Sys2Proof.Claims Sys2Proof.Proofs.Arithmetic Sys2Proof.Proofs.Attention

/-! The leave class (R187). -/

theorem getPav_setLeave (p n : Nat) (s : State) (d : Nat) :
    getPav (setLeave p n s) d = if d = p then { getPav s p with leave := n } else getPav s d := by
  unfold setLeave
  dsimp only
  split
  · rename_i same
    split
    · rename_i hd
      rw [hd, ← same]
    · rfl
  · exact getPav_modPav ..

/-- A class lowered to what the Pavilion's work needs: no more than before. -/
theorem getPav_lowerLeave (p : Nat) (s : State) (d : Nat) : getPav (lowerLeave p s) d =
    if d = p then { getPav s p with
      leave := Nat.min (classNeeded s p) (getPav s p).leave
      leaveReq := if (getPav s p).leaveReq ≤ classNeeded s p then (getPav s p).leaveReq else classNeeded s p }
    else getPav s d := by
  unfold lowerLeave
  dsimp only
  rw [getPav_modPav, getPav_setLeave, getPav_setLeave, if_pos rfl]
  split <;> rfl

/-- A lower class changes the Pavilion and the grants that Pumphouse sees. -/
theorem lowerLeave_only (p : Nat) (s : State) : ∃ ps pw, lowerLeave p s = { s with pavs := ps, power := pw } := by
  unfold lowerLeave setLeave
  dsimp only
  split <;> exact ⟨_, _, rfl⟩

@[simp] theorem getProg_lowerLeave (p : Nat) (s : State) (d : Nat) (q : PSlot) :
    getProg (lowerLeave p s) d q = getProg s d q := by
  have kept : (getPav (lowerLeave p s) d).progA = (getPav s d).progA ∧ (getPav (lowerLeave p s) d).progB = (getPav s d).progB := by
    rw [getPav_lowerLeave]
    split
    · rename_i h
      rw [h]
      exact ⟨rfl, rfl⟩
    · exact ⟨rfl, rfl⟩
  cases q
  · exact kept.1
  · exact kept.2

section
variable (p : Nat) (s : State)

@[simp] theorem lowerLeave_pending : (lowerLeave p s).pending = s.pending := by
  obtain ⟨ps, pw, h⟩ := lowerLeave_only p s
  rw [h]

@[simp] theorem lowerLeave_ctxs : (lowerLeave p s).ctxs = s.ctxs := by
  obtain ⟨ps, pw, h⟩ := lowerLeave_only p s
  rw [h]

@[simp] theorem lowerLeave_jobs : (lowerLeave p s).jobs = s.jobs := by
  obtain ⟨ps, pw, h⟩ := lowerLeave_only p s
  rw [h]

@[simp] theorem lowerLeave_ter : (lowerLeave p s).ter = s.ter := by
  obtain ⟨ps, pw, h⟩ := lowerLeave_only p s
  rw [h]

@[simp] theorem lowerLeave_out : (lowerLeave p s).out = s.out := by
  obtain ⟨ps, pw, h⟩ := lowerLeave_only p s
  rw [h]

end

@[simp] theorem getCtx_lowerLeave (p : Nat) (s : State) (c : Nat) : getCtx (lowerLeave p s) c = getCtx s c :=
  getCtx_congr (lowerLeave_ctxs p s) c

@[simp] theorem findJob_lowerLeave (p : Nat) (s : State) (c : Nat) (seq : BitVec 32) :
    findJob (lowerLeave p s) c seq = findJob s c seq := by
  unfold findJob
  rw [lowerLeave_jobs]

/-! Retirement (R184). -/

/-- The command waits for its chunks, or for the check of its pass. -/
abbrev retireWaits (s : State) (p : Nat) (q : PSlot) (num : Nat) (i : Issued) : Bool :=
  !i.chunks.isEmpty || (getPav s p).passes.any (fun x => x.q == q && x.num == num)

section
variable {s : State} {p : Nat} {q : PSlot} {num : Nat} {g : Prog} {i : Issued} (hg : getProg s p q = some g)
  (hi : g.issued.find? (fun i => i.cmd.num == num) = some i)
include hg hi

theorem retireCmd_waits (h : retireWaits s p q num i = true) : retireCmd p q num s = s := by
  unfold retireCmd
  dsimp only
  rw [hg]
  dsimp only
  rw [hi]
  exact if_pos h

/-- A program that has not halted loses the command, whose signal fires. -/
theorem retireCmd_fires (hh : g.halted = false) (h : retireWaits s p q num i = false) :
    retireCmd p q num s =
      lowerLeave p (fireSignal p q (dropIssued num g) i.cmd (setProg p q (some (dropIssued num g)) s)) := by
  have taken : modProg p q (dropIssued num) s = setProg p q (some (dropIssued num g)) s := by
    unfold modProg
    rw [hg]
  unfold retireCmd
  dsimp only
  rw [hg]
  dsimp only
  rw [hi]
  dsimp only
  rw [if_neg (by simpa using h), taken, hh, if_neg (by decide)]

end

/-! Signals (R184). -/

section
variable {p : Nat} {q : PSlot} {g : Prog} {c : QCmd} {s : State}

theorem fireSignal_none (h : cSkind c.word.toNat = 0) : fireSignal p q g c s = s := by
  unfold fireSignal
  dsimp only
  rw [h]
  rfl

/-- A program with a counter set. -/
def putTok (tok n : Nat) (g : Prog) : Prog := { g with tok := tset g.tok tok n }

/-- A signal to a counter of its own program adds its increment, up to 65,535. -/
theorem fireSignal_counter (h : cSkind c.word.toNat = 1) :
    fireSignal p q g c s =
      let n := tget g.tok (cStok c.word.toNat) 0 + tokenInc c.word.toNat
      if n ≤ 65535 then modProg p q (putTok (cStok c.word.toNat) n) s
      else haltProg p g c.tpc (plainFault stTOKEN_OVF) s := by
  unfold fireSignal
  dsimp only
  rw [h]
  rfl

/-- The program once such a signal has fired. -/
abbrev signalled (w : Nat) (g : Prog) : Prog := putTok (cStok w) (tget g.tok (cStok w) 0 + tokenInc w) g

theorem fireSignal_token (h : cSkind c.word.toNat = 1) (hg : getProg s p q = some g)
    (hv : tget g.tok (cStok c.word.toNat) 0 + tokenInc c.word.toNat ≤ 65535) :
    fireSignal p q g c s = setProg p q (some (signalled c.word.toNat g)) s := by
  rw [fireSignal_counter h]
  dsimp only
  rw [if_pos hv]
  unfold modProg
  rw [hg]

theorem fireSignal_overflow (h : cSkind c.word.toNat = 1)
    (hv : 65535 < tget g.tok (cStok c.word.toNat) 0 + tokenInc c.word.toNat) :
    fireSignal p q g c s = haltProg p g c.tpc (plainFault stTOKEN_OVF) s :=
  (fireSignal_counter h).trans (if_neg (by omega))

/-- The token that a signal to a role that stands elsewhere sends. -/
abbrev remoteToken (s : State) (g : Prog) (w : Nat) : Out :=
  let r := roleOf (getCtx s g.ctx) g.epoch (cSdest w)
  .token r.upath g.ctx (cSdest w) (cStok w) (tokenInc w) r.repoch g.hdr.role

theorem fireSignal_remote (h : cSkind c.word.toNat = 2)
    (hv : (roleOf (getCtx s g.ctx) g.epoch (cSdest c.word.toNat)).valid = true)
    (hr : roleHere s (roleOf (getCtx s g.ctx) g.epoch (cSdest c.word.toNat)) = false) :
    fireSignal p q g c s = emit (remoteToken s g c.word.toNat) s := by
  have step : fireSignal p q g c s =
      signalRole p g c.tpc (cSdest c.word.toNat) (cStok c.word.toNat) (tokenInc c.word.toNat) s := by
    unfold fireSignal
    dsimp only
    rw [h]
    rfl
  rw [step, signalRole]
  dsimp only
  rw [hv, hr]
  rfl

theorem fireSignal_flag (h : cSkind c.word.toNat = 3) :
    fireSignal p q g c s = setFlag g.ctx (setFlagOf c.word.toNat c.regs) s := by
  unfold fireSignal
  dsimp only
  rw [h]
  rfl

end

/-! Flags (R186). -/

theorem getLsbD_or_flag (v : BitVec 4096) (k f : Nat) (h : k < 4096) :
    (v ||| (1#4096 <<< k)).getLsbD f = (v.getLsbD f || decide (f = k)) := by
  rw [BitVec.getLsbD_or, BitVec.getLsbD_shiftLeft, BitVec.getLsbD_one]
  by_cases hf : f = k
  · subst hf
    simp [h]
  · rcases Nat.lt_or_gt_of_ne hf with hlt | hgt
    · simp [hf, hlt]
    · have : f - k ≠ 0 := by omega
      simp [hf, this]

theorem getCtx_setFlag (c k : Nat) (s : State) (h : k < 4096) :
    (∀ f, (getCtx (setFlag c k s) c).flags.getLsbD f = ((getCtx s c).flags.getLsbD f || decide (f = k))) ∧
      (getCtx (setFlag c k s) c).counts.flagRepeat = (if (getCtx s c).flags.getLsbD k
        then Nat.min ((getCtx s c).counts.flagRepeat + 1) 0xFFFFFFFF else (getCtx s c).counts.flagRepeat) := by
  unfold setFlag
  rw [getCtx_modCtx_self]
  split
  · rename_i isSet
    refine ⟨fun f => ?_, rfl⟩
    by_cases hf : f = k
    · rw [hf]
      simp [isSet]
    · simp [hf]
  · exact ⟨fun f => getLsbD_or_flag _ k f h, rfl⟩

/-! Homes of counters (R197, R402). -/

/-- The home exists: its Pavilion register, save slot or job is there. -/
def Homed (s : State) : TokHome → Prop
  | .run p q => (getProg s p q).isSome
  | .saved p k => ((getPav s p).saved.find? (fun v => v.slot == k)).isSome
  | .waiting c seq _ => (findJob s c seq).isSome

theorem homed_of_findRun {s : State} {c : Nat} {seq : BitVec 32} {idx p : Nat} {q : PSlot}
    (h : findRun s c seq idx = some (p, q)) : Homed s (.run p q) := by
  obtain ⟨p', -, h⟩ := List.exists_of_findSome?_eq_some h
  obtain ⟨q', -, h⟩ := List.exists_of_findSome?_eq_some h
  split at h
  · rename_i g hg
    split at h
    · cases h
      exact Option.isSome_iff_exists.mpr ⟨g, hg⟩
    · cases h
  · cases h

theorem homed_of_findSaved {s : State} {c : Nat} {seq : BitVec 32} {idx p : Nat} {v : Saved}
    (h : findSaved s c seq idx = some (p, v)) : Homed s (.saved p v.slot) := by
  obtain ⟨p', -, h⟩ := List.exists_of_findSome?_eq_some h
  obtain ⟨v', hv, h⟩ := Option.map_eq_some_iff.mp h
  cases h
  exact List.find?_isSome.mpr ⟨v, List.mem_of_find?_eq_some hv, beq_self_eq_true _⟩

theorem homed_of_progHome {s : State} {j : Job} {idx ep : Nat} {h : TokHome} (hh : progHome s j idx = some (h, ep))
    (hj : (findJob s j.ctx j.jobseq).isSome) : Homed s h := by
  unfold progHome at hh
  split at hh
  · cases hh
  · split at hh
    · rename_i p q run
      cases hh
      exact homed_of_findRun run
    · split at hh
      · rename_i p v saved
        cases hh
        exact homed_of_findSaved saved
      · split at hh
        · cases hh
        · cases hh
          exact hj

theorem homed_of_roleHolder {s : State} {c role : Nat} {first : Option (BitVec 32)} {j : Job} {h : TokHome} {ep : Nat}
    (hr : roleHolder s c role first = some (j, h, ep)) : Homed s h := by
  obtain ⟨j', hj, hr⟩ := List.exists_of_findSome?_eq_some hr
  obtain ⟨e, -, hr⟩ := List.exists_of_findSome?_eq_some hr
  have admitted : j' ∈ s.jobs := by
    rcases List.mem_append.mp hj with hj | hj <;> exact (List.mem_filter.mp (List.mem_filter.mp hj).1).1
  split at hr
  · obtain ⟨x, hx, e⟩ := Option.map_eq_some_iff.mp hr
    cases e
    exact homed_of_progHome hx (List.find?_isSome.mpr ⟨j, admitted, by simp⟩)
  · cases hr

/-- A Pavilion with a counter of a saved program set. -/
def setSavedTok (k tok n : Nat) (x : Pav) : Pav :=
  { x with saved := x.saved.map (fun e =>
      if e.slot = k then { e with prog := { e.prog with tok := tset e.prog.tok tok n } } else e) }

theorem find_setSavedTok (k tok n : Nat) (x : Pav) :
    (setSavedTok k tok n x).saved.find? (fun v => v.slot == k) =
      (x.saved.find? (fun v => v.slot == k)).map
        (fun e => if e.slot = k then { e with prog := { e.prog with tok := tset e.prog.tok tok n } } else e) := by
  unfold setSavedTok
  dsimp only
  rw [List.find?_map]
  congr 2
  funext e
  dsimp only [Function.comp]
  split <;> rfl

/-- A job with a counter of a program that has not started set. -/
def setPreTok (i tok n : Nat) (j : Job) : Job := { j with preTok := tmod j.preTok i [] (fun t => tset t tok n) }

/-- A counter that is set reads what it was set to. -/
theorem homeTok_setHomeTok {s : State} {h : TokHome} (hh : Homed s h) (tok n : Nat) :
    homeTok (setHomeTok h tok n s) h tok = n := by
  cases h with
  | run p q =>
    obtain ⟨g, hg⟩ := Option.isSome_iff_exists.mp hh
    unfold homeTok setHomeTok
    dsimp only
    rw [getProg_modProg_self, hg]
    exact tget_tset_self ..
  | saved p k =>
    obtain ⟨v, hv⟩ := Option.isSome_iff_exists.mp hh
    have slot : v.slot = k := by simpa using List.find?_some hv
    have pav : getPav (setHomeTok (.saved p k) tok n s) p = setSavedTok k tok n (getPav s p) := by
      rw [show setHomeTok (.saved p k) tok n s = modPav p (setSavedTok k tok n) s from rfl, getPav_modPav, if_pos rfl]
    unfold homeTok
    dsimp only
    rw [pav, find_setSavedTok, hv, Option.map_some, if_pos slot]
    exact tget_tset_self ..
  | waiting c seq i =>
    obtain ⟨j, hj⟩ := Option.isSome_iff_exists.mp hh
    have job : findJob (setHomeTok (.waiting c seq i) tok n s) c seq = some (setPreTok i tok n j) := by
      rw [show setHomeTok (.waiting c seq i) tok n s = modJob c seq (setPreTok i tok n) s from rfl,
        findJob_modJob_self c seq (setPreTok i tok n) s (fun _ => ⟨rfl, rfl⟩), hj, Option.map_some]
    unfold homeTok
    dsimp only
    rw [job]
    show tget (tget (tmod j.preTok i [] (fun t => tset t tok n)) i []) tok 0 = n
    rw [tmod, tget_tset_self, tget_tset_self]

/-- A counter is read off the Pavilions and the jobs. -/
theorem homeTok_congr {s t : State} (hp : t.pavs = s.pavs) (hj : t.jobs = s.jobs) (h : TokHome) (tok : Nat) :
    homeTok t h tok = homeTok s h tok := by
  cases h <;> simp only [homeTok, getProg_congr hp, getPav_congr hp, findJob, hj]

/-- Setting a counter changes Pavilions or jobs. -/
theorem setHomeTok_only (h : TokHome) (tok v : Nat) (s : State) :
    ∃ ps js, setHomeTok h tok v s = { s with pavs := ps, jobs := js } := by
  cases h with
  | run p q => exact ⟨_, s.jobs, modProg_only p q _ s⟩
  | saved p k => exact ⟨_, s.jobs, rfl⟩
  | waiting c seq i => exact ⟨s.pavs, _, rfl⟩

theorem getCtx_modCounts_self (c : Nat) (f : CtxCounts → CtxCounts) (s : State) :
    getCtx (modCounts c f s) c = { getCtx s c with counts := f (getCtx s c).counts } := getCtx_modCtx_self ..

/-! The two commands. -/

/-- COMMAND_RETIRE's part of O38. -/
theorem commandRetire_signals {s : State} {p : PavId} {q : PSlot} {num : Nat} {g : Prog} {i : Issued} (hup : Up s)
    (hg : getProg s p.val q = some g) (hh : g.halted = false) (hi : g.issued.find? (fun i => i.cmd.num == num) = some i)
    (free : retireWaits s p.val q num i = false) :
    let w := i.cmd.word.toNat
    (cSkind w = 0 → ∃ (t : State) (h : Prog), exec (.commandRetire p q num) s = .next t ∧ getProg t p.val q = some h ∧
      h = { g with issued := g.issued.filter (fun i => i.cmd.num != num) } ∧ t.ctxs = s.ctxs ∧ t.ter = s.ter ∧
      t.jobs = s.jobs ∧ t.out = s.out) ∧
    (cSkind w = 1 → tget g.tok (cStok w) 0 + tokenInc w ≤ 65535 → ∃ (t : State) (h : Prog),
      exec (.commandRetire p q num) s = .next t ∧ getProg t p.val q = some h ∧
      h.issued = g.issued.filter (fun i => i.cmd.num != num) ∧
      tget h.tok (cStok w) 0 = tget g.tok (cStok w) 0 + tokenInc w ∧
      (∀ k, k ≠ cStok w → tget h.tok k 0 = tget g.tok k 0) ∧ t.ctxs = s.ctxs ∧ t.ter = s.ter) ∧
    (cSkind w = 1 → 65535 < tget g.tok (cStok w) 0 + tokenInc w → ∀ j, findJob s g.ctx g.jobseq = some j →
      ∃ (t : State) (k : Job), exec (.commandRetire p q num) s = .next t ∧ findJob t g.ctx g.jobseq = some k ∧
        (FirstHalt s g.ctx → k.fault = some (progFault p.val g i.cmd.tpc (plainFault stTOKEN_OVF)))) ∧
    (cSkind w = 2 → (roleOf (getCtx s g.ctx) g.epoch (cSdest w)).valid = true →
      roleHere s (roleOf (getCtx s g.ctx) g.epoch (cSdest w)) = false →
      ∃ t, exec (.commandRetire p q num) s = .next t ∧ remoteToken s g w ∈ t.out) ∧
    (cSkind w = 3 → setFlagOf w i.cmd.regs < 4096 → ∃ t, exec (.commandRetire p q num) s = .next t ∧
      (∀ f, (getCtx t g.ctx).flags.getLsbD f =
        ((getCtx s g.ctx).flags.getLsbD f || decide (f = setFlagOf w i.cmd.regs))) ∧
      (getCtx t g.ctx).counts.flagRepeat = (if (getCtx s g.ctx).flags.getLsbD (setFlagOf w i.cmd.regs)
        then Nat.min ((getCtx s g.ctx).counts.flagRepeat + 1) 0xFFFFFFFF else (getCtx s g.ctx).counts.flagRepeat)) := by
  have fires := retireCmd_fires hg hi hh free
  have row : exec (.commandRetire p q num) s = live (retireCmd p.val q num) s := rfl
  have slot : getProg (setProg p.val q (some (dropIssued num g)) s) p.val q = some (dropIssued num g) :=
    getProg_setProg_self ..
  dsimp only
  refine ⟨fun none => ?none, fun token fits => ?token, fun token past j hj => ?overflow, fun remote valid away => ?remote,
    fun flag low => ?flag⟩
  case none =>
    rw [fireSignal_none none] at fires
    refine ⟨_, dropIssued num g, row.trans (live_silent hup (by rw [fires]; simp) (by rw [fires]; simp)), ?_, rfl, ?_⟩
    · rw [fires, getProg_lowerLeave, slot]
    · rw [fires]
      simp
  case token =>
    rw [fireSignal_token token slot fits] at fires
    refine ⟨_, signalled i.cmd.word.toNat (dropIssued num g),
      row.trans (live_silent hup (by rw [fires]; simp) (by rw [fires]; simp)), ?_, rfl, tget_tset_self ..,
      fun k hk => tget_tset_ne _ _ _ _ _ hk, ?_⟩
    · rw [fires, getProg_lowerLeave, getProg_setProg_self]
    · rw [fires]
      simp
  case overflow =>
    rw [fireSignal_overflow (g := dropIssued num g) token past] at fires
    have halted := halts_haltProg p.val (dropIssued num g) i.cmd.tpc (plainFault stTOKEN_OVF)
      (setProg p.val q (some (dropIssued num g)) s)
    obtain ⟨k, hk, fault⟩ := halted.job j hj
    refine ⟨_, k, row.trans (live_silent hup ?_ ?_), ?_, fault⟩
    · rw [fires, lowerLeave_out, halted.out]
      rfl
    · rw [fires, lowerLeave_pending, halted.pending]
      rfl
    · rw [fires, findJob_lowerLeave]
      exact hk
  case remote =>
    rw [fireSignal_remote (g := dropIssued num g) (s := setProg p.val q _ s) remote valid away] at fires
    refine ⟨_, row.trans (live_up _ _ hup), ?_⟩
    have sent : (effect (retireCmd p.val q num) s).out = (retireCmd p.val q num s).out := (effect_frame _ s).out
    rw [sent, fires, lowerLeave_out]
    exact List.mem_append_right _ List.mem_cons_self
  case flag =>
    rw [fireSignal_flag flag] at fires
    refine ⟨_, row.trans (live_silent hup (by rw [fires]; simp [setFlag]) (by rw [fires]; simp [setFlag])), ?_⟩
    rw [fires, getCtx_lowerLeave]
    exact getCtx_setFlag g.ctx _ (setProg p.val q (some (dropIssued num g)) s) low

/-- REMOTE_TOKEN_ARRIVAL's part of O38: at a role that a program here holds. -/
theorem remoteTokenArrival_signals {s : State} {c : CtxId} {role : Fin 4096} {re : BitVec 32} {tok : Fin 64} {inc : Fin 256}
    {sr : Fin 4096} {u : UPath} {j : Job} {h : TokHome} {ep : Nat} (hup : Up s)
    (hr : roleHolder s c.val role.val none = some (j, h, ep)) :
    let here := (roleOf (getCtx s c.val) ep role.val).repoch
    (here = re → homeTok s h tok.val + inc.val ≤ 65535 →
      ∃ t, exec (.remoteTokenArrival c role re tok inc sr u) s = .next t ∧
        homeTok t h tok.val = homeTok s h tok.val + inc.val ∧ t.ctxs = s.ctxs ∧ t.ter = s.ter ∧ t.out = s.out) ∧
    (here ≠ re → ∃ t, exec (.remoteTokenArrival c role re tok inc sr u) s = .next t ∧
      t.out = s.out ++ [.tokenBounce u c.val role.val here] ∧ homeTok t h tok.val = homeTok s h tok.val ∧
      (getCtx t c.val).counts.misroutedIn = Nat.min ((getCtx s c.val).counts.misroutedIn + 1) 0xFFFFFFFF) := by
  have row : exec (.remoteTokenArrival c role re tok inc sr u) s = live (tokenArrives c.val role.val re tok.val inc.val u) s := rfl
  dsimp only
  refine ⟨fun same fits => ?added, fun other => ?bounced⟩
  case added =>
    have arrives : tokenArrives c.val role.val re tok.val inc.val u s =
        setHomeTok h tok.val (homeTok s h tok.val + inc.val) s := by
      unfold tokenArrives addToken
      rw [hr]
      dsimp only
      rw [if_pos same, if_pos fits]
    obtain ⟨ps, js, only⟩ := setHomeTok_only h tok.val (homeTok s h tok.val + inc.val) s
    refine ⟨_, row.trans (live_silent hup (by rw [arrives, only]) (by rw [arrives, only])), ?_, ?_⟩
    · rw [arrives]
      exact homeTok_setHomeTok (homed_of_roleHolder hr) ..
    · rw [arrives, only]
      exact ⟨rfl, rfl, rfl⟩
  case bounced =>
    have arrives : tokenArrives c.val role.val re tok.val inc.val u s =
        emit (.tokenBounce u c.val role.val (roleOf (getCtx s c.val) ep role.val).repoch)
          (modCounts c.val (fun k => { k with misroutedIn := satInc k.misroutedIn }) s) := by
      unfold tokenArrives
      rw [hr]
      dsimp only
      rw [if_neg other]
    have framed := effect_frame (tokenArrives c.val role.val re tok.val inc.val u) s
    have outs : (effect (tokenArrives c.val role.val re tok.val inc.val u) s).out = _ := framed.out
    have pavs : (effect (tokenArrives c.val role.val re tok.val inc.val u) s).pavs = _ := framed.pavs
    have jobs : (effect (tokenArrives c.val role.val re tok.val inc.val u) s).jobs = _ := framed.jobs
    have ctxs : (effect (tokenArrives c.val role.val re tok.val inc.val u) s).ctxs = _ := framed.ctxs
    rw [arrives] at outs pavs jobs ctxs
    refine ⟨_, row.trans (live_up _ _ hup), outs, homeTok_congr pavs jobs h tok.val, ?_⟩
    rw [getCtx_congr ctxs, getCtx_congr (emit_ctxs _ _), getCtx_modCounts_self]
    rfl

/-- Settles O38: a command retires with the signal of its kind, and a remote token is added or bounced. -/
theorem retiredCommandsAndTokensSignal : Obligations.RetiredCommandsAndTokensSignal := by
  unfold Obligations.RetiredCommandsAndTokensSignal
  refine ⟨fun s p q num g i hup hg hh hi => ⟨fun waits => ?_, fun free => commandRetire_signals hup hg hh hi free⟩,
    fun s c role re tok inc sr u j h ep hup hr => remoteTokenArrival_signals hup hr⟩
  exact live_idle hup (retireCmd_waits hg hi waits)

end Sys2Proof.Proofs.Sequencer
end

section
/-!
PROOFS. Waits past WAIT_DL, failed passes and flipped words of a Pavilion's storage (R189, R402, R497 to R499).
-/
namespace Sys2Proof.Proofs.Sequencer
open Sys2Proof.Machine Sys2Proof.Laws Sys2Proof.Claims Sys2Proof.Proofs.Arithmetic Sys2Proof.Proofs.Attention

/-! A head that waits (R189, R402). -/

theorem timeoutHead_of_head {s : State} {p : Nat} {q : PSlot} {k : Nat} {g : Prog} {c : QCmd} {j : Job}
    (hg : liveProg s p q = some g) (hc : headOf g k = some c) (hj : findJob s g.ctx g.jobseq = some j) :
    timeoutHead p q k s = if headWait s p j g c = 0 || jobSuspended s g.ctx g.jobseq then s
      else haltProg p g c.tpc (plainFault stWAIT_TIMEOUT) s := by
  unfold timeoutHead
  rw [hg]
  dsimp only
  rw [hc, hj]

/-- WAIT_TIMEOUT's part of O39. -/
theorem waitTimeout_halts {s : State} {p : PavId} {q : PSlot} {k : Fin 5} {g : Prog} {c : QCmd} {j : Job} (hup : Up s)
    (hg : liveProg s p.val q = some g) (hc : headOf g k.val = some c) (hj : findJob s g.ctx g.jobseq = some j) :
    (headWait s p.val j g c ≠ 0 → jobSuspended s g.ctx g.jobseq = false →
      ∃ (t : State) (x : Job), exec (.waitTimeout p q k) s = .next t ∧ findJob t g.ctx g.jobseq = some x ∧
        (FirstHalt s g.ctx → x.fault = some ⟨0x3001, g.hdr.member, p.val, 255, c.tpc, 0, 0⟩ ∧
          (getCtx t g.ctx).counts.lastHalt = 0x3001) ∧ t.sys.errSts.getLsbD 16 = true ∧
        (getCtx t g.ctx).counts.halts = Nat.min ((getCtx s g.ctx).counts.halts + 1) 0xFFFFFFFF ∧
        ((getCtx s g.ctx).state = .active → (getCtx t g.ctx).state = .halted) ∧
        (∀ d, d ≠ g.ctx → getCtx t d = getCtx s d) ∧ t.ter = s.ter) ∧
    (headWait s p.val j g c = 0 ∨ jobSuspended s g.ctx g.jobseq = true → exec (.waitTimeout p q k) s = .next s) := by
  have row : exec (.waitTimeout p q k) s = live (timeoutHead p.val q k.val) s := rfl
  have step := timeoutHead_of_head hg hc hj
  refine ⟨fun waits here => ?halts, fun fine => ?stays⟩
  case halts =>
    rw [if_neg (by simp [waits, here])] at step
    have halted := halts_haltProg p.val g c.tpc (plainFault stWAIT_TIMEOUT) s
    obtain ⟨x, hx, fault⟩ := halted.job j hj
    rw [← step] at halted hx
    exact ⟨_, x, row.trans (live_silent hup halted.out halted.pending), hx, fun first => ⟨fault first, halted.last first⟩,
      halted.ctxHalt, halted.count, halted.state, halted.others, halted.ter⟩
  case stays =>
    refine row.trans (live_idle hup (step.trans (if_pos ?_)))
    rcases fine with fine | fine <;> simp [fine]

/-! The storage of a Pavilion (R497, R498). -/

/-- The row of a tile command issues the head of its queue with its meaning. -/
theorem exec_tileInstrs (p : PavId) (q : PSlot) (arr : Fin 2) : ∀ e ∈ tileInstrs p q arr, ∀ s,
    exec e.1 s = live (issueOp p.val q e.2.1 e.2.2.1 e.2.2.2) s := by
  simp only [tileInstrs, List.forall_mem_cons]
  exact ⟨fun _ => rfl, fun _ => rfl, fun _ => rfl, fun _ => rfl, fun _ => rfl, fun _ => rfl, fun _ => rfl, fun _ => rfl,
    fun _ => rfl, fun _ => rfl, fun _ => rfl, fun _ => rfl, fun _ => rfl, fun _ => rfl, fun _ => rfl, fun _ => rfl,
    fun _ => rfl, fun _ => rfl, fun _ => rfl, fun _ => rfl, List.forall_mem_nil _⟩

/-- A head that passes its checks issues on the corrected storage, or halts where a word is lost. -/
theorem issueOp_of_heads {s : State} {p : PavId} {q : PSlot} {k o : Nat} {g : Prog} {j : Job} {c : QCmd} {body : Body}
    (h : Heads s p q k o g j c) : issueOp p.val q k o body s =
      if storeLost (storeMet s p.val j g c) then datapathUe p.val g c.tpc s
      else runHead p.val q k g j c body (mendStore p.val (storeMet s p.val j g c) s) := by
  obtain ⟨-, hg, hc, hj, hh, hd, ho, hf, hw, hu, h1, h2, h3⟩ := h
  simp [issueOp, hg, hc, hj, hh, hd, ho, hf, hw, hu, h1, h2, h3]

/-- Two Pavilions with the same programs, passes and leave. -/
structure SameWork (v w : Pav) : Prop where
  progA : w.progA = v.progA
  progB : w.progB = v.progB
  passes : w.passes = v.passes
  leave : w.leave = v.leave

section
variable {s : State} {p : Nat} {ps : Tbl Pav} (same : SameWork (getPav s p) (getPav { s with pavs := ps } p))
include same

theorem SameWork.getProg (q : PSlot) : getProg { s with pavs := ps } p q = getProg s p q := by
  cases q
  · exact same.progA
  · exact same.progB

theorem SameWork.headFree (j : Job) (g : Prog) (c : QCmd) : headFree { s with pavs := ps } p j g c = headFree s p j g c := by
  unfold Machine.headFree passReady
  rw [same.passes]
  rfl

theorem SameWork.pavIssued : pavIssued { s with pavs := ps } p = pavIssued s p := by
  unfold Machine.pavIssued
  rw [same.progA, same.progB]

theorem SameWork.headWait (j : Job) (g : Prog) (c : QCmd) : headWait { s with pavs := ps } p j g c = headWait s p j g c := by
  unfold Machine.headWait issueClass busyArrays scoreClear sbUsed
  rw [same.leave, same.pavIssued]
  rfl

end

/-- Two states whose programs, passes and leave of Pavilion p agree, and that agree beside the Pavilions, have the same
heads. -/
theorem SameWork.heads {s : State} {p : PavId} {q : PSlot} {k o : Nat} {g : Prog} {j : Job} {c : QCmd} {ps : Tbl Pav}
    (same : SameWork (getPav s p.val) (getPav { s with pavs := ps } p.val)) (h : Heads s p q k o g j c) :
    Heads { s with pavs := ps } p q k o g j c := by
  obtain ⟨hup, hg, hc, hj, hh, hd, ho, hf, hw, hu, h1, h2, h3⟩ := h
  exact ⟨hup, (same.getProg q).trans hg, hc, hj, hh, hd, ho, (same.headFree j g c).trans hf, (same.headWait j g c).trans hw,
    hu, h1, h2, h3⟩

/-- The words that a command meets are gone from a Pavilion's flipped words once they are corrected. -/
def mended (hits : List (((Nat × Nat × Nat) × Nat) × Bool)) (v : Pav) : Pav :=
  { v with flips := v.flips.filter (fun f => !hits.any (fun h => h.1 == f)) }

/-- Correction changes a Pavilion's flipped words and its performance counters. -/
theorem getPav_mendStore (p : Nat) (hits : List (((Nat × Nat × Nat) × Nat) × Bool)) (s : State) :
    ∃ cs, getPav (mendStore p hits s) p = { mended hits (getPav s p) with perfCnt := cs } := by
  unfold mendStore
  split
  · rename_i none
    refine ⟨(getPav s p).perfCnt, ?_⟩
    rw [List.isEmpty_iff.mp none, mended]
    simp
  · unfold perfEvent
    rw [getPav_modPav, if_pos rfl, getPav_modPav, if_pos rfl]
    exact ⟨_, rfl⟩

theorem sameWork_mendStore (p : Nat) (hits : List (((Nat × Nat × Nat) × Nat) × Bool)) (s : State) :
    SameWork (getPav s p) (getPav (mendStore p hits s) p) := by
  obtain ⟨cs, h⟩ := getPav_mendStore p hits s
  rw [h]
  exact ⟨rfl, rfl, rfl, rfl⟩

/-- Once corrected, a command meets no flipped word. -/
theorem storeMet_mendStore (s : State) (p : Nat) (j : Job) (g : Prog) (c : QCmd) :
    storeMet (mendStore p (storeMet s p j g c) s) p j g c = [] := by
  obtain ⟨cs, h⟩ := getPav_mendStore p (storeMet s p j g c) s
  refine List.filterMap_eq_nil_iff.mpr (fun f hf => ?_)
  rw [h] at hf
  obtain ⟨hf, clear⟩ := List.mem_filter.mp hf
  rw [Option.map_eq_none_iff]
  by_contra met
  obtain ⟨m, hm⟩ := Option.ne_none_iff_exists'.mp met
  have hit : (f, m.2) ∈ storeMet s p j g c := List.mem_filterMap.mpr ⟨f, hf, by rw [hm]; rfl⟩
  simp only [Bool.not_eq_true', List.any_eq_false] at clear
  exact clear _ hit (beq_self_eq_true f)

/-- A word that cannot be corrected halts its program's context and raises TER_UE (R498). -/
theorem halts_datapathUe (p : Nat) (g : Prog) (tpc : Nat) (s : State) :
    Halts g.ctx g.jobseq (progFault p g tpc (plainFault stTERRACE_UE)) (countMarked p s) (datapathUe p g tpc s) :=
  halts_haltProg p g tpc (plainFault stTERRACE_UE) (countMarked p s)

/-- TER_UE reads 1 after such a word. -/
theorem terUe_datapathUe (p : Nat) (g : Prog) (tpc : Nat) (s : State) :
    (datapathUe p g tpc s).sys.errSts.getLsbD 4 = true := by
  rw [(halts_datapathUe p g tpc s).errs, BitVec.getLsbD_or, Bool.or_eq_true]
  exact .inl (setErr_reads ebTER_UE _ (by decide))

/-- A command whose meaning ends in such a word, after a change of Pavilions alone. -/
theorem live_datapathUe {f : State → State} {s : State} {ps : Tbl Pav} {p : Nat} {g : Prog} {tpc : Nat} {j : Job}
    (hup : s.sys.phase = .up) (hj : findJob s g.ctx g.jobseq = some j)
    (step : f s = datapathUe p g tpc { s with pavs := ps }) :
    ∃ (t : State) (k : Job), live f s = .next t ∧ findJob t g.ctx g.jobseq = some k ∧
      (FirstHalt s g.ctx → k.fault = some (progFault p g tpc (plainFault stTERRACE_UE))) ∧
      t.sys.errSts.getLsbD 4 = true ∧ t.ter = s.ter ∧ t.ext = s.ext := by
  have halted := halts_datapathUe p g tpc { s with pavs := ps }
  have ue := terUe_datapathUe p g tpc { s with pavs := ps }
  obtain ⟨k, hk, fault⟩ := halted.job_after (sameHalts_of_eq (s := s) rfl rfl rfl) hj
  rw [← step] at halted ue hk
  exact ⟨_, k, live_silent hup halted.out halted.pending, hk, fault, ue, halted.ter, halted.ext⟩

/-- The storage's part of O39: a lost word halts the context and the command has no effect. -/
theorem storeLost_halts {s : State} {p : PavId} {q : PSlot} {k o : Nat} {g : Prog} {j : Job} {c : QCmd} {body : Body}
    (h : Heads s p q k o g j c) (lost : storeLost (storeMet s p.val j g c) = true) :
    ∃ (t : State) (f : Job), live (issueOp p.val q k o body) s = .next t ∧ findJob t g.ctx g.jobseq = some f ∧
      (FirstHalt s g.ctx → f.fault = some (progFault p.val g c.tpc (plainFault stTERRACE_UE))) ∧
      t.sys.errSts.getLsbD 4 = true ∧ t.ter = s.ter ∧ t.ext = s.ext := by
  have step := issueOp_of_heads (body := body) h
  rw [if_pos lost] at step
  obtain ⟨hup, -, -, hj, -⟩ := h
  exact live_datapathUe (ps := s.pavs) hup hj step

/-- The storage's part of O39: correctable words leave the command as it is on the corrected storage. -/
theorem issue_mendStore {s : State} {p : PavId} {q : PSlot} {k o : Nat} {g : Prog} {j : Job} {c : QCmd} {body : Body}
    (h : Heads s p q k o g j c) (kept : storeLost (storeMet s p.val j g c) = false) :
    live (issueOp p.val q k o body) s = live (issueOp p.val q k o body) (mendStore p.val (storeMet s p.val j g c) s) := by
  have same := sameWork_mendStore p.val (storeMet s p.val j g c) s
  have clear := storeMet_mendStore s p.val j g c
  have here := issueOp_of_heads (body := body) h
  rw [kept, if_neg (by decide)] at here
  obtain ⟨ps, only⟩ := mendStore_pavs p.val (storeMet s p.val j g c) s
  rw [only] at same clear here ⊢
  have there := issueOp_of_heads (body := body) (same.heads h)
  rw [clear, if_neg (by decide)] at there
  have agree : issueOp p.val q k o body s = issueOp p.val q k o body { s with pavs := ps } := here.trans there.symm
  have hup : s.sys.phase = .up := h.1
  rw [live_up _ s hup, live_up _ { s with pavs := ps } hup, effect, effect, agree]

/-! The check of a pass (R499). -/

section
variable {s : State} {p : Nat} {q : PSlot} {arr : Nat} {x : Pass}
  (oldest : (getPav s p).passes.find? (fun y => y.q == q && y.arr == arr) = some x)
include oldest

/-- A pass whose check holds is done. -/
theorem checkPass_good : checkPass p q arr true s = modPav p (fun v => { v with
    passes := (getPav s p).passes.filter (fun y => !(y.q == q && y.arr == arr && y.num == x.num)) }) s := by
  unfold checkPass
  dsimp only
  rw [oldest]
  rfl

/-- A pass whose check fails before its third time is repeated. -/
theorem checkPass_repeats (few : x.fails < 2) : checkPass p q arr false s = perfEvent p 0x0B 1 (modPav p (fun v => { v with
    passes := v.passes.map (fun y => if y.q == q && y.arr == arr && y.num == x.num then { y with fails := y.fails + 1 } else y) }) s) := by
  unfold checkPass
  dsimp only
  rw [oldest]
  exact if_pos few

/-- A third failure halts the program's context, at the command of the pass. -/
theorem checkPass_third (third : 2 ≤ x.fails) {g : Prog} (hg : getProg s p q = some g) :
    ∃ (h : Prog) (tpc : Nat) (ps : Tbl Pav), h.ctx = g.ctx ∧ h.jobseq = g.jobseq ∧
      checkPass p q arr false s = datapathUe p h tpc { s with pavs := ps } := by
  have kept : getProg (modPav p (fun v => { v with
      passes := (getPav s p).passes.filter (fun y => !(y.q == q && y.arr == arr && y.num == x.num)) }) s) p q = some g := by
    rw [getProg_modPav]
    · exact hg
    · exact fun _ => ⟨rfl, rfl⟩
  unfold checkPass
  dsimp only
  rw [oldest]
  dsimp only
  rw [if_neg (by decide), if_neg (by omega), kept]
  exact ⟨_, _, _, rfl, rfl, rfl⟩

end

/-- PASS_CHECK's part of O39. -/
theorem passCheck_halts {s : State} {p : PavId} {q : PSlot} {arr : Fin 2} {x : Pass} (hup : Up s)
    (oldest : (getPav s p.val).passes.find? (fun y => y.q == q && y.arr == arr.val) = some x) :
    (∃ t, exec (.passCheck p q arr true) s = .next t ∧
      (getPav t p.val).passes = (getPav s p.val).passes.filter (fun y => !(y.q == q && y.arr == arr.val && y.num == x.num)) ∧
      t = { s with pavs := t.pavs }) ∧
    (x.fails < 2 → ∃ t, exec (.passCheck p q arr false) s = .next t ∧
      (getPav t p.val).passes = (getPav s p.val).passes.map
        (fun y => if y.q == q && y.arr == arr.val && y.num == x.num then { y with fails := y.fails + 1 } else y) ∧
      t = { s with pavs := t.pavs }) ∧
    (2 ≤ x.fails → ∀ (g : Prog) (j : Job), getProg s p.val q = some g → findJob s g.ctx g.jobseq = some j →
      ∃ (t : State) (k : Job), exec (.passCheck p q arr false) s = .next t ∧ findJob t g.ctx g.jobseq = some k ∧
        (FirstHalt s g.ctx → (k.fault.map (·.status)) = some stTERRACE_UE) ∧ t.sys.errSts.getLsbD 4 = true) := by
  have row (good : Bool) : exec (.passCheck p q arr good) s = live (checkPass p.val q arr.val good) s := rfl
  refine ⟨?done, fun few => ?again, fun third g j hg hj => ?halts⟩
  case done =>
    have step := checkPass_good oldest
    refine ⟨_, (row true).trans (live_silent hup (by rw [step]; rfl) (by rw [step]; rfl)), ?_, by rw [step]; rfl⟩
    rw [step, getPav_modPav, if_pos rfl]
  case again =>
    have step := checkPass_repeats oldest few
    refine ⟨_, (row false).trans (live_silent hup (by rw [step]; rfl) (by rw [step]; rfl)), ?_, by rw [step]; rfl⟩
    rw [step, passes_perfEvent, getPav_modPav, if_pos rfl]
  case halts =>
    obtain ⟨h, tpc, ps, hctx, hseq, step⟩ := checkPass_third oldest third hg
    rw [← hctx, ← hseq] at hj
    obtain ⟨t, k, ht, hk, fault, ue, -⟩ := live_datapathUe (f := checkPass p.val q arr.val false) hup hj step
    rw [hctx, hseq] at hk
    rw [hctx] at fault
    exact ⟨t, k, (row false).trans ht, hk, fun first => by rw [fault first]; rfl, ue⟩

/-- Settles O39: a head that waits, a word of storage and a third failed pass halt their contexts through halts_haltProg. -/
theorem waitsAndPassesHaltTheContext : Obligations.WaitsAndPassesHaltTheContext := by
  unfold Obligations.WaitsAndPassesHaltTheContext
  refine ⟨fun s p q k g c j hup hg hc hj => waitTimeout_halts hup hg hc hj,
    fun s p q arr i k o body g j c member h => ?_, fun s p q arr x hup oldest => passCheck_halts hup oldest⟩
  have row := exec_tileInstrs p q arr (i, k, o, body) member
  rw [row, row]
  exact ⟨storeLost_halts h, issue_mendStore h⟩

end Sys2Proof.Proofs.Sequencer
end

section
/-!
PROOFS. What a tile command may reach (R184, R205): neither another context, nor another Pavilion, nor the other program of
its own, nor a byte outside its context's regions.
-/
namespace Sys2Proof.Proofs.Sequencer
open Sys2Proof.Machine Sys2Proof.Laws Sys2Proof.Claims Sys2Proof.Proofs.Arithmetic Sys2Proof.Proofs.Attention

/-! Steps that change neither contexts nor jobs nor Pavilions. -/

/-- From s to t no context, job, Pavilion or byte of the Terrace changes, and no time passes. -/
structure Quiet (s t : State) : Prop where
  mem : t.ter.mem = s.ter.mem
  ctxs : t.ctxs = s.ctxs
  jobs : t.jobs = s.jobs
  pavs : t.pavs = s.pavs
  phase : t.sys.phase = s.sys.phase
  time : t.sys.time = s.sys.time

theorem chains_quiet : Chains Quiet where
  refl _ := ⟨rfl, rfl, rfl, rfl, rfl, rfl⟩
  trans h g := ⟨g.mem.trans h.mem, g.ctxs.trans h.ctxs, g.jobs.trans h.jobs, g.pavs.trans h.pavs, g.phase.trans h.phase,
    g.time.trans h.time⟩

theorem quiet_of_fill {s t : State} (h : FillFrame s t) : Quiet s t := ⟨h.mem, h.ctxs, h.jobs, h.pavs, h.phase, h.time⟩

theorem quiet_of_link {s t : State} (h : LinkFrame s t) : Quiet s t :=
  ⟨h.terMem, h.ctxs, h.jobs, h.pavs, congrArg Sys.phase h.sys, congrArg Sys.time h.sys⟩

theorem quiet_eccTouch (ws : List (Nat × Nat)) (s : State) : Quiet s (eccTouch ws s) := by
  have phase := (eccTouch_keeps ws s).2
  obtain ⟨sys, ter, h, time, mem⟩ := eccTouch_only ws s
  rw [h] at phase ⊢
  exact ⟨mem, rfl, rfl, rfl, phase, time⟩

theorem quiet_terRead (s : State) (c off n : Nat) : Quiet s (terRead s c off n).1 := by
  unfold terRead
  split
  · exact chains_quiet.refl s
  · dsimp only
    split <;> exact quiet_eccTouch _ s

theorem quiet_terReadTags (s : State) (c off n : Nat) : Quiet s (terReadTags s c off n).1 := by
  unfold terReadTags
  split
  · exact chains_quiet.refl s
  · dsimp only
    generalize s.ter.flips.filter _ = fs
    have both := chains_quiet.trans (quiet_eccTouch fs s) (quiet_terRead (eccTouch fs s) c off n)
    split
    · rename_i h
      rw [h] at both
      split <;> exact both
    · exact both

theorem quiet_descLookup (seq : Nat) (s : State) : Quiet s (descLookup seq s) := by
  obtain ⟨ds, hs, ms, h⟩ := Sys2Proof.Proofs.Attention.descLookup_only seq s
  rw [h]
  exact ⟨rfl, rfl, rfl, rfl, rfl, rfl⟩

theorem readsKeep_quiet : ReadsKeep Quiet where
  chains := chains_quiet
  ext s c priv space a n := quiet_of_fill (fillFrame_extRead s c priv space a n)
  ter := quiet_terRead
  tags := quiet_terReadTags
  look := quiet_descLookup

theorem quiet_terMark (ws : List Nat) (s : State) : Quiet s (terMark ws s) := by
  unfold terMark
  generalize ws.filter _ = ws
  induction ws generalizing s with
  | nil => exact chains_quiet.refl s
  | cons w ws ih =>
    rw [List.foldl_cons]
    refine chains_quiet.trans ?_ (ih _)
    exact ⟨rfl, rfl, rfl, rfl, rfl, rfl⟩

theorem quiet_extWrite (s : State) (c : Nat) (priv : Bool) (space a : Nat) (bs : List Byte) (pw : List Nat) (cached : Bool) :
    Quiet s (extWrite s c priv space a bs pw cached).1 := by
  unfold extWrite
  split
  · exact ⟨rfl, rfl, rfl, rfl, rfl, rfl⟩
  · exact quiet_of_link ((frame_extPut space a bs pw cached s).trans (frame_mQueue true c priv space a bs.length _))

/-- What a command sends goes out without a change of these. -/
theorem quiet_effect (f : State → State) (s : State) : Quiet (f s) (effect f s) := by
  have framed := effect_frame f s
  exact ⟨framed.terMem, framed.ctxs, framed.jobs, framed.pavs, congrArg Sys.phase framed.sys, congrArg Sys.time framed.sys⟩

/-! What a program of a context may reach. -/

/-- From s to t the program in slot q of Pavilion p, of context c, changes neither another context, nor another Pavilion,
nor the other program, nor a byte outside its context's regions; it halts nothing and no job goes. -/
structure Confined (c p : Nat) (q : PSlot) (s t : State) : Prop where
  region : RegionFrame c s t
  ctxs : ∀ d, d ≠ c → getCtx t d = getCtx s d
  state : (getCtx t c).state = (getCtx s c).state
  haltNow : (getCtx t c).haltNow = (getCtx s c).haltNow
  time : t.sys.time = s.sys.time
  slot : getProg t p (otherSlot q) = getProg s p (otherSlot q)
  pavs : ∀ d, d ≠ p → getPav t d = getPav s d
  jobs : ∀ a seq, (findJob s a seq).isSome → (findJob t a seq).isSome

section
variable {c p : Nat} {q : PSlot} {s t : State}

theorem chains_confined (c p : Nat) (q : PSlot) : Chains (Confined c p q) where
  refl s := ⟨(chains_regionFrame c).refl s, fun _ _ => rfl, rfl, rfl, rfl, rfl, fun _ _ => rfl, fun _ _ h => h⟩
  trans h g := ⟨(chains_regionFrame c).trans h.region g.region, fun d hd => (g.ctxs d hd).trans (h.ctxs d hd),
    g.state.trans h.state, g.haltNow.trans h.haltNow, g.time.trans h.time, g.slot.trans h.slot,
    fun d hd => (g.pavs d hd).trans (h.pavs d hd), fun a seq hj => g.jobs a seq (h.jobs a seq hj)⟩

theorem findJob_congr (h : t.jobs = s.jobs) (a : Nat) (seq : BitVec 32) : findJob t a seq = findJob s a seq := by
  unfold findJob
  rw [h]

/-- A change of the context's own bytes in the Terrace. -/
theorem confined_of_region (region : RegionFrame c s t) (ctxs : t.ctxs = s.ctxs) (jobs : t.jobs = s.jobs)
    (pavs : t.pavs = s.pavs) (time : t.sys.time = s.sys.time) : Confined c p q s t where
  region := region
  ctxs d _ := getCtx_congr ctxs d
  state := by rw [getCtx_congr ctxs]
  haltNow := by rw [getCtx_congr ctxs]
  time := time
  slot := getProg_congr pavs ..
  pavs d _ := getPav_congr pavs d
  jobs a seq h := by rw [findJob_congr jobs]; exact h

theorem confined_of_quiet (h : Quiet s t) : Confined c p q s t :=
  confined_of_region (regionFrame_of_mem (by rw [getCtx_congr h.ctxs]) h.mem h.phase) h.ctxs h.jobs h.pavs h.time

/-- A change of the program's Pavilion that keeps the other program. -/
theorem confined_of_pavs {ps : Tbl Pav} (slot : getProg { s with pavs := ps } p (otherSlot q) = getProg s p (otherSlot q))
    (pavs : ∀ d, d ≠ p → getPav { s with pavs := ps } d = getPav s d) : Confined c p q s { s with pavs := ps } :=
  ⟨regionFrame_of_mem rfl rfl rfl, fun _ _ => rfl, rfl, rfl, rfl, slot, pavs, fun _ _ h => h⟩

theorem confined_modPav (f : Pav → Pav) (hf : ∀ v, (f v).progA = v.progA ∧ (f v).progB = v.progB) (s : State) :
    Confined c p q s (modPav p f s) :=
  confined_of_pavs (getProg_modPav p p (otherSlot q) f s hf) (fun d hd => (getPav_modPav p d f s).trans (if_neg hd))

theorem otherSlot_ne (q : PSlot) : otherSlot q ≠ q := by
  cases q <;> decide

theorem confined_setProg (g : Option Prog) (s : State) : Confined c p q s (setProg p q g s) :=
  confined_of_pavs (getProg_setProg_other p q _ g s (otherSlot_ne q)) (fun d hd => getPav_setProg_ne p d q g s hd)

theorem confined_modProg (f : Prog → Prog) (s : State) : Confined c p q s (modProg p q f s) := by
  unfold modProg
  split
  · exact (chains_confined c p q).refl s
  · exact confined_setProg _ s

/-- A change of the context that keeps its regions and what a halt reads. -/
theorem confined_modCtx (f : Ctx → Ctx)
    (hf : ∀ x, (f x).regions = x.regions ∧ (f x).state = x.state ∧ (f x).haltNow = x.haltNow) (s : State) :
    Confined c p q s (modCtx c f s) := by
  obtain ⟨regions, state, haltNow⟩ := hf (getCtx s c)
  have own : getCtx (modCtx c f s) c = f (getCtx s c) := getCtx_modCtx_self ..
  refine ⟨regionFrame_of_mem ?_ rfl rfl, fun d hd => getCtx_modCtx_ne c d f s hd, ?_, ?_, rfl, rfl, fun _ _ => rfl,
    fun _ _ h => h⟩
  · rw [own, regions]
  · rw [own, state]
  · rw [own, haltNow]

/-- A job that keeps its context and number is found as before. -/
theorem findJob_modJob_isSome (c : Nat) (seq : BitVec 32) (f : Job → Job) (s : State)
    (hf : ∀ j : Job, (f j).ctx = j.ctx ∧ (f j).jobseq = j.jobseq) (a : Nat) (b : BitVec 32) (h : (findJob s a b).isSome) :
    (findJob (modJob c seq f s) a b).isSome := by
  obtain ⟨j, hj, key⟩ := List.find?_isSome.mp h
  refine List.find?_isSome.mpr ⟨_, List.mem_map_of_mem hj, ?_⟩
  split
  · rw [(hf j).1, (hf j).2]
    exact key
  · exact key

theorem confined_modJob (d : Nat) (seq : BitVec 32) (f : Job → Job)
    (hf : ∀ j : Job, (f j).ctx = j.ctx ∧ (f j).jobseq = j.jobseq) (s : State) : Confined c p q s (modJob d seq f s) :=
  ⟨regionFrame_of_mem rfl rfl rfl, fun _ _ => rfl, rfl, rfl, rfl, rfl, fun _ _ => rfl, findJob_modJob_isSome d seq f s hf⟩

/-! Events that are counted (R51, R512). -/

theorem confined_addEvent (seq : BitVec 32) (e : EvKey) (s : State) : Confined c p q s (addEvent c seq e s) := by
  have hC := chains_confined c p q
  unfold addEvent
  refine hC.trans ?_ (confined_modJob _ _ _ (fun j => ?_) _)
  · have logged := confined_modCtx (c := c) (p := p) (q := q)
      (fun x => { x with log := logInsert x.log e, logTotal := satInc x.logTotal }) (fun _ => ⟨rfl, rfl, rfl⟩) s
    split
    · exact hC.trans logged (confined_modCtx _ (by exact fun _ => ⟨rfl, rfl, rfl⟩) _)
    · exact logged
  · split <;> exact ⟨rfl, rfl⟩

theorem confined_kioskQueue (n : Nat) (s : State) : Confined c p q s (kioskQueue p n s) := by
  unfold kioskQueue
  split
  · exact (chains_confined c p q).refl s
  · exact confined_modPav _ (by exact fun _ => ⟨rfl, rfl⟩) s

theorem confined_countEvents (seq : BitVec 32) (member tpc : Nat) (es : List Ev) (s : State) :
    Confined c p q s (countEvents c seq member p tpc es s) := by
  have hC := chains_confined c p q
  unfold countEvents addEvents
  refine hC.trans ?_ (confined_kioskQueue es.length _)
  generalize es.map _ = ks
  induction ks generalizing s with
  | nil => exact hC.refl s
  | cons k ks ih => exact hC.trans (confined_addEvent seq k s) (ih _)

/-! Issue. -/

theorem confined_perfEvent (ev n : Nat) (s : State) : Confined c p q s (perfEvent p ev n s) :=
  confined_modPav _ (by exact fun _ => ⟨rfl, rfl⟩) s

theorem confined_issueStart (s : State) (k : Nat) (g : Prog) (j : Job) (x : QCmd) :
    Confined c p q s (issueStart s p q k g j x) :=
  (chains_confined c p q).trans (confined_setProg _ s) (confined_perfEvent 0x0A 1 _)

/-- A command's writes undone (R189, R200): the registers and contexts stay as its reads have left them. -/
theorem confined_undoBody (h : Confined c p q s t) : Confined c p q s (undoBody s t) :=
  ⟨regionFrame_of_mem h.region.regions rfl h.region.phase, h.ctxs, h.state, h.haltNow, h.time, rfl, fun _ _ => rfl,
    fun _ _ hj => hj⟩

theorem Confined.sameHalts (h : Confined c p q s t) (seq : BitVec 32) : SameHalts c seq s t :=
  ⟨h.time, h.haltNow, h.state, h.jobs c seq⟩

end

/-! What a meaning may reach. -/

/-- From s to t a meaning keeps to its reach, and its program runs on. -/
structure TileFrame (e : Env) (s t : State) : Prop where
  confined : Confined e.g.ctx e.p e.q s t
  prog : ∀ g, getProg s e.p e.q = some g → ∃ h, getProg t e.p e.q = some h ∧ RunsAs g h

section
variable {e : Env}

theorem chains_tileFrame (e : Env) : Chains (TileFrame e) where
  refl s := ⟨(chains_confined ..).refl s, fun g hg => ⟨g, hg, ⟨rfl, rfl, rfl, rfl, rfl⟩⟩⟩
  trans a b := ⟨(chains_confined ..).trans a.confined b.confined, fun g hg => by
    obtain ⟨h, hh, runs⟩ := a.prog g hg
    obtain ⟨k, hk, runs'⟩ := b.prog h hh
    exact ⟨k, hk, runs.trans runs'⟩⟩

/-- What keeps to its reach and leaves the programs. -/
theorem tileFrame_of_confined {s t : State} (h : Confined e.g.ctx e.p e.q s t)
    (kept : getProg t e.p e.q = getProg s e.p e.q) : TileFrame e s t :=
  ⟨h, fun g hg => ⟨g, kept.trans hg, ⟨rfl, rfl, rfl, rfl, rfl⟩⟩⟩

theorem tileFrame_of_quiet {s t : State} (h : Quiet s t) : TileFrame e s t :=
  tileFrame_of_confined (confined_of_quiet h) (getProg_congr h.pavs ..)

theorem readsKeep_tileFrame (e : Env) : ReadsKeep (TileFrame e) where
  chains := chains_tileFrame e
  ext s c priv space a n := tileFrame_of_quiet (readsKeep_quiet.ext s c priv space a n)
  ter s c off n := tileFrame_of_quiet (readsKeep_quiet.ter s c off n)
  tags s c off n := tileFrame_of_quiet (readsKeep_quiet.tags s c off n)
  look seq s := tileFrame_of_quiet (readsKeep_quiet.look seq s)

theorem tileFrame_modProg {f : Prog → Prog} (hf : ∀ g, RunsAs g (f g)) (s : State) : TileFrame e s (modProg e.p e.q f s) :=
  ⟨confined_modProg f s, fun g hg => ⟨f g, by rw [getProg_modProg_self, hg]; rfl, hf g⟩⟩

theorem keeps_tile_modify {f : Prog → Prog} (hf : ∀ g, RunsAs g (f g)) : Keeps (TileFrame e) (e.modify f) :=
  keeps_modifyThe _ (tileFrame_modProg hf)

theorem tileFrame_modJob {d : Nat} {seq : BitVec 32} {f : Job → Job}
    (hf : ∀ j : Job, (f j).ctx = j.ctx ∧ (f j).jobseq = j.jobseq) (s : State) : TileFrame e s (modJob d seq f s) :=
  tileFrame_of_confined (confined_modJob d seq f hf s) rfl

theorem tileFrame_modPav {f : Pav → Pav} (hf : ∀ v, (f v).progA = v.progA ∧ (f v).progB = v.progB) (s : State) :
    TileFrame e s (modPav e.p f s) :=
  tileFrame_of_confined (confined_modPav f hf s) (getProg_modPav e.p e.p e.q f s hf)

theorem tileFrame_modCtx {f : Ctx → Ctx}
    (hf : ∀ x, (f x).regions = x.regions ∧ (f x).state = x.state ∧ (f x).haltNow = x.haltNow) (s : State) :
    TileFrame e s (modCtx e.g.ctx f s) :=
  tileFrame_of_confined (confined_modCtx f hf s) rfl

/-! Single writes. -/

theorem tileFrame_terWrite (s : State) (off : Nat) (bs : List Byte) (tags : List (BitVec 2)) :
    TileFrame e s (terWrite s e.g.ctx off bs tags).1 := by
  have region := regionFrame_terWrite s e.g.ctx off bs tags
  rcases terWrite_cases s e.g.ctx off bs tags with ⟨-, h⟩ | ⟨-, h⟩
  · rw [h] at region ⊢
    exact tileFrame_of_confined (confined_of_region region rfl rfl rfl rfl) rfl
  · rw [h]
    exact (chains_tileFrame e).refl s

theorem tileFrame_terAdd (s : State) (off : Nat) (xs : List AEl) : TileFrame e s (terAdd s e.g.ctx off xs).1 := by
  have region := regionFrame_terAdd s e.g.ctx off xs
  have touched (ws : List (Nat × Nat)) := quiet_eccTouch ws s
  exact tileFrame_of_confined (confined_of_region region (touched _).ctxs (touched _).jobs (touched _).pavs (touched _).time)
    (getProg_congr (touched _).pavs ..)

theorem tileFrame_terAccum (s : State) (off : Nat) (xs : List AEl) : TileFrame e s (terAccum s e.g.ctx off xs).1 := by
  rcases terAccum_cases s e.g.ctx off xs with h | h
  · rw [h]
    exact (chains_tileFrame e).refl s
  · rw [h]
    exact tileFrame_terAdd s off xs

theorem tileFrame_markBad (d off n : Nat) (bad : List Int) (s : State) : TileFrame e s (markBad d off n bad s) :=
  tileFrame_of_quiet (quiet_terMark _ s)

theorem tileFrame_extWrite (s : State) (d : Nat) (priv : Bool) (space a : Nat) (bs : List Byte) (pw : List Nat)
    (cached : Bool) : TileFrame e s (extWrite s d priv space a bs pw cached).1 :=
  tileFrame_of_quiet (quiet_extWrite s d priv space a bs pw cached)

theorem tileFrame_setFlag (f : Nat) (s : State) : TileFrame e s (setFlag e.g.ctx f s) :=
  tileFrame_modCtx (fun x => by split <;> exact ⟨rfl, rfl, rfl⟩) s

theorem tileFrame_noteOut (d : Nat) (seq : BitVec 32) (x : Stream) (vs : List XV) (s : State) :
    TileFrame e s (noteOut d seq x vs s) := by
  unfold noteOut
  split
  · exact (chains_tileFrame e).refl s
  · split
    · exact (chains_tileFrame e).refl s
    · exact tileFrame_modJob (by exact fun _ => ⟨rfl, rfl⟩) s

theorem tileFrame_takeCseq (dma : Bool) (lid : Nat) (s : State) : TileFrame e s (takeCseq (e.writer dma) lid s).2 := by
  unfold takeCseq
  split
  · exact (chains_tileFrame e).refl s
  · rename_i g hg
    refine ⟨confined_setProg _ s, fun h hh => ⟨_, getProg_setProg_self .., ?_⟩⟩
    obtain rfl := Option.some.inj (hg.symm.trans hh)
    exact ⟨rfl, rfl, rfl, rfl, rfl⟩

/-! Writes of streams. -/

theorem keeps_tile_landChunk {dma : Bool} {x : Stream} {acc plot : Bool} {p : LPart} {off : Nat} {bs : List Byte}
    {tags : List (BitVec 2)} {bad : List Int} : Keeps (TileFrame e) (landChunk (e.writer dma) x acc plot p off bs tags bad) := by
  have hR := chains_tileFrame e
  unfold landChunk
  dsimp only
  have landed (f : Ctx → Ctx) (k : Nat)
      (hf : ∀ y, (f y).regions = y.regions ∧ (f y).state = y.state ∧ (f y).haltNow = y.haltNow) :
      Keeps (TileFrame e)
        (modify (fun s => setFlag (e.writer dma).ctx k (modCtx (e.writer dma).ctx f s)) >>= fun _ => (pure [] : Eff (List Nat))) :=
    keeps_bind hR (keeps_modify _ (fun s => hR.trans (tileFrame_modCtx hf s) (tileFrame_setFlag ..))) (fun _ => keeps_pure hR _)
  refine keeps_get_set hR (fun s => tileFrame_takeCseq dma p.lid s)
    (fun s => keeps_guard hR (keeps_ite (keeps_ite (keeps_ite ?added ?written) ?outside) ?sent))
  case added =>
    exact keeps_bind hR (keeps_liftStep hR _ _ (fun s => tileFrame_terAccum ..)) (fun _ => landed _ _ (fun _ => ⟨rfl, rfl, rfl⟩))
  case written =>
    refine keeps_bind hR (keeps_liftStep hR _ _ (fun s => tileFrame_terWrite ..)) (fun _ => ?_)
    exact keeps_bind hR (keeps_modifyThe _ (fun s => tileFrame_markBad ..)) (fun _ => landed _ _ (fun _ => ⟨rfl, rfl, rfl⟩))
  case outside =>
    exact keeps_get_set hR (fun s => tileFrame_extWrite ..)
      (fun s => keeps_guard hR (landed _ _ (fun _ => ⟨rfl, rfl, rfl⟩)))
  case sent =>
    refine keeps_get_then (fun s => ?_)
    split
    · exact hR.refl s
    · split
      · exact hR.refl s
      · exact tileFrame_of_quiet ⟨rfl, rfl, rfl, rfl, rfl, rfl⟩

theorem keeps_tile_landWrite {dma : Bool} {x : Stream} {acc : Bool} {sp : WSpan} :
    Keeps (TileFrame e) (landWrite (e.writer dma) x acc sp) := by
  have hR := chains_tileFrame e
  exact keeps_bind hR (keeps_get hR) (fun s => keeps_ite (keeps_eachThenRaise hR _ (fun c => keeps_tile_landChunk))
    (keeps_then_pure hR (keeps_mapM hR _ (fun c => keeps_tile_landChunk))))

theorem keeps_tile_spanWrite {dma : Bool} {x : Stream} {sp : WSpan} :
    Keeps (TileFrame e) (spanWrite (e.writer dma) x sp) := by
  have hR := chains_tileFrame e
  unfold spanWrite
  dsimp only
  split
  · exact keeps_then_pure hR (keeps_liftStep hR _ _ (fun s => tileFrame_terWrite ..))
  · exact keeps_tile_landWrite
  · exact keeps_get_set hR (fun s => tileFrame_extWrite ..) (fun s => keeps_ite (keeps_pure hR _) (keeps_raise hR _))

theorem keeps_tile_streamWrite {dma : Bool} {x : Stream} {sps : List WSpan} :
    Keeps (TileFrame e) (streamWrite (e.writer dma) x sps) :=
  keeps_then_pure (chains_tileFrame e) (keeps_mapM (chains_tileFrame e) _ (fun _ => keeps_tile_spanWrite))

theorem keeps_tile_streamAccum {dma : Bool} {x : Stream} {sps : List WSpan} :
    Keeps (TileFrame e) (streamAccum (e.writer dma) x sps) := by
  have hR := chains_tileFrame e
  refine keeps_eachThenRaise hR _ (fun sp => ?_)
  split
  · exact keeps_tile_landWrite
  · exact keeps_then_pure hR (keeps_liftStep hR _ _ (fun s => tileFrame_terAccum ..))

theorem keeps_tile_writeTo {x : Option Stream} {r0 col0 : Nat} {rows : List (List XV)} :
    Keeps (TileFrame e) (writeTo e x r0 col0 rows) := by
  have hR := chains_tileFrame e
  unfold writeTo
  split
  · exact keeps_pure hR _
  · exact keeps_bind hR keeps_tile_streamWrite (fun _ => keeps_then_pure hR (keeps_modify _ (fun s => tileFrame_noteOut ..)))

end

end Sys2Proof.Proofs.Sequencer
end

section
/-!
PROOFS. Every tile command keeps to its reach (R178, R184, R205): the meanings one by one.
-/
namespace Sys2Proof.Proofs.Sequencer
open Sys2Proof.Machine Sys2Proof.Laws Sys2Proof.Claims Sys2Proof.Proofs.Arithmetic Sys2Proof.Proofs.Attention

section
variable {e : Env}

/-! Commands that write results. -/

theorem keeps_tile_countMaskedRows {rows : List Nat} : Keeps (TileFrame e) (countMaskedRows e rows) :=
  keeps_modifyThe _ (fun s => tileFrame_modJob (by exact fun _ => ⟨rfl, rfl⟩) s)

theorem keeps_tile_gradWrite {x : Stream} {r0 : Nat} {rows : List (List CV)} :
    Keeps (TileFrame e) (gradWrite e x r0 rows) :=
  keeps_then_pure (chains_tileFrame e) keeps_tile_writeTo

theorem keeps_tile_finalise {x : Stream} {qt : Nat} {lse : Bool} {rows : List FinRow} :
    Keeps (TileFrame e) (finalise e x qt lse rows) := by
  have hR := chains_tileFrame e
  have hK := readsKeep_tileFrame e
  exact keeps_bind hR keeps_tile_countMaskedRows (fun _ => keeps_bind hR hK.optRows (fun _ =>
    keeps_bind hR hK.optRows (fun _ => keeps_bind hR keeps_tile_writeTo (fun _ =>
      keeps_bind hR keeps_tile_writeTo (fun _ => keeps_then_pure hR keeps_tile_writeTo)))))

theorem keeps_tile_epiBody : Keeps (TileFrame e) (epiBody e) := by
  have hR := chains_tileFrame e
  have hK := readsKeep_tileFrame e
  unfold epiBody
  dsimp only
  split
  · exact keeps_raise hR _
  · refine keeps_ite (keeps_bind hR hK.outRows (fun _ => keeps_tile_gradWrite)) (keeps_ite (keeps_pure hR _) ?_)
    exact keeps_bind hR hK.outputRows (fun _ => keeps_tile_finalise)

theorem keeps_tile_accwBody : Keeps (TileFrame e) (accwBody e) := by
  have hR := chains_tileFrame e
  have hK := readsKeep_tileFrame e
  unfold accwBody
  dsimp only
  split
  · exact keeps_raise hR _
  · exact keeps_bind hR hK.prog (fun _ => keeps_bind hR hK.outRows (fun _ => keeps_then_pure hR keeps_tile_streamAccum))

theorem keeps_tile_partBody : Keeps (TileFrame e) (partBody e) := by
  have hR := chains_tileFrame e
  have hK := readsKeep_tileFrame e
  exact keeps_ite (keeps_pure hR _) (keeps_bind hR hK.prog (fun _ => keeps_bind hR hK.outRows (fun _ =>
    keeps_then_pure hR keeps_tile_writeTo)))

theorem keeps_tile_combBody : Keeps (TileFrame e) (combBody e) := by
  have hR := chains_tileFrame e
  have hK := readsKeep_tileFrame e
  unfold combBody
  dsimp only
  split
  · refine keeps_ite (keeps_pure hR _) (keeps_bind hR hK.streamRows (fun _ => keeps_bind hR hK.streamRows (fun _ => ?_)))
    exact keeps_ite (keeps_then_pure hR keeps_tile_finalise) (keeps_then_pure hR keeps_tile_writeTo)
  · exact keeps_raise hR _

theorem keeps_tile_finBody : Keeps (TileFrame e) (finBody e) := by
  have hR := chains_tileFrame e
  have hK := readsKeep_tileFrame e
  unfold finBody
  dsimp only
  split
  · refine keeps_bind hR (keeps_mapM hR _ (fun _ => hK.rowWords)) (fun _ => ?_)
    refine keeps_ite (keeps_bind hR (keeps_mapM hR _ (fun _ => hK.rowScalar)) (fun _ =>
      keeps_optional hR keeps_tile_countMaskedRows ?_)) ?_ <;> exact keeps_then_pure hR keeps_tile_gradWrite
  · exact keeps_raise hR _

theorem keeps_tile_zeroRows {x : Option Stream} {r0 : Nat} : Keeps (TileFrame e) (zeroRows e x r0) := by
  unfold zeroRows
  split
  · exact keeps_pure (chains_tileFrame e) _
  · exact keeps_tile_streamWrite

theorem keeps_tile_dproBody : Keeps (TileFrame e) (dproBody e) := by
  have hR := chains_tileFrame e
  have hK := readsKeep_tileFrame e
  unfold dproBody
  dsimp only
  refine keeps_bind hR keeps_tile_zeroRows (fun _ => ?_)
  split
  · refine keeps_bind hR (keeps_mapM hR _ (fun _ => keeps_ite ?_ (keeps_pure hR _)))
      (fun _ => keeps_then_pure hR keeps_tile_writeTo)
    exact keeps_bind hR hK.checkedRow (fun _ => keeps_then_pure hR hK.checkedRow)
  · exact keeps_pure hR _

theorem keeps_tile_rowpBody : Keeps (TileFrame e) (rowpBody e) := by
  have hR := chains_tileFrame e
  have hK := readsKeep_tileFrame e
  unfold rowpBody
  dsimp only
  split
  · refine keeps_then_pure hR (keeps_mapM hR _ (fun _ => ?_))
    exact keeps_bind hR hK.streamRows (fun _ => keeps_bind hR hK.optRows (fun _ => keeps_bind hR hK.optRows (fun _ =>
      keeps_then_pure hR keeps_tile_writeTo)))
  · exact keeps_raise hR _

theorem keeps_tile_maxcBody : Keeps (TileFrame e) (maxcBody e) := by
  have hR := chains_tileFrame e
  have hK := readsKeep_tileFrame e
  exact keeps_bind hR (keeps_mapM hR _ (fun _ => hK.streamRows)) (fun _ => keeps_bind hR keeps_tile_writeTo (fun _ =>
    keeps_bind hR (keeps_tile_modify (by exact fun _ => ⟨rfl, rfl, rfl, rfl, rfl⟩)) (fun _ => keeps_pure hR _)))

/-! PREF (R258, R501). -/

theorem keeps_tile_copyWrite {y : Stream} {off : Nat} {c : Copied} : Keeps (TileFrame e) (copyWrite e y off c) := by
  have hR := chains_tileFrame e
  unfold copyWrite
  dsimp only
  split
  · refine keeps_bind hR (keeps_liftStep hR _ _ (fun s => tileFrame_terWrite ..)) (fun _ => ?_)
    exact keeps_then_pure hR (keeps_modifyThe _ (fun s => tileFrame_markBad ..))
  · exact keeps_bind hR (keeps_get hR) (fun s => keeps_then_pure hR (keeps_mapM hR _ (fun _ =>
      keeps_then_pure hR (keeps_mapM hR _ (fun _ => keeps_tile_landChunk)))))
  · exact keeps_get_set hR (fun s => tileFrame_extWrite ..) (fun s => keeps_ite (keeps_pure hR _) (keeps_raise hR _))

theorem tileFrame_beginXfers (n : Nat) (s : State) : TileFrame e s (beginXfers n s) :=
  tileFrame_of_quiet ⟨rfl, rfl, rfl, rfl, rfl, rfl⟩

theorem keeps_tile_copyPlots {x y : Stream} {r0 n : Nat} : Keeps (TileFrame e) (copyPlots e x y r0 n) := by
  have hR := chains_tileFrame e
  have hK := readsKeep_tileFrame e
  unfold copyPlots
  dsimp only
  refine keeps_then_pure hR (keeps_mapM hR _ (fun b => ?_))
  refine keeps_ite (keeps_bind hR (keeps_modifyThe _ (fun s => hR.trans (hK.look _ s) (tileFrame_beginXfers ..))) (fun _ =>
    keeps_bind hR hK.plotOf (fun _ => keeps_bind hR hK.copyOutside (fun c => ?_))))
    (keeps_bind hR (keeps_pure hR _) (fun c => ?_))
  all_goals
    refine keeps_ite (keeps_bind hR (keeps_get hR) (fun s => ?_)) keeps_tile_copyWrite
    exact keeps_then_pure hR (keeps_mapM hR _ (fun _ =>
      keeps_then_pure hR (keeps_mapM hR _ (fun _ => keeps_tile_landChunk))))

theorem keeps_tile_prefBody : Keeps (TileFrame e) (prefBody e) := by
  have hR := chains_tileFrame e
  have hK := readsKeep_tileFrame e
  unfold prefBody
  dsimp only
  split
  · refine keeps_ite (keeps_then_pure hR keeps_tile_copyPlots) (keeps_ite ?whole ?units)
    case whole => exact keeps_bind hR hK.copyRead (fun _ => keeps_then_pure hR keeps_tile_copyWrite)
    case units =>
      exact keeps_then_pure hR (keeps_mapM hR _ (fun _ => keeps_bind hR hK.copyRead (fun _ => keeps_tile_copyWrite)))
  · exact keeps_raise hR _

/-! LOAD and MMA. -/

/-- A tile enters operand buffers, and the program runs on. -/
theorem runsAs_enterTile (w : Nat) (x : Stream) (o : OpTile) (g : Prog) : RunsAs g ((loadArrays w).foldl (fun g a =>
    if bit w 98 then { g with fifo := tset g.fifo a (tget g.fifo a [] ++ [o]) }
    else { g with resident := tset g.resident a ((tget g.resident a []).filter (fun y => y.use != x.use) ++ [o]) }) g) := by
  induction loadArrays w generalizing g with
  | nil => exact ⟨rfl, rfl, rfl, rfl, rfl⟩
  | cons a l ih =>
    rw [List.foldl_cons]
    refine RunsAs.trans ?_ (ih _)
    split <;> exact ⟨rfl, rfl, rfl, rfl, rfl⟩

theorem tileFrame_lookups (seq : Nat) (bs : List Nat) (s : State) :
    TileFrame e s (bs.foldl (fun s _ => descLookup seq s) s) := by
  induction bs generalizing s with
  | nil => exact (chains_tileFrame e).refl s
  | cons b bs ih => exact (chains_tileFrame e).trans ((readsKeep_tileFrame e).look seq s) (ih _)

theorem keeps_tile_loadBody : Keeps (TileFrame e) (loadBody e) := by
  have hR := chains_tileFrame e
  have hK := readsKeep_tileFrame e
  unfold loadBody
  dsimp only
  split
  · exact keeps_raise hR _
  · refine keeps_optional hR (keeps_modifyThe _ (fun s => tileFrame_lookups ..))
      (keeps_bind hR (keeps_mapM hR _ (fun _ => keeps_then_pure hR hK.rowVals)) (fun rows => ?_))
    split
    · exact keeps_raise hR _
    · exact keeps_then_pure hR (keeps_tile_modify (runsAs_enterTile _ _ _))

theorem keeps_tile_operand {arr grid src fe tr : Nat} {isB : Bool} : Keeps (TileFrame e) (operand e arr grid src fe tr isB) := by
  have hR := chains_tileFrame e
  refine keeps_bind hR (readsKeep_tileFrame e).prog (fun g => ?_)
  match src with
  | 0 => exact keeps_pure hR _
  | 1 => exact keeps_then_pure hR (keeps_tile_modify (by exact fun _ => ⟨rfl, rfl, rfl, rfl, rfl⟩))
  | _ + 2 =>
    rcases feedCheck e.j.desc g fe with _ | f
    · exact keeps_pure hR _
    · exact keeps_raise hR _

theorem tileFrame_perfEvent (ev n : Nat) (s : State) : TileFrame e s (perfEvent e.p ev n s) :=
  tileFrame_modPav (by exact fun _ => ⟨rfl, rfl⟩) s

theorem keeps_tile_mmaBody : Keeps (TileFrame e) (mmaBody e) := by
  have hR := chains_tileFrame e
  have hK := readsKeep_tileFrame e
  refine keeps_bind hR keeps_tile_operand (fun a => keeps_bind hR keeps_tile_operand (fun b => ?_))
  refine keeps_ite (keeps_raise hR _) (keeps_bind hR hK.prog (fun g => ?_))
  refine keeps_bind hR (keeps_tile_modify (by exact fun _ => ⟨rfl, rfl, rfl, rfl, rfl⟩)) (fun _ => keeps_bind hR hK.prog (fun g2 => ?_))
  refine keeps_bind hR (keeps_modifyThe _ (fun s => tileFrame_modPav (by exact fun _ => ⟨rfl, rfl⟩) s)) (fun _ => ?_)
  refine keeps_bind hR (keeps_modifyThe _ (fun s => tileFrame_modJob (by exact fun _ => ⟨rfl, rfl⟩) s)) (fun _ => ?_)
  exact keeps_then_pure hR (keeps_modifyThe _ (fun s => tileFrame_perfEvent ..))

/-! DRAIN (R58, R95, R514). -/

theorem keeps_tile_maskBits {i : Nat} : Keeps (TileFrame e) (maskBits e i) := by
  have hR := chains_tileFrame e
  unfold maskBits
  split
  · exact keeps_pure hR _
  · exact keeps_then_pure hR (readsKeep_tileFrame e).streamRead

theorem keeps_tile_drainScores {arr acc kt : Nat} : Keeps (TileFrame e) (drainScores e arr acc kt) := by
  have hR := chains_tileFrame e
  have hK := readsKeep_tileFrame e
  refine keeps_bind hR hK.prog (fun g => keeps_mapM hR _ (fun r => ?_))
  refine keeps_ite (keeps_bind hR keeps_tile_maskBits (fun _ => ?_)) (keeps_bind hR (keeps_pure hR _) (fun _ => ?_))
  all_goals exact keeps_ite (keeps_then_pure hR hK.rowScalar) (keeps_bind hR (keeps_pure hR _) (fun _ => keeps_pure hR _))

theorem keeps_tile_noteDump {kt : Nat} : Keeps (TileFrame e) (noteDump e kt) := by
  have hR := chains_tileFrame e
  refine keeps_ite (keeps_bind hR (keeps_filterM hR _ (fun i => ?_)) (fun _ => keeps_tile_countMaskedRows)) (keeps_pure hR _)
  exact keeps_then_pure hR (readsKeep_tileFrame e).rowOpen

theorem keeps_tile_noteLambda {kt : Nat} {lams : List XV} : Keeps (TileFrame e) (noteLambda e kt lams) :=
  keeps_ite keeps_tile_countMaskedRows (keeps_pure (chains_tileFrame e) _)

theorem keeps_tile_drainFwd {dm arr acc fe kt : Nat} : Keeps (TileFrame e) (drainFwd e dm arr acc fe kt) := by
  have hR := chains_tileFrame e
  refine keeps_bind hR keeps_tile_drainScores (fun sc => keeps_bind hR keeps_tile_writeTo (fun w =>
    keeps_optional hR keeps_tile_noteDump (keeps_ite (keeps_pure hR _)
      (keeps_bind hR (readsKeep_tileFrame e).prog (fun g => ?_)))))
  exact keeps_bind hR (keeps_tile_modify (by exact fun _ => ⟨rfl, rfl, rfl, rfl, rfl⟩)) (fun _ =>
    keeps_then_pure hR keeps_tile_writeTo)

theorem keeps_tile_drainP {arr acc fe kt : Nat} : Keeps (TileFrame e) (drainP e arr acc fe kt) := by
  have hR := chains_tileFrame e
  refine keeps_bind hR keeps_tile_drainScores (fun sc => keeps_bind hR keeps_tile_noteLambda (fun _ => ?_))
  exact keeps_then_pure hR (keeps_tile_modify (by exact fun _ => ⟨rfl, rfl, rfl, rfl, rfl⟩))

theorem keeps_tile_drainDs {arr acc fe kt : Nat} : Keeps (TileFrame e) (drainDs e arr acc fe kt) := by
  have hR := chains_tileFrame e
  unfold drainDs
  dsimp only
  refine keeps_bind hR (readsKeep_tileFrame e).prog (fun g => ?_)
  split
  · exact keeps_raise hR _
  · refine keeps_bind hR (keeps_mapM hR _ (fun r => keeps_then_pure hR (readsKeep_tileFrame e).rowScalar)) (fun ds => ?_)
    exact keeps_then_pure hR (keeps_tile_modify (by exact fun _ => ⟨rfl, rfl, rfl, rfl, rfl⟩))

theorem keeps_tile_drainBody : Keeps (TileFrame e) (drainBody e) := by
  have hR := chains_tileFrame e
  refine keeps_bind hR (keeps_modifyThe _ (fun s => tileFrame_perfEvent ..)) (fun _ => ?_)
  split
  · exact keeps_tile_drainP
  · exact keeps_tile_drainDs
  · exact keeps_tile_drainFwd

/-! Commands that set the sequencer's state (R179, R186, R187, R197). -/

theorem keeps_tile_setqBody : Keeps (TileFrame e) (setqBody e) :=
  keeps_then_pure (chains_tileFrame e) (keeps_tile_modify (by exact fun _ => ⟨rfl, rfl, rfl, rfl, rfl⟩))

theorem keeps_tile_zaccBody : Keeps (TileFrame e) (zaccBody e) :=
  keeps_then_pure (chains_tileFrame e) (keeps_tile_modify (by exact fun _ => ⟨rfl, rfl, rfl, rfl, rfl⟩))

theorem keeps_tile_flagclrBody : Keeps (TileFrame e) (flagclrBody e) :=
  keeps_then_pure (chains_tileFrame e) (keeps_modifyThe _ (fun s => tileFrame_modCtx (by exact fun _ => ⟨rfl, rfl, rfl⟩) s))

theorem keeps_tile_noBody : Keeps (TileFrame e) (noBody e) := keeps_pure (chains_tileFrame e) _

end

/-- Credits that a program grants change windows, fill marks, the epochs of landing entries and what is sent. -/
theorem epochGrants_only (c role ep : Nat) (s : State) : ∃ ws us pr os, epochGrants c role ep s =
    { s with ter := { s.ter with windows := ws, unfilled := us }, prom := pr, out := os } := by
  have granted (lid cur ep : Nat) (s : State) : ∃ ws us os, grantEntry c lid cur ep s =
      { s with ter := { s.ter with windows := ws, unfilled := us }, out := os } := by
    unfold grantEntry
    dsimp only
    split
    · exact ⟨s.ter.windows, s.ter.unfilled, s.out, rfl⟩
    · split <;> exact ⟨_, _, _, rfl⟩
  have entered (lid ep : Nat) (s : State) : ∃ ws pr, enterEntry c lid ep s =
      { s with ter := { s.ter with windows := ws }, prom := pr } := by
    unfold enterEntry
    dsimp only
    split <;> exact ⟨_, _, rfl⟩
  unfold epochGrants
  induction ownedLids s c role generalizing s with
  | nil => exact ⟨s.ter.windows, s.ter.unfilled, s.prom, s.out, rfl⟩
  | cons lid l ih =>
    rw [List.foldl_cons]
    dsimp only
    obtain ⟨ws, pr, he⟩ := entered lid ep s
    rw [he]
    obtain ⟨ws', us', os', hg⟩ := granted lid ep (ep + nbufOf (tget (getCtx s c).landing lid Landing.absent) - 1)
      { s with ter := { s.ter with windows := ws }, prom := pr }
    rw [hg]
    obtain ⟨ws'', us'', pr'', os'', h⟩ := ih { s with ter := { s.ter with windows := ws', unfilled := us' }, prom := pr, out := os' }
    exact ⟨ws'', us'', pr'', os'', h⟩

section
variable {e : Env}

theorem tileFrame_epoch (c role ep src type ctx pav status a b : Nat) (s : State) :
    TileFrame e s (traceEv src type ctx pav status a b (epochGrants c role ep s)) := by
  obtain ⟨ws, us, pr, os, h⟩ := epochGrants_only c role ep s
  obtain ⟨r, hr⟩ := Sys2Proof.Proofs.Architecture.traceEv_only src type ctx pav status a b (epochGrants c role ep s)
  rw [hr, h]
  exact tileFrame_of_quiet ⟨rfl, rfl, rfl, rfl, rfl, rfl⟩

theorem keeps_tile_epochBody : Keeps (TileFrame e) (epochBody e) := by
  have hR := chains_tileFrame e
  refine keeps_bind hR (keeps_get hR) (fun s => keeps_ite (keeps_raise hR _) ?_)
  refine keeps_bind hR (keeps_tile_modify (by exact fun _ => ⟨rfl, rfl, rfl, rfl, rfl⟩)) (fun _ => ?_)
  exact keeps_then_pure hR (keeps_modifyThe _ (fun s => tileFrame_epoch ..))

theorem tileFrame_lowerLeave (s : State) : TileFrame e s (lowerLeave e.p s) := by
  have pavs (d : Nat) (hd : d ≠ e.p) : getPav (lowerLeave e.p s) d = getPav s d := (getPav_lowerLeave ..).trans (if_neg hd)
  have progs (q : PSlot) := getProg_lowerLeave e.p s e.p q
  obtain ⟨ps, pw, h⟩ := lowerLeave_only e.p s
  rw [h] at pavs progs ⊢
  exact tileFrame_of_confined
    ⟨regionFrame_of_mem rfl rfl rfl, fun _ _ => rfl, rfl, rfl, rfl, progs _, pavs, fun _ _ hj => hj⟩ (progs _)

theorem keeps_tile_leaveBody : Keeps (TileFrame e) (leaveBody e) := by
  have hR := chains_tileFrame e
  refine keeps_bind hR (keeps_tile_modify (by exact fun _ => ⟨rfl, rfl, rfl, rfl, rfl⟩)) (fun _ => ?_)
  refine keeps_then_pure hR (keeps_modifyThe _ (fun s => ?_))
  split
  · exact tileFrame_lowerLeave s
  · exact tileFrame_modPav (by exact fun _ => ⟨rfl, rfl⟩) s

end

/-- The meaning of every tile command keeps to its reach. -/
theorem tileInstrs_keep (p : PavId) (q : PSlot) (arr : Fin 2) :
    ∀ i ∈ tileInstrs p q arr, ∀ e, Keeps (TileFrame e) (i.2.2.2 e) := by
  simp only [tileInstrs, List.forall_mem_cons]
  exact ⟨fun _ => keeps_tile_loadBody, fun _ => keeps_tile_mmaBody, fun _ => keeps_tile_drainBody,
    fun _ => keeps_tile_epiBody, fun _ => keeps_tile_accwBody, fun _ => keeps_tile_partBody, fun _ => keeps_tile_combBody,
    fun _ => keeps_tile_maxcBody, fun _ => keeps_tile_finBody, fun _ => keeps_tile_setqBody, fun _ => keeps_tile_dproBody,
    fun _ => keeps_tile_rowpBody, fun _ => keeps_tile_prefBody, fun _ => keeps_tile_zaccBody, fun _ => keeps_tile_flagclrBody,
    fun _ => keeps_tile_noBody, fun _ => keeps_tile_noBody, fun _ => keeps_tile_noBody, fun _ => keeps_tile_epochBody,
    fun _ => keeps_tile_leaveBody, List.forall_mem_nil _⟩

end Sys2Proof.Proofs.Sequencer
end

section
/-!
PROOFS. Every tile command at the head of its queue issues, or halts its context with its fault (R181, R184, R189, R205).
-/
namespace Sys2Proof.Proofs.Sequencer
open Sys2Proof.Machine Sys2Proof.Laws Sys2Proof.Claims Sys2Proof.Proofs.Arithmetic Sys2Proof.Proofs.Attention

section
variable {s s2 : State} {p : PavId} {q : PSlot} {k o : Nat} {g : Prog} {j : Job} {c : QCmd} {body : Body}

/-- A ready head whose meaning succeeds: its chunks are noted and its events counted. -/
theorem issueOp_ok {evs : List Ev} {stags : List Nat} (hr : Ready s p q k o g j c)
    (hm : Meaning s p q k g j c body = (.ok (evs, stags), s2)) : issueOp p.val q k o body s =
      countEvents g.ctx g.jobseq g.hdr.member p.val c.tpc evs (modProg p.val q (noteChunks c.num stags) s2) := by
  obtain ⟨⟨-, hg, hc, hj, hh, hd, ho, hf, hw, hu, h1, h2, h3⟩, h4⟩ := hr
  exact (issueOp_runs p.val q k o body s g c j hg hc hj hh hd ho hf hw hu h1 h2 h3 h4).trans
    (runHead_ok p.val q k g j c body s s2 evs stags hm)

/-- What a command that meets a fault leaves, before its context halts: an ACCW's writes stand. -/
def faultLeaves (s s2 : State) (p : PavId) (q : PSlot) (k : Nat) (g : Prog) (j : Job) (c : QCmd) : State :=
  modProg p.val q (dropIssued c.num)
    (if cOpc c.word.toNat = oACCW then s2 else undoBody (issueStart s p.val q k g j c) s2)

theorem issueOp_error {f : RFault} (hr : Ready s p q k o g j c) (hm : Meaning s p q k g j c body = (.error f, s2)) :
    issueOp p.val q k o body s = haltProg p.val g c.tpc f (faultLeaves s s2 p q k g j c) := by
  obtain ⟨⟨-, hg, hc, hj, hh, hd, ho, hf, hw, hu, h1, h2, h3⟩, h4⟩ := hr
  exact (issueOp_runs p.val q k o body s g c j hg hc hj hh hd ho hf hw hu h1 h2 h3 h4).trans
    (runHead_error p.val q k g j c body s s2 f hm)

/-- Leaving its queue does not move a program to another context. -/
theorem ctx_headTaken (s : State) (k : Nat) (g : Prog) (j : Job) (c : QCmd) : (headTaken s k g j c).ctx = g.ctx :=
  (headTaken_keeps s k g j c).2.2

/-- What a meaning that keeps to its reach has done when it ends. -/
theorem tileFrame_meaning {r : Except RFault (List Ev × List Nat)} (hk : ∀ e, Keeps (TileFrame e) (body e))
    (hm : Meaning s p q k g j c body = (r, s2)) :
    Confined g.ctx p.val q (issueStart s p.val q k g j c) s2 ∧
      ∃ h, getProg s2 p.val q = some h ∧ RunsAs (headTaken s k g j c) h := by
  have frame := hk ⟨p.val, q, headTaken s k g j c, j, c⟩ (issueStart s p.val q k g j c)
  have after : ((body ⟨p.val, q, headTaken s k g j c, j, c⟩).exec (issueStart s p.val q k g j c)).2 = s2 :=
    congrArg Prod.snd hm
  rw [after] at frame
  have confined : Confined (headTaken s k g j c).ctx p.val q (issueStart s p.val q k g j c) s2 := frame.confined
  rw [ctx_headTaken] at confined
  exact ⟨confined, frame.prog _ (getProg_issueStart ..)⟩

/-- A ready command whose meaning keeps to its reach and succeeds issues, and keeps to its reach. -/
theorem tile_issues {evs : List Ev} {stags : List Nat} (hr : Ready s p q k o g j c) (hk : ∀ e, Keeps (TileFrame e) (body e))
    (hm : (Meaning s p q k g j c body).1 = .ok (evs, stags)) :
    ∃ (t : State) (h : Prog), live (issueOp p.val q k o body) s = .next t ∧ IssuedIn t p q k g h c stags ∧
      Confined g.ctx p.val q s t := by
  rcases hrun : Meaning s p q k g j c body with ⟨r, s2⟩
  rw [hrun] at hm
  dsimp only at hm
  subst hm
  obtain ⟨t, hex, hprog, -⟩ := live_issueOp_ok hr hrun
  obtain ⟨confined, h, hh, runs⟩ := tileFrame_meaning hk hrun
  have ends := issueOp_ok hr hrun
  rw [hh] at hprog
  obtain ⟨⟨hup, -, -, -, fresh, -⟩, -⟩ := hr
  refine ⟨t, _, hex, issuedIn_noteChunks hprog runs fresh, ?_⟩
  have hC := chains_confined g.ctx p.val q
  have whole : Confined g.ctx p.val q s (issueOp p.val q k o body s) := by
    rw [ends]
    exact hC.trans (confined_issueStart s k g j c) (hC.trans confined
      (hC.trans (confined_modProg _ _) (confined_countEvents ..)))
  rw [live_up _ _ hup] at hex
  obtain rfl := Host.Outcome.next.inj hex
  exact hC.trans whole (confined_of_quiet (quiet_effect _ s))

/-- A ready command whose meaning keeps to its reach and meets a fault halts its context with it. -/
theorem tile_halts {f : RFault} (hr : Ready s p q k o g j c) (hk : ∀ e, Keeps (TileFrame e) (body e))
    (hm : (Meaning s p q k g j c body).1 = .error f) :
    ∃ (t : State) (x : Job), live (issueOp p.val q k o body) s = .next t ∧ findJob t g.ctx g.jobseq = some x ∧
      (FirstHalt s g.ctx → x.fault = some (progFault p.val g c.tpc f) ∧ (getCtx t g.ctx).counts.lastHalt = f.status) ∧
      ((getCtx s g.ctx).state = .active → (getCtx t g.ctx).state = .halted) ∧
      (∀ a, OutsideRegions s g.ctx a → memByte t.ter.mem a = memByte s.ter.mem a) ∧
      (∀ d, d ≠ g.ctx → getCtx t d = getCtx s d) := by
  rcases hrun : Meaning s p q k g j c body with ⟨r, s2⟩
  rw [hrun] at hm
  dsimp only at hm
  subst hm
  have ends := issueOp_error hr hrun
  obtain ⟨meant, -⟩ := tileFrame_meaning hk hrun
  obtain ⟨⟨hup, -, -, hj, -⟩, -⟩ := hr
  have hC := chains_confined g.ctx p.val q
  have before : Confined g.ctx p.val q s (faultLeaves s s2 p q k g j c) := by
    refine hC.trans (hC.trans (confined_issueStart s k g j c) ?_) (confined_modProg _ _)
    split
    · exact meant
    · exact confined_undoBody meant
  have halted := halts_haltProg p.val g c.tpc f (faultLeaves s s2 p q k g j c)
  obtain ⟨x, hx, fault⟩ := halted.job_after (before.sameHalts g.jobseq) hj
  rw [← ends] at halted hx
  have framed := quiet_effect (issueOp p.val q k o body) s
  have ctxs := getCtx_congr framed.ctxs
  refine ⟨_, x, live_up _ _ hup, ?_, fun first => ⟨fault first, ?_⟩, fun active => ?_, fun a ha => ?_, fun d hd => ?_⟩
  · rw [findJob_congr framed.jobs]
    exact hx
  · rw [ctxs]
    exact halted.last ((before.sameHalts g.jobseq).first first)
  · rw [ctxs]
    exact halted.state (before.state.trans active)
  · rw [framed.mem, halted.ter]
    exact before.region.mem a ha
  · rw [ctxs, halted.others d hd, before.ctxs d hd]

end

/-- Settles O40: every meaning keeps to its reach, so its command issues or halts its context within it. -/
theorem everyTileCommandIssues : Obligations.EveryTileCommandIssues := by
  unfold Obligations.EveryTileCommandIssues
  intro s p q arr g j c e member hr
  have row := exec_tileInstrs p q arr e member s
  have keeps := tileInstrs_keep p q arr e member
  refine ⟨fun evs stags hm => ?_, fun f hm => ?_⟩
  · obtain ⟨t, h, hex, issued, confined⟩ := tile_issues hr keeps hm
    exact ⟨t, h, row.trans hex, issued, confined.region.mem, confined.ctxs, confined.slot, confined.pavs⟩
  · obtain ⟨t, x, hex, rest⟩ := tile_halts hr keeps hm
    exact ⟨t, x, row.trans hex, rest⟩

end Sys2Proof.Proofs.Sequencer
end

section
/-!
PROOFS. The commands that set the sequencer's state (R178, R179, R186, R187, R197, R198): what each leaves, beside that it has
issued.
-/
namespace Sys2Proof.Proofs.Sequencer
open Sys2Proof.Machine Sys2Proof.Laws Sys2Proof.Claims Sys2Proof.Proofs.Arithmetic Sys2Proof.Proofs.Attention

/-! The Pavilion of a command without events and chunks. -/

/-- Two Pavilions with the same programs, passes, leave and request of leave. -/
structure SamePav (v w : Pav) : Prop where
  work : SameWork v w
  leaveReq : w.leaveReq = v.leaveReq

theorem noteChunks_nil (num : Nat) (g : Prog) : noteChunks num [] g = g := by
  unfold noteChunks
  simp

/-- A program put where it stands. -/
theorem getPav_modProg_id {s : State} {p : Nat} {q : PSlot} {f : Prog → Prog} (hf : ∀ g, f g = g) :
    getPav (modProg p q f s) p = getPav s p := by
  unfold modProg
  split
  · rfl
  · rename_i g hg
    rw [hf, setProg, getPav_modPav, if_pos rfl]
    cases q <;> rw [← hg] <;> rfl

theorem samePav_kioskQueue (p n : Nat) (s : State) : SamePav (getPav s p) (getPav (kioskQueue p n s) p) := by
  unfold kioskQueue
  split
  · exact ⟨⟨rfl, rfl, rfl, rfl⟩, rfl⟩
  · rw [getPav_modPav, if_pos rfl]
    exact ⟨⟨rfl, rfl, rfl, rfl⟩, rfl⟩

section
variable {s s2 : State} {p : PavId} {q : PSlot} {k o : Nat} {g : Prog} {j : Job} {c : QCmd} {body : Body}

/-- A ready command without events and chunks leaves what its meaning has left. -/
theorem issueOp_control (hr : Ready s p q k o g j c) (hm : Meaning s p q k g j c body = (.ok ([], []), s2)) :
    ∃ ps, issueOp p.val q k o body s = { s2 with pavs := ps } ∧
      SamePav (getPav s2 p.val) (getPav { s2 with pavs := ps } p.val) := by
  have ends := issueOp_ok hr hm
  have same := samePav_kioskQueue p.val 0 (modProg p.val q (noteChunks c.num []) s2)
  obtain ⟨ps, only⟩ := kioskQueue_only p.val 0 (modProg p.val q (noteChunks c.num []) s2)
  have queued : issueOp p.val q k o body s = { s2 with pavs := ps } := by
    refine ends.trans (only.trans ?_)
    rw [modProg_only]
  refine ⟨ps, queued, ?_⟩
  rw [getPav_modProg_id (noteChunks_nil c.num), only, modProg_only] at same
  exact same

/-- Such a command issues where its meaning sends nothing and its program runs on. -/
theorem control_issues {h : Prog} (hr : Ready s p q k o g j c)
    (hm : Meaning s p q k g j c body = (.ok ([], []), s2)) (hh : getProg s2 p.val q = some h)
    (runs : RunsAs (headTaken s k g j c) h) (out : s2.out = s.out) (pending : s2.pending = s.pending) :
    ∃ ps, live (issueOp p.val q k o body) s = .next { s2 with pavs := ps } ∧
      IssuedIn { s2 with pavs := ps } p q k g h c [] ∧ SamePav (getPav s2 p.val) (getPav { s2 with pavs := ps } p.val) := by
  obtain ⟨ps, queued, same⟩ := issueOp_control hr hm
  obtain ⟨⟨hup, -, -, -, fresh, -⟩, -⟩ := hr
  have stands : getProg { s2 with pavs := ps } p.val q = some (noteChunks c.num [] h) := by
    rw [noteChunks_nil]
    exact (same.work.getProg q).trans hh
  refine ⟨ps, ?_, ?_, same⟩
  · rw [live_silent hup (by rw [queued]; exact out) (by rw [queued]; exact pending), queued]
  · rw [← noteChunks_nil c.num h]
    exact issuedIn_noteChunks stands runs fresh

/-- Leave and its request as the issue finds them. -/
theorem leave_issueStart (s : State) (p : Nat) (q : PSlot) (k : Nat) (g : Prog) (j : Job) (c : QCmd) :
    (getPav (issueStart s p q k g j c) p).leave = (getPav s p).leave ∧
      (getPav (issueStart s p q k g j c) p).leaveReq = (getPav s p).leaveReq := by
  unfold issueStart perfEvent setProg
  rw [getPav_modPav, if_pos rfl, getPav_modPav, if_pos rfl]
  cases q <;> exact ⟨rfl, rfl⟩

theorem leave_modProg (s : State) (p : Nat) (q : PSlot) (f : Prog → Prog) :
    (getPav (modProg p q f s) p).leave = (getPav s p).leave ∧
      (getPav (modProg p q f s) p).leaveReq = (getPav s p).leaveReq := by
  unfold modProg
  split
  · exact ⟨rfl, rfl⟩
  · rw [setProg, getPav_modPav, if_pos rfl]
    cases q <;> exact ⟨rfl, rfl⟩

/-- The program of an issued command that has changed by f. -/
theorem getProg_modProg_issueStart (f : Prog → Prog) :
    getProg (modProg p.val q f (issueStart s p.val q k g j c)) p.val q = some (f (headTaken s k g j c)) := by
  rw [getProg_modProg_self, getProg_issueStart, Option.map_some]

/-- A command whose whole meaning is a change of its program. -/
theorem modify_issues {f : Prog → Prog} (hr : Ready s p q k o g j c)
    (hm : Meaning s p q k g j c body = (.ok ([], []), modProg p.val q f (issueStart s p.val q k g j c)))
    (hf : ∀ h, RunsAs h (f h)) :
    ∃ t, live (issueOp p.val q k o body) s = .next t ∧ IssuedIn t p q k g (f (headTaken s k g j c)) c [] ∧
      t.ter = s.ter ∧ t.ctxs = s.ctxs := by
  have only := modProg_only p.val q f (issueStart s p.val q k g j c)
  obtain ⟨ps, hex, issued, -⟩ := control_issues hr hm (getProg_modProg_issueStart f) (hf _) (by rw [only]; rfl) (by rw [only]; rfl)
  refine ⟨_, hex, issued, ?_, ?_⟩ <;> rw [only] <;> rfl

/-! SETQ, ZACC, FLAGCLR (R178, R179, R186). -/

/-- The entries that a filter of keys keeps. -/
theorem tget_filter {α : Type} (t : Tbl α) (keep : Nat → Bool) (i : Nat) (d : α) :
    tget (t.filter (fun e => keep e.1)) i d = if keep i then tget t i d else d := by
  unfold tget
  rw [lookup_filter]
  split <;> rfl

theorem setq_issues (hr : Ready s p q 2 oSETQ g j c) :
    let w := c.word.toNat
    let qt := (tref w c.regs).toNat
    ∃ (t : State) (h : Prog), exec (.setq p q) s = .next t ∧ IssuedIn t p q 2 g h c [] ∧
      (h.qtile = qt ∧ (bit w 88 = true → ∀ r, r < j.desc.q → rowState h (qt * j.desc.q + r) = RowState.init) ∧
        (bit w 88 = false → h.rsu = g.rsu)) ∧ h.acc = g.acc ∧ h.feed = g.feed ∧ t.ter = s.ter ∧ t.ctxs = s.ctxs := by
  obtain ⟨t, hex, issued, ter, ctxs⟩ := modify_issues (body := setqBody) hr rfl (by exact fun _ => ⟨rfl, rfl, rfl, rfl, rfl⟩)
  have kept := sameTiles_headTaken s 2 g j c
  refine ⟨t, _, hex, issued, ⟨rfl, fun reset r hr => ?_, fun keeps => ?_⟩, kept.acc, kept.feed, ter, ctxs⟩
  · have inside : (tref c.word.toNat c.regs).toNat * j.desc.q + r < ((tref c.word.toNat c.regs).toNat + 1) * j.desc.q := by
      rw [Nat.add_mul, Nat.one_mul]
      omega
    unfold rowState Env.w
    dsimp only
    rw [if_pos reset]
    refine (tget_filter _ (fun x => !(decide ((tref c.word.toNat c.regs).toNat * j.desc.q ≤ x) &&
      decide (x < ((tref c.word.toNat c.regs).toNat + 1) * j.desc.q))) _ _).trans (if_neg ?_)
    simpa using inside
  · unfold Env.w
    dsimp only
    rw [if_neg (by simp [keeps])]
    exact kept.rsu

theorem zacc_issues {arr : Fin 2} (hr : Ready s p q arr.val oZACC g j c) :
    let w := c.word.toNat
    ∃ (t : State) (h : Prog), exec (.zacc p q arr) s = .next t ∧ IssuedIn t p q arr.val g h c [] ∧
      (∀ k, tget h.acc k [] = if 16 * queueOf w + bits w 65 4 ≤ k ∧ k < 16 * queueOf w + bits w 65 4 + (bits w 69 4 + 1)
        then [] else tget g.acc k []) ∧ h.feed = g.feed ∧ h.rsu = g.rsu ∧ t.ter = s.ter ∧ t.ctxs = s.ctxs := by
  obtain ⟨t, hex, issued, ter, ctxs⟩ := modify_issues (body := zaccBody) hr rfl (by exact fun _ => ⟨rfl, rfl, rfl, rfl, rfl⟩)
  have kept := sameTiles_headTaken s arr.val g j c
  refine ⟨t, _, hex, issued, fun k => ?_, kept.feed, kept.rsu, ter, ctxs⟩
  refine (tget_filter _ (fun x => !(decide (16 * queueOf c.word.toNat + bits c.word.toNat 65 4 ≤ x) &&
    decide (x < 16 * queueOf c.word.toNat + bits c.word.toNat 65 4 + (bits c.word.toNat 69 4 + 1)))) k []).trans ?_
  rw [kept.acc]
  split <;> split <;> simp_all

theorem getLsbD_and_not_flag (v : BitVec 4096) (k f : Nat) (h : k < 4096) :
    (v &&& ~~~(1#4096 <<< k)).getLsbD f = (v.getLsbD f && decide (f ≠ k)) := by
  rw [BitVec.getLsbD_and, BitVec.getLsbD_not, BitVec.getLsbD_shiftLeft, BitVec.getLsbD_one]
  by_cases hf : f < 4096
  · rcases Nat.lt_trichotomy f k with hlt | rfl | hgt
    · simp [hf, hlt, Nat.ne_of_lt hlt]
    · simp [hf]
    · have : f - k ≠ 0 := by omega
      simp [hf, Nat.ne_of_gt hgt, this]
  · rw [BitVec.getLsbD_of_ge v f (by omega)]
    rfl

/-- The flag that a FLAGCLR names passes the checks of R200. -/
theorem clrFlag_lt_of_cmdAt {d : Desc} {img : Stream → Bool} {w qt : Nat} {r : List Nat} (ho : cOpc w = oFLAGCLR)
    (h : cmdAt d img w r qt = true) : clrFlag w r < 4096 := by
  simp only [cmdAt, Bool.and_eq_true] at h
  obtain ⟨⟨⟨⟨⟨⟨-, -⟩, flag⟩, -⟩, -⟩, -⟩, -⟩ := h
  rw [ho] at flag
  exact of_decide_eq_true flag

theorem flagclr_issues (hr : Ready s p q 4 oFLAGCLR g j c) :
    ∃ (t : State) (h : Prog), exec (.flagclr p q) s = .next t ∧ IssuedIn t p q 4 g h c [] ∧
      (∀ f, (getCtx t g.ctx).flags.getLsbD f =
        ((getCtx s g.ctx).flags.getLsbD f && decide (f ≠ clrFlag c.word.toNat c.regs))) ∧ t.ter = s.ter ∧ h.acc = g.acc := by
  have low : clrFlag c.word.toNat c.regs < 4096 := by
    obtain ⟨⟨-, -, -, -, -, -, ho, -, -, -, -, at_, -⟩, -⟩ := hr
    exact clrFlag_lt_of_cmdAt ho at_
  have cleared : Meaning s p q 4 g j c flagclrBody =
      (.ok ([], []), clearFlag g.ctx (clrFlag c.word.toNat c.regs) (issueStart s p.val q 4 g j c)) := by
    rw [← ctx_headTaken s 4 g j c]
    rfl
  obtain ⟨ps, hex, issued, -⟩ := control_issues hr cleared (getProg_issueStart ..) ⟨rfl, rfl, rfl, rfl, rfl⟩ rfl rfl
  refine ⟨_, _, hex, issued, fun f => ?_, rfl, (sameTiles_headTaken s 4 g j c).acc⟩
  have own : getCtx (clearFlag g.ctx (clrFlag c.word.toNat c.regs) (issueStart s p.val q 4 g j c)) g.ctx =
      { getCtx s g.ctx with flags := (getCtx s g.ctx).flags &&& ~~~(1#4096 <<< clrFlag c.word.toNat c.regs) } :=
    getCtx_modCtx_self ..
  exact (congrArg (fun x => x.flags.getLsbD f) own).trans (getLsbD_and_not_flag _ _ f low)

/-! TOKADD, WAIT and LOOP (R181, R183, R184). -/

theorem noBody_issues (hr : Ready s p q k o g j c) :
    ∃ (t : State) (i : Issued), live (issueOp p.val q k o noBody) s = .next t ∧ i.cmd = c ∧ i.chunks = [] ∧
      getProg t p.val q = some (takeHead k i g) ∧ t.ter = s.ter ∧ t.ctxs = s.ctxs ∧ t.jobs = s.jobs := by
  obtain ⟨ps, hex, issued, -⟩ := control_issues (body := noBody) hr rfl (getProg_issueStart ..) ⟨rfl, rfl, rfl, rfl, rfl⟩ rfl rfl
  exact ⟨_, ⟨c, _, _, _, _, []⟩, hex, rfl, rfl, issued.1, rfl, rfl, rfl⟩

/-! LEAVE (R187). -/

theorem leave_issues (hr : Ready s p q 4 oLEAVE g j c) :
    let w := c.word.toNat
    ∃ (t : State) (h : Prog), exec (.leave p q) s = .next t ∧ IssuedIn t p q 4 g h c [] ∧
      h.leaveWant = bits w 64 2 ∧ (getPav t p.val).leave ≤ (getPav s p.val).leave ∧
      (bits w 64 2 ≠ 0 → (getPav t p.val).leave = (getPav s p.val).leave ∧
        (getPav t p.val).leaveReq = Nat.max (getPav s p.val).leaveReq (bits w 64 2)) := by
  dsimp only
  obtain ⟨u, hu⟩ : ∃ u, u = modProg p.val q (fun h => { h with leaveWant := bits c.word.toNat 64 2 })
      (issueStart s p.val q 4 g j c) := ⟨_, rfl⟩
  have hm : Meaning s p q 4 g j c leaveBody =
      (.ok ([], []), (if bits c.word.toNat 64 2 = 0 then lowerLeave p.val else requestLeave p.val (bits c.word.toNat 64 2)) u) := by
    rw [hu]
    rfl
  have prog : getProg u p.val q = some { headTaken s 4 g j c with leaveWant := bits c.word.toNat 64 2 } := by
    rw [hu]
    exact getProg_modProg_issueStart _
  have only : u = { issueStart s p.val q 4 g j c with pavs := u.pavs } := by
    rw [hu]
    exact modProg_only ..
  have leave : (getPav u p.val).leave = (getPav s p.val).leave ∧ (getPav u p.val).leaveReq = (getPav s p.val).leaveReq := by
    obtain ⟨leave, req⟩ := leave_modProg (issueStart s p.val q 4 g j c) p.val q
      (fun h => { h with leaveWant := bits c.word.toNat 64 2 })
    obtain ⟨leave', req'⟩ := leave_issueStart s p.val q 4 g j c
    rw [hu]
    exact ⟨leave.trans leave', req.trans req'⟩
  have out : u.out = s.out := by rw [only]; rfl
  have pending : u.pending = s.pending := by rw [only]; rfl
  by_cases release : bits c.word.toNat 64 2 = 0
  · rw [if_pos release] at hm
    obtain ⟨ps, hex, issued, same⟩ := control_issues hr hm ((getProg_lowerLeave ..).trans prog) ⟨rfl, rfl, rfl, rfl, rfl⟩
      ((lowerLeave_out ..).trans out) ((lowerLeave_pending ..).trans pending)
    refine ⟨_, _, hex, issued, rfl, ?_, fun h => absurd release h⟩
    rw [same.work.leave, getPav_lowerLeave, if_pos rfl, ← leave.1]
    exact Nat.min_le_right ..
  · rw [if_neg release] at hm
    have asked : getPav (requestLeave p.val (bits c.word.toNat 64 2) u) p.val =
        { getPav u p.val with leaveReq := if (getPav u p.val).leaveReq < bits c.word.toNat 64 2 then bits c.word.toNat 64 2
          else (getPav u p.val).leaveReq } := (getPav_modPav ..).trans (if_pos rfl)
    obtain ⟨ps, hex, issued, same⟩ := control_issues hr hm
      ((getProg_modPav p.val p.val q _ u (by exact fun _ => ⟨rfl, rfl⟩)).trans prog) ⟨rfl, rfl, rfl, rfl, rfl⟩ out pending
    have kept := same.work.leave
    have req := same.leaveReq
    rw [asked] at kept req
    refine ⟨_, _, hex, issued, rfl, (kept.trans leave.1).le, fun _ => ⟨kept.trans leave.1, req.trans ?_⟩⟩
    dsimp only
    rw [leave.2]
    show _ = max _ _
    split <;> omega

/-! EPOCH (R197, R198). -/

/-- A program that has entered an epoch. -/
def inEpoch (ep : Nat) (g : Prog) : Prog := { g with epoch := ep, cseq := [] }

/-- EPOCH refuses an epoch that does not follow its program's, or in which the program's role is not valid. -/
theorem exec_epochBody (e : Env) (s : State) : (epochBody e).exec s =
    if bits e.w 64 32 ≠ e.g.epoch + 1 ∨ (roleOf (getCtx s e.g.ctx) (bits e.w 64 32) e.g.hdr.role).valid = false then
      (.error (plainFault stPROG_BAD), s)
    else (.ok ([], []), traceEv 2 1 e.g.ctx e.p 0 (bits e.w 64 32) e.c.tpc
      (epochGrants e.g.ctx e.g.hdr.role (bits e.w 64 32) (modProg e.p e.q (inEpoch (bits e.w 64 32)) s))) := by
  have test : ((bits e.w 64 32 != e.g.epoch + 1 || !(roleOf (getCtx s e.g.ctx) (bits e.w 64 32) e.g.hdr.role).valid) = true) =
      (bits e.w 64 32 ≠ e.g.epoch + 1 ∨ (roleOf (getCtx s e.g.ctx) (bits e.w 64 32) e.g.hdr.role).valid = false) := by
    simp
  unfold epochBody
  dsimp only
  rw [exec_bind, exec_get]
  dsimp only
  simp only [test]
  split <;> rfl

/-- Leaving its queue changes neither a program's epoch nor its header nor its context. -/
theorem head_headTaken (s : State) (k : Nat) (g : Prog) (j : Job) (c : QCmd) :
    (headTaken s k g j c).epoch = g.epoch ∧ (headTaken s k g j c).hdr = g.hdr ∧ (headTaken s k g j c).ctx = g.ctx := by
  obtain ⟨us, taken⟩ := takeHead_only k
    ⟨c, (cmdLines s j g c).1, (cmdLines s j g c).2.1, (cmdLines s j g c).2.2, cmdEntries s j g c, []⟩ g
  rw [headTaken, taken]
  exact ⟨rfl, rfl, rfl⟩

/-- EPOCH's meaning at the head of its queue. -/
theorem meaning_epoch : Meaning s p q 4 g j c epochBody =
    if bits c.word.toNat 64 32 ≠ g.epoch + 1 ∨ (roleOf (getCtx s g.ctx) (bits c.word.toNat 64 32) g.hdr.role).valid = false then
      (.error (plainFault stPROG_BAD), issueStart s p.val q 4 g j c)
    else (.ok ([], []), traceEv 2 1 g.ctx p.val 0 (bits c.word.toNat 64 32) c.tpc
      (epochGrants g.ctx g.hdr.role (bits c.word.toNat 64 32)
        (modProg p.val q (inEpoch (bits c.word.toNat 64 32)) (issueStart s p.val q 4 g j c)))) := by
  obtain ⟨epoch, hdr, ctx⟩ := head_headTaken s 4 g j c
  refine (exec_epochBody ⟨p.val, q, headTaken s 4 g j c, j, c⟩ (issueStart s p.val q 4 g j c)).trans ?_
  generalize headTaken s 4 g j c = h at *
  dsimp only [Env.w]
  rw [epoch, hdr, ctx]
  rfl

theorem epoch_issues (hr : Ready s p q 4 oEPOCH g j c) (next : bits c.word.toNat 64 32 = g.epoch + 1)
    (valid : (roleOf (getCtx s g.ctx) (bits c.word.toNat 64 32) g.hdr.role).valid = true) :
    ∃ (t : State) (h : Prog), exec (.epoch p q) s = .next t ∧ IssuedIn t p q 4 g h c [] ∧ h.epoch = g.epoch + 1 ∧
      h.cseq = [] ∧ h.acc = g.acc ∧ t.ter.mem = s.ter.mem := by
  have hm := meaning_epoch (s := s) (p := p) (q := q) (g := g) (j := j) (c := c)
  rw [if_neg (by
    rintro (other | absent)
    · exact other next
    · exact absurd (valid.symm.trans absent) (by decide))] at hm
  obtain ⟨t, hex, hprog, -, hmem, -⟩ := live_issueOp_ok hr hm
  obtain ⟨r, traced⟩ := Sys2Proof.Proofs.Architecture.traceEv_only 2 1 g.ctx p.val 0 (bits c.word.toNat 64 32) c.tpc
    (epochGrants g.ctx g.hdr.role (bits c.word.toNat 64 32)
      (modProg p.val q (inEpoch (bits c.word.toNat 64 32)) (issueStart s p.val q 4 g j c)))
  obtain ⟨ws, us, pr, os, granted⟩ := epochGrants_only g.ctx g.hdr.role (bits c.word.toNat 64 32)
    (modProg p.val q (inEpoch (bits c.word.toNat 64 32)) (issueStart s p.val q 4 g j c))
  rw [traced, granted] at hprog hmem
  have prog := hprog.trans (congrArg _ (getProg_modProg_issueStart (inEpoch (bits c.word.toNat 64 32))))
  obtain ⟨⟨-, -, -, -, fresh, -⟩, -⟩ := hr
  refine ⟨t, _, hex, issuedIn_noteChunks prog ⟨rfl, rfl, rfl, rfl, rfl⟩ fresh, next, rfl, (sameTiles_headTaken s 4 g j c).acc,
    hmem.trans ?_⟩
  rw [modProg_only]
  rfl

theorem epoch_halts (hr : Ready s p q 4 oEPOCH g j c)
    (bad : bits c.word.toNat 64 32 ≠ g.epoch + 1 ∨ (roleOf (getCtx s g.ctx) (bits c.word.toNat 64 32) g.hdr.role).valid = false) :
    ∃ (t : State) (k : Job), exec (.epoch p q) s = .next t ∧ findJob t g.ctx g.jobseq = some k ∧
      (FirstHalt s g.ctx → k.fault = some (progFault p.val g c.tpc (plainFault stPROG_BAD))) := by
  have hm := meaning_epoch (s := s) (p := p) (q := q) (g := g) (j := j) (c := c)
  rw [if_pos bad] at hm
  obtain ⟨t, x, hex, hx, fault, -⟩ := tile_halts hr (fun _ => keeps_tile_epochBody) (congrArg Prod.fst hm)
  exact ⟨t, x, hex, hx, fun first => (fault first).1⟩

end

end Sys2Proof.Proofs.Sequencer
end

section
/-!
PROOFS. END (R184, R395, R488): it retires as it issues, its signal fires, and its program leaves the Pavilion.
-/
namespace Sys2Proof.Proofs.Sequencer
open Sys2Proof.Machine Sys2Proof.Laws Sys2Proof.Claims Sys2Proof.Proofs.Arithmetic Sys2Proof.Proofs.Attention
open Sys2Proof.Proofs.Architecture

/-! A signal that halts nothing (R184). -/

/-- What the signal of command c of program g, in slot q of Pavilion p, leaves as it is. -/
structure SignalFrame (p : Nat) (q : PSlot) (g : Prog) (c : QCmd) (s t : State) : Prop where
  prog : (getProg t p q).map (·.halted) = (getProg s p q).map (·.halted)
  slot : getProg t p (otherSlot q) = getProg s p (otherSlot q)
  jobs : t.jobs = s.jobs
  ter : t.ter = s.ter
  pending : t.pending = s.pending
  sends : SendsUnframed s t
  flag : cSkind c.word.toNat = 3 → setFlagOf c.word.toNat c.regs < 4096 →
    (getCtx t g.ctx).flags.getLsbD (setFlagOf c.word.toNat c.regs) = true

/-- The cases of a signal that halts nothing. -/
structure Harmless (s : State) (g : Prog) (w : Nat) : Prop where
  token : cSkind w = 1 → tget g.tok (cStok w) 0 + tokenInc w ≤ 65535
  remote : cSkind w = 2 → (roleOf (getCtx s g.ctx) g.epoch (cSdest w)).valid = true ∧
    roleHere s (roleOf (getCtx s g.ctx) g.epoch (cSdest w)) = false

theorem signalFrame_fireSignal {s : State} {p : Nat} {q : PSlot} {g : Prog} {c : QCmd} (hg : getProg s p q = some g)
    (h : Harmless s g c.word.toNat) : SignalFrame p q g c s (fireSignal p q g c s) := by
  have kinds : cSkind c.word.toNat < 4 := bits_lt ..
  rcases (by omega : cSkind c.word.toNat = 0 ∨ cSkind c.word.toNat = 1 ∨ cSkind c.word.toNat = 2 ∨ cSkind c.word.toNat = 3)
    with k | k | k | k
  · rw [fireSignal_none k]
    exact ⟨rfl, rfl, rfl, rfl, rfl, .of_out_eq rfl, fun k' => absurd (k.symm.trans k') (by decide)⟩
  · rw [fireSignal_token k hg (h.token k)]
    refine ⟨?_, getProg_setProg_other p q _ _ s (otherSlot_ne q), rfl, rfl, rfl, .of_out_eq rfl,
      fun k' => absurd (k.symm.trans k') (by decide)⟩
    rw [getProg_setProg_self, hg]
    rfl
  · obtain ⟨valid, away⟩ := h.remote k
    rw [fireSignal_remote k valid away]
    exact ⟨rfl, rfl, rfl, rfl, rfl, .emit _ s (fun _ => rfl), fun k' => absurd (k.symm.trans k') (by decide)⟩
  · rw [fireSignal_flag k]
    refine ⟨rfl, rfl, rfl, rfl, rfl, .of_out_eq rfl, fun _ low => ?_⟩
    rw [(getCtx_setFlag g.ctx _ s low).1]
    simp

/-! A program leaves its Pavilion (R395). -/

theorem clearProg_only (p : Nat) (q : PSlot) (s : State) : ∃ ps pw, clearProg p q s = { s with pavs := ps, power := pw } := by
  unfold clearProg
  dsimp only
  obtain ⟨ps, pw, h⟩ := lowerLeave_only p (modPav p (fun v => { v with
    passes := v.passes.filter (fun x => x.q != q)
    flips := v.flips.filter (fun f => f.1.1 == 5 || (!(((getProg s p q).map (·.hdr)).map (fun h => inMasks h f.1)).getD false &&
      (getProg s p (otherSlot q)).isSome)) }) (setProg p q none s))
  exact ⟨ps, pw, h⟩

theorem getProg_clearProg (p : Nat) (q r : PSlot) (s : State) :
    getProg (clearProg p q s) p r = if r = q then none else getProg s p r := by
  unfold clearProg
  dsimp only
  rw [getProg_lowerLeave, getProg_modPav]
  · split
    · rename_i same
      rw [same, getProg_setProg_self]
    · rename_i other
      exact getProg_setProg_other p q r none s other
  · exact fun _ => ⟨rfl, rfl⟩

/-! END's parts. -/

/-- A program's job counts the program among those that have ended. -/
def endProg (g : Prog) (s : State) : State := modJob g.ctx g.jobseq (fun j => { j with ended := j.ended ++ [g.idx] }) s

/-- An issued END whose program has no other command under way: it retires, and its program goes. -/
theorem finishProg_of_end {s : State} {p : Nat} {q : PSlot} {g : Prog} {i : Issued} (hg : getProg s p q = some g)
    (hh : g.halted = false) (only : g.issued = [i]) (ho : cOpc i.cmd.word.toNat = oEND)
    (free : retireWaits s p q i.cmd.num i = false) (harmless : Harmless s (dropIssued i.cmd.num g) i.cmd.word.toNat) :
    ∃ t, SignalFrame p q (dropIssued i.cmd.num g) i.cmd (setProg p q (some (dropIssued i.cmd.num g)) s) t ∧
      finishProg p q s = clearProg p q (endProg g (lowerLeave p t)) := by
  have found : g.issued.find? (fun i => cOpc i.cmd.word.toNat == oEND) = some i := by
    rw [only]
    exact List.find?_cons_of_pos (beq_iff_eq.mpr ho)
  have last : g.issued.find? (fun x => x.cmd.num == i.cmd.num) = some i := by
    rw [only]
    exact List.find?_cons_of_pos (beq_self_eq_true _)
  have fires := retireCmd_fires hg last hh free
  have signal := signalFrame_fireSignal (s := setProg p q (some (dropIssued i.cmd.num g)) s) (getProg_setProg_self ..)
    (c := i.cmd) ⟨harmless.token, harmless.remote⟩
  refine ⟨_, signal, ?_⟩
  have runs : ((getProg (retireCmd p q i.cmd.num s) p q).map (·.halted)).getD true = false := by
    rw [fires, getProg_lowerLeave, signal.prog, getProg_setProg_self]
    exact hh
  unfold finishProg
  rw [hg]
  dsimp only
  rw [found]
  dsimp only
  rw [runs, if_neg (by decide), fires]
  rfl

/-- Consuming tokens raises no counter (R183). -/
theorem tok_consumeToken_le (w : Nat) (g : Prog) (k : Nat) : tget (consumeToken w g).tok k 0 ≤ tget g.tok k 0 := by
  unfold consumeToken
  split
  · rw [tget_tset]
    split
    · rename_i same
      rw [same]
      exact Nat.sub_le ..
    · exact Nat.le_refl _
  · exact Nat.le_refl _

/-- A program that has issued a command behind which nothing is under way. -/
theorem headTaken_alone (s : State) (k : Nat) (g : Prog) (j : Job) (c : QCmd) (alone : g.issued = []) :
    ∃ i qs us ts, headTaken s k g j c = { g with queues := qs, issued := [i], users := us, tok := ts } ∧ i.cmd = c ∧
      i.chunks = [] ∧ ∀ n, tget ts n 0 ≤ tget g.tok n 0 := by
  obtain ⟨us, taken⟩ := takeHead_only k
    ⟨c, (cmdLines s j g c).1, (cmdLines s j g c).2.1, (cmdLines s j g c).2.2, cmdEntries s j g c, []⟩ g
  rw [alone, List.nil_append] at taken
  exact ⟨_, _, us, _, taken, rfl, rfl, tok_consumeToken_le c.word.toNat g⟩

/-- END's meaning on a state in which it has issued. -/
theorem finishProg_issued {s u : State} {p : Nat} {q : PSlot} {g : Prog} {j : Job} {c : QCmd} (hg : getProg u p q = some
      (headTaken s 4 g j c)) (alone : g.issued = []) (hh : g.halted = false) (ho : cOpc c.word.toNat = oEND)
    (checked : (getPav u p).passes.any (fun x => x.q == q && x.num == c.num) = false) (harmless : Harmless u g c.word.toNat)
    (hj : findJob u g.ctx g.jobseq = some j) :
    ∃ k, getProg (finishProg p q u) p q = none ∧ getProg (finishProg p q u) p (otherSlot q) = getProg u p (otherSlot q) ∧
      findJob (finishProg p q u) g.ctx g.jobseq = some k ∧ k.ended = j.ended ++ [g.idx] ∧ k.fault = j.fault ∧
      (finishProg p q u).ter = u.ter ∧ (finishProg p q u).pending = u.pending ∧ SendsUnframed u (finishProg p q u) ∧
      (cSkind c.word.toNat = 3 → setFlagOf c.word.toNat c.regs < 4096 →
        (getCtx (finishProg p q u) g.ctx).flags.getLsbD (setFlagOf c.word.toNat c.regs) = true) := by
  obtain ⟨i, qs, us, ts, taken, rfl, chunks, fewer⟩ := headTaken_alone s 4 g j c alone
  rw [taken] at hg
  obtain ⟨t, signal, finished⟩ := finishProg_of_end hg hh rfl ho (by rw [retireWaits, chunks, checked]; rfl)
    ⟨fun k => Nat.le_trans (Nat.add_le_add_right (fewer _) _) (harmless.token k), harmless.remote⟩
  obtain ⟨ps, pw, left⟩ := clearProg_only p q (endProg
    { g with queues := qs, issued := [i], users := us, tok := ts } (lowerLeave p t))
  obtain ⟨ps', pw', lowered⟩ := lowerLeave_only p t
  have job : findJob (finishProg p q u) g.ctx g.jobseq = some { j with ended := j.ended ++ [g.idx] } := by
    rw [finished, left]
    refine (findJob_modJob_self g.ctx g.jobseq _ _ (by exact fun _ => ⟨rfl, rfl⟩)).trans ?_
    rw [findJob_lowerLeave, findJob_congr signal.jobs]
    exact congrArg _ hj
  refine ⟨_, ?_, ?_, job, rfl, rfl, ?_⟩
  · rw [finished, getProg_clearProg, if_pos rfl]
  · rw [finished, getProg_clearProg, if_neg (otherSlot_ne q)]
    refine (getProg_lowerLeave ..).trans (signal.slot.trans ?_)
    exact getProg_setProg_other p q _ _ u (otherSlot_ne q)
  · rw [finished, left, lowered]
    exact ⟨signal.ter, signal.pending, signal.sends, signal.flag⟩

/-- END's part of O41. -/
theorem end_issues {s : State} {p : PavId} {q : PSlot} {g : Prog} {j : Job} {c : QCmd} (hr : Ready s p q 4 oEND g j c)
    (alone : g.issued = []) (checked : (getPav s p.val).passes.any (fun x => x.q == q && x.num == c.num) = false)
    (harmless : Harmless s g c.word.toNat) :
    ∃ (t : State) (k : Job), exec (.end_ p q) s = .next t ∧ getProg t p.val q = none ∧
      findJob t g.ctx g.jobseq = some k ∧ k.ended = j.ended ++ [g.idx] ∧ k.fault = j.fault ∧
      getProg t p.val (otherSlot q) = getProg s p.val (otherSlot q) ∧ t.ter = s.ter ∧
      (cSkind c.word.toNat = 3 → setFlagOf c.word.toNat c.regs < 4096 →
        (getCtx t g.ctx).flags.getLsbD (setFlagOf c.word.toNat c.regs) = true) := by
  obtain ⟨ps, issued, same⟩ := issueOp_control (body := noBody) hr rfl
  obtain ⟨⟨hup, -, -, hj, hh, -, ho, -⟩, -⟩ := hr
  have passes : (getPav { issueStart s p.val q 4 g j c with pavs := ps } p.val).passes = (getPav s p.val).passes :=
    same.work.passes.trans (passes_issueStart ..)
  obtain ⟨k, gone, slot, job, ended, fault, ter, pending, sends, flag⟩ := finishProg_issued
    (u := { issueStart s p.val q 4 g j c with pavs := ps }) ((same.work.getProg q).trans (getProg_issueStart ..)) alone hh ho
    (by rw [passes]; exact checked) ⟨harmless.token, harmless.remote⟩ hj
  rw [← issued] at gone slot job ter pending sends flag
  have row : exec (.end_ p q) s = live (fun s => finishProg p.val q (issueOp p.val q 4 oEND noBody s)) s := rfl
  have sent : SendsUnframed s (finishProg p.val q (issueOp p.val q 4 oEND noBody s)) :=
    .trans (.of_out_eq (by rw [issued]; rfl)) sends
  refine ⟨_, k, row.trans ((live_up _ s hup).trans (congrArg _ (effect_of_sendsUnframed sent ?_))), gone, job, ended, fault, ?_, ?_, flag⟩
  · rw [pending, issued]
    rfl
  · rw [slot, issued]
    exact (same.work.getProg _).trans (confined_issueStart (c := g.ctx) s 4 g j c).slot
  · rw [ter, issued]
    rfl

/-- Settles O41: each control command's meaning is a change of the sequencer's state; END's program leaves with its signal. -/
theorem controlCommandsIssueAndEnd : Obligations.ControlCommandsIssueAndEnd := by
  unfold Obligations.ControlCommandsIssueAndEnd
  refine ⟨fun s p q g j c => ⟨setq_issues, fun arr => zacc_issues, flagclr_issues, ?_, epoch_issues, epoch_halts, leave_issues⟩,
    fun s p q g j c hr alone checked token remote => end_issues hr alone checked ⟨token, remote⟩⟩
  simp only [List.forall_mem_cons]
  exact ⟨noBody_issues, noBody_issues, noBody_issues, List.forall_mem_nil _⟩

end Sys2Proof.Proofs.Sequencer
end

section
/-!
PROOFS. Admission (R199, R217, R250, R368, R398, R511): what its reads leave, and how a job is refused or joins those admitted.
-/
namespace Sys2Proof.Proofs.Sequencer
open Sys2Proof.Machine Sys2Proof.Laws Sys2Proof.Claims Sys2Proof.Proofs.Arithmetic Sys2Proof.Proofs.Attention

/-! Admission's reads (R511). -/

theorem quiet_fetchMem (s : State) (c : Nat) (priv : Bool) (space a n : Nat) : Quiet s (fetchMem s c priv space a n).1 := by
  obtain ⟨ps, queued⟩ := mQueue_only false c priv space a n s
  rcases fetchMem_cases s c priv space a n with h | h | h <;> rw [h]
  · exact ⟨rfl, rfl, rfl, rfl, rfl, rfl⟩
  · rw [queued]
    exact ⟨rfl, rfl, rfl, rfl, rfl, rfl⟩
  · rw [queued]
    exact ⟨rfl, rfl, rfl, rfl, rfl, rfl⟩

theorem keeps_memFetch {c space a n : Nat} : Keeps Quiet (memFetch c space a n) := by
  refine keeps_get_set chains_quiet (fun s => quiet_fetchMem s c false space a n) (fun s => ?_)
  split
  · exact keeps_pure chains_quiet _
  · exact keeps_raise chains_quiet _

theorem keeps_viewRead {c off n : Nat} : Keeps Quiet (viewRead c off n) :=
  keeps_then_pure chains_quiet (keeps_liftStep chains_quiet _ _ (fun s => quiet_terRead s c off n))

theorem keeps_readBlocks {c desc : Nat} : Keeps Quiet (readBlocks c desc) :=
  keeps_bind chains_quiet keeps_memFetch (fun _ => keeps_then_pure chains_quiet keeps_memFetch)

theorem keeps_readProgs {c base n : Nat} : Keeps Quiet (readProgs c base n) :=
  keeps_mapM chains_quiet _ (fun _ => keeps_bind chains_quiet keeps_viewRead (fun _ =>
    keeps_bind chains_quiet keeps_viewRead (fun _ => keeps_then_pure chains_quiet keeps_viewRead)))

theorem keeps_readSeg {c : Nat} {d : Desc} : Keeps Quiet (readSeg c d) := by
  unfold readSeg
  split
  · exact keeps_pure chains_quiet _
  · exact keeps_then_pure chains_quiet readsKeep_quiet.streamRead

theorem keeps_readAdm {c desc : Nat} : Keeps Quiet (readAdm c desc) := by
  have hR := chains_quiet
  refine keeps_bind hR keeps_readBlocks (fun _ => keeps_bind hR (keeps_mapM hR _ (fun _ => ?_)) (fun _ => ?_))
  · exact keeps_then_pure hR keeps_readProgs
  · exact keeps_ite (keeps_bind hR (keeps_pure hR _) (fun _ => keeps_then_pure hR keeps_readSeg))
      (keeps_bind hR keeps_viewRead (fun _ => keeps_then_pure hR keeps_readSeg))

/-- Admission's reads keep the contexts, jobs, Pavilions and bytes. -/
theorem quiet_readAdm {c desc : Nat} {i : AdmIn} {s s1 : State} (read : (readAdm c desc).exec s = (.ok i, s1)) : Quiet s s1 := by
  have kept := keeps_readAdm (c := c) (desc := desc) s
  rw [read] at kept
  exact kept

/-! How JOB_SUBMIT's message leaves its ring (R351, R361, R368). -/

/-- The state that admission begins with: the job is numbered. -/
abbrev numbered (c : CtxId) (s : State) : State :=
  modCtx c.val (fun x => { x with jobCount := nextJobNo (getCtx s c.val).jobCount }) s

section
variable {s s2 : State} {c : CtxId} {h : HeadMsg}

theorem ringAt_congr {t : State} (same : getCtx t c.val = getCtx s c.val) : ringAt t c.val = ringAt s c.val := by
  simp [ringAt, ctx_ne_mgmt c, same]

/-- Admission reads the number that it has just given. -/
theorem numbered_eq (c : CtxId) (s : State) :
    modCtx c.val (fun x => { x with jobCount := nextJobNo x.jobCount }) s = numbered c s := rfl

theorem ring_numbered (c : CtxId) (s : State) : (ringAt (numbered c s) c.val).held = (ringAt s c.val).held := by
  have own : getCtx (numbered c s) c.val = { getCtx s c.val with jobCount := nextJobNo (getCtx s c.val).jobCount } :=
    getCtx_modCtx_self ..
  simp [ringAt, ctx_ne_mgmt c, own]

/-- A JOB_SUBMIT that is answered at once. -/
theorem jobSubmit_done {st body : Nat} (ha : Accepted s c.val 0x01 h)
    (hact : jobAct c.val (waiterOf c.val h.msg) h.msg (numbered c s) = (s2, .done st body)) (quiet : Quiet (numbered c s) s2) :
    ∃ t, exec (.jobSubmit c) s = .next t ∧ Answered s t c.val h st body ∧
      (getCtx t c.val).jobCount = nextJobNo (getCtx s c.val).jobCount ∧ t.jobs = s.jobs ∧ t.pavs = s.pavs ∧
      t.ter.mem = s.ter.mem := by
  obtain ⟨hup, hhead, hopc, hcheck, hfwd⟩ := ha
  have hm : (c.val == mgmtCtx) = false := by simpa using ctx_ne_mgmt c
  have meaning : takeMsg c.val 0x01 jobAct s = postRec c.val
      (mkRec h.msg.gen (recKind (c.val == mgmtCtx) h.msg.opc) st h.msg.tag body) (consume c.val h s2) := by
    rw [takeMsg_job c.val jobAct s h hhead hopc hcheck hfwd (ctx_ne_mgmt c), numbered_eq, hact]
    simp [finish, waiterOf, hm]
  have frame : RingFrame c.val s2 (takeMsg c.val 0x01 jobAct s) := by
    rw [meaning]
    exact (ringFrame_consume c h s2).trans (ringFrame_modRing c _ _)
  have sent := quiet_effect (takeMsg c.val 0x01 jobAct) s
  have own := getCtx_congr sent.ctxs c.val
  refine ⟨_, live_up _ s hup, ⟨?_, ?_⟩, ?_, ?_, ?_, ?_⟩
  · rw [ringAt_congr own, meaning, postRec, ringAt_modRing_self]
    exact (consume_head c.val h s2).1
  · rw [ringAt_congr own, meaning, postRec_held, (consume_head c.val h s2).2, ringAt_congr (getCtx_congr quiet.ctxs _),
      ring_numbered]
  · rw [own, frame.same, getCtx_congr quiet.ctxs]
    exact congrArg Ctx.jobCount (getCtx_modCtx_self ..)
  · rw [sent.jobs, frame.only]
    exact quiet.jobs
  · rw [sent.pavs, frame.only]
    exact quiet.pavs
  · rw [sent.mem, frame.ter]
    exact quiet.mem

/-- A JOB_SUBMIT whose record comes later. -/
theorem jobSubmit_later (ha : Accepted s c.val 0x01 h)
    (hact : jobAct c.val (waiterOf c.val h.msg) h.msg (numbered c s) = (s2, .later)) (ctxs : s2.ctxs = (numbered c s).ctxs) :
    ∃ t, exec (.jobSubmit c) s = .next t ∧ Taken s t c.val h ∧
      (getCtx t c.val).jobCount = nextJobNo (getCtx s c.val).jobCount ∧ t.jobs = s2.jobs ∧ t.pavs = s2.pavs ∧
      t.ter.mem = s2.ter.mem := by
  obtain ⟨hup, hhead, hopc, hcheck, hfwd⟩ := ha
  have meaning : takeMsg c.val 0x01 jobAct s = consume c.val h s2 := by
    rw [takeMsg_job c.val jobAct s h hhead hopc hcheck hfwd (ctx_ne_mgmt c), numbered_eq, hact]
  have frame : RingFrame c.val s2 (takeMsg c.val 0x01 jobAct s) := by
    rw [meaning]
    exact ringFrame_consume c h s2
  have sent := quiet_effect (takeMsg c.val 0x01 jobAct) s
  have own := getCtx_congr sent.ctxs c.val
  refine ⟨_, live_up _ s hup, ⟨?_, ?_⟩, ?_, ?_, ?_, ?_⟩
  · rw [ringAt_congr own, meaning]
    exact (consume_head c.val h s2).1
  · rw [ringAt_congr own, meaning, (consume_head c.val h s2).2, ringAt_congr (getCtx_congr ctxs _), ring_numbered]
  · rw [own, frame.same, getCtx_congr ctxs]
    exact congrArg Ctx.jobCount (getCtx_modCtx_self ..)
  · rw [sent.jobs, frame.only]
  · rw [sent.pavs, frame.only]
  · rw [sent.mem, frame.ter]

end

/-! A job that joins those admitted (R217, R250, R398). -/

theorem quiet_openWin (w c : Nat) (fillset : Bool) (wclass : BitVec 4) (off len : Nat) (land : Option (Nat × Nat)) (s : State) :
    Quiet s (openWin w c fillset wclass off len land s) := by
  unfold openWin
  dsimp only
  split <;> exact ⟨rfl, rfl, rfl, rfl, rfl, rfl⟩

theorem quiet_openJobWins (c : Nat) (d : Desc) (s : State) : Quiet s (openJobWins c d s).1 := by
  have steps (lids : List Nat) (a : State × List Nat) (f : State × List Nat → Nat → State × List Nat)
      (hf : ∀ a lid, Quiet a.1 (f a lid).1) : Quiet a.1 (lids.foldl f a).1 := by
    induction lids generalizing a with
    | nil => exact chains_quiet.refl a.1
    | cons lid lids ih => exact chains_quiet.trans (hf a lid) (ih _)
  refine steps _ (s, []) _ (fun a lid => ?_)
  dsimp only
  split
  · exact chains_quiet.refl a.1
  · split
    · split
      · exact chains_quiet.refl a.1
      · exact quiet_openWin ..
    · exact chains_quiet.refl a.1

theorem quiet_setHolds (seq n : Nat) (s : State) : Quiet s (setHolds seq n s) :=
  quiet_of_link ((frame_extPut ..).trans (frame_mQueue ..))

theorem quiet_raiseHolds (seqs : List Nat) (s : State) :
    Quiet s (seqs.foldl (fun s q => setHolds q (holdsOf s q + 1) s) s) := by
  induction seqs generalizing s with
  | nil => exact chains_quiet.refl s
  | cons q seqs ih => exact chains_quiet.trans (quiet_setHolds ..) (ih _)

/-- A program queued at its Pavilion. -/
def queueProg (c : Nat) (seq : BitVec 32) (s : State) (e : Nat × ProgHdr) : State :=
  modPav e.2.pav (fun v => { v with waitq := v.waitq ++ [(c, seq, e.1)] }) s

theorem queueProgs_only (c : Nat) (seq : BitVec 32) (es : List (Nat × ProgHdr)) (s : State) :
    ∃ ps, es.foldl (queueProg c seq) s = { s with pavs := ps } := by
  induction es generalizing s with
  | nil => exact ⟨s.pavs, rfl⟩
  | cons e es ih =>
    obtain ⟨ps, h⟩ := ih (queueProg c seq s e)
    exact ⟨ps, h⟩

theorem waitq_queueProgs (c : Nat) (seq : BitVec 32) (es : List (Nat × ProgHdr)) (s : State) (p : Nat) :
    (getPav (es.foldl (queueProg c seq) s) p).waitq =
      (getPav s p).waitq ++ (es.filter (fun e => e.2.pav == p)).map (fun e => (c, seq, e.1)) := by
  induction es generalizing s with
  | nil => simp
  | cons e es ih =>
    rw [List.foldl_cons, ih, queueProg, getPav_modPav]
    by_cases here : p = e.2.pav
    · subst here
      simp
    · have there : (e.2.pav == p) = false := by simpa using Ne.symm here
      rw [if_neg here, List.filter_cons_of_neg (by simp [there])]

/-- An admission commits: the job joins, its programs wait, and the contexts and the Terrace's bytes stay. -/
theorem commitJob_joins (j : Job) (s : State) : ∃ ws,
    (commitJob j s).jobs = s.jobs ++ [{ j with windows := ws }] ∧ (commitJob j s).ctxs = s.ctxs ∧
      (commitJob j s).ter.mem = s.ter.mem ∧ ∀ p, (getPav (commitJob j s) p).waitq = (getPav s p).waitq ++
        ((localProgs j).filter (fun e => e.2.pav == p)).map (fun e => (j.ctx, j.jobseq, e.1)) := by
  have held := chains_quiet.trans (quiet_openJobWins j.ctx j.desc s) (quiet_raiseHolds j.holds (openJobWins j.ctx j.desc s).1)
  obtain ⟨s2, hs2⟩ : ∃ s2, s2 = j.holds.foldl (fun s q => setHolds q (holdsOf s q + 1) s) (openJobWins j.ctx j.desc s).1 :=
    ⟨_, rfl⟩
  rw [← hs2] at held
  obtain ⟨x, hx⟩ : ∃ x, x = { j with windows := (openJobWins j.ctx j.desc s).2.eraseDups } := ⟨_, rfl⟩
  have form : commitJob j s = traceEv 0 1 j.ctx 0 0 j.jobseq.toNat j.tag.toNat
      ((localProgs j).foldl (queueProg j.ctx j.jobseq) { s2 with jobs := s2.jobs ++ [x] }) := by
    rw [hs2, hx]
    rfl
  obtain ⟨r, traced⟩ := Sys2Proof.Proofs.Architecture.traceEv_only 0 1 j.ctx 0 0 j.jobseq.toNat j.tag.toNat
    ((localProgs j).foldl (queueProg j.ctx j.jobseq) { s2 with jobs := s2.jobs ++ [x] })
  have waiting := waitq_queueProgs j.ctx j.jobseq (localProgs j) { s2 with jobs := s2.jobs ++ [x] }
  obtain ⟨ps, queued⟩ := queueProgs_only j.ctx j.jobseq (localProgs j) { s2 with jobs := s2.jobs ++ [x] }
  refine ⟨(openJobWins j.ctx j.desc s).2.eraseDups, ?_, ?_, ?_, fun p => ?_⟩
  · rw [form, traced, queued, ← hx]
    exact congrArg (· ++ [x]) held.jobs
  · rw [form, traced, queued]
    exact held.ctxs
  · rw [form, traced, queued]
    exact held.mem
  · rw [form, traced]
    refine (waiting p).trans ?_
    rw [show getPav { s2 with jobs := s2.jobs ++ [x] } p = getPav s p from getPav_congr held.pavs p]

theorem quiet_sendGrove (g : GroveSt) (dst : UPath) (gtype : Nat) (body : List Byte) (s : State) :
    Quiet s (sendGrove g dst gtype body s) := by
  unfold sendGrove
  split <;> exact ⟨rfl, rfl, rfl, rfl, rfl, rfl⟩

/-- A job forwarded to the members of a grove changes what they are to be sent. -/
theorem quiet_forwardJob (j : Job) (m : Msg) (blocks : List Nat) (s : State) : Quiet s (forwardJob j m blocks s) := by
  unfold forwardJob
  split
  · exact chains_quiet.refl s
  · rename_i g _
    clear * -
    induction j.peers generalizing s with
    | nil => exact chains_quiet.refl s
    | cons i l ih => exact chains_quiet.trans (quiet_sendGrove ..) (ih _)

/-! JOB_SUBMIT's cases (R199). -/

section
variable {s s1 : State} {c : CtxId} {w : Waiter} {m : Msg} {i : AdmIn} (solo : (getCtx s c.val).grove = false)
  (aligned : bits m.bits.toNat 64 64 % 64 = 0) (read : (readAdm c.val (bits m.bits.toNat 64 64)).exec s = (.ok i, s1))
include solo aligned read

/-- The job that admission would commit. -/
abbrev jobOf (s s1 : State) (c : CtxId) (m : Msg) (i : AdmIn) : Job := newJob s1 c.val (ownIndex s) m none (withKvalid m i.raw) i

theorem jobAct_refused {f : Refused} (bad : admitChecks s1 c.val (ownIndex s) m.gen (withKvalid m i.raw) i = some f) :
    jobAct c.val w m s = refuseJob c.val m.tag f s1 := by
  unfold jobAct
  simp [solo, aligned, read, bad]

section
variable (fine : admitChecks s1 c.val (ownIndex s) m.gen (withKvalid m i.raw) i = none)
include fine

theorem jobAct_noWindow {st : Nat} (bad : jobWinsBad s1 c.val (jobOf s s1 c m i).desc = some st) :
    jobAct c.val w m s = refuseJob c.val m.tag (st, 0, 0) s1 := by
  unfold jobAct
  simp [solo, aligned, read, fine, bad]

theorem jobAct_admits (open_ : jobWinsBad s1 c.val (jobOf s s1 c m i).desc = none)
    (ready : kioskWait s1 (jobOf s s1 c m i) = false) :
    ∃ s2, jobAct c.val w m s = (s2, .later) ∧ Quiet (commitJob (jobOf s s1 c m i) s1) s2 := by
  rcases blocks : (readBlocks c.val (bits m.bits.toNat 64 64)).exec s1 with ⟨e | bl, s3⟩
  · refine ⟨commitJob (jobOf s s1 c m i) s1, ?_, chains_quiet.refl _⟩
    unfold jobAct
    simp [solo, aligned, read, fine, open_, ready, blocks]
  · refine ⟨forwardJob (jobOf s s1 c m i) m bl (commitJob (jobOf s s1 c m i) s1), ?_, quiet_forwardJob ..⟩
    unfold jobAct
    simp [solo, aligned, read, fine, open_, ready, blocks]

end

end

theorem quiet_refuseJob (c : Nat) (tag : BitVec 32) (f : Refused) (s : State) : Quiet s (refuseJob c tag f s).1 := by
  obtain ⟨r, h⟩ := Sys2Proof.Proofs.Architecture.traceEv_only 0 2 c 0 f.1 (getCtx s c).jobCount.toNat tag.toNat s
  have form : (refuseJob c tag f s).1 = { s with trace := r } := h
  rw [form]
  exact ⟨rfl, rfl, rfl, rfl, rfl, rfl⟩

/-- A job that admission refuses after its reads is answered at once. -/
theorem jobSubmit_refused {s s1 : State} {c : CtxId} {h : HeadMsg} {f : Refused} (ha : Accepted s c.val 0x01 h)
    (quiet : Quiet (numbered c s) s1)
    (hact : jobAct c.val (waiterOf c.val h.msg) h.msg (numbered c s) = refuseJob c.val h.msg.tag f s1) :
    ∃ t, exec (.jobSubmit c) s = .next t ∧
      Answered s t c.val h f.1 (refusedJobBody (nextJobNo (getCtx s c.val).jobCount) f.2.1 f.2.2) ∧
      (getCtx t c.val).jobCount = nextJobNo (getCtx s c.val).jobCount ∧ t.jobs = s.jobs ∧ t.pavs = s.pavs ∧
      t.ter.mem = s.ter.mem := by
  have number : (getCtx s1 c.val).jobCount = nextJobNo (getCtx s c.val).jobCount := by
    rw [getCtx_congr quiet.ctxs]
    exact congrArg Ctx.jobCount (getCtx_modCtx_self ..)
  have reply : refuseJob c.val h.msg.tag f s1 = ((refuseJob c.val h.msg.tag f s1).1,
      .done f.1 (refusedJobBody (nextJobNo (getCtx s c.val).jobCount) f.2.1 f.2.2)) := by
    rw [← number]
    rfl
  exact jobSubmit_done ha (hact.trans reply) (chains_quiet.trans quiet (quiet_refuseJob ..))

/-- Settles O34: admission's reads change nothing that the record or the job is made of, and each outcome of its checks is
a case of jobAct. -/
theorem jobIsAdmittedOrRefused : Obligations.JobIsAdmittedOrRefused := by
  unfold Obligations.JobIsAdmittedOrRefused
  intro s c h ha grove aligned n s0 i s1 read r
  have own : getCtx s0 c.val = { getCtx s c.val with jobCount := n } := getCtx_modCtx_self ..
  have solo : (getCtx s0 c.val).grove = false := by
    rw [own]
    exact grove
  have quiet : Quiet s0 s1 := quiet_readAdm read
  refine ⟨fun f bad => ?refused, fun fine st bad => ?noWindow, fun fine open_ ready => ?admitted⟩
  case refused => exact jobSubmit_refused ha quiet (jobAct_refused solo aligned read bad)
  case noWindow => exact jobSubmit_refused ha quiet (jobAct_noWindow solo aligned read fine bad)
  case admitted =>
    obtain ⟨s2, hact, sent⟩ := jobAct_admits (w := waiterOf c.val h.msg) solo aligned read fine open_ ready
    obtain ⟨ws, jobs, ctxs, mem, waitq⟩ := commitJob_joins (jobOf s0 s1 c h.msg i) s1
    obtain ⟨t, hex, taken, count, tjobs, tpavs, tmem⟩ := jobSubmit_later ha hact (sent.ctxs.trans (ctxs.trans quiet.ctxs))
    have number : (jobOf s0 s1 c h.msg i).jobseq = n := by
      show (getCtx s1 c.val).jobCount = n
      rw [getCtx_congr quiet.ctxs, own]
    rw [number] at waitq
    refine ⟨t, { jobOf s0 s1 c h.msg i with windows := ws }, hex, taken, count, ?_, rfl, number, rfl, rfl, rfl, rfl, ?_, fun p => ?_⟩
    · rw [tjobs, sent.jobs, jobs, quiet.jobs]
      rfl
    · rw [tmem, sent.mem, mem, quiet.mem]
      rfl
    · rw [getPav_congr (tpavs.trans sent.pavs), waitq, getPav_congr quiet.pavs]
      rfl

end Sys2Proof.Proofs.Sequencer
end

section
/-!
PROOFS. Computations that answer (R174, R393, R501): what runs to its end where nothing is denied and no word is poisoned.
-/
namespace Sys2Proof.Proofs.Sequencer
open Sys2Proof.Machine Sys2Proof.Laws Sys2Proof.Claims Sys2Proof.Proofs.Arithmetic Sys2Proof.Proofs.Attention

/-! Runs that end with a result. -/

/-- From every state that meets I, m ends with a result that meets P, in a state that meets I. -/
def Answers {α : Type} (I : State → Prop) (P : α → Prop) (m : Eff α) : Prop :=
  ∀ s, I s → ∃ a t, m.exec s = (.ok a, t) ∧ I t ∧ P a

/-- Where m ends with a result, whatever it is. -/
abbrev Succeeds {α : Type} (I : State → Prop) (m : Eff α) : Prop := Answers I (fun _ => True) m

section
variable {α β : Type} {I : State → Prop} {P : α → Prop} {Q : β → Prop}

theorem answers_pure {a : α} (h : P a) : Answers I P (pure a : Eff α) := fun s hs => ⟨a, s, rfl, hs, h⟩

theorem Answers.mono {P' : α → Prop} {m : Eff α} (h : Answers I P m) (hP : ∀ a, P a → P' a) : Answers I P' m := by
  intro s hs
  obtain ⟨a, t, run, ht, ha⟩ := h s hs
  exact ⟨a, t, run, ht, hP a ha⟩

theorem Answers.succeeds {m : Eff α} (h : Answers I P m) : Succeeds I m := h.mono (fun _ _ => trivial)

theorem answers_bind {m : Eff α} {f : α → Eff β} (hm : Answers I P m) (hf : ∀ a, P a → Answers I Q (f a)) :
    Answers I Q (m >>= f) := by
  intro s hs
  obtain ⟨a, t, run, ht, ha⟩ := hm s hs
  obtain ⟨b, u, run', hu, hb⟩ := hf a ha t ht
  exact ⟨b, u, by rw [exec_bind, run]; exact run', hu, hb⟩

/-- What follows a computation whose result does not matter. -/
theorem answers_then {m : Eff α} {f : α → Eff β} (hm : Succeeds I m) (hf : ∀ a, Answers I Q (f a)) : Answers I Q (m >>= f) :=
  answers_bind hm (fun a _ => hf a)

/-- A result put in form. -/
theorem succeeds_then_pure {m : Eff α} {f : α → β} (hm : Succeeds I m) : Succeeds I (m >>= fun a => (pure (f a) : Eff β)) :=
  answers_then hm (fun _ => answers_pure trivial)

theorem answers_mapM (xs : List α) {f : α → Eff β} (hf : ∀ a ∈ xs, Answers I Q (f a)) :
    Answers I (fun bs => ∀ b ∈ bs, Q b) (xs.mapM f) := by
  induction xs with
  | nil => exact answers_pure (List.forall_mem_nil _)
  | cons x xs ih =>
    rw [List.mapM_cons]
    refine answers_bind (hf x List.mem_cons_self) (fun b hb => ?_)
    refine answers_bind (ih (fun a ha => hf a (List.mem_cons_of_mem x ha))) (fun bs hbs => answers_pure ?_)
    exact List.forall_mem_cons.mpr ⟨hb, hbs⟩

theorem succeeds_mapM (xs : List α) {f : α → Eff β} (hf : ∀ a ∈ xs, Succeeds I (f a)) : Succeeds I (xs.mapM f) :=
  (answers_mapM xs hf).succeeds

theorem answers_ite {c : Prop} [Decidable c] {m n : Eff α} (hm : Answers I P m) (hn : Answers I P n) :
    Answers I P (if c then m else n) := by
  split
  · exact hm
  · exact hn

theorem answers_optional {c : Prop} [Decidable c] {m : Eff PUnit} {n : Eff α} (hm : Succeeds I m) (hn : Answers I P n) :
    Answers I P (if c then m >>= fun _ => n else n) :=
  answers_ite (answers_then hm (fun _ => hn)) hn

/-- What follows reads the state as it stands. -/
theorem answers_get_then {k : State → Eff α} (h : ∀ s, I s → Answers I P (k s)) : Answers I P (get >>= k) :=
  fun s hs => h s hs s hs

theorem succeeds_modifyThe {f : State → State} (h : ∀ s, I s → I (f s)) : Succeeds I (modifyThe State f : Eff Unit) :=
  fun s hs => ⟨(), f s, rfl, h s hs, trivial⟩

/-- A step that replaces the state by what g makes of it. -/
theorem answers_get_set {g : State → State} {k : State → Eff α} (hg : ∀ s, I s → I (g s))
    (hk : ∀ s, I s → Answers I P (k s)) : Answers I P (get >>= fun s => set (g s) >>= fun _ => k s) :=
  fun s hs => hk s hs (g s) (hg s hs)

theorem answers_liftStep (sid : Nat) {f : State → State × Except RFault α}
    (h : ∀ s, I s → I (f s).1 ∧ ∃ a, (f s).2 = .ok a ∧ P a) : Answers I P (liftStep sid f) := by
  unfold liftStep
  refine answers_get_set (fun s hs => (h s hs).1) (fun s hs => ?_)
  obtain ⟨a, ok, ha⟩ := (h s hs).2
  rw [ok]
  exact answers_pure ha

theorem succeeds_filterM (xs : List α) {f : α → Eff Bool} (hf : ∀ a, Succeeds I (f a)) : Succeeds I (xs.filterM f) := by
  have collected (acc : List α) : Succeeds I (xs.filterAuxM f acc) := by
    induction xs generalizing acc with
    | nil => exact answers_pure trivial
    | cons x xs ih => exact answers_then (hf x) (fun b => ih _)
  exact answers_then (collected []) (fun _ => answers_pure trivial)

/-- Parts that each end with a result leave no fault to raise. -/
theorem succeeds_eachThenRaise {γ : Type} (xs : List γ) {f : γ → Eff (List β)} (hf : ∀ a ∈ xs, Succeeds I (f a)) :
    Succeeds I (eachThenRaise xs f) := by
  refine answers_bind (P := fun rs => ∀ r ∈ rs, ∃ b, r = .ok b)
    (answers_mapM xs (Q := fun r => ∃ b, r = Except.ok b) (fun a ha => ?_)) (fun rs hrs => ?_)
  · intro s hs
    obtain ⟨b, t, run, ht, -⟩ := hf a ha s hs
    refine ⟨((f a).exec s).1, ((f a).exec s).2, rfl, ?_, b, ?_⟩
    · rw [run]
      exact ht
    · rw [run]
  · split
    · rename_i e raised
      obtain ⟨r, hr, he⟩ := List.exists_of_findSome?_eq_some raised
      obtain ⟨b, rfl⟩ := hrs r hr
      cases he
    · exact answers_pure trivial

end

/-! What answers are given from. -/

/-- The surroundings deny nothing and hold no poisoned word. -/
structure Answering (s : State) : Prop where
  deny : s.ext.deny = []
  stack : s.ext.stackPoison = []
  host : s.ext.hostPoison = []

/-- From s to t the surroundings go on answering, and contexts, poison, flipped bits and fill marks stay. -/
structure Still (s t : State) : Prop where
  answering : Answering s → Answering t
  ctxs : t.ctxs = s.ctxs
  poison : t.ter.poison = s.ter.poison
  flips : t.ter.flips = s.ter.flips
  unfilled : t.ter.unfilled = s.ter.unfilled

theorem chains_still : Chains Still where
  refl _ := ⟨id, rfl, rfl, rfl, rfl⟩
  trans h g := ⟨g.answering ∘ h.answering, g.ctxs.trans h.ctxs, g.poison.trans h.poison, g.flips.trans h.flips,
    g.unfilled.trans h.unfilled⟩

theorem still_foldl {γ : Type} (f : State → γ → State) (h : ∀ s a, Still s (f s a)) (l : List γ) (s : State) :
    Still s (l.foldl f s) := by
  induction l generalizing s with
  | nil => exact chains_still.refl s
  | cons a l ih => exact chains_still.trans (h s a) (ih _)

theorem still_mQueue (write : Bool) (c : Nat) (priv : Bool) (space a n : Nat) (s : State) :
    Still s (mQueue write c priv space a n s) := by
  obtain ⟨ps, h⟩ := mQueue_only write c priv space a n s
  rw [h]
  exact ⟨fun ⟨a, b, c⟩ => ⟨a, b, c⟩, rfl, rfl, rfl, rfl⟩

theorem still_setErr (b : Nat) (s : State) : Still s (setErr b s) := ⟨fun ⟨a, b, c⟩ => ⟨a, b, c⟩, rfl, rfl, rfl, rfl⟩

theorem still_countMarked (sl : Nat) (s : State) : Still s (countMarked sl s) :=
  ⟨fun ⟨a, b, c⟩ => ⟨a, b, c⟩, rfl, rfl, rfl, rfl⟩

/-- Memories of the surroundings and lines that change leave what is denied and poisoned. -/
theorem still_lines (ls : List CacheLine) (s : State) : Still s { s with ter := { s.ter with lines := ls } } :=
  ⟨fun ⟨a, b, c⟩ => ⟨a, b, c⟩, rfl, rfl, rfl, rfl⟩

theorem still_setExtMem (space : Nat) (m : Mem) (s : State) : Still s (setExtMem space m s) := by
  unfold setExtMem
  refine ⟨fun ⟨deny, stack, host⟩ => ?_, rfl, rfl, rfl, rfl⟩
  split <;> exact ⟨deny, stack, host⟩

theorem still_writeBack (l : CacheLine) (s : State) : Still s (writeBack l s) := by
  unfold writeBack
  split
  · exact still_setExtMem ..
  · exact chains_still.refl s

theorem still_fillLine (space x : Nat) (s : State) : Still s (fillLine space x s) := by
  have hR := chains_still
  have evicted (l : CacheLine) : Still s (evict l s) := by
    unfold evict
    dsimp only
    refine hR.trans ?_ (still_lines _ _)
    split
    · exact hR.trans (still_writeBack l s) (still_mQueue ..)
    · exact hR.refl s
  unfold fillLine
  split
  · exact still_lines _ s
  · refine hR.trans ?_ (still_foldl _ (fun s _ => still_countMarked _ s) _ _)
    rw [cacheAlloc_eq]
    refine hR.trans ?_ (still_lines _ _)
    rcases makeRoom_cases x s with h | ⟨l, -, h⟩
    · rw [h]
      exact hR.refl s
    · rw [h]
      exact evicted l

theorem still_cacheFill (space a n : Nat) (s : State) : Still s (cacheFill space a n s) := by
  by_cases h : cachedGroups s = 0 ∨ n = 0
  · rw [cacheFill_of_none space a n s h]
    exact chains_still.refl s
  · rw [cacheFill_of_some space a n s h]
    exact still_foldl _ (fun s x => still_fillLine space x s) _ s

theorem still_extRead (s : State) (c : Nat) (priv : Bool) (space a n : Nat) : Still s (extRead s c priv space a n).1 := by
  have queued := chains_still.trans (still_cacheFill space a n s) (still_mQueue false c priv space a n (cacheFill space a n s))
  unfold extRead
  split
  · exact still_setErr _ s
  · dsimp only
    split
    · exact queued
    · exact chains_still.trans queued (still_setErr _ _)

theorem extPoison_setExtMem (space : Nat) (m : Mem) (s : State) : extPoison (setExtMem space m s) space = extPoison s space := by
  unfold extPoison setExtMem
  split <;> rfl

/-- Poison that is taken from some words. -/
theorem still_setExtPoison (space : Nat) (l : List Nat) (s : State) (h : extPoison s space = [] → l = []) :
    Still s (setExtPoison space l s) := by
  unfold setExtPoison
  refine ⟨fun ⟨deny, stack, host⟩ => ?_, rfl, rfl, rfl, rfl⟩
  unfold extPoison at h
  split
  · rename_i first
    exact ⟨deny, h (by rw [if_pos first]; exact stack), host⟩
  · rename_i second
    exact ⟨deny, stack, h (by rw [if_neg second]; exact host)⟩

/-- A write that marks no word poisoned. -/
theorem still_extPut (space a : Nat) (bs : List Byte) (cached : Bool) (s : State) : Still s (extPut space a bs [] cached s) := by
  have hR := chains_still
  have written (ls : List CacheLine) : Still s (ls.foldl (fun s l => if cached then s else writeBack l s) s) := by
    refine still_foldl _ (fun s l => ?_) _ s
    split
    · exact hR.refl s
    · exact still_writeBack l s
  unfold extPut
  dsimp only
  refine hR.trans (hR.trans (written _) (still_setExtMem space _ _)) (hR.trans (still_setExtPoison space _ _ (fun none => ?_))
    (still_lines _ _))
  rw [extPoison_setExtMem] at none
  rw [none]
  rfl

theorem still_extWrite (s : State) (c : Nat) (priv : Bool) (space a : Nat) (bs : List Byte) (cached : Bool) :
    Still s (extWrite s c priv space a bs [] cached).1 := by
  unfold extWrite
  split
  · exact still_setErr _ s
  · exact chains_still.trans (still_extPut space a bs cached s) (still_mQueue ..)

/-- A read of the surroundings is answered with bytes none of which is poisoned. -/
theorem extRead_answers {s : State} (h : Answering s) (c : Nat) (priv : Bool) (space a n : Nat) :
    ∃ bs, (extRead s c priv space a n).2 = some (bs, []) := by
  obtain ⟨deny, stack, host⟩ := h
  have clean : extPoisonIn s space a n = [] := by
    unfold extPoisonIn extPoison
    split <;> simp [stack, host]
  unfold extRead extDenied
  rw [deny, clean]
  simp

theorem extWrite_answers {s : State} (h : Answering s) (c : Nat) (priv : Bool) (space a : Nat) (bs : List Byte)
    (pw : List Nat) (cached : Bool) : (extWrite s c priv space a bs pw cached).2 = true := by
  unfold extWrite extDenied
  rw [h.deny]
  simp

/-- A condition under which the surroundings answer, and that lasts while they do. -/
structure Calm (I : State → Prop) : Prop where
  answering : ∀ s, I s → Answering s
  still : ∀ s t, Still s t → I s → I t

theorem calm_answering : Calm Answering := ⟨fun _ h => h, fun _ _ h => h.answering⟩

end Sys2Proof.Proofs.Sequencer
end

section
/-!
PROOFS. Streams in stack or host memory (R66, R174, R204, R226, R510): their reads and writes are answered.
-/
namespace Sys2Proof.Proofs.Sequencer
open Sys2Proof.Machine Sys2Proof.Laws Sys2Proof.Claims Sys2Proof.Proofs.Arithmetic Sys2Proof.Proofs.Attention

/-- A stream in stack or host memory (R174). -/
abbrev Outer (x : Stream) : Prop := x.space = 1 ∨ x.space = 4

/-- The streams of a job, but those of some uses, lie in stack or host memory. -/
def Reaches (d : Desc) (but : List Nat) : Prop := ∀ x ∈ d.streams, x.use ∉ but → Outer x

theorem mem_of_byUse {d : Desc} {use : Nat} {x : Stream} (h : d.byUse use = some x) : x ∈ d.streams ∧ x.use = use :=
  ⟨List.mem_of_find?_eq_some h, by simpa using List.find?_some h⟩

theorem Reaches.byUse {d : Desc} {but : List Nat} {use : Nat} (h : Reaches d but) (hu : use ∉ but) :
    ∀ x, d.byUse use = some x → Outer x := by
  intro x hx
  obtain ⟨mem, named⟩ := mem_of_byUse hx
  exact h x mem (by rw [named]; exact hu)

theorem Reaches.all {d : Desc} (h : Reaches d []) : ∀ x ∈ d.streams, Outer x := fun x hx => h x hx List.not_mem_nil

theorem Reaches.stream {d : Desc} {sid : Nat} (h : Reaches d []) : ∀ x, d.stream sid = some x → Outer x :=
  fun x hx => h.all x (List.mem_of_find?_eq_some hx)

theorem Reaches.useOnly {d : Desc} {use : Nat} (h : Reaches d []) : ∀ x, d.byUse use = some x → Outer x :=
  h.byUse List.not_mem_nil

section
variable {I : State → Prop} (hI : Calm I)
include hI

/-! Reads. -/

/-- A read of outside memory that is checked for poison. -/
theorem succeeds_extRead {c space a n sid : Nat} {priv : Bool} : Succeeds I (get >>= fun s =>
    set (extRead s c priv space a n).1 >>= fun _ => match (extRead s c priv space a n).2 with
      | none => raise ⟨stRESOURCE, sid, 0, 0⟩
      | some (bs, pw) => if pw.isEmpty then pure bs else (raise ⟨stTERRACE_UE, sid, 0, 0⟩ : Eff (List Byte))) := by
  refine answers_get_set (fun s hs => hI.still s _ (still_extRead ..) hs) (fun s hs => ?_)
  obtain ⟨bs, read⟩ := extRead_answers (hI.answering s hs) c priv space a n
  rw [read]
  exact answers_pure trivial

theorem succeeds_streamRead {c ep : Nat} {x : Stream} {off n : Nat} (hx : Outer x) : Succeeds I (streamRead c ep x off n) := by
  unfold streamRead
  rcases hx with h | h <;> rw [h] <;> exact succeeds_then_pure (succeeds_extRead hI)

/-- The values of a row are those of codes of its format. -/
def RowOf (x : Stream) (row : List XV) : Prop :=
  isMx x.fmt = false → ∀ v ∈ row, ∃ n < 2 ^ streamBits x, v = (fmtOf x.fmt).val n

omit hI in
theorem plotImages_outer {s : State} {c : Nat} {x : Stream} (hx : Outer x) : plotImages s c x = false := by
  unfold plotImages
  rcases hx with h | h <;> simp [h]

theorem answers_rowVals {j : Job} {ep : Nat} {x : Stream} {r col0 n : Nat} (hx : Outer x) :
    Answers I (RowOf x) (rowVals j ep x r col0 n) := by
  have read {off m : Nat} : Succeeds I (streamRead j.ctx ep x off m) := succeeds_streamRead hI hx
  have space : ¬ x.space = 2 := by rcases hx with h | h <;> rw [h] <;> decide
  unfold rowVals
  refine answers_get_then (fun s _ => ?_)
  rw [if_neg space, plotImages_outer hx, if_neg Bool.false_ne_true]
  refine answers_then read (fun bs => ?_)
  obtain ⟨bs, tags⟩ := bs
  dsimp only
  by_cases mx : isMx x.fmt = true
  · rw [if_pos mx]
    have any (row : List XV) : RowOf x row := fun h => absurd (mx.symm.trans h) (by decide)
    exact answers_ite (answers_then read (fun _ => answers_pure (any _))) (answers_then read (fun _ => answers_pure (any _)))
  · rw [if_neg mx]
    refine answers_pure (fun _ v hv => ?_)
    obtain ⟨code, hcode, rfl⟩ := List.mem_map.mp hv
    obtain ⟨i, -, rfl⟩ := List.mem_map.mp hcode
    exact ⟨_, Nat.mod_lt _ (Nat.two_pow_pos _), rfl⟩

theorem succeeds_rowVals {j : Job} {ep : Nat} {x : Stream} {r col0 n : Nat} (hx : Outer x) :
    Succeeds I (rowVals j ep x r col0 n) := (answers_rowVals hI hx).succeeds

theorem succeeds_rowWords {j : Job} {ep : Nat} {x : Stream} {r col0 n : Nat} (hx : Outer x) :
    Succeeds I (rowWords j ep x r col0 n) := succeeds_then_pure (succeeds_streamRead hI hx)

/-! Writes. -/

theorem succeeds_extWrite {c space a sid : Nat} {priv cached : Bool} {bs : List Byte} : Succeeds I (get >>= fun s =>
    set (extWrite s c priv space a bs [] cached).1 >>= fun _ => if (extWrite s c priv space a bs [] cached).2 then
      pure [] else (raise ⟨stRESOURCE, sid, 0, 0⟩ : Eff (List Nat))) := by
  refine answers_get_set (fun s hs => hI.still s _ (still_extWrite ..) hs) (fun s hs => ?_)
  rw [extWrite_answers (hI.answering s hs), if_pos rfl]
  exact answers_pure trivial

theorem succeeds_spanWrite {w : Writer} {x : Stream} {sp : WSpan} (hx : Outer x) : Succeeds I (spanWrite w x sp) := by
  unfold spanWrite
  rcases hx with h | h <;> rw [h] <;> exact succeeds_extWrite hI

theorem succeeds_streamWrite {w : Writer} {x : Stream} {sps : List WSpan} (hx : Outer x) :
    Succeeds I (streamWrite w x sps) :=
  succeeds_then_pure (succeeds_mapM _ (fun _ _ => succeeds_spanWrite hI hx))

omit hI in
/-- A change of jobs, Pavilions and trace. -/
theorem still_of_eq {s t : State} (ext : t.ext = s.ext) (ter : t.ter = s.ter) (ctxs : t.ctxs = s.ctxs) : Still s t := by
  refine ⟨fun ⟨a, b, c⟩ => ⟨?_, ?_, ?_⟩, ctxs, ?_, ?_, ?_⟩
  · rw [ext, a]
  · rw [ext, b]
  · rw [ext, c]
  · rw [ter]
  · rw [ter]
  · rw [ter]

theorem succeeds_modify {f : State → State} (hf : ∀ s, Still s (f s)) : Succeeds I (modifyThe State f : Eff Unit) :=
  succeeds_modifyThe (fun s hs => hI.still s _ (hf s) hs)

omit hI in
theorem still_noteOut (c : Nat) (seq : BitVec 32) (x : Stream) (vs : List XV) (s : State) : Still s (noteOut c seq x vs s) := by
  unfold noteOut
  split
  · exact chains_still.refl s
  · split
    · exact chains_still.refl s
    · exact still_of_eq rfl rfl rfl

theorem succeeds_writeTo {e : Env} {x : Option Stream} {r0 col0 : Nat} {rows : List (List XV)} (hx : ∀ y, x = some y → Outer y) :
    Succeeds I (writeTo e x r0 col0 rows) := by
  unfold writeTo
  split
  · exact answers_pure trivial
  · exact answers_then (succeeds_streamWrite hI (hx _ rfl)) (fun _ =>
      succeeds_then_pure (succeeds_modify hI (fun s => still_noteOut ..)))

/-! The steps that the meanings share. -/

section
variable {e : Env}

omit hI in
theorem succeeds_prog : Succeeds I e.prog := by
  intro s hs
  exact ⟨_, s, exec_prog e s, hs, trivial⟩

theorem succeeds_progModify {f : Prog → Prog} : Succeeds I (e.modify f) :=
  succeeds_modify hI (fun s => by
    rw [modProg_only]
    exact still_of_eq rfl rfl rfl)

theorem succeeds_countMaskedRows {rows : List Nat} : Succeeds I (countMaskedRows e rows) :=
  succeeds_modify hI (fun _ => still_of_eq rfl rfl rfl)

theorem succeeds_maskBits {i : Nat} (hx : ∀ x, e.j.desc.byUse uMASK = some x → Outer x) : Succeeds I (maskBits e i) := by
  unfold maskBits
  split
  · exact answers_pure trivial
  · rename_i x h
    exact succeeds_then_pure (succeeds_streamRead hI (hx x h))

theorem succeeds_rowScalar {use i : Nat} (hx : ∀ x, e.j.desc.byUse use = some x → Outer x) : Succeeds I (rowScalar e use i) := by
  unfold rowScalar
  split
  · exact answers_pure trivial
  · rename_i x h
    exact succeeds_then_pure (succeeds_rowVals hI (hx x h))

omit hI in
theorem succeeds_peekEff {α : Type} {m : Eff α} {dflt : α} : Succeeds I (peekEff m dflt) :=
  answers_get_then (fun s _ => by split <;> exact answers_pure trivial)

omit hI in
theorem succeeds_rowOpen {i : Nat} : Succeeds I (rowOpen e i) :=
  answers_ite (succeeds_then_pure (succeeds_peekEff)) (succeeds_then_pure (answers_pure trivial))

theorem succeeds_streamRows {x : Stream} {r0 n cols : Nat} (hx : Outer x) : Succeeds I (streamRows e x r0 n cols) :=
  succeeds_mapM _ (fun _ _ => succeeds_rowVals hI hx)

theorem succeeds_optRows {on : Bool} {use r0 n cols : Nat} (hx : ∀ x, e.j.desc.byUse use = some x → Outer x) :
    Succeeds I (optRows e on use r0 n cols) := by
  unfold optRows
  split
  · exact answers_pure trivial
  · rename_i x h
    refine succeeds_streamRows hI (hx x ?_)
    cases on
    · cases h
    · exact h

omit hI in
theorem succeeds_outRows {m n : Nat} : Succeeds I (outRows e m n) := succeeds_then_pure (succeeds_prog)

theorem succeeds_gradWrite {x : Stream} {r0 : Nat} {rows : List (List CV)} (hx : Outer x) : Succeeds I (gradWrite e x r0 rows) :=
  succeeds_then_pure (succeeds_writeTo hI (fun _ hy => Option.some.inj hy ▸ hx))

section
variable (hd : Reaches e.j.desc [])
include hd

theorem succeeds_finalise {x : Stream} {qt : Nat} {lse : Bool} {rows : List FinRow} (hx : Outer x) :
    Succeeds I (finalise e x qt lse rows) := by
  refine answers_then (succeeds_countMaskedRows hI) (fun _ => answers_then (succeeds_optRows hI hd.useOnly) (fun _ =>
    answers_then (succeeds_optRows hI hd.useOnly) (fun _ => ?_)))
  refine answers_then (succeeds_writeTo hI (fun _ hy => Option.some.inj hy ▸ hx)) (fun _ =>
    answers_then (succeeds_writeTo hI hd.useOnly) (fun _ => succeeds_then_pure (succeeds_writeTo hI (fun y hy => ?_))))
  cases lse
  · cases hy
  · exact hd.useOnly y hy

theorem succeeds_outputRows {qt : Nat} : Succeeds I (outputRows e qt) := by
  unfold outputRows
  refine answers_then (succeeds_prog) (fun g => ?_)
  dsimp only
  split
  · rename_i x h
    have hx : Outer x := by
      split at h
      · exact hd.useOnly x h
      · cases h
    exact succeeds_mapM _ (fun r _ => answers_then (succeeds_rowWords hI hx) (fun ws => succeeds_then_pure succeeds_rowOpen))
  · exact succeeds_then_pure succeeds_outRows

end

/-! Copies (R258, R501). -/

theorem answers_copyRead {x : Stream} {off n : Nat} (hx : Outer x) : Answers I (fun c => c.bad = []) (copyRead e x off n) := by
  have outside {sid space a m : Nat} {priv : Bool} :
      Answers I (fun c => c.bad = []) (copyOutside e sid space a m priv) := by
    refine answers_get_set (g := fun s => (extRead s e.g.ctx priv space a m).1)
      (k := fun s => match (extRead s e.g.ctx priv space a m).2 with
        | none => raise ⟨stRESOURCE, sid, 0, 0⟩
        | some (bs, pw) => pure (⟨bs, [], pw.map (fun w => ((8 * w : Nat) : Int) - (a : Int))⟩ : Copied))
      (fun s hs => hI.still s _ (still_extRead ..) hs) (fun s hs => ?_)
    obtain ⟨bs, read⟩ := extRead_answers (hI.answering s hs) e.g.ctx priv space a m
    rw [read]
    exact answers_pure rfl
  unfold copyRead
  rcases hx with h | h <;> rw [h] <;> exact outside

theorem succeeds_copyWrite {y : Stream} {off : Nat} {c : Copied} (hy : Outer y) (clean : c.bad = []) :
    Succeeds I (copyWrite e y off c) := by
  have none : badWords (y.base + off) c.data.length c.bad = [] := by
    rw [clean]
    unfold badWords
    exact List.filterMap_eq_nil_iff.mpr (fun _ _ => rfl)
  unfold copyWrite
  rcases hy with h | h <;> rw [h] <;> dsimp only <;> rw [none] <;> exact succeeds_extWrite hI

end

end

end Sys2Proof.Proofs.Sequencer
end

section
/-!
PROOFS. LOAD and MMA complete (R35, R178, R179, R181): the command of a meaning that answers issues; the rows of a stream within
its bound pass their check, and the operands of an MMA that fit each other make a product.
-/
namespace Sys2Proof.Proofs.Sequencer
open Sys2Proof.Machine Sys2Proof.Laws Sys2Proof.Claims Sys2Proof.Proofs.Arithmetic Sys2Proof.Proofs.Attention

/-- The context that a ready command's meaning runs in. -/
abbrev headEnv (s : State) (p : PavId) (q : PSlot) (k : Nat) (g : Prog) (j : Job) (c : QCmd) : Env :=
  ⟨p.val, q, headTaken s k g j c, j, c⟩

section
variable {s : State} {p : PavId} {q : PSlot} {arr : Fin 2} {g : Prog} {j : Job} {c : QCmd}

theorem ok_of_succeeds {α : Type} {I : State → Prop} {m : Eff α} {s : State} (h : Succeeds I m) (hs : I s) :
    ∃ a, (m.exec s).1 = .ok a := by
  obtain ⟨a, t, run, -⟩ := h s hs
  exact ⟨a, congrArg Prod.fst run⟩

/-- A ready command whose meaning ends with a result issues. -/
theorem issues_of_ok {i : Instr × Nat × Nat × Body} (member : i ∈ tileInstrs p q arr) (hr : Ready s p q i.2.1 i.2.2.1 g j c)
    (done : ∃ a, ((i.2.2.2 (headEnv s p q i.2.1 g j c)).exec (issueStart s p.val q i.2.1 g j c)).1 = .ok a) :
    Issues s i.1 p q i.2.1 g c := by
  obtain ⟨⟨evs, stags⟩, run⟩ := done
  obtain ⟨t, h, hex, issued, -⟩ := tile_issues hr (tileInstrs_keep p q arr i member) run
  exact ⟨t, h, stags, (exec_tileInstrs p q arr i member s).trans hex, issued⟩

theorem issues_of_succeeds {I : State → Prop} {i : Instr × Nat × Nat × Body} (member : i ∈ tileInstrs p q arr)
    (hr : Ready s p q i.2.1 i.2.2.1 g j c) (start : I (issueStart s p.val q i.2.1 g j c))
    (done : Succeeds I (i.2.2.2 (headEnv s p q i.2.1 g j c))) : Issues s i.1 p q i.2.1 g c :=
  issues_of_ok member hr (ok_of_succeeds done start)

/-- What a served job's streams are read and written from. -/
theorem answering_of_served {d : Desc} {but : List Nat} (h : Served s d but) : Answering s := ⟨h.1, h.2.1, h.2.2.1⟩

theorem reaches_of_served {d : Desc} {but : List Nat} (h : Served s d but) : Reaches d but := h.2.2.2

theorem answering_issueStart {k : Nat} (h : Answering s) : Answering (issueStart s p.val q k g j c) := ⟨h.deny, h.stack, h.host⟩

end

/-! LOAD. -/

theorem loadExceeds_eq_none {xbnd : Int} {r0 : Nat} {rows : List (List DV)}
    (h : ∀ row ∈ rows, ∀ v ∈ row, v.exceeds xbnd = false) : loadExceeds xbnd r0 rows = none := by
  refine List.findSome?_eq_none_iff.mpr (fun r hr => ?_)
  have lt : r < rows.length := List.mem_range.mp hr
  dsimp only
  rw [Option.map_eq_none_iff, List.find?_eq_none, List.getD_eq_getElem _ _ lt]
  intro col hcol
  have within := h _ (List.getElem_mem lt) _ (List.getElem_mem (List.mem_range.mp hcol))
  rw [List.getD_eq_getElem _ _ (List.mem_range.mp hcol), within]
  exact Bool.false_ne_true

/-- A row of codes of a format within its stream's bound exceeds it nowhere. -/
theorem not_exceeds_of_bounded {x : Stream} (bounded : Bounded x) {row : List XV} (hrow : RowOf x row) :
    ∀ v ∈ row, v.dv.exceeds x.xbnd = false := by
  intro v hv
  obtain ⟨n, hn, rfl⟩ := hrow bounded.1 v hv
  exact bounded.2 n hn

/-- A row loaded without a prologue holds values of the stored row. -/
theorem mem_of_mem_loadRow {d : Desc} {pr : Params} {x : Stream} {i : Nat} {row : List XV} {v : CV}
    (plain : d.hasPro x.use = false) (h : v ∈ loadRow d pr x i row) : v.x ∈ row := by
  unfold loadRow at h
  dsimp only at h
  rw [if_neg (by simp [plain])] at h
  obtain ⟨a, ha, rfl⟩ := List.mem_map.mp h
  have within := List.mem_of_mem_take ha
  show a ∈ row
  split at within
  · exact List.mem_of_mem_drop within
  · exact within

section
variable {I : State → Prop} (hI : Calm I) {e : Env} {x : Stream}
include hI

theorem answers_loadRows (hx : Outer x) (bounded : Bounded x) (plain : e.j.desc.hasPro x.use = false) :
    Answers I (fun rows => ∀ row ∈ rows, ∀ v ∈ row, v.x.dv.exceeds x.xbnd = false) (loadRows e x) :=
  answers_mapM _ (Q := fun row => ∀ v ∈ row, v.x.dv.exceeds x.xbnd = false) (fun _ _ =>
    answers_bind (answers_rowVals hI hx) (fun _ hrow => answers_pure (fun _ hv =>
      not_exceeds_of_bounded bounded hrow _ (mem_of_mem_loadRow plain hv))))

theorem succeeds_loadEnter {rows : List (List CV)} (h : ∀ row ∈ rows, ∀ v ∈ row, v.x.dv.exceeds x.xbnd = false) :
    Succeeds I (loadEnter e x rows) := by
  have within : loadExceeds x.xbnd ((tref e.w e.c.regs).toNat * tileRows e.j.desc x.use) (loadTile e x rows).rows = none := by
    refine loadExceeds_eq_none (fun row hrow v hv => ?_)
    obtain ⟨row, mem, rfl⟩ := List.mem_map.mp hrow
    obtain ⟨v, inside, rfl⟩ := List.mem_map.mp hv
    exact h row mem v inside
  unfold loadEnter
  rw [within]
  exact succeeds_then_pure (succeeds_progModify hI)

theorem succeeds_loadBody (stream : e.j.desc.stream (bits e.w 66 8) = some x) (hx : Outer x) (bounded : Bounded x)
    (plain : e.j.desc.hasPro x.use = false) : Succeeds I (loadBody e) := by
  rw [loadBody_of_stream stream, if_neg (by rcases hx with h | h <;> rw [h] <;> decide)]
  exact answers_bind (answers_loadRows hI hx bounded plain) (fun _ h => succeeds_loadEnter hI h)

end

/-! MMA. -/

/-- The matrix that a tile gives in the order of its rows. -/
def tileMatrix (t : OpTile) : List (List (Option DV)) := t.rows.map (fun r => r.map some)

section
variable {e : Env} {g : Prog}

/-- An untransposed operand that its array's buffers hold. -/
theorem operand_of_buffers {s : State} {arr grid src fe : Nat} {isB : Bool} {t : OpTile} (hg : getProg s e.p e.q = some g)
    (low : src ≤ 1) (held : (if src = 0 then residentTile g arr grid isB else (tget g.fifo arr []).head?) = some t) :
    (operand e arr grid src fe 0 isB).exec s = (.ok (tileMatrix t), takeOperand e arr src s) := by
  unfold operand
  rw [exec_bind, exec_prog, hg]
  dsimp only [Option.getD_some]
  rcases Nat.le_one_iff_eq_zero_or_eq_one.mp low with rfl | rfl
  · rw [if_pos rfl] at held
    rw [held]
    rfl
  · rw [if_neg Nat.one_ne_zero] at held
    rw [held]
    rfl

/-- What the second operand finds: the resident tiles, and the FIFO without what the first popped. -/
theorem held_popOperand (arr a grid : Nat) (isB : Bool) : residentTile (popOperand arr a g) arr grid isB =
    residentTile g arr grid isB ∧ tget (popOperand arr a g).fifo arr [] = (tget g.fifo arr []).drop (operandPops a) := by
  unfold popOperand operandPops
  split
  · exact ⟨rfl, (tget_tset ..).trans (if_pos rfl)⟩
  · exact ⟨rfl, rfl⟩

theorem length_headD_tileMatrix {t : OpTile} {n : Nat} (rows : t.rows ≠ []) (h : ∀ row ∈ t.rows, row.length = n) :
    ((tileMatrix t).headD []).length = n := by
  unfold tileMatrix
  rcases hr : t.rows with - | ⟨row, rest⟩
  · exact absurd hr rows
  · exact (List.length_map _).trans (h row (by rw [hr]; exact List.mem_cons_self))

theorem length_transpose (m : List (List (Option DV))) : (transpose m).length = (m.headD []).length := by
  simp [transpose]

/-- The meaning of an MMA whose operands stand in its array's buffers and fit each other. -/
theorem mmaBody_succeeds {s : State} {x y : OpTile} {n : Nat} (hg : getProg s e.p e.q = some g)
    (a : bits e.w 65 2 ≤ 1) (b : bits e.w 67 2 ≤ 1) (ta : bits e.w 83 1 = 0) (tb : bits e.w 84 1 = 0) (grid : bits e.w 91 4 ≠ 7)
    (hx : (if bits e.w 65 2 = 0 then residentTile g (queueOf e.w) (bits e.w 91 4) false
      else (tget g.fifo (queueOf e.w) []).head?) = some x)
    (hy : (if bits e.w 67 2 = 0 then residentTile g (queueOf e.w) (bits e.w 91 4) true
      else ((tget g.fifo (queueOf e.w) []).drop (operandPops (bits e.w 65 2))).head?) = some y)
    (some_x : x.rows ≠ []) (some_y : y.rows ≠ []) (inner : ∀ row ∈ x.rows, row.length = y.rows.length)
    (outer : ∀ row ∈ y.rows, row.length = n) (tiles : tilesOf x.rows.length n ≤ bits e.w 87 4 + 1) :
    ∃ r, ((mmaBody e).exec s).1 = .ok r := by
  obtain ⟨resident, fifo⟩ := held_popOperand (g := g) (queueOf e.w) (bits e.w 65 2) (bits e.w 91 4) true
  have popped : getProg (takeOperand e (queueOf e.w) (bits e.w 65 2) s) e.p e.q =
      some (popOperand (queueOf e.w) (bits e.w 65 2) g) := by
    rw [getProg_takeOperand, hg]
    rfl
  rw [← resident, ← fifo] at hy
  have fits : ¬ ((((tileMatrix x).headD []).length != (tileMatrix y).length ||
      (decide (bits e.w 87 4 + 1 < tilesOf (tileMatrix x).length (transpose (tileMatrix y)).length) &&
        !(bits e.w 91 4 == 0 && e.j.desc.jtype == 1))) = true) := by
    rw [length_transpose, length_headD_tileMatrix some_x inner, length_headD_tileMatrix some_y outer, tileMatrix, tileMatrix,
      List.length_map, List.length_map, decide_eq_false (Nat.not_lt.mpr tiles)]
    simp
  have modified {f : State → State} : Succeeds (fun _ => True) (modifyThe State f : Eff Unit) :=
    succeeds_modifyThe (fun _ _ => trivial)
  unfold mmaBody
  dsimp only
  rw [exec_bind, ta, operand_of_buffers hg a hx]
  dsimp only
  rw [exec_bind, tb, operand_of_buffers popped b hy]
  dsimp only
  rw [if_neg grid, if_neg fits]
  exact ok_of_succeeds (answers_then succeeds_prog (fun g => answers_then modified (fun _ =>
    answers_then succeeds_prog (fun _ => answers_then modified (fun _ => answers_then modified (fun _ =>
      answers_then modified (fun _ => answers_pure trivial)))))))
    trivial

end

/-! The clauses of O44 on LOAD and MMA. -/

section
variable {s : State} {p : PavId} {q : PSlot} {g : Prog} {j : Job} {c : QCmd}

theorem load_issues {x : Stream} (hr : Ready s p q 3 oLOAD g j c) (served : Served s j.desc [])
    (stream : j.desc.stream (bits c.word.toNat 66 8) = some x) (bounded : Bounded x) (plain : j.desc.hasPro x.use = false) :
    Issues s (.load p q) p q 3 g c :=
  issues_of_succeeds (i := (.load p q, 3, oLOAD, loadBody)) (arr := 0) (by simp [tileInstrs]) hr
    (answering_issueStart (answering_of_served served))
    (succeeds_loadBody calm_answering stream ((reaches_of_served served).stream x stream) bounded plain)

theorem mma_issues {arr : Fin 2} {x y : OpTile} {n : Nat} (hr : Ready s p q arr.val oMMA g j c)
    (operands : let w := c.word.toNat
      let fifo := tget g.fifo (queueOf w) []
      let popA := if bits w 65 2 = 1 then 1 else 0
      bits w 65 2 ≤ 1 ∧ bits w 67 2 ≤ 1 ∧ bits w 83 1 = 0 ∧ bits w 84 1 = 0 ∧ bits w 91 4 ≠ 7 ∧
        (if bits w 65 2 = 0 then residentTile g (queueOf w) (bits w 91 4) false else fifo.head?) = some x ∧
        (if bits w 67 2 = 0 then residentTile g (queueOf w) (bits w 91 4) true else (fifo.drop popA).head?) = some y)
    (some_x : x.rows ≠ []) (some_y : y.rows ≠ []) (inner : ∀ row ∈ x.rows, row.length = y.rows.length)
    (outer : ∀ row ∈ y.rows, row.length = n) (tiles : tilesOf x.rows.length n ≤ bits c.word.toNat 87 4 + 1) :
    Issues s (.mma p q arr) p q arr.val g c := by
  obtain ⟨a, b, ta, tb, grid, hx, hy⟩ := operands
  have kept := sameTiles_headTaken s arr.val g j c
  have resident (grid : Nat) (isB : Bool) : residentTile g (queueOf c.word.toNat) grid isB =
      residentTile (headTaken s arr.val g j c) (queueOf c.word.toNat) grid isB := by
    unfold residentTile
    rw [kept.resident]
  rw [resident, ← kept.fifo] at hx hy
  exact issues_of_ok (i := (.mma p q arr, arr.val, oMMA, mmaBody)) (arr := arr) (by simp [tileInstrs]) hr
    (mmaBody_succeeds (e := headEnv s p q arr.val g j c) (getProg_issueStart ..) a b ta tb grid hx hy some_x some_y inner outer
      tiles)

end

end Sys2Proof.Proofs.Sequencer
end

section
/-!
PROOFS. DRAIN, EPI, PART, COMB, MAXC, ROWP and PREF complete (R58, R62, R83, R86, R95, R105, R140, R178, R258, R514) where every
stream of the job is served.
-/
namespace Sys2Proof.Proofs.Sequencer
open Sys2Proof.Machine Sys2Proof.Laws Sys2Proof.Claims Sys2Proof.Proofs.Arithmetic Sys2Proof.Proofs.Attention

/-! The streams that a command names. -/

/-- A stream that a checked command names is declared (R199). -/
theorem stream_of_cmdOk {d : Desc} {w sid : Nat} (h : cmdOk d w = true) (named : sid ∈ cmdSids w) :
    ∃ x, d.stream sid = some x := by
  simp only [cmdOk, Bool.and_eq_true] at h
  obtain ⟨⟨-, declared⟩, -⟩ := h
  exact Option.isSome_iff_exists.mp (List.all_eq_true.mp declared sid named)

theorem cmdSids_epi {w : Nat} (h : cOpc w = oEPI) : cmdSids w = [bits w 73 8] := by
  unfold cmdSids
  rw [h]
  rfl

theorem cmdSids_comb {w : Nat} (h : cOpc w = oCOMB) : cmdSids w = [bits w 65 8, bits w 73 8, bits w 81 8] := by
  unfold cmdSids
  rw [h]
  rfl

theorem cmdSids_fin {w : Nat} (h : cOpc w = oFIN) : cmdSids w = [bits w 65 8, bits w 97 8] := by
  unfold cmdSids
  rw [h]
  rfl

theorem cmdSids_pair {w : Nat} (h : cOpc w = oROWP ∨ cOpc w = oPREF) : cmdSids w = [bits w 65 8, bits w 73 8] := by
  unfold cmdSids
  rcases h with h | h <;> rw [h] <;> rfl

/-- The MAX stream of lowest SID is a stream of the job. -/
theorem mem_of_maxDest {d : Desc} {x : Stream} (h : maxDest d = some x) : x ∈ d.streams := by
  unfold maxDest at h
  refine List.foldlRecOn (motive := fun b => ∀ y, b = some y → y ∈ d.streams) _ _ (fun y hy => by cases hy)
    (fun b hb y hy z hz => ?_) x h
  have mem := (List.mem_filter.mp hy).1
  split at hz
  · exact Option.some.inj hz ▸ mem
  · split at hz
    · exact Option.some.inj hz ▸ mem
    · exact hb z hz

section
variable {I : State → Prop} (hI : Calm I) {e : Env} (hd : Reaches e.j.desc [])
include hI hd

/-! DRAIN. -/

theorem succeeds_drainScores {arr acc kt : Nat} : Succeeds I (drainScores e arr acc kt) := by
  refine answers_then succeeds_prog (fun g => succeeds_mapM _ (fun r _ => ?_))
  have scored (mb : Nat) : Succeeds I (do
      let lam ← if e.j.desc.jtype = 2 then rowScalar e uLSE (e.c.qt * e.j.desc.q + r) else pure XV.zero
      pure (lam, scoreRow e.j.desc e.j.params.seg arr (e.c.qt * e.j.desc.q + r) kt mb lam
        (accEls g arr acc e.j.desc.q e.j.desc.k (tilesHeld g arr acc e.j.desc.q e.j.desc.k) r))) :=
    answers_ite (succeeds_then_pure (succeeds_rowScalar hI hd.useOnly)) (answers_pure trivial)
  exact answers_ite (answers_then (succeeds_maskBits hI hd.useOnly) scored) (scored 0)

omit hd in
theorem succeeds_noteDump {kt : Nat} : Succeeds I (noteDump e kt) :=
  answers_ite (answers_then (succeeds_filterM _ (fun _ => succeeds_then_pure succeeds_rowOpen)) (fun _ =>
    succeeds_countMaskedRows hI)) (answers_pure trivial)

omit hd in
theorem succeeds_noteLambda {kt : Nat} {lams : List XV} : Succeeds I (noteLambda e kt lams) :=
  answers_ite (succeeds_countMaskedRows hI) (answers_pure trivial)

theorem succeeds_drainFwd {dm arr acc fe kt : Nat} : Succeeds I (drainFwd e dm arr acc fe kt) := by
  refine answers_then (succeeds_drainScores hI hd) (fun sc => answers_then (succeeds_writeTo hI (fun y hy => ?_)) (fun w =>
    answers_optional (succeeds_noteDump hI) (answers_ite (answers_pure trivial) (answers_then succeeds_prog (fun g =>
      answers_then (succeeds_progModify hI) (fun _ => succeeds_then_pure (succeeds_writeTo hI (fun y hy => ?_))))))))
  · split at hy
    · exact hd.useOnly y hy
    · cases hy
  · by_cases first : dm = 1
    · rw [if_pos first] at hy
      exact hd.all y (mem_of_maxDest hy)
    · rw [if_neg first] at hy
      cases hy

theorem succeeds_drainP {arr acc fe kt : Nat} : Succeeds I (drainP e arr acc fe kt) :=
  answers_then (succeeds_drainScores hI hd) (fun _ => answers_then (succeeds_noteLambda hI) (fun _ =>
    succeeds_then_pure (succeeds_progModify hI)))

/-- DMODE 4 once it has the p_f. -/
theorem succeeds_drainFrom {α : Type} {use : Nat} {f : XV → Nat → α} {put : List α → Prog → Prog}
    {evs : List α → List Ev × List Nat} : Succeeds I (do
      let ds ← (List.range e.j.desc.q).mapM (fun r => do
        let v ← rowScalar e use (e.c.qt * e.j.desc.q + r)
        pure (f v r))
      e.modify (put ds)
      pure (evs ds)) :=
  answers_then (succeeds_mapM _ (fun _ _ => succeeds_then_pure (succeeds_rowScalar hI hd.useOnly))) (fun _ =>
    succeeds_then_pure (succeeds_progModify hI))

/-- DMODE 4 finds the p_f of a DMODE 3 drain of its KT (R514). -/
theorem drainDs_ok {s : State} {g : Prog} {arr acc fe kt : Nat} (hs : I s) (hg : getProg s e.p e.q = some g)
    (drained : ∃ f ∈ g.pf, f.kt = kt) : ∃ a, ((drainDs e arr acc fe kt).exec s).1 = .ok a := by
  have some_cand : g.pf.filter (fun f => f.kt == kt) ≠ [] := by
    obtain ⟨f, hf, rfl⟩ := drained
    exact List.ne_nil_of_mem (List.mem_filter.mpr ⟨hf, beq_self_eq_true _⟩)
  unfold drainDs
  dsimp only
  rw [exec_bind, exec_prog, hg]
  dsimp only [Option.getD_some]
  cases (g.pf.filter (fun f => f.kt == kt)).find? (fun f => f.row0 == e.c.qt * e.j.desc.q) with
  | none =>
    rw [List.getLast?_eq_some_getLast some_cand]
    exact ok_of_succeeds (succeeds_drainFrom hI hd) hs
  | some f => exact ok_of_succeeds (succeeds_drainFrom hI hd) hs

theorem drainBody_ok {s : State} {g : Prog} (hs : I s) (hg : getProg s e.p e.q = some g)
    (drained : bits e.w 75 3 = 4 → ∃ f ∈ g.pf, f.kt = (tref e.w e.c.regs).toNat) :
    ∃ a, ((drainBody e).exec s).1 = .ok a := by
  have counted : I (perfEvent e.p 0x05 (e.j.desc.q * e.j.desc.k) s) := hI.still s _ (still_of_eq rfl rfl rfl) hs
  unfold drainBody
  dsimp only
  rw [exec_bind, exec_modifyThe]
  dsimp only
  split
  · exact ok_of_succeeds (succeeds_drainP hI hd) counted
  · rename_i mode
    exact drainDs_ok hI hd counted ((getProg_perfEvent ..).trans hg) (drained mode)
  · exact ok_of_succeeds (succeeds_drainFwd hI hd) counted

/-! The commands that write results. -/

theorem succeeds_epiBody (h : ∃ x, e.j.desc.stream (bits e.w 73 8) = some x) : Succeeds I (epiBody e) := by
  obtain ⟨x, stream⟩ := h
  have hx := hd.stream x stream
  unfold epiBody
  dsimp only
  rw [stream]
  exact answers_ite (answers_then succeeds_outRows (fun _ => succeeds_gradWrite hI hx)) (answers_ite (answers_pure trivial)
    (answers_then (succeeds_outputRows hI hd) (fun _ => succeeds_finalise hI hd hx)))

theorem succeeds_partBody : Succeeds I (partBody e) :=
  answers_ite (answers_pure trivial) (answers_then succeeds_prog (fun _ => answers_then succeeds_outRows (fun _ =>
    succeeds_then_pure (succeeds_writeTo hI hd.stream))))

theorem succeeds_combBody (hl : ∃ x, e.j.desc.stream (bits e.w 65 8) = some x)
    (hr : ∃ x, e.j.desc.stream (bits e.w 73 8) = some x) (ho : ∃ x, e.j.desc.stream (bits e.w 81 8) = some x) :
    Succeeds I (combBody e) := by
  obtain ⟨l, left⟩ := hl
  obtain ⟨r, right⟩ := hr
  obtain ⟨x, out⟩ := ho
  have hx := hd.stream x out
  unfold combBody
  dsimp only
  rw [left, right, out]
  refine answers_ite (answers_pure trivial) (answers_then (succeeds_streamRows hI (hd.stream l left)) (fun _ =>
    answers_then (succeeds_streamRows hI (hd.stream r right)) (fun _ => ?_)))
  exact answers_ite (succeeds_then_pure (succeeds_finalise hI hd hx))
    (succeeds_then_pure (succeeds_writeTo hI (fun _ hy => Option.some.inj hy ▸ hx)))

theorem succeeds_maxcBody : Succeeds I (maxcBody e) := by
  refine answers_then (succeeds_mapM _ (fun x hx => succeeds_streamRows hI ?_)) (fun _ =>
    answers_then (succeeds_writeTo hI hd.stream) (fun _ => succeeds_then_pure (succeeds_progModify hI)))
  obtain ⟨i, -, named⟩ := List.mem_filterMap.mp hx
  exact hd.stream x named

theorem succeeds_rowpBody (hx : ∃ x, e.j.desc.stream (bits e.w 65 8) = some x)
    (hy : ∃ x, e.j.desc.stream (bits e.w 73 8) = some x) : Succeeds I (rowpBody e) := by
  obtain ⟨x, source⟩ := hx
  obtain ⟨y, dest⟩ := hy
  unfold rowpBody
  dsimp only
  rw [source, dest]
  refine succeeds_then_pure (succeeds_mapM _ (fun _ _ => answers_then (succeeds_streamRows hI (hd.stream x source)) (fun _ => ?_)))
  exact answers_then (succeeds_optRows hI hd.useOnly) (fun _ => answers_then (succeeds_optRows hI hd.useOnly) (fun _ =>
    succeeds_then_pure (succeeds_writeTo hI (fun _ h => Option.some.inj h ▸ hd.stream y dest))))

theorem succeeds_prefBody (hx : ∃ x, e.j.desc.stream (bits e.w 65 8) = some x)
    (hy : ∃ x, e.j.desc.stream (bits e.w 73 8) = some x) : Succeeds I (prefBody e) := by
  obtain ⟨x, source⟩ := hx
  obtain ⟨y, dest⟩ := hy
  have from_ := hd.stream x source
  have to_ := hd.stream y dest
  unfold prefBody
  dsimp only
  rw [source, dest]
  dsimp only
  rw [if_neg (by rcases from_ with h | h <;> rw [h] <;> decide)]
  refine answers_ite ?whole ?units
  case whole =>
    exact answers_bind (answers_copyRead hI from_) (fun _ clean => succeeds_then_pure (succeeds_copyWrite hI to_ clean))
  case units =>
    exact succeeds_then_pure (succeeds_mapM _ (fun _ _ =>
      answers_bind (answers_copyRead hI from_) (fun _ clean => succeeds_copyWrite hI to_ clean)))

end

/-! The clauses of O44 on them. -/

section
variable {s : State} {p : PavId} {q : PSlot} {g : Prog} {j : Job} {c : QCmd}

theorem pf_headTaken (s : State) (k : Nat) (g : Prog) (j : Job) (c : QCmd) : (headTaken s k g j c).pf = g.pf := by
  obtain ⟨us, taken⟩ := takeHead_only k
    ⟨c, (cmdLines s j g c).1, (cmdLines s j g c).2.1, (cmdLines s j g c).2.2, cmdEntries s j g c, []⟩ g
  rw [headTaken, taken]

theorem drain_issues (hr : Ready s p q 2 oDRAIN g j c) (served : Served s j.desc [])
    (drained : bits c.word.toNat 75 3 = 4 → ∃ f ∈ g.pf, f.kt = (tref c.word.toNat c.regs).toNat) :
    Issues s (.drain p q) p q 2 g c := by
  rw [← pf_headTaken s 2 g j c] at drained
  exact issues_of_ok (i := (.drain p q, 2, oDRAIN, drainBody)) (arr := 0) (by simp [tileInstrs]) hr
    (drainBody_ok (e := headEnv s p q 2 g j c) calm_answering (reaches_of_served served)
      (answering_issueStart (answering_of_served served)) (getProg_issueStart ..) drained)

/-- A command whose meaning succeeds where all its job's streams are served. -/
theorem served_issues {i : Instr × Nat × Nat × Body} (member : i ∈ tileInstrs p q 0) (hr : Ready s p q i.2.1 i.2.2.1 g j c)
    (served : Served s j.desc []) (done : ∀ e : Env, e.j = j → e.c = c → Reaches e.j.desc [] → cmdOk e.j.desc e.w = true →
      cOpc e.w = i.2.2.1 → Succeeds Answering (i.2.2.2 e)) : Issues s i.1 p q i.2.1 g c := by
  have ready := hr
  obtain ⟨⟨-, -, -, -, -, -, opc, -, -, -, ok, -⟩, -⟩ := hr
  exact issues_of_succeeds member ready (answering_issueStart (answering_of_served served))
    (done _ rfl rfl (reaches_of_served served) ok opc)

theorem results_issue : ∀ e ∈ [(Instr.epi p q, 2, oEPI), (.part p q, 3, oPART), (.comb p q, 2, oCOMB), (.maxc p q, 2, oMAXC),
    (.rowp p q, 2, oROWP), (.pref p q, 3, oPREF)],
    Ready s p q e.2.1 e.2.2 g j c → Served s j.desc [] → Issues s e.1 p q e.2.1 g c := by
  have hI := calm_answering
  simp only [List.forall_mem_cons]
  refine ⟨fun hr hs => ?epi, fun hr hs => ?part, fun hr hs => ?comb, fun hr hs => ?maxc, fun hr hs => ?rowp, fun hr hs => ?pref,
    List.forall_mem_nil _⟩
  case epi =>
    refine served_issues (i := (.epi p q, 2, oEPI, epiBody)) (by simp [tileInstrs]) hr hs (fun e _ _ hd ok opc => ?_)
    exact succeeds_epiBody hI hd (stream_of_cmdOk ok (by rw [cmdSids_epi opc]; simp))
  case part =>
    exact served_issues (i := (.part p q, 3, oPART, partBody)) (by simp [tileInstrs]) hr hs
      (fun e _ _ hd _ _ => succeeds_partBody hI hd)
  case comb =>
    refine served_issues (i := (.comb p q, 2, oCOMB, combBody)) (by simp [tileInstrs]) hr hs (fun e _ _ hd ok opc => ?_)
    exact succeeds_combBody hI hd (stream_of_cmdOk ok (by rw [cmdSids_comb opc]; simp))
      (stream_of_cmdOk ok (by rw [cmdSids_comb opc]; simp)) (stream_of_cmdOk ok (by rw [cmdSids_comb opc]; simp))
  case maxc =>
    exact served_issues (i := (.maxc p q, 2, oMAXC, maxcBody)) (by simp [tileInstrs]) hr hs
      (fun e _ _ hd _ _ => succeeds_maxcBody hI hd)
  case rowp =>
    refine served_issues (i := (.rowp p q, 2, oROWP, rowpBody)) (by simp [tileInstrs]) hr hs (fun e _ _ hd ok opc => ?_)
    exact succeeds_rowpBody hI hd (stream_of_cmdOk ok (by rw [cmdSids_pair (.inl opc)]; simp))
      (stream_of_cmdOk ok (by rw [cmdSids_pair (.inl opc)]; simp))
  case pref =>
    refine served_issues (i := (.pref p q, 3, oPREF, prefBody)) (by simp [tileInstrs]) hr hs (fun e _ _ hd ok opc => ?_)
    exact succeeds_prefBody hI hd (stream_of_cmdOk ok (by rw [cmdSids_pair (.inr opc)]; simp))
      (stream_of_cmdOk ok (by rw [cmdSids_pair (.inr opc)]; simp))

end

end Sys2Proof.Proofs.Sequencer
end

section
/-!
PROOFS. The Terrace where no word is poisoned, flipped or unfilled (R107, R207, R215, R216, R222, R229): reads, plain writes and
accumulate-writes within a context's view are answered.
-/
namespace Sys2Proof.Proofs.Sequencer
open Sys2Proof.Machine Sys2Proof.Laws Sys2Proof.Claims Sys2Proof.Proofs.Arithmetic Sys2Proof.Proofs.Attention

/-- Context c has these regions. -/
def Views (c : Nat) (rs : Tbl Region) (s : State) : Prop := (getCtx s c).regions = rs

/-- No word of the Terrace is poisoned, flipped or unfilled. -/
structure Sound (t : Terrace) : Prop where
  poison : t.poison = []
  flips : t.flips = []
  unfilled : t.unfilled = []

/-- A sound Terrace under a context's view. -/
structure Stands (c : Nat) (rs : Tbl Region) (s : State) : Prop where
  views : Views c rs s
  sound : Sound s.ter

section
variable {c : Nat} {rs : Tbl Region}

theorem Views.still {s t : State} (h : Still s t) (hs : Views c rs s) : Views c rs t :=
  (congrArg Ctx.regions (getCtx_congr h.ctxs c)).trans hs

theorem Stands.still {s t : State} (h : Still s t) (hs : Stands c rs s) : Stands c rs t :=
  ⟨hs.views.still h, h.poison.trans hs.sound.poison, h.flips.trans hs.sound.flips, h.unfilled.trans hs.sound.unfilled⟩

/-- A condition that lasts, beside that the surroundings answer. -/
theorem calm_with {J : State → Prop} (h : ∀ {s t}, Still s t → J s → J t) : Calm (fun s => Answering s ∧ J s) :=
  ⟨fun _ hs => hs.1, fun _ _ still hs => ⟨still.answering hs.1, h still hs.2⟩⟩

/-! Reads. -/

theorem unfilledAt_nil (ps : List Part) : unfilledAt [] ps = none := by
  induction ps with
  | nil => rfl
  | cons p ps ih => exact ih

theorem terCheck_of_stands {s : State} {off n : Nat} (h : Stands c rs s) (within : off + n ≤ viewLen rs) :
    terCheck s c off n = .ok (viewParts rs off n) := by
  have views : (getCtx s c).regions = rs := h.views
  unfold terCheck
  dsimp only
  rw [views, if_neg (Nat.not_lt.mpr within), h.sound.unfilled, unfilledAt_nil]

theorem terRead_of_stands {s : State} {off n : Nat} (h : Stands c rs s) (within : off + n ≤ viewLen rs) :
    ∃ r, terRead s c off n = (s, .ok r) := by
  have untouched (ps : List Part) : eccTouch (flipsIn s ps) s = s := by
    rw [flipsIn, h.sound.flips]
    rfl
  have clean (ps : List Part) : poisonIn s ps = false := by
    rw [poisonIn, h.sound.poison]
    rfl
  unfold terRead
  rw [terCheck_of_stands h within]
  dsimp only
  rw [untouched, clean]
  exact ⟨_, rfl⟩

theorem terReadTags_of_stands {s : State} {off n : Nat} (h : Stands c rs s) (within : off + n ≤ viewLen rs) :
    ∃ r, terReadTags s c off n = (s, .ok r) := by
  obtain ⟨r, read⟩ := terRead_of_stands h within
  have untouched (side : List Nat) : eccTouch (s.ter.flips.filter (fun e => side.contains e.1)) s = s := by
    rw [h.sound.flips]
    rfl
  unfold terReadTags
  rw [terCheck_of_stands h within]
  dsimp only
  rw [untouched, read]
  dsimp only
  rw [h.sound.poison]
  exact ⟨_, rfl⟩

/-! Writes. -/

/-- Accumulating a word marks none. -/
theorem sound_terAddWord {w : Nat} {x : AEl} {t : Terrace} (h : Sound t) : Sound (terAddWord w x t) := by
  unfold terAddWord
  split
  · exact h
  · exact ⟨h.poison, h.flips, h.unfilled⟩

theorem sound_addWords {ws : List (Nat × AEl)} {t : Terrace} (h : Sound t) :
    Sound (ws.foldl (fun t e => terAddWord e.1 e.2 t) t) := by
  induction ws generalizing t with
  | nil => exact h
  | cons w ws ih => exact ih (sound_terAddWord h)

theorem terAccum_of_stands {s : State} {off : Nat} {xs : List AEl} (h : Stands c rs s)
    (within : off + 8 * xs.length ≤ viewLen rs) :
    ∃ t, terAccum s c off xs = ({ s with ter := t }, .ok ()) ∧ Sound t := by
  have views : (getCtx s c).regions = rs := h.views
  have untouched (p : Nat × Nat → Bool) : eccTouch (s.ter.flips.filter p) s = s := by
    rw [h.sound.flips]
    rfl
  have clean (ws : List (Nat × AEl)) : ws.any (fun e => wordBad s.ter e.1) = false := by
    simp [wordBad, h.sound.poison]
  unfold terAccum
  dsimp only
  rw [views, if_neg (Nat.not_lt.mpr within), terAdd]
  rw [untouched, clean, h.sound.unfilled, unfilledAt_nil]
  exact ⟨_, rfl, sound_addWords h.sound⟩

theorem terWrite_of_views {s : State} {off : Nat} {bs : List Byte} {tags : List (BitVec 2)} (h : Views c rs s)
    (within : off + bs.length ≤ viewLen rs) : ∃ t, terWrite s c off bs tags = ({ s with ter := t }, .ok ()) := by
  have views : (getCtx s c).regions = rs := h
  unfold terWrite
  dsimp only
  rw [views, if_neg (Nat.not_lt.mpr within)]
  exact ⟨_, rfl⟩

end

/-! Streams of A64 words in the Terrace. -/

theorem length_data_wordSpan (d : Desc) (x : Stream) (r col0 : Nat) (ws : List AEl) :
    (wordSpan d x r col0 ws).data.length = 8 * ws.length := by
  simp [wordSpan, List.length_flatMap, Nat.mul_comm]

section
variable {rs : Tbl Region} {x : Stream} (terrace : x.space = 0)
include terrace

theorem succeeds_terraceRead {I : State → Prop} {c ep off n : Nat} (hI : ∀ s, I s → Stands c rs s)
    (within : x.base + off + n ≤ viewLen rs) : Succeeds I (streamRead c ep x off n) := by
  unfold streamRead
  rw [terrace]
  refine answers_liftStep _ (fun s hs => ?_)
  split
  · obtain ⟨r, read⟩ := terReadTags_of_stands (hI s hs) within
    rw [read]
    exact ⟨hs, r, rfl, trivial⟩
  · obtain ⟨r, read⟩ := terRead_of_stands (hI s hs) within
    rw [read]
    exact ⟨hs, r, rfl, trivial⟩

/-- A plain write of spans within the view (R215). -/
theorem succeeds_terraceWrite {w : Writer} {sps : List WSpan}
    (within : ∀ sp ∈ sps, x.base + sp.off + sp.data.length ≤ viewLen rs) :
    Succeeds (fun s => Answering s ∧ Views w.ctx rs s) (streamWrite w x sps) := by
  unfold streamWrite
  rw [if_neg (by rw [terrace]; decide)]
  refine succeeds_then_pure (succeeds_mapM _ (fun sp hsp => ?_))
  unfold spanWrite
  rw [terrace]
  refine succeeds_then_pure (answers_liftStep _ (fun s hs => ?_))
  obtain ⟨⟨deny, stack, host⟩, views⟩ := hs
  obtain ⟨t, written⟩ := terWrite_of_views (tags := sp.tags) views (within sp hsp)
  rw [written]
  exact ⟨⟨⟨deny, stack, host⟩, views⟩, (), rfl, trivial⟩

/-- An accumulate-write of spans within the view (R222). -/
theorem succeeds_terraceAccum {w : Writer} {sps : List WSpan}
    (within : ∀ sp ∈ sps, x.base + sp.off + sp.data.length ≤ viewLen rs) :
    Succeeds (Stands w.ctx rs) (streamAccum w x sps) := by
  unfold streamAccum
  rw [if_neg (by rw [terrace]; decide)]
  refine succeeds_eachThenRaise _ (fun sp hsp => ?_)
  rw [terrace]
  refine succeeds_then_pure (answers_liftStep _ (fun s hs => ?_))
  obtain ⟨t, added, sound⟩ := terAccum_of_stands (off := x.base + sp.off)
    (xs := (List.range (leWords 8 (sp.data.length / 8) sp.data).length).map (fun i =>
      ⟨BitVec.ofNat 64 ((leWords 8 (sp.data.length / 8) sp.data).getD i 0), sp.tags.getD i 0⟩)) hs (by
    rw [List.length_map, List.length_range, length_leWords]
    exact Nat.le_trans (Nat.add_le_add_left (Nat.mul_div_le _ 8) _) (within sp hsp))
  rw [added]
  exact ⟨⟨hs.views, sound⟩, (), rfl, trivial⟩

end

end Sys2Proof.Proofs.Sequencer
end

section
/-!
PROOFS. DPRO, ACCW and FIN complete (R97, R107 to R109, R178, R222, R223), and with them the commands that read and write streams.
-/
namespace Sys2Proof.Proofs.Sequencer
open Sys2Proof.Machine Sys2Proof.Laws Sys2Proof.Claims Sys2Proof.Proofs.Arithmetic Sys2Proof.Proofs.Attention

/-! DPRO. -/

section
variable {e : Env} {rs : Tbl Region}

/-- A query tile set to zero, in outside memory or within the context's view. -/
theorem succeeds_zeroRows {x : Option Stream} {r0 : Nat} (h : ∀ y, x = some y → y.space = 1 ∨ y.space = 4 ∨
      (y.space = 0 ∧ ∀ r, r < e.j.desc.q → y.base + (r0 + r) * unitStride e.j.desc y + 8 * e.j.desc.dim ≤ viewLen rs)) :
    Succeeds (fun s => Answering s ∧ Views e.g.ctx rs s) (zeroRows e x r0) := by
  have outside {y : Stream} {sps : List WSpan} (hy : Outer y) :
      Succeeds (fun s => Answering s ∧ Views e.g.ctx rs s) (streamWrite (e.writer false) y sps) :=
    succeeds_streamWrite (calm_with Views.still) hy
  unfold zeroRows
  split
  · exact answers_pure trivial
  · rename_i y
    rcases h y rfl with stack | host | ⟨terrace, within⟩
    · exact outside (.inl stack)
    · exact outside (.inr host)
    · refine succeeds_terraceWrite (w := e.writer false) terrace (fun sp hsp => ?_)
      obtain ⟨r, hr, rfl⟩ := List.mem_map.mp hsp
      rw [length_data_wordSpan, List.length_replicate]
      exact within r (List.mem_range.mp hr)

theorem succeeds_checkedRow {I : State → Prop} (hI : Calm I) {x : Stream} {i : Nat} (hx : Outer x) (bounded : Bounded x) :
    Succeeds I (checkedRow e x i) := by
  refine answers_bind (answers_rowVals hI hx) (fun row hrow => ?_)
  have within : loadExceeds x.xbnd i [row.map (·.dv)] = none := by
    refine loadExceeds_eq_none (fun r hr v hv => ?_)
    obtain rfl := List.mem_singleton.mp hr
    obtain ⟨a, ha, rfl⟩ := List.mem_map.mp hv
    exact not_exceeds_of_bounded bounded hrow a ha
  rw [within]
  exact answers_pure trivial

theorem succeeds_dproBody (hd : Reaches e.j.desc [uDQACC]) (bounded : ∀ x ∈ e.j.desc.streams, x.use = uDO ∨ x.use = uO → Bounded x)
    (zeroed : ∀ x, bit e.w 88 = true → e.j.desc.byUse uDQACC = some x → x.space = 1 ∨ x.space = 4 ∨
      (x.space = 0 ∧ ∀ r, r < e.j.desc.q → x.base + ((tref e.w e.c.regs).toNat * e.j.desc.q + r) * unitStride e.j.desc x +
        8 * e.j.desc.dim ≤ viewLen rs)) :
    Succeeds (fun s => Answering s ∧ Views e.g.ctx rs s) (dproBody e) := by
  have hI : Calm (fun s => Answering s ∧ Views e.g.ctx rs s) := calm_with Views.still
  unfold dproBody
  dsimp only
  refine answers_then (succeeds_zeroRows (fun y hy => ?_)) (fun st0 => ?_)
  · split at hy
    · rename_i zdq
      exact zeroed y zdq hy
    · cases hy
  · split
    · rename_i y xd xo dest grad out
      obtain ⟨memD, useD⟩ := mem_of_byUse grad
      obtain ⟨memO, useO⟩ := mem_of_byUse out
      have checkD (i : Nat) : Succeeds (fun s => Answering s ∧ Views e.g.ctx rs s) (checkedRow e xd i) :=
        succeeds_checkedRow hI (hd.byUse (by decide) xd grad) (bounded xd memD (.inl useD))
      have checkO (i : Nat) : Succeeds (fun s => Answering s ∧ Views e.g.ctx rs s) (checkedRow e xo i) :=
        succeeds_checkedRow hI (hd.byUse (by decide) xo out) (bounded xo memO (.inr useO))
      refine answers_then (succeeds_mapM _ (fun r _ => answers_ite ?_ (answers_pure trivial)))
        (fun vals => succeeds_then_pure (succeeds_writeTo hI (fun _ hy => Option.some.inj hy ▸ hd.byUse (by decide) y dest)))
      exact answers_then (checkD _) (fun _ => succeeds_then_pure (checkO _))
    · exact answers_pure trivial

end

/-! Rows of A64 words. -/

section
variable {d : Desc} {x : Stream}

theorem rowElems_dqacc (jt : d.jtype ≠ 3) (use : x.use = uDQACC) : rowElems d x = d.dim := by
  unfold rowElems
  rw [if_neg jt, use]
  rfl

theorem rowElems_dkvacc (jt : d.jtype ≠ 3) (use : x.use = uDKVACC) : rowElems d x = 2 * d.dim := by
  unfold rowElems
  rw [if_neg jt, use]
  rfl

theorem rowElems_part (jt : d.jtype ≠ 3) (use : x.use = uPART) (mode : d.a.mode = 1) : rowElems d x = d.dim + 1 := by
  unfold rowElems
  rw [if_neg jt, use, if_pos mode]
  rfl

/-- Words of a row within the rows of a range that ends within V. -/
theorem row_within {r0 n r c0 len V : Nat} (stride : 8 * rowElems d x ≤ unitStride d x)
    (view : x.base + (r0 + n) * unitStride d x ≤ V) (hr : r < n) (fit : c0 + len ≤ rowElems d x) :
    x.base + ((r0 + r) * unitStride d x + 8 * c0) + 8 * len ≤ V := by
  have next : (r0 + r) * unitStride d x + unitStride d x ≤ (r0 + n) * unitStride d x :=
    (Nat.succ_mul _ _).symm.trans_le (Nat.mul_le_mul_right _ (by omega))
  omega

/-- The spans of an ACCW's rows lie within the view that holds the range. -/
theorem spans_within {rows : List (List (Int × AEl))} {r0 c0 cols n V : Nat} (len : rows.length = n)
    (narrow : ∀ r ∈ rows, r.length ≤ cols) (fit : c0 + cols ≤ rowElems d x) (stride : 8 * rowElems d x ≤ unitStride d x)
    (view : x.base + (r0 + n) * unitStride d x ≤ V) :
    ∀ sp ∈ (enum rows).map (fun r => wordSpan d x (r0 + r.1) c0 (r.2.map (·.2))), x.base + sp.off + sp.data.length ≤ V := by
  intro sp hsp
  obtain ⟨⟨i, row⟩, hrow, rfl⟩ := List.mem_map.mp hsp
  obtain ⟨index, mem⟩ := List.of_mem_zip hrow
  rw [length_data_wordSpan, List.length_map]
  exact row_within stride view (len ▸ List.mem_range.mp index) (Nat.le_trans (Nat.add_le_add_left (narrow row mem) c0) fit)

end

theorem colsHeld_le (m n tiles : Nat) : colsHeld m n tiles ≤ n := by
  unfold colsHeld
  split
  · exact Nat.le_refl n
  · exact Nat.min_le_left ..

theorem answers_outRows {I : State → Prop} {e : Env} {m n : Nat} :
    Answers I (fun rows => rows.length = m ∧ ∀ r ∈ rows, r.length ≤ n) (outRows e m n) := by
  refine answers_then succeeds_prog (fun g => answers_pure ⟨by simp [accRows], fun r hr => ?_⟩)
  obtain ⟨row, -, rfl⟩ := List.mem_map.mp hr
  exact Nat.le_trans (List.length_take_le ..) (colsHeld_le ..)

/-! ACCW. -/

theorem useOf_of_stream {d : Desc} {sid : Nat} {x : Stream} (h : d.stream sid = some x) : useOf d sid = x.use := by
  unfold useOf
  rw [h]
  rfl

/-- An ACCW that passes the checks of R200 names an accumulate range (R108, R513). -/
theorem use_of_accw {d : Desc} {w : Nat} {x : Stream} (ho : cOpc w = oACCW) (h : cmdOk d w = true)
    (stream : d.stream (bits w 73 8) = some x) : x.use = uDQACC ∨ x.use = uDKVACC ∨ (x.use = uPART ∧ d.a.mode = 1) := by
  have checked : usesOk d w = (useOf d (bits w 73 8) == uDQACC || useOf d (bits w 73 8) == uDKVACC ||
      (useOf d (bits w 73 8) == uPART && d.a.mode == 1)) := by
    unfold usesOk
    rw [ho]
    rfl
  simp only [cmdOk, Bool.and_eq_true] at h
  obtain ⟨-, uses⟩ := h
  rw [checked, useOf_of_stream stream] at uses
  simpa [or_assoc] using uses

/-- The columns that an ACCW adds into lie in its stream's rows (R86, R108). -/
theorem accw_fits {d : Desc} {x : Stream} (jt : d.jtype ≠ 3)
    (use : x.use = uDQACC ∨ x.use = uDKVACC ∨ (x.use = uPART ∧ d.a.mode = 1)) (t grid : Nat) :
    let isL := x.use == uPART && grid == 7
    (if x.use = uDKVACC then t % 2 * d.dim else if isL then d.dim else 0) + (if isL then 1 else d.dim) ≤ rowElems d x := by
  dsimp only
  rcases use with use | use | ⟨use, mode⟩
  · rw [rowElems_dqacc jt use, use]
    exact (Nat.zero_add _).le
  · have half : t % 2 * d.dim ≤ 1 * d.dim := Nat.mul_le_mul_right _ (Nat.le_of_lt_succ (Nat.mod_lt t Nat.two_pos))
    rw [rowElems_dkvacc jt use, use]
    show t % 2 * d.dim + d.dim ≤ 2 * d.dim
    omega
  · rw [rowElems_part jt use mode, use]
    show (if (grid == 7) = true then d.dim else 0) + (if (grid == 7) = true then 1 else d.dim) ≤ d.dim + 1
    split <;> omega

section
variable {e : Env} {rs : Tbl Region} {x : Stream}

theorem succeeds_accwBody (stream : e.j.desc.stream (bits e.w 73 8) = some x) (terrace : x.space = 0)
    (jt : e.j.desc.jtype ≠ 3) (use : x.use = uDQACC ∨ x.use = uDKVACC ∨ (x.use = uPART ∧ e.j.desc.a.mode = 1))
    (stride : 8 * rowElems e.j.desc x ≤ unitStride e.j.desc x)
    (view : x.base + ((if x.use = uDKVACC then (tref e.w e.c.regs).toNat / 2 else (tref e.w e.c.regs).toNat) *
      tileRows e.j.desc x.use + tileRows e.j.desc x.use) * unitStride e.j.desc x ≤ viewLen rs) :
    Succeeds (Stands e.g.ctx rs) (accwBody e) := by
  have fits := accw_fits jt use (tref e.w e.c.regs).toNat
  unfold accwBody
  dsimp only
  rw [stream]
  refine answers_then succeeds_prog (fun g => answers_bind answers_outRows (fun rows hrows => ?_))
  obtain ⟨len, narrow⟩ := hrows
  have fit := fits (tget g.accG (16 * outArr e.w + outAcc e.w) 6)
  dsimp only at fit
  by_cases kv : x.use = uDKVACC
  · rw [if_pos kv] at fit view ⊢
    exact succeeds_then_pure (succeeds_terraceAccum (w := e.writer true) terrace (spans_within len narrow fit stride view))
  · rw [if_neg kv] at fit view ⊢
    exact succeeds_then_pure (succeeds_terraceAccum (w := e.writer true) terrace (spans_within len narrow fit stride view))

end

/-! FIN. -/

/-- A FIN that passes the checks of R200 reads an accumulate range and writes a gradient (R109, R513). -/
theorem uses_of_fin {d : Desc} {w : Nat} {x y : Stream} (ho : cOpc w = oFIN) (h : cmdOk d w = true)
    (source : d.stream (bits w 65 8) = some x) (dest : d.stream (bits w 97 8) = some y) :
    (x.use = uDQACC ∨ x.use = uDKVACC) ∧ y.use ∉ [uDQACC, uDKVACC] := by
  have checked : usesOk d w =
      (((useOf d (bits w 65 8) == uDQACC && useOf d (bits w 97 8) == uDQDEST) || (useOf d (bits w 65 8) == uDKVACC &&
        (useOf d (bits w 97 8) == uDKDEST || useOf d (bits w 97 8) == uDVDEST))) &&
      bits w 105 4 + 1 == pieces (if useOf d (bits w 65 8) = uDQACC then d.q else d.k) d.dim) := by
    unfold usesOk
    rw [ho]
    rfl
  simp only [cmdOk, Bool.and_eq_true] at h
  obtain ⟨-, uses⟩ := h
  rw [checked, useOf_of_stream source, useOf_of_stream dest] at uses
  simp only [Bool.and_eq_true, Bool.or_eq_true, beq_iff_eq] at uses
  obtain ⟨⟨sx, sy⟩ | ⟨sx, sy | sy⟩, -⟩ := uses
  · exact ⟨.inl sx, by rw [sy]; decide⟩
  · exact ⟨.inr sx, by rw [sy]; decide⟩
  · exact ⟨.inr sx, by rw [sy]; decide⟩

section
variable {e : Env} {rs : Tbl Region} {x y : Stream}

theorem succeeds_terraceWords {r col0 n : Nat} (terrace : x.space = 0)
    (within : x.base + (r * unitStride e.j.desc x + 8 * col0) + 8 * n ≤ viewLen rs) :
    Succeeds (fun s => Answering s ∧ Stands e.j.ctx rs s) (rowWords e.j e.g.epoch x r col0 n) :=
  succeeds_then_pure (succeeds_terraceRead terrace (fun _ hs => hs.2) within)

theorem succeeds_finBody (hd : Reaches e.j.desc [uDQACC, uDKVACC]) (source : e.j.desc.stream (bits e.w 65 8) = some x)
    (dest : e.j.desc.stream (bits e.w 97 8) = some y) (terrace : x.space = 0) (hy : Outer y) (jt : e.j.desc.jtype ≠ 3)
    (use : x.use = uDQACC ∨ x.use = uDKVACC) (stride : 8 * rowElems e.j.desc x ≤ unitStride e.j.desc x)
    (view : x.base + ((if x.use = uDKVACC then (tref e.w e.c.regs).toNat / 2 else (tref e.w e.c.regs).toNat) *
      tileRows e.j.desc x.use + tileRows e.j.desc x.use) * unitStride e.j.desc x ≤ viewLen rs) :
    Succeeds (fun s => Answering s ∧ Stands e.j.ctx rs s) (finBody e) := by
  have hI : Calm (fun s => Answering s ∧ Stands e.j.ctx rs s) := calm_with Stands.still
  have fits : (if x.use = uDKVACC then (tref e.w e.c.regs).toNat % 2 * e.j.desc.dim else 0) + e.j.desc.dim ≤
      rowElems e.j.desc x := by simpa using accw_fits jt (use.imp_right .inl) (tref e.w e.c.regs).toNat 6
  have start : ∃ r0 c0, (if x.use = uDKVACC then ((tref e.w e.c.regs).toNat / 2 * tileRows e.j.desc x.use,
        (tref e.w e.c.regs).toNat % 2 * e.j.desc.dim)
      else ((tref e.w e.c.regs).toNat * tileRows e.j.desc x.use, 0)) = (r0, c0) ∧ c0 + e.j.desc.dim ≤ rowElems e.j.desc x ∧
      x.base + (r0 + tileRows e.j.desc x.use) * unitStride e.j.desc x ≤ viewLen rs := by
    split at fits
    · rename_i kv
      rw [if_pos kv] at view ⊢
      exact ⟨_, _, rfl, fits, view⟩
    · rename_i kv
      rw [if_neg kv] at view ⊢
      exact ⟨_, _, rfl, fits, view⟩
  obtain ⟨r0, c0, start, fit, view⟩ := start
  unfold finBody
  dsimp only
  rw [source, dest]
  dsimp only
  rw [start]
  refine answers_then (succeeds_mapM _ (fun r hr =>
    succeeds_terraceWords terrace (row_within stride view (List.mem_range.mp hr) fit))) (fun rows => ?_)
  have written {rows : List (List CV)} {f : List Ev × List Nat → List Ev × List Nat} :
      Succeeds (fun s => Answering s ∧ Stands e.j.ctx rs s) (gradWrite e y r0 rows >>= fun r => pure (f r)) :=
    succeeds_then_pure (succeeds_gradWrite hI hy)
  exact answers_ite (answers_then (succeeds_mapM _ (fun _ _ => succeeds_rowScalar hI (hd.byUse (by decide)))) (fun _ =>
    answers_optional (succeeds_countMaskedRows hI) written)) written

end

/-! The clauses of O44 on them. -/

section
variable {s : State} {p : PavId} {q : PSlot} {g : Prog} {j : Job} {c : QCmd}

/-- The context of a program whose command has left its queue sees what it saw. -/
theorem views_issueStart (s : State) (k a : Nat) :
    Views a (getCtx s a).regions (issueStart s p.val q k g j c) := rfl

/-- The words that stand before a command's meaning stand at its start. -/
theorem stands_issueStart {d : Desc} {x : Stream} {r0 n a k : Nat} (h : WordsStand s a d x r0 n) :
    Stands a (getCtx s a).regions (issueStart s p.val q k g j c) := by
  obtain ⟨-, poison, flips, unfilled, -⟩ := h
  exact ⟨views_issueStart s k a, poison, flips, unfilled⟩

theorem dpro_issues (hr : Ready s p q 2 oDPRO g j c) (served : Served s j.desc [uDQACC])
    (bounded : ∀ x ∈ j.desc.streams, x.use = uDO ∨ x.use = uO → Bounded x)
    (zeroed : ∀ x : Stream, bit c.word.toNat 88 = true → j.desc.byUse uDQACC = some x → x.space = 1 ∨ x.space = 4 ∨
      (x.space = 0 ∧ ∀ r, r < j.desc.q → x.base + ((tref c.word.toNat c.regs).toNat * j.desc.q + r) * unitStride j.desc x +
        8 * j.desc.dim ≤ viewLen (getCtx s g.ctx).regions)) :
    Issues s (.dpro p q) p q 2 g c := by
  have start := views_issueStart (p := p) (q := q) (g := g) (j := j) (c := c) s 2 g.ctx
  rw [← ctx_headTaken s 2 g j c] at start
  exact issues_of_succeeds (i := (.dpro p q, 2, oDPRO, dproBody)) (arr := 0) (by simp [tileInstrs]) hr
    ⟨answering_issueStart (answering_of_served served), start⟩
    (succeeds_dproBody (e := headEnv s p q 2 g j c) (reaches_of_served served) bounded (by rw [ctx_headTaken]; exact zeroed))

theorem accw_issues {x : Stream} (hr : Ready s p q 3 oACCW g j c) (stream : j.desc.stream (bits c.word.toNat 73 8) = some x)
    (jt : j.desc.jtype ≠ 3) (stand : WordsStand s g.ctx j.desc x
      ((if x.use = uDKVACC then (tref c.word.toNat c.regs).toNat / 2 else (tref c.word.toNat c.regs).toNat) *
        tileRows j.desc x.use) (tileRows j.desc x.use)) :
    Issues s (.accw p q) p q 3 g c := by
  have ready := hr
  obtain ⟨⟨-, -, -, -, -, -, opc, -, -, -, ok, -⟩, -⟩ := hr
  have start : Stands g.ctx (getCtx s g.ctx).regions (issueStart s p.val q 3 g j c) := stands_issueStart stand
  obtain ⟨terrace, -, -, -, stride, view⟩ := stand
  rw [← ctx_headTaken s 3 g j c] at start
  exact issues_of_succeeds (i := (.accw p q, 3, oACCW, accwBody)) (arr := 0) (by simp [tileInstrs]) ready start
    (succeeds_accwBody (e := headEnv s p q 3 g j c) stream terrace jt (use_of_accw opc ok stream) stride
      (by rw [ctx_headTaken]; exact view))

theorem fin_issues {x : Stream} (hr : Ready s p q 2 oFIN g j c) (served : Served s j.desc [uDQACC, uDKVACC])
    (source : j.desc.stream (bits c.word.toNat 65 8) = some x) (jt : j.desc.jtype ≠ 3) (stand : WordsStand s j.ctx j.desc x
      ((if x.use = uDKVACC then (tref c.word.toNat c.regs).toNat / 2 else (tref c.word.toNat c.regs).toNat) *
        tileRows j.desc x.use) (tileRows j.desc x.use)) :
    Issues s (.fin p q) p q 2 g c := by
  have ready := hr
  obtain ⟨⟨-, -, -, -, -, -, opc, -, -, -, ok, -⟩, -⟩ := hr
  obtain ⟨y, dest⟩ := stream_of_cmdOk (sid := bits c.word.toNat 97 8) ok (by rw [cmdSids_fin opc]; simp)
  obtain ⟨use, outside⟩ := uses_of_fin opc ok source dest
  have hd := reaches_of_served served
  have start : Stands j.ctx (getCtx s j.ctx).regions (issueStart s p.val q 2 g j c) := stands_issueStart stand
  obtain ⟨terrace, -, -, -, stride, view⟩ := stand
  exact issues_of_succeeds (i := (.fin p q, 2, oFIN, finBody)) (arr := 0) (by simp [tileInstrs]) ready
    ⟨answering_issueStart (answering_of_served served), start⟩
    (succeeds_finBody (e := headEnv s p q 2 g j c) hd source dest terrace (hd y (List.mem_of_find?_eq_some dest) outside) jt use
      stride view)

end

/-- Settles O44: where its streams are served, each meaning answers at every step, so its command issues. -/
theorem streamCommandsComplete : Obligations.StreamCommandsComplete := by
  unfold Obligations.StreamCommandsComplete
  intro s p q g j c
  exact ⟨fun x => load_issues, fun arr x y n => mma_issues, drain_issues, results_issue, dpro_issues, fun x => accw_issues,
    fun x => fin_issues⟩

end Sys2Proof.Proofs.Sequencer
end

section
/-!
PROOFS. The memories after reset (R230, R440); REGION_SET: what a change of a context's region table does to its entry and
to the bytes that leave the context (R205, R206, R395).
-/
namespace Sys2Proof.Proofs.Terrace
open Sys2Proof.Machine Sys2Proof.Laws Sys2Proof.Claims Sys2Proof.Proofs.Arithmetic

/-- Settles O5: the wells of a reset state hold no cell. -/
theorem resetMemoriesCanonical : Obligations.ResetMemoriesCanonical := by
  unfold Obligations.ResetMemoriesCanonical
  exact ⟨wf_reset, rfl, rfl⟩

/-! REGION_SET (R205, R206, R395). -/

/-- The bytes of a region. -/
def Inside (r : Region) (a : Nat) : Prop := r.base4k * 4096 ≤ a ∧ a < (r.base4k + r.len4k) * 4096

/-- A cleared range of the Terrace reads 0, and every other byte stays. -/
theorem memByte_terClear (a n : Nat) (t : Terrace) (x : Nat) :
    memByte (terClear a n t).mem x = if a ≤ x ∧ x < a + n then 0 else memByte t.mem x := memByte_memZero ..

/-- The range [a, b) cleared outside the k units of 4 KiB at c. -/
def clearOutside (a b c k : Nat) (t : Terrace) : Terrace :=
  if k = 0 ∨ b ≤ c ∨ c + k * 4096 ≤ a then terClear a (b - a) t
  else terClear (Nat.max a (c + k * 4096)) (b - Nat.max a (c + k * 4096)) (terClear a (Nat.min b c - a) t)

theorem memByte_clearOutside (a b c k : Nat) (t : Terrace) (x : Nat) :
    memByte (clearOutside a b c k t).mem x =
      if a ≤ x ∧ x < b ∧ (x < c ∨ c + k * 4096 ≤ x) then 0 else memByte t.mem x := by
  unfold clearOutside
  split
  · rw [memByte_terClear]
    exact if_congr (by omega) rfl rfl
  · have low : Nat.min b c = c := Nat.min_eq_right (by omega)
    have high : Nat.max a (c + k * 4096) = c + k * 4096 := Nat.max_eq_right (by omega)
    rw [memByte_terClear, memByte_terClear, low, high, ← ite_or]
    exact if_congr (by omega) rfl rfl

/-- A change of region clears the old one's bytes that the new one does not hold (R395). -/
theorem releaseRange_eq (old new : Region) (t : Terrace) :
    releaseRange old new t = clearOutside (old.base4k * 4096) (old.base4k * 4096 + old.len4k * 4096)
      (new.base4k * 4096) new.len4k t := rfl

theorem memByte_releaseRange_left {old new : Region} {a : Nat} (t : Terrace) (held : Inside old a)
    (left : ¬ Inside new a) : memByte (releaseRange old new t).mem a = 0 := by
  unfold Inside at held left
  rw [releaseRange_eq, memByte_clearOutside]
  exact if_pos (by omega)

theorem memByte_releaseRange_stays {old new : Region} {a : Nat} (t : Terrace) (stays : ¬ Inside old a ∨ Inside new a) :
    memByte (releaseRange old new t).mem a = memByte t.mem a := by
  unfold Inside at stays
  rw [releaseRange_eq, memByte_clearOutside]
  exact if_neg (by omega)

/-- A context with entry k of its region table set; an entry of length 0 leaves none (R205). -/
def withRegion (k : Nat) (r : Region) (x : Ctx) : Ctx :=
  { x with regions := if r.len4k = 0 then tdel x.regions k else tset x.regions k r }

theorem getCtx_setRegion_self (c k : Nat) (r : Region) (s : State) :
    getCtx (setRegion c k r s) c = withRegion k r (getCtx s c) := getCtx_modCtx_self c (withRegion k r) _

theorem getCtx_setRegion_ne (c k d : Nat) (r : Region) (s : State) (h : d ≠ c) :
    getCtx (setRegion c k r s) d = getCtx s d := getCtx_modCtx_ne c d (withRegion k r) _ h

theorem exec_regionSet (s : State) (c : CtxId) (h : HeadMsg) (ha : Accepted s c.val 0x04 h) (k : Nat) (new : Region)
    (hk : arg h 64 3 = k) (hnew : parseRegion (arg h 128 64) = new) (hbad : regionBad s c.val k new = false) :
    ∃ t, exec (.regionSet c) s = .next t ∧ Answered s t c.val h 0 (cmdBody 0x04 0 0 0 0) ∧
      RingFrame c.val (setRegion c.val k new s) t := by
  have hact : regionSetAct c.val (waiterOf c.val h.msg) h.msg s =
      (setRegion c.val k new s, cmdRet (waiterOf c.val h.msg) stOK 0) := by
    subst hk hnew
    unfold regionSetAct
    simp only [hbad, Bool.false_eq_true, if_false]
    rfl
  exact live_takeMsg_done ha (by decide) hact rfl rfl (by rw [getCtx_setRegion_self]; rfl)

theorem exec_regionSet_refused (s : State) (c : CtxId) (h : HeadMsg) (ha : Accepted s c.val 0x04 h)
    (hbad : regionBad s c.val (arg h 64 3) (parseRegion (arg h 128 64)) = true) :
    ∃ t, exec (.regionSet c) s = .next t ∧ Answered s t c.val h 0x4001 (cmdBody 0x04 0 0 0 0) ∧ RingFrame c.val s t := by
  have hact : regionSetAct c.val (waiterOf c.val h.msg) h.msg s = (s, cmdRet (waiterOf c.val h.msg) stBAD_REGION 0) := by
    unfold regionSetAct
    simp only [hbad, if_true]
    rfl
  exact live_takeMsg_done ha (by decide) hact rfl rfl rfl

/-- Settles O21: what entry k and its old range become, and the frame of a message's end. -/
theorem regionSetZeroesWhatLeaves : Obligations.RegionSetZeroesWhatLeaves := by
  unfold Obligations.RegionSetZeroesWhatLeaves
  intro s c h ha
  refine ⟨fun hbad => ?_, fun hbad => ?_⟩
  · obtain ⟨t, hex, hans, frame⟩ := exec_regionSet s c h ha _ _ rfl rfl hbad
    generalize hnew : parseRegion (arg h 128 64) = new at frame ⊢
    have regions : (getCtx t c.val).regions = (withRegion (arg h 64 3) new (getCtx s c.val)).regions := by
      rw [frame.same, getCtx_setRegion_self]
    refine ⟨t, hex, hans, fun some_len => ?_, fun no_len => ?_, fun j hj => ?_,
      fun d hd => (frame.other d hd).trans (getCtx_setRegion_ne _ _ _ _ _ hd), fun a old left => ?_, fun a stays => ?_⟩
    · rw [regions, withRegion, if_neg some_len, tget?_tset_self]
    · rw [regions, withRegion, if_pos no_len, tget?_tdel, if_pos rfl]
    · rw [regions, withRegion]
      dsimp only
      split
      · rw [tget?_tdel, if_neg hj]
      · rw [tget?_tset_ne _ _ _ _ hj]
    · rw [frame.ter]
      exact memByte_releaseRange_left s.ter old left
    · rw [frame.ter]
      exact memByte_releaseRange_stays s.ter stays
  · obtain ⟨t, hex, hans, frame⟩ := exec_regionSet_refused s c h ha hbad
    exact ⟨t, hex, hans, by rw [frame.same], frame.ter⟩

end Sys2Proof.Proofs.Terrace
end

section
/-!
PROOFS. The windows of the Terrace: the end of an accepted message whose meaning sends nothing on a link, and WIN_OPEN,
WIN_CLOSE and WINDOW_CLOSE_COMPLETE (R217, R220, R455).
-/
namespace Sys2Proof.Proofs.Terrace
open Sys2Proof.Machine Sys2Proof.Laws Sys2Proof.Claims Sys2Proof.Proofs.Architecture Sys2Proof.Proofs.Arithmetic
  Sys2Proof.Proofs.Attention Sys2Proof.Proofs.Sequencer

/-! The end of an accepted message of a context whose meaning sends nothing that goes on a link. -/

/-- A context's command that ends at once. -/
theorem live_takeMsg_answered {s s1 : State} {c : CtxId} {o st ret : Nat} {h : HeadMsg} {act : MsgAct}
    (ha : Accepted s c.val o h) (ho : o ≠ 1)
    (hact : act c.val (waiterOf c.val h.msg) h.msg s = (s1, cmdRet (waiterOf c.val h.msg) st ret))
    (hout : SendsUnframed s s1) (hpend : s1.pending = s.pending)
    (hheld : (getCtx s1 c.val).ring.held = (getCtx s c.val).ring.held) :
    ∃ t, live (takeMsg c.val o act) s = .next t ∧ Answered s t c.val h st (cmdBody o ret 0 0 0) ∧ RingFrame c.val s1 t := by
  obtain ⟨hup, hhead, hopc, hcheck, hfwd⟩ := ha
  have hm : (c.val == mgmtCtx) = false := by simpa using ctx_ne_mgmt c
  have meaning : takeMsg c.val o act s = postRec c.val
      (mkRec h.msg.gen (recKind (c.val == mgmtCtx) h.msg.opc) st h.msg.tag (cmdBody o ret 0 0 0)) (consume c.val h s1) := by
    rw [takeMsg_accepted c.val o act s h hhead hopc hcheck hfwd (.inl ho), hact]
    simp [cmdRet, finish, waiterOf, hm, hopc]
  have frame : RingFrame c.val s1 (takeMsg c.val o act s) := by
    rw [meaning]
    exact (ringFrame_consume c h s1).trans (ringFrame_modRing c _ _)
  refine ⟨_, ?_, ⟨?_, ?_⟩, frame⟩
  · rw [live_up _ _ hup, effect_of_sendsUnframed (hout.trans (.of_out_eq frame.out)) (frame.pending.trans hpend)]
  · rw [meaning, ← (consume_head c.val h s1).1, postRec, ringAt_modRing_self]
  · have held : (ringAt s1 c.val).held = (ringAt s c.val).held := by simpa [ringAt, ctx_ne_mgmt c] using hheld
    rw [meaning, postRec_held, (consume_head c.val h s1).2, held]

/-- A context's command whose record comes later. -/
theorem live_takeMsg_later {s s1 : State} {c : CtxId} {o : Nat} {h : HeadMsg} {act : MsgAct}
    (ha : Accepted s c.val o h) (ho : o ≠ 1)
    (hact : act c.val (waiterOf c.val h.msg) h.msg s = (s1, .later))
    (hout : SendsUnframed s s1) (hpend : s1.pending = s.pending)
    (hheld : (getCtx s1 c.val).ring.held = (getCtx s c.val).ring.held) :
    ∃ t, live (takeMsg c.val o act) s = .next t ∧ Taken s t c.val h ∧ RingFrame c.val s1 t := by
  obtain ⟨hup, hhead, hopc, hcheck, hfwd⟩ := ha
  have meaning : takeMsg c.val o act s = consume c.val h s1 := by
    rw [takeMsg_accepted c.val o act s h hhead hopc hcheck hfwd (.inl ho), hact]
  have frame : RingFrame c.val s1 (takeMsg c.val o act s) := by
    rw [meaning]
    exact ringFrame_consume c h s1
  refine ⟨_, ?_, ⟨?_, ?_⟩, frame⟩
  · rw [live_up _ _ hup, effect_of_sendsUnframed (hout.trans (.of_out_eq frame.out)) (frame.pending.trans hpend)]
  · rw [meaning, (consume_head c.val h s1).1]
  · rw [meaning, (consume_head c.val h s1).2]
    simpa [ringAt, ctx_ne_mgmt c] using hheld

/-! WIN_OPEN, WIN_CLOSE and WINDOW_CLOSE_COMPLETE (R217, R220, R455). -/

/-- From s to t, window k becomes x, the Terrace's bytes stay, and nothing is sent on a link. -/
structure WinFrame (k : Nat) (x : Window) (s t : State) : Prop where
  self : getWin t k = x
  other : ∀ j, j ≠ k → getWin t j = getWin s j
  mem : t.ter.mem = s.ter.mem
  ctxs : t.ctxs = s.ctxs
  pending : t.pending = s.pending
  sends : SendsUnframed s t

theorem WinFrame.trans {k : Nat} {x y : Window} {s t u : State} (h : WinFrame k x s t) (g : WinFrame k y t u) :
    WinFrame k y s u where
  self := g.self
  other j hj := (g.other j hj).trans (h.other j hj)
  mem := g.mem.trans h.mem
  ctxs := g.ctxs.trans h.ctxs
  pending := g.pending.trans h.pending
  sends := h.sends.trans g.sends

theorem winFrame_refl (k : Nat) (s : State) : WinFrame k (getWin s k) s s :=
  ⟨rfl, fun _ _ => rfl, rfl, rfl, rfl, .of_out_eq rfl⟩

theorem winFrame_modWin (k : Nat) (f : Window → Window) (s : State) : WinFrame k (f (getWin s k)) s (modWin k f s) where
  self := by rw [getWin_modWin, if_pos rfl]
  other j hj := by rw [getWin_modWin, if_neg hj]
  mem := rfl
  ctxs := rfl
  pending := rfl
  sends := .of_out_eq rfl

/-- A credit message to the X-ports goes on no link (R455). -/
theorem WinFrame.xcredit {k : Nat} {x : Window} {s t : State} (h : WinFrame k x s t) (close : Bool) (c w gen n : Nat) :
    WinFrame k x s (emit (.xcredit close c w gen n) t) :=
  ⟨h.self, h.other, h.mem, h.ctxs, h.pending, h.sends.trans (.emit _ _ (fun _ => rfl))⟩

/-- A window that is open over a range, without credits (R217). -/
def opened (c : Nat) (fillset : Bool) (wclass : BitVec 4) (off len : Nat) (land : Option (Nat × Nat)) (x : Window) : Window :=
  { x with ctx := c, isOpen := true, fillset := fillset, wclass := wclass, off4k := off, len4k := len, credits := 0
           landing := land, bufCred := [] }

theorem winFrame_openWin (k c : Nat) (fillset : Bool) (wclass : BitVec 4) (off len : Nat) (land : Option (Nat × Nat))
    (s : State) : WinFrame k (opened c fillset wclass off len land (getWin s k)) s
      (openWin k c fillset wclass off len land s) := by
  have set := winFrame_modWin k (opened c fillset wclass off len land) s
  unfold openWin
  dsimp only
  split
  · exact ⟨set.self, set.other, rfl, rfl, rfl, .of_out_eq rfl⟩
  · exact set

theorem winFrame_grantX {k n : Nat} {x : Window} {s : State} (hx : getWin s k = x)
    (hn : n = x.credits + if x.wclass.getLsbD 3 then Nat.min x.len4k 65535 else 0) :
    WinFrame k { x with credits := n } s (grantX k s) := by
  subst hx hn
  unfold grantX
  dsimp only
  split
  · exact (winFrame_modWin k (fun y => { y with credits := y.credits + _ }) s).xcredit ..
  · exact winFrame_refl k s

/-- A window that has closed (R220). -/
def closed (x : Window) : Window :=
  { x with isOpen := false, credits := 0, bufCred := [], landing := none, gen := x.gen + 1, retired := x.gen == 0xFFFFFFFF#32 }

theorem winFrame_closeWin {k : Nat} {s : State} (ho : (getWin s k).isOpen = true) :
    WinFrame k (closed (getWin s k)) s (closeWin k s) := by
  have set := winFrame_modWin k closed s
  unfold closeWin
  simp only [ho, Bool.not_true, Bool.false_eq_true, if_false]
  split
  · exact set.xcredit ..
  · exact set

/-- A message of context c whose meaning changes window k alone and ends at once. -/
theorem live_takeMsg_window {s s1 : State} {c : CtxId} {o ret k : Nat} {h : HeadMsg} {act : MsgAct} {x : Window}
    (ha : Accepted s c.val o h) (ho : o ≠ 1)
    (hact : act c.val (waiterOf c.val h.msg) h.msg s = (s1, cmdRet (waiterOf c.val h.msg) stOK ret))
    (frame : WinFrame k x s s1) :
    ∃ t, live (takeMsg c.val o act) s = .next t ∧ Answered s t c.val h 0 (cmdBody o ret 0 0 0) ∧ getWin t k = x ∧
      (∀ j, j ≠ k → getWin t j = getWin s j) ∧ t.ter.mem = s.ter.mem := by
  obtain ⟨t, hex, hans, ring⟩ := live_takeMsg_answered ha ho hact frame.sends frame.pending
    (by rw [getCtx_congr frame.ctxs])
  have same (j : Nat) : getWin t j = getWin s1 j := by
    unfold getWin
    rw [ring.ter]
  exact ⟨t, hex, hans, (same k).trans frame.self, fun j hj => (same j).trans (frame.other j hj),
    by rw [ring.ter, frame.mem]⟩

/-- The window that a WIN_OPEN message of context c opens at x. -/
def openedBy (c : CtxId) (h : HeadMsg) (x : Window) : Window :=
  { opened c.val (bit h.msg.bits.toNat 76) (BitVec.ofNat 4 (arg h 77 4)) (arg h 81 18) (arg h 99 18) none x with
    credits := if (BitVec.ofNat 4 (arg h 77 4)).getLsbD 3 then Nat.min (arg h 99 18) 65535 else 0 }

theorem exec_winOpen (s : State) (c : CtxId) (h : HeadMsg) (ha : Accepted s c.val 0x05 h)
    (hbad : windowBad s c.val (BitVec.ofNat 4 (arg h 77 4)) (arg h 81 18) (arg h 99 18) = false)
    (hfree : winFree (getWin s (arg h 64 12)) = true) :
    ∃ t, exec (.winOpen c) s = .next t ∧
      Answered s t c.val h 0 (cmdBody 0x05 (getWin s (arg h 64 12)).gen.toNat 0 0 0) ∧
      getWin t (arg h 64 12) = openedBy c h (getWin s (arg h 64 12)) ∧
      (∀ j, j ≠ arg h 64 12 → getWin t j = getWin s j) ∧ t.ter.mem = s.ter.mem := by
  have step := winFrame_openWin (arg h 64 12) c.val (bit h.msg.bits.toNat 76) (BitVec.ofNat 4 (arg h 77 4)) (arg h 81 18)
    (arg h 99 18) none s
  have frame := step.trans (winFrame_grantX step.self (Nat.zero_add _).symm)
  refine live_takeMsg_window ha (by decide) ?_ frame
  unfold winOpenAct
  simp only [hbad, hfree, Bool.not_true, Bool.false_eq_true, if_false]
  rw [show bits h.msg.bits.toNat 64 12 = arg h 64 12 from rfl, frame.self]
  rfl

theorem exec_winClose_quiet (s : State) (c : CtxId) (h : HeadMsg) (ha : Accepted s c.val 0x06 h)
    (ho : (getWin s (arg h 64 12)).isOpen = true) (hc : (getWin s (arg h 64 12)).ctx = c.val)
    (none_left : (getWin s (arg h 64 12)).inflight = 0) :
    ∃ t, exec (.winClose c) s = .next t ∧ Answered s t c.val h 0 (cmdBody 0x06 0 0 0 0) ∧
      getWin t (arg h 64 12) = closed (getWin s (arg h 64 12)) ∧ t.ter.mem = s.ter.mem := by
  obtain ⟨t, hex, hans, hwin, -, hmem⟩ := live_takeMsg_window (act := winCloseAct) ha (by decide) (by
    unfold winCloseAct
    simp only [ho, hc, none_left, Bool.not_true, bne_self_eq_false, Bool.or_false, Bool.false_eq_true, if_false, if_true]
    rfl) (winFrame_closeWin ho)
  exact ⟨t, hex, hans, hwin, hmem⟩

theorem exec_winClose_later (s : State) (c : CtxId) (h : HeadMsg) (ha : Accepted s c.val 0x06 h)
    (ho : (getWin s (arg h 64 12)).isOpen = true) (hc : (getWin s (arg h 64 12)).ctx = c.val)
    (some_left : (getWin s (arg h 64 12)).inflight ≠ 0) :
    ∃ t, exec (.winClose c) s = .next t ∧ Taken s t c.val h ∧
      getWin t (arg h 64 12) = { closed (getWin s (arg h 64 12)) with closing := some (waiterOf c.val h.msg) } := by
  have shut := winFrame_closeWin ho
  have frame := shut.trans
    (winFrame_modWin (arg h 64 12) (fun y => { y with closing := some (waiterOf c.val h.msg) }) _)
  obtain ⟨t, hex, htaken, ring⟩ := live_takeMsg_later (act := winCloseAct) ha (by decide) (by
    unfold winCloseAct
    simp only [ho, hc, some_left, Bool.not_true, bne_self_eq_false, Bool.or_false, Bool.false_eq_true, if_false])
    frame.sends frame.pending (by rw [getCtx_congr frame.ctxs])
  refine ⟨t, hex, htaken, ?_⟩
  rw [← shut.self, ← frame.self]
  exact congrArg (fun ter => tget ter.windows (arg h 64 12) Window.closed0) ring.ter

theorem exec_windowCloseComplete (s : State) (w : Fin 4096) (x : Waiter) (hup : Up s)
    (hw : (getWin s w.val).closing = some x) (hv : x.via = none) (hm : x.mgmt = false)
    (none_left : (getWin s w.val).inflight = 0) :
    ∃ t, exec (.windowCloseComplete w) s = .next t ∧ (getWin t w.val).closing = none ∧
      (ringAt t x.ctx).held = (ringAt s x.ctx).held ++ [mkRec x.gen (recKind false x.opc) 0 x.tag (cmdBody x.opc 0 0 0 0)] := by
  have meaning : closeDone w.val s = postRec x.ctx (mkRec x.gen (recKind false x.opc) 0 x.tag (cmdBody x.opc 0 0 0 0))
      (modWin w.val (fun y => { y with closing := none }) s) := by
    unfold closeDone finish
    simp only [hw, hv, hm, none_left, if_true, Bool.false_eq_true, if_false]
    rfl
  have frame (r : CRec) (u : State) : (postRec x.ctx r u).out = u.out ∧ (postRec x.ctx r u).pending = u.pending ∧
      (postRec x.ctx r u).ter = u.ter := by
    rw [postRec, modRing_frame]
    exact ⟨rfl, rfl, rfl⟩
  obtain ⟨hout, hpend, hter⟩ := frame (mkRec x.gen (recKind false x.opc) 0 x.tag (cmdBody x.opc 0 0 0 0))
    (modWin w.val (fun y => { y with closing := none }) s)
  refine ⟨closeDone w.val s, live_silent hup (by rw [meaning, hout]; rfl) (by rw [meaning, hpend]; rfl), ?_, ?_⟩
  · rw [meaning]
    refine (congrArg (fun ter => (tget ter.windows w.val Window.closed0).closing) hter).trans ?_
    exact congrArg Window.closing (winFrame_modWin w.val (fun y => { y with closing := none }) s).self
  · rw [meaning, postRec_held]
    rfl

/-- Settles O22: each command's window, and the frame of a message's end. -/
theorem windowsOpenAndClose : Obligations.WindowsOpenAndClose := by
  unfold Obligations.WindowsOpenAndClose
  refine fun s c h => ⟨fun ha hbad hfree => ?_, fun ha ho hc => ⟨fun none_left => ?_, fun some_left => ?_⟩,
    fun w x hup hw hv hm none_left => exec_windowCloseComplete s w x hup hw hv hm none_left⟩
  · obtain ⟨t, hex, hans, hwin, hother, hmem⟩ := exec_winOpen s c h ha hbad hfree
    exact ⟨t, hex, hans, by rw [hwin]; rfl, by rw [hwin]; rfl, by rw [hwin]; rfl, by rw [hwin]; rfl, by rw [hwin]; rfl,
      by rw [hwin]; rfl, hother, hmem⟩
  · obtain ⟨t, hex, hans, hwin, hmem⟩ := exec_winClose_quiet s c h ha ho hc none_left
    exact ⟨t, hex, hans, by rw [hwin]; rfl, by rw [hwin]; rfl, by rw [hwin]; rfl, hmem⟩
  · obtain ⟨t, hex, htaken, hwin⟩ := exec_winClose_later s c h ha ho hc some_left
    exact ⟨t, hex, htaken, by rw [hwin]; rfl, by rw [hwin]; rfl, by rw [hwin]⟩

end Sys2Proof.Proofs.Terrace
end

section
/-!
PROOFS. The view of a context: the parts of a range, the bytes that a plain write and a masked write place over them
(R205, R207, R221), and what a read meets (R216, R229).
-/
namespace Sys2Proof.Proofs.Terrace
open Sys2Proof.Machine Sys2Proof.Laws Sys2Proof.Claims Sys2Proof.Proofs.Architecture Sys2Proof.Proofs.Arithmetic
  Sys2Proof.Proofs.Attention Sys2Proof.Proofs.Sequencer

/-! The byte that stands where a list is written. -/

theorem memByte_cellsOf (bs : List Byte) (a i : Nat) : memByte (cellsOf a bs) (a + i) = bs.getD i 0 := by
  unfold memByte
  induction bs generalizing a i with
  | nil => rfl
  | cons b bs ih =>
    cases i with
    | zero =>
      have apart : (cellsOf (a + 1) bs).lookup a = none := lookup_eq_none_of_ne _ a (fun c hc => by
        have := (mem_cellsOf bs (a + 1) c hc).1
        omega)
      rw [cellsOf]
      split
      · rename_i hb
        simp [apart, hb]
      · simp
    | succ i =>
      have later := ih (a + 1) i
      have hne : (a + (i + 1) == a) = false := by simp
      rw [Nat.add_assoc, Nat.add_comm 1 i] at later
      rw [cellsOf]
      split
      · simpa using later
      · simpa [List.lookup_cons, hne] using later

theorem memByte_memWrite_at (m : Mem) (a : Nat) (bs : List Byte) (i : Nat) (h : i < bs.length) :
    memByte (memWrite m a bs) (a + i) = bs.getD i 0 := by
  have here := memByte_cellsOf bs a i
  unfold memByte at here ⊢
  unfold memWrite
  rw [List.lookup_append, List.lookup_append, lookup_filter m (fun k => decide (k < a)),
    lookup_filter m (fun k => decide (a + bs.length ≤ k))]
  simpa [Nat.not_le.mpr (Nat.add_lt_add_left h a)] using here

/-! The parts of a range of the view (R205, R207). -/

theorem viewGo_cons (lo hi base : Nat) (e : Nat × Region) (t : Tbl Region) :
    viewGo lo hi base (e :: t) =
      if max lo base < min hi (base + e.2.len4k * 4096) then
        ⟨max lo base, e.2.base4k * 4096 + (max lo base - base), min hi (base + e.2.len4k * 4096) - max lo base, e.2⟩ ::
          viewGo lo hi (base + e.2.len4k * 4096) t
      else viewGo lo hi (base + e.2.len4k * 4096) t := rfl

theorem viewGo_eq_nil {lo hi base : Nat} (t : Tbl Region) (h : hi ≤ base) : viewGo lo hi base t = [] := by
  induction t generalizing base with
  | nil => rfl
  | cons e t ih =>
    rw [viewGo_cons, if_neg (by omega)]
    exact ih (by omega)

/-- A part is not empty, and lies in the range and behind the regions before its own. -/
theorem bounds_of_mem_viewGo {lo hi base : Nat} {t : Tbl Region} {p : Part} (h : p ∈ viewGo lo hi base t) :
    0 < p.len ∧ lo ≤ p.off ∧ base ≤ p.off ∧ p.off + p.len ≤ hi := by
  induction t generalizing base with
  | nil => cases h
  | cons e t ih =>
    have later (h : p ∈ viewGo lo hi (base + e.2.len4k * 4096) t) :
        0 < p.len ∧ lo ≤ p.off ∧ base ≤ p.off ∧ p.off + p.len ≤ hi := by
      obtain ⟨pos, left, start, right⟩ := ih h
      exact ⟨pos, left, by omega, right⟩
    rw [viewGo_cons] at h
    split at h
    · rcases List.mem_cons.mp h with rfl | h
      · dsimp only
        omega
      · exact later h
    · exact later h

theorem viewLen_cons (e : Nat × Region) (t : Tbl Region) : viewLen (e :: t) = e.2.len4k * 4096 + viewLen t := rfl

/-- The parts of a range inside the view hold all of it. -/
theorem sum_len_viewGo (lo hi base : Nat) (t : Tbl Region) :
    ((viewGo lo hi base t).map (·.len)).sum = min hi (base + viewLen t) - max lo base := by
  induction t generalizing base with
  | nil =>
    have : viewLen [] = 0 := rfl
    simp only [viewGo, List.map_nil, List.sum_nil]
    omega
  | cons e t ih =>
    rw [viewGo_cons, viewLen_cons]
    split
    · rw [List.map_cons, List.sum_cons, ih]
      dsimp only
      omega
    · rw [ih]
      omega

theorem length_partBytes (m : Mem) (ps : List Part) : (partBytes m ps).length = (ps.map (·.len)).sum := by
  unfold partBytes
  simp [List.length_flatMap, length_memRead]

theorem length_partBytes_viewParts (m : Mem) (t : Tbl Region) (off n : Nat) (h : off + n ≤ viewLen t) :
    (partBytes m (viewParts t off n)).length = n := by
  rw [length_partBytes, viewParts, sum_len_viewGo]
  omega

/-- A range of a part's own range: its only part is a piece of that part. -/
theorem viewGo_within {lo hi base : Nat} {t : Tbl Region} {p : Part} (hp : p ∈ viewGo lo hi base t)
    (whole : lo + p.len = hi) (a m : Nat) (hm : 0 < m) (ham : a + m ≤ p.len) :
    viewGo (lo + a) (lo + a + m) base t = [⟨lo + a, p.phys + a, m, p.region⟩] := by
  induction t generalizing base with
  | nil => cases hp
  | cons e t ih =>
    have later (hp : p ∈ viewGo lo hi (base + e.2.len4k * 4096) t) :
        viewGo (lo + a) (lo + a + m) base (e :: t) = [⟨lo + a, p.phys + a, m, p.region⟩] := by
      have := bounds_of_mem_viewGo hp
      rw [viewGo_cons, if_neg (by omega)]
      exact ih hp
    rw [viewGo_cons] at hp
    split at hp
    · rcases List.mem_cons.mp hp with rfl | hp
      · dsimp only at whole ham ⊢
        rw [viewGo_cons, if_pos (by omega), viewGo_eq_nil t (by omega), List.cons.injEq, Machine.Part.mk.injEq]
        exact ⟨⟨by omega, by omega, by omega, rfl⟩, rfl⟩
      · exact later hp
    · exact later hp

/-- The parts of a piece of a range lie in parts of the range. -/
theorem viewGo_mono {lo hi lo' hi' base : Nat} {t : Tbl Region} (hlo : lo ≤ lo') (hhi : hi' ≤ hi) {p : Part}
    (hp : p ∈ viewGo lo' hi' base t) : ∃ q ∈ viewGo lo hi base t, q.phys ≤ p.phys ∧ p.phys + p.len ≤ q.phys + q.len := by
  induction t generalizing base with
  | nil => cases hp
  | cons e t ih =>
    have later (hp : p ∈ viewGo lo' hi' (base + e.2.len4k * 4096) t) :
        ∃ q ∈ viewGo lo hi base (e :: t), q.phys ≤ p.phys ∧ p.phys + p.len ≤ q.phys + q.len := by
      obtain ⟨q, hq, within⟩ := ih hp
      refine ⟨q, ?_, within⟩
      rw [viewGo_cons]
      split
      · exact List.mem_cons_of_mem _ hq
      · exact hq
    rw [viewGo_cons] at hp
    split at hp
    · rcases List.mem_cons.mp hp with rfl | hp
      · rw [viewGo_cons, if_pos (by omega)]
        refine ⟨_, List.mem_cons_self, ?_, ?_⟩
        · dsimp only
          omega
        · dsimp only
          omega
      · exact later hp
    · exact later hp

theorem viewParts_zero (t : Tbl Region) (off : Nat) : viewParts t off 0 = [] :=
  List.eq_nil_iff_forall_not_mem.mpr (fun _ hp => by
    obtain ⟨pos, left, -, right⟩ := bounds_of_mem_viewGo hp
    omega)

/-! Plain writes over the parts of a range. -/

theorem terPut_mem {bs : List Byte} (h : bs.length ≠ 0) (phys : Nat) (tags : List (BitVec 2)) (t : Terrace) :
    (terPut phys bs tags t).mem = memWrite t.mem phys bs := by
  unfold terPut
  simp only [h, if_false]

theorem terPutParts_windows (ps : List Part) (bs : List Byte) (tags : List (BitVec 2)) (t : Terrace) :
    (terPutParts ps bs tags t).windows = t.windows := by
  induction ps generalizing bs tags t with
  | nil => rfl
  | cons p ps ih =>
    rw [terPutParts, ih]
    unfold terPut
    dsimp only
    split <;> rfl

/-- From s to t the Terrace alone changes, its windows stay, and so does every byte outside some parts. -/
structure PartsFrame (ps : List Part) (s t : State) : Prop where
  only : t = { s with ter := t.ter }
  windows : t.ter.windows = s.ter.windows
  mem : ∀ a, (∀ p ∈ ps, a < p.phys ∨ p.phys + p.len ≤ a) → memByte t.ter.mem a = memByte s.ter.mem a

theorem partsFrame_refl (ps : List Part) (s : State) : PartsFrame ps s s := ⟨rfl, rfl, fun _ _ => rfl⟩

theorem PartsFrame.trans {ps : List Part} {s t u : State} (h : PartsFrame ps s t) (g : PartsFrame ps t u) :
    PartsFrame ps s u where
  only := by
    rw [g.only, h.only]
  windows := g.windows.trans h.windows
  mem a ha := (g.mem a ha).trans (h.mem a ha)

theorem PartsFrame.ctxs {ps : List Part} {s t : State} (h : PartsFrame ps s t) : t.ctxs = s.ctxs :=
  (congrArg State.ctxs h.only :)

theorem PartsFrame.out {ps : List Part} {s t : State} (h : PartsFrame ps s t) : t.out = s.out :=
  (congrArg State.out h.only :)

theorem PartsFrame.pending {ps : List Part} {s t : State} (h : PartsFrame ps s t) : t.pending = s.pending :=
  (congrArg State.pending h.only :)

theorem partsFrame_terWrite (s : State) (c off : Nat) (bs : List Byte) (tags : List (BitVec 2)) :
    PartsFrame (viewParts (getCtx s c).regions off bs.length) s (terWrite s c off bs tags).1 := by
  rcases terWrite_cases s c off bs tags with ⟨-, h⟩ | ⟨-, h⟩
  · rw [h]
    exact ⟨rfl, terPutParts_windows .., fun a ha => memByte_terPutParts_ne _ _ _ _ a ha⟩
  · rw [h]
    exact partsFrame_refl _ s

/-! Masked writes (R221). -/

/-- Whether byte i lies in one of some runs (first byte, length). -/
def inRun (rs : List (Nat × Nat)) (i : Nat) : Bool := rs.any (fun r => decide (r.1 ≤ i ∧ i < r.1 + r.2))

theorem inRun_cons (r : Nat × Nat) (rs : List (Nat × Nat)) (i : Nat) :
    inRun (r :: rs) i = true ↔ (r.1 ≤ i ∧ i < r.1 + r.2) ∨ inRun rs i = true := by
  simp [inRun]

theorem inRun_nil (i : Nat) : inRun [] i = false := rfl

/-- An enabled byte before some runs lengthens the first of them or is a run of its own. -/
theorem inRun_beRuns_true (k : Nat) (bs : List Bool) (i : Nat) :
    inRun (beRuns k (true :: bs)) i = true ↔ i = k ∨ inRun (beRuns (k + 1) bs) i = true := by
  rw [beRuns]
  cases beRuns (k + 1) bs with
  | nil =>
    simp only [inRun_cons, inRun_nil, Bool.false_eq_true, or_false]
    omega
  | cons r rs =>
    dsimp only
    split
    · simp only [inRun_cons]
      rw [← or_assoc]
      exact or_congr_left (by omega)
    · simp only [inRun_cons]
      exact or_congr_left (by omega)

theorem inRun_beRuns (en : List Bool) (k i : Nat) :
    inRun (beRuns k en) i = true ↔ k ≤ i ∧ en.getD (i - k) false = true := by
  induction en generalizing k with
  | nil => simp [beRuns, inRun_nil]
  | cons b bs ih =>
    have split_at : k ≤ i ↔ i = k ∨ k + 1 ≤ i := by omega
    have later (h : k + 1 ≤ i) : (b :: bs).getD (i - k) false = bs.getD (i - (k + 1)) false := by
      rw [show i - k = (i - (k + 1)) + 1 by omega]
      rfl
    have first (h : i = k) : (b :: bs).getD (i - k) false = b := by
      subst h
      simp
    cases b with
    | false =>
      rw [beRuns, ih]
      constructor
      · rintro ⟨h, hb⟩
        exact ⟨by omega, by rwa [later h]⟩
      · rintro ⟨h, hb⟩
        rcases split_at.mp h with rfl | h
        · rw [first rfl] at hb
          cases hb
        · exact ⟨h, by rwa [later h] at hb⟩
    | true =>
      rw [inRun_beRuns_true, ih]
      constructor
      · rintro (rfl | ⟨h, hb⟩)
        · exact ⟨Nat.le_refl i, first rfl⟩
        · exact ⟨by omega, by rwa [later h]⟩
      · rintro ⟨h, hb⟩
        exact (split_at.mp h).imp_right (fun h => ⟨h, by rwa [later h] at hb⟩)

/-- One run of a masked write. -/
def writeRun (c off : Nat) (bs : List Byte) (s : State) (r : Nat × Nat) : State :=
  (terWrite s c (off + r.1) ((bs.drop r.1).take r.2) []).1

theorem maskedWrite_eq (c off : Nat) (bs : List Byte) (en : List Bool) (s : State) :
    maskedWrite c off bs en s = (beRuns 0 en).foldl (writeRun c off bs) s := rfl

theorem length_run (bs : List Byte) (a l : Nat) : ((bs.drop a).take l).length = min l (bs.length - a) := by
  simp

theorem getD_run (bs : List Byte) (a l i : Nat) (ha : a ≤ i) (hl : i < a + l) :
    ((bs.drop a).take l).getD (i - a) 0 = bs.getD i 0 := by
  rw [List.getD_eq_getElem?_getD, List.getElem?_take_of_lt (by omega), List.getElem?_drop, Nat.add_sub_cancel' ha,
    List.getD_eq_getElem?_getD]

theorem partsFrame_writeRun (c off : Nat) (bs : List Byte) (s : State) (r : Nat × Nat) :
    PartsFrame (viewParts (getCtx s c).regions off bs.length) s (writeRun c off bs s r) := by
  have frame := partsFrame_terWrite s c (off + r.1) ((bs.drop r.1).take r.2) []
  refine ⟨frame.only, frame.windows, fun a ha => frame.mem a (fun p hp => ?_)⟩
  have bounds := bounds_of_mem_viewGo hp
  have len := length_run bs r.1 r.2
  obtain ⟨q, hq, within⟩ := viewGo_mono (lo := off) (hi := off + bs.length) (by omega) (by omega) hp
  have := ha q hq
  omega

theorem partsFrame_runs (c off : Nat) (bs : List Byte) (rs : List (Nat × Nat)) (s : State) :
    PartsFrame (viewParts (getCtx s c).regions off bs.length) s (rs.foldl (writeRun c off bs) s) := by
  induction rs generalizing s with
  | nil => exact partsFrame_refl _ s
  | cons r rs ih =>
    have first := partsFrame_writeRun c off bs s r
    have rest := ih (writeRun c off bs s r)
    rw [getCtx_congr first.ctxs] at rest
    exact first.trans rest

section
variable {t : Tbl Region} {off : Nat} {bs : List Byte} {p : Part}

/-- A run of a write that lies in one region whole. -/
theorem memByte_writeRun {s : State} {c : Nat} (ht : (getCtx s c).regions = t) (hview : off + bs.length ≤ viewLen t)
    (hp : p ∈ viewParts t off bs.length) (whole : p.len = bs.length) (r : Nat × Nat) (i : Nat) (hi : i < bs.length) :
    memByte (writeRun c off bs s r).ter.mem (p.phys + i) =
      if r.1 ≤ i ∧ i < r.1 + r.2 then bs.getD i 0 else memByte s.ter.mem (p.phys + i) := by
  obtain ⟨a, l⟩ := r
  have len := length_run bs a l
  dsimp only at len ⊢
  unfold writeRun
  dsimp only
  generalize hrun : (bs.drop a).take l = run at len ⊢
  rcases terWrite_cases s c (off + a) run [] with ⟨-, h⟩ | ⟨beyond, h⟩
  · rw [h, ht]
    dsimp only
    by_cases empty : run.length = 0
    · rw [empty, viewParts_zero, if_neg (by omega)]
      rfl
    · have one : viewParts t (off + a) run.length = [⟨off + a, p.phys + a, run.length, p.region⟩] :=
        viewGo_within hp (by rw [whole]) a run.length (by omega) (by omega)
      have put : terPutParts [⟨off + a, p.phys + a, run.length, p.region⟩] run [] s.ter =
          terPut (p.phys + a) run [] s.ter := by
        simp [terPutParts]
      rw [one, put, terPut_mem empty]
      by_cases here : a ≤ i ∧ i < a + l
      · rw [if_pos here, ← getD_run bs a l i here.1 here.2, hrun, show p.phys + i = p.phys + a + (i - a) by omega]
        exact memByte_memWrite_at _ _ _ _ (by omega)
      · rw [if_neg here]
        exact memByte_memWrite_ne _ _ _ _ (by omega)
  · rw [ht] at beyond
    rw [h, if_neg (by omega)]

theorem memByte_runs {s : State} {c : Nat} (ht : (getCtx s c).regions = t) (hview : off + bs.length ≤ viewLen t)
    (hp : p ∈ viewParts t off bs.length) (whole : p.len = bs.length) (rs : List (Nat × Nat)) (i : Nat)
    (hi : i < bs.length) :
    memByte (rs.foldl (writeRun c off bs) s).ter.mem (p.phys + i) =
      if inRun rs i then bs.getD i 0 else memByte s.ter.mem (p.phys + i) := by
  induction rs generalizing s with
  | nil => rfl
  | cons r rs ih =>
    have same : (getCtx (writeRun c off bs s r) c).regions = t := by
      rw [getCtx_congr (partsFrame_writeRun c off bs s r).ctxs, ht]
    rw [List.foldl_cons, ih same, memByte_writeRun ht hview hp whole r i hi, ← ite_or]
    exact if_congr (by rw [inRun_cons, or_comm]) rfl rfl

/-- A masked write into one region places the enabled bytes and no other (R221). -/
theorem memByte_maskedWrite {s : State} {c : Nat} (ht : (getCtx s c).regions = t) (hview : off + bs.length ≤ viewLen t)
    (hp : p ∈ viewParts t off bs.length) (whole : p.len = bs.length) (en : List Bool) (i : Nat) (hi : i < bs.length) :
    memByte (maskedWrite c off bs en s).ter.mem (p.phys + i) =
      if en.getD i false then bs.getD i 0 else memByte s.ter.mem (p.phys + i) := by
  rw [maskedWrite_eq, memByte_runs ht hview hp whole _ i hi]
  exact if_congr (by simp [inRun_beRuns]) rfl rfl

end

/-! What a read meets (R216, R229). -/

/-- The poisoned words once the flipped words of a read are corrected or poisoned. -/
theorem mem_poison_eccTouch (ws : List (Nat × Nat)) (s : State) (w : Nat) :
    w ∈ (eccTouch ws s).ter.poison ↔ w ∈ s.ter.poison ∨ ∃ e ∈ ws, e.2 ≠ 1 ∧ e.1 = w := by
  unfold eccTouch
  induction ws generalizing s with
  | nil => simp
  | cons e ws ih =>
    rw [List.foldl_cons, ih, List.exists_mem_cons_iff, ← or_assoc]
    refine or_congr_left ?_
    dsimp only
    split
    · rename_i one
      simp only [one, ne_eq, not_true_eq_false, false_and, or_false]
      rfl
    · rename_i two
      have marked (x : State) (h : x.ter.poison = s.ter.poison.filter (· != e.1) ++ [e.1]) :
          w ∈ (countMarked (sliceOfWord e.1) x).ter.poison ↔ w ∈ s.ter.poison ∨ (e.2 ≠ 1 ∧ e.1 = w) := by
        have keep : (countMarked (sliceOfWord e.1) x).ter.poison = x.ter.poison := rfl
        rw [keep, h]
        by_cases hw : w = e.1
        · simp [hw, two]
        · simp [hw, Ne.symm hw]
      exact marked _ rfl

/-- A read meets poison when a word of it is poisoned or holds two flipped bits (R229). -/
theorem poisonIn_eccTouch (s : State) (ps : List Part) :
    poisonIn (eccTouch (flipsIn s ps) s) ps = true ↔ poisonIn s ps = true ∨ ∃ e ∈ flipsIn s ps, e.2 ≠ 1 := by
  simp only [poisonIn, List.any_eq_true, mem_poison_eccTouch]
  constructor
  · rintro ⟨w, hw | ⟨e, he, two, -⟩, hit⟩
    · exact .inl ⟨w, hw, hit⟩
    · exact .inr ⟨e, he, two⟩
  · rintro (⟨w, hw, hit⟩ | ⟨e, he, two⟩)
    · exact ⟨w, .inl hw, hit⟩
    · exact ⟨e.1, .inr ⟨e, he, two, rfl⟩, List.any_eq_true.mp (List.mem_filter.mp he).2⟩

end Sys2Proof.Proofs.Terrace
end

section
/-!
PROOFS. The X-ports: what a read and a write answer and leave, by what they meet (R207, R213, R216, R219, R221, R455).
-/
namespace Sys2Proof.Proofs.Terrace
open Sys2Proof.Machine Sys2Proof.Laws Sys2Proof.Claims Sys2Proof.Proofs.Architecture Sys2Proof.Proofs.Arithmetic
  Sys2Proof.Proofs.Attention Sys2Proof.Proofs.Sequencer

/-! X-port requests (R213, R221). -/

/-- An X-port request that sends nothing on a link is its meaning alone. -/
theorem live_xAccess {r : XReq} {s t : State} (hup : Up s) (h : xAccess r s = t) (sends : SendsUnframed s t)
    (hp : t.pending = s.pending) : live (xAccess r) s = .next t := by
  subst h
  rw [live_up _ s hup, effect_of_sendsUnframed sends hp]

/-- A request that waits. -/
def xWaits (r : XReq) (s : State) : State := { s with ter := { s.ter with xwait := s.ter.xwait ++ [r] } }

theorem xAccess_read {r : XReq} (h : r.write = none) (s : State) : xAccess r s = (tryXRead r s).getD (xWaits r s) := by
  unfold xAccess
  rw [h]
  rfl

theorem xAccess_write {r : XReq} {k : Nat} {gen : BitVec 32} {bs : List Byte} {en : List Bool}
    (h : r.write = some (k, gen, bs, en)) (s : State) :
    xAccess r s = (tryXWrite r k gen bs en s).getD (xWaits r s) := by
  unfold xAccess
  rw [h]
  rfl

/-- The parts that a request reaches. -/
def xParts (r : XReq) (s : State) : List Part := viewParts (getCtx s r.ctx).regions r.off r.len

/-- A read inside the view, in regions that have XRD (R207, R221). -/
def Readable (r : XReq) (s : State) : Prop :=
  r.off + r.len ≤ viewLen (getCtx s r.ctx).regions ∧ ∀ p ∈ xParts r s, p.region.xrd = true

theorem not_readable_iff (r : XReq) (s : State) :
    (decide (viewLen (getCtx s r.ctx).regions < r.off + r.len) || !(xParts r s).all (fun p => p.region.xrd)) = true ↔
      ¬ Readable r s := by
  simp [Readable, imp_iff_not_or]

theorem tryXRead_beyond {r : XReq} {s : State} (h : ¬ Readable r s) :
    tryXRead r s = some (emit (.xresp r.port r.tag stTERRACE_BOUND []) s) :=
  if_pos ((not_readable_iff r s).mpr h)

section
variable {r : XReq} {s : State} (h : Readable r s)
include h

theorem inside_view : ¬ (decide (viewLen (getCtx s r.ctx).regions < r.off + r.len) ||
    !(viewParts (getCtx s r.ctx).regions r.off r.len).all (fun p => p.region.xrd)) = true :=
  fun bad => (not_readable_iff r s).mp bad h

theorem tryXRead_waits (busy : tableFree s false (partLines (xParts r s)) = false) : tryXRead r s = none := by
  rw [tryXRead, if_neg (inside_view h), if_pos (by simpa [xParts] using busy)]

variable (free : tableFree s false (partLines (xParts r s)) = true)
include free

theorem tryXRead_ok {s1 : State} {bs : List Byte} {tags : List (BitVec 2)}
    (hr : terRead s r.ctx r.off r.len = (s1, .ok (bs, tags))) :
    tryXRead r s = some (emit (.xresp r.port r.tag stOK bs) s1) := by
  rw [tryXRead, if_neg (inside_view h), if_neg (by simpa [xParts] using free), hr]

theorem tryXRead_error {s1 : State} {f : RFault} (hr : terRead s r.ctx r.off r.len = (s1, .error f)) :
    tryXRead r s = some (emit (.xresp r.port r.tag f.status []) (if f.status = stUNFILLED_READ then
      modCounts r.ctx (fun k => { k with unfilledRead := satInc k.unfilledRead }) s1 else s1)) := by
  rw [tryXRead, if_neg (inside_view h), if_neg (by simpa [xParts] using free), hr]

end

theorem terRead_unfilled {s : State} {c off n g : Nat} (view : off + n ≤ viewLen (getCtx s c).regions)
    (hg : unfilledAt s.ter.unfilled (viewParts (getCtx s c).regions off n) = some g) :
    terRead s c off n = (s, .error ⟨stUNFILLED_READ, 255, g, 0⟩) := by
  simp [terRead, terCheck, Nat.not_lt.mpr view, hg]

theorem terRead_filled {s : State} {c off n : Nat} {ps : List Part} (view : off + n ≤ viewLen (getCtx s c).regions)
    (hps : viewParts (getCtx s c).regions off n = ps) (filled : unfilledAt s.ter.unfilled ps = none) :
    terRead s c off n =
      if poisonIn (eccTouch (flipsIn s ps) s) ps then (eccTouch (flipsIn s ps) s, .error (plainFault stTERRACE_UE))
      else (eccTouch (flipsIn s ps) s,
        .ok (partBytes (eccTouch (flipsIn s ps) s).ter.mem ps, partTags (eccTouch (flipsIn s ps) s).ter.tags ps)) := by
  simp [terRead, terCheck, Nat.not_lt.mpr view, hps, filled]

/-- A response of an X-port goes on no link. -/
theorem sendsUnframed_xresp (port tag st : Nat) (bs : List Byte) {s t : State} (h : SendsUnframed s t) :
    SendsUnframed s (emit (.xresp port tag st bs) t) := h.trans (.emit _ _ (fun _ => rfl))

section
variable {r : XReq} {s : State} (hup : Up s) (hr : r.write = none)
include hup hr

/-- A read that is answered. -/
theorem live_xRead {st : Nat} {bs : List Byte} {u : State}
    (h : tryXRead r s = some (emit (.xresp r.port r.tag st bs) u)) (out : u.out = s.out) (hp : u.pending = s.pending) :
    live (xAccess r) s = .next (emit (.xresp r.port r.tag st bs) u) :=
  live_xAccess hup (by rw [xAccess_read hr, h]; rfl) (sendsUnframed_xresp _ _ _ _ (.of_out_eq out)) hp

theorem xRead_beyond (h : ¬ Readable r s) :
    live (xAccess r) s = .next { s with out := s.out ++ [.xresp r.port r.tag 0x3004 []] } :=
  live_xRead hup hr (tryXRead_beyond h) rfl rfl

theorem xRead_waits (h : Readable r s) (busy : tableFree s false (partLines (xParts r s)) = false) :
    live (xAccess r) s = .next (xWaits r s) :=
  live_xAccess hup (by rw [xAccess_read hr, tryXRead_waits h busy]; rfl) (.of_out_eq rfl) rfl

variable (h : Readable r s) (free : tableFree s false (partLines (xParts r s)) = true)
include h free

theorem xRead_unfilled (hg : (unfilledAt s.ter.unfilled (xParts r s)).isSome = true) :
    ∃ t, live (xAccess r) s = .next t ∧ t.out = s.out ++ [.xresp r.port r.tag 0x3005 []] ∧ t.ter = s.ter ∧
      (getCtx t r.ctx).counts.unfilledRead = Nat.min ((getCtx s r.ctx).counts.unfilledRead + 1) 0xFFFFFFFF := by
  obtain ⟨g, hg⟩ := Option.isSome_iff_exists.mp hg
  refine ⟨_, live_xRead hup hr (tryXRead_error h free (terRead_unfilled h.1 hg)) rfl rfl, rfl, rfl, ?_⟩
  exact congrArg (fun x : Ctx => x.counts.unfilledRead)
    (getCtx_modCounts_self r.ctx (fun k => { k with unfilledRead := satInc k.unfilledRead }) s)

variable (filled : unfilledAt s.ter.unfilled (xParts r s) = none)
include filled

theorem xRead_poisoned (bad : poisonIn s (xParts r s) = true ∨ ∃ e ∈ flipsIn s (xParts r s), e.2 ≠ 1) :
    ∃ t, live (xAccess r) s = .next t ∧ t.out = s.out ++ [.xresp r.port r.tag 0x3006 []] ∧ t.ter.mem = s.ter.mem := by
  have hread := terRead_filled (ps := xParts r s) h.1 rfl filled
  rw [if_pos ((poisonIn_eccTouch s _).mpr bad)] at hread
  obtain ⟨sys, ter, touched, -, hmem⟩ := eccTouch_only (flipsIn s (xParts r s)) s
  have done := tryXRead_error h free hread
  rw [touched] at done
  exact ⟨_, live_xRead hup hr done rfl rfl, rfl, hmem⟩

theorem xRead_answers (clean : poisonIn s (xParts r s) = false) (single : ∀ e ∈ flipsIn s (xParts r s), e.2 = 1) :
    ∃ (t : State) (bs : List Byte), live (xAccess r) s = .next t ∧ t.out = s.out ++ [.xresp r.port r.tag 0 bs] ∧
      bs.length = r.len ∧ bs = (xParts r s).flatMap (fun p => memRead s.ter.mem p.phys p.len) ∧ t.ter.mem = s.ter.mem ∧
      (flipsIn s (xParts r s) = [] → t = { s with out := t.out }) := by
  have good : ¬ poisonIn (eccTouch (flipsIn s (xParts r s)) s) (xParts r s) = true := fun bad => by
    rcases (poisonIn_eccTouch s _).mp bad with bad | ⟨e, he, two⟩
    · rw [clean] at bad
      cases bad
    · exact two (single e he)
  have hread := terRead_filled (ps := xParts r s) h.1 rfl filled
  rw [if_neg good] at hread
  have done := tryXRead_ok h free hread
  obtain ⟨sys, ter, touched, -, hmem⟩ := eccTouch_only (flipsIn s (xParts r s)) s
  have bytes : partBytes (eccTouch (flipsIn s (xParts r s)) s).ter.mem (xParts r s) = partBytes s.ter.mem (xParts r s) := by
    rw [touched]
    exact congrArg (partBytes · _) hmem
  rw [bytes] at done
  refine ⟨_, _, live_xRead hup hr done (by rw [touched]) (by rw [touched]), ?_,
    length_partBytes_viewParts s.ter.mem _ _ _ h.1, rfl, ?_, fun clear => ?_⟩
  · rw [touched]
    rfl
  · rw [touched]
    exact hmem
  · rw [clear]
    rfl

end

/-! X-port writes (R219, R221, R455). -/

theorem remoteCheck_codes {x : Window} {c : Nat} {gen : BitVec 32} {cls off n st : Nat}
    (h : remoteCheck x c gen cls off n = some st) :
    st = stWINDOW_CLOSED ∨ st = stWINDOW_CLASS ∨ st = stWINDOW_RANGE ∨ st = stWINDOW_NOCREDIT := by
  unfold remoteCheck at h
  split at h
  · exact .inl (Option.some.inj h).symm
  · split at h
    · exact .inr (.inl (Option.some.inj h).symm)
    · split at h
      · exact .inr (.inr (.inl (Option.some.inj h).symm))
      · split at h
        · exact .inr (.inr (.inr (Option.some.inj h).symm))
        · cases h

/-- A write that passes its checks has the credits that it spends (R219). -/
theorem credits_of_remoteCheck {x : Window} {c : Nat} {gen : BitVec 32} {cls off n : Nat}
    (h : remoteCheck x c gen cls off n = none) : granuleCount off n ≤ x.credits := by
  unfold remoteCheck at h
  split at h
  · cases h
  · split at h
    · cases h
    · split at h
      · cases h
      · split at h
        · cases h
        · omega

/-- Each count of a window's owner rises for its own code alone. -/
theorem window_counts {st : Nat} (h : st = stWINDOW_CLOSED ∨ st = stWINDOW_CLASS ∨ st = stWINDOW_RANGE ∨ st = stWINDOW_NOCREDIT)
    (a : CtxCounts) :
    let up (code v : Nat) : Nat := if st = code then Nat.min (v + 1) 0xFFFFFFFF else v
    (CtxCounts.window st a).windowClosed = up 0x300E a.windowClosed ∧
      (CtxCounts.window st a).windowClass = up 0x300F a.windowClass ∧
      (CtxCounts.window st a).windowRange = up 0x3010 a.windowRange ∧
      (CtxCounts.window st a).windowNocredit = up 0x3011 a.windowNocredit := by
  rcases h with rfl | rfl | rfl | rfl <;> exact ⟨rfl, rfl, rfl, rfl⟩

theorem replaceX_succ (k n : Nat) (s : State) :
    replaceX k (n + 1) s =
      emit (.xcredit false (getWin (replaceX k n s) k).ctx k (getWin (replaceX k n s) k).gen.toNat 1)
        (modWin k (fun y => { y with credits := y.credits + 1 }) (replaceX k n s)) := by
  unfold replaceX
  rw [List.range_succ, List.foldl_append]
  rfl

/-- The credits that a committed write replaces. -/
theorem winFrame_replaceX (k n : Nat) (s : State) :
    WinFrame k { getWin s k with credits := (getWin s k).credits + n } s (replaceX k n s) := by
  induction n generalizing s with
  | zero => exact winFrame_refl k s
  | succ n ih =>
    have last := replaceX_succ k n s
    have before := ih s
    generalize replaceX k n s = u at last before
    have one := winFrame_modWin k (fun y => { y with credits := y.credits + 1 }) u
    rw [before.self] at one
    rw [last]
    exact before.trans (one.xcredit ..)

section
variable {r : XReq} {s : State} {k : Nat} {gen : BitVec 32} {bs : List Byte} {en : List Bool}
  (view : r.off + r.len ≤ viewLen (getCtx s r.ctx).regions)
include view

theorem tryXWrite_waits (busy : tableFree s true (partLines (xParts r s)) = false) :
    tryXWrite r k gen bs en s = none := by
  rw [tryXWrite, if_neg (Nat.not_lt.mpr view), if_pos (by simpa [xParts] using busy)]

variable (free : tableFree s true (partLines (xParts r s)) = true)
include free

theorem tryXWrite_refused {st : Nat} (bad : remoteCheck (getWin s k) r.ctx gen 3 r.off r.len = some st) :
    tryXWrite r k gen bs en s = some (emit (.xresp r.port r.tag st []) (countWindow (getWin s k) st s)) := by
  rw [tryXWrite, if_neg (Nat.not_lt.mpr view), if_neg (by simpa [xParts] using free), bad]

theorem tryXWrite_passes (good : remoteCheck (getWin s k) r.ctx gen 3 r.off r.len = none) :
    tryXWrite r k gen bs en s =
      some (replaceX k (granuleCount r.off r.len) (emit (.xresp r.port r.tag stOK []) (maskedWrite r.ctx r.off bs en
        (modWin k (fun y => { y with credits := y.credits - granuleCount r.off r.len }) s)))) := by
  rw [tryXWrite, if_neg (Nat.not_lt.mpr view), if_neg (by simpa [xParts] using free), good]

end

section
variable {r : XReq} {s : State} {k : Nat} {gen : BitVec 32} {bs : List Byte} {en : List Bool}
  (hup : Up s) (hw : r.write = some (k, gen, bs, en))
include hup hw

theorem xWrite_beyond (h : viewLen (getCtx s r.ctx).regions < r.off + r.len) :
    live (xAccess r) s = .next { s with out := s.out ++ [.xresp r.port r.tag 0x3004 []] } := by
  refine live_xAccess hup ?_ (sendsUnframed_xresp r.port r.tag stTERRACE_BOUND [] (.of_out_eq rfl)) rfl
  rw [xAccess_write hw, tryXWrite, if_pos h]
  rfl

variable (view : r.off + r.len ≤ viewLen (getCtx s r.ctx).regions)
include view

theorem xWrite_waits (busy : tableFree s true (partLines (xParts r s)) = false) :
    live (xAccess r) s = .next (xWaits r s) := by
  refine live_xAccess hup ?_ (.of_out_eq rfl) rfl
  rw [xAccess_write hw, tryXWrite_waits view busy]
  rfl

variable (free : tableFree s true (partLines (xParts r s)) = true)
include free

theorem xWrite_refused {st : Nat} (bad : remoteCheck (getWin s k) r.ctx gen 3 r.off r.len = some st) :
    ∃ t, live (xAccess r) s = .next t ∧ t.out = s.out ++ [.xresp r.port r.tag st []] ∧ t.ter = s.ter ∧
      (let a := (getCtx s (getWin s k).ctx).counts
       let b := (getCtx t (getWin s k).ctx).counts
       let up (code v : Nat) : Nat := if st = code then Nat.min (v + 1) 0xFFFFFFFF else v
       b.windowClosed = up 0x300E a.windowClosed ∧ b.windowClass = up 0x300F a.windowClass ∧
         b.windowRange = up 0x3010 a.windowRange ∧ b.windowNocredit = up 0x3011 a.windowNocredit) := by
  have done : xAccess r s = emit (.xresp r.port r.tag st []) (countWindow (getWin s k) st s) := by
    rw [xAccess_write hw, tryXWrite_refused view free bad]
    rfl
  have counts : (getCtx (countWindow (getWin s k) st s) (getWin s k).ctx).counts =
      CtxCounts.window st (getCtx s (getWin s k).ctx).counts := congrArg Ctx.counts (getCtx_modCounts_self ..)
  refine ⟨_, live_xAccess hup done (sendsUnframed_xresp _ _ _ _ (.of_out_eq rfl)) rfl, rfl, rfl, ?_⟩
  have raised := window_counts (remoteCheck_codes bad) (getCtx s (getWin s k).ctx).counts
  rw [← counts] at raised
  exact raised

theorem xWrite_commits (len : r.len = bs.length) (good : remoteCheck (getWin s k) r.ctx gen 3 r.off r.len = none) :
    ∃ t, live (xAccess r) s = .next t ∧ .xresp r.port r.tag 0 [] ∈ t.out ∧
      (getWin t k).credits = (getWin s k).credits ∧
      (∀ p ∈ xParts r s, p.len = bs.length → ∀ i, i < bs.length → memByte t.ter.mem (p.phys + i) =
        if en.getD i false then bs.getD i 0 else memByte s.ter.mem (p.phys + i)) ∧
      (∀ a, (∀ p ∈ xParts r s, a < p.phys ∨ p.phys + p.len ≤ a) → memByte t.ter.mem a = memByte s.ter.mem a) := by
  have done := tryXWrite_passes (bs := bs) (en := en) view free good
  have enough := credits_of_remoteCheck good
  generalize granuleCount r.off r.len = g at done enough
  have spent := winFrame_modWin k (fun y => { y with credits := y.credits - g }) s
  generalize modWin k (fun y => { y with credits := y.credits - g }) s = s1 at done spent
  have written := partsFrame_runs r.ctx r.off bs (beRuns 0 en) s1
  have bytes (p : Part) (hp : p ∈ xParts r s) (whole : p.len = bs.length) (i : Nat) (hi : i < bs.length) :=
    memByte_maskedWrite (s := s1) (c := r.ctx) (congrArg Ctx.regions (getCtx_congr spent.ctxs r.ctx)) (len ▸ view)
      (len ▸ hp) whole en i hi
  rw [← maskedWrite_eq, getCtx_congr spent.ctxs, ← len] at written
  generalize maskedWrite r.ctx r.off bs en s1 = s2 at done written bytes
  have replaced := winFrame_replaceX k g (emit (.xresp r.port r.tag stOK []) s2)
  have sent : SendsUnframed s (emit (.xresp r.port r.tag stOK []) s2) :=
    sendsUnframed_xresp _ _ _ _ (spent.sends.trans (.of_out_eq written.out))
  obtain ⟨l, hl, -⟩ := replaced.sends
  have win : getWin s2 k = { getWin s k with credits := (getWin s k).credits - g } := by
    rw [← spent.self]
    exact congrArg (fun ws => tget ws k Window.closed0) written.windows
  refine ⟨_, live_xAccess hup (by rw [xAccess_write hw, done]; rfl) (sent.trans replaced.sends)
    (replaced.pending.trans (written.pending.trans spent.pending)), ?_, ?_, fun p hp whole i hi => ?_, fun a ha => ?_⟩
  · rw [hl]
    exact List.mem_append_left l (List.mem_append_right _ List.mem_cons_self)
  · have credits : (getWin s2 k).credits + g = (getWin s k).credits := by
      rw [win]
      exact Nat.sub_add_cancel enough
    rw [replaced.self]
    exact credits
  · rw [replaced.mem, ← spent.mem]
    exact bytes p hp whole i hi
  · rw [replaced.mem, ← spent.mem]
    exact written.mem a ha

end

/-- Settles O23: a request's meaning by what it meets, and what a masked write leaves. -/
theorem xPortsReadAndWrite : Obligations.XPortsReadAndWrite := by
  unfold Obligations.XPortsReadAndWrite
  have reads (s : State) (r : XReq) (hup : Up s) (hr : r.write = none) := And.intro (xRead_beyond hup hr)
    (And.intro (xRead_waits hup hr) (And.intro (fun taken : Readable r s ∧ _ => xRead_unfilled hup hr taken.1 taken.2)
      (And.intro (fun taken : Readable r s ∧ _ => xRead_poisoned hup hr taken.1 taken.2)
        (fun taken : Readable r s ∧ _ => xRead_answers hup hr taken.1 taken.2))))
  refine ⟨fun s port c tag hup => ⟨fun w => ?_, fun l n => ?_⟩, fun s port c tag k gen hup => ?_⟩
  · exact reads s ⟨port.val, tag.val, c.val, 8 * w.val, 8, none⟩ hup rfl
  · exact reads s ⟨port.val, tag.val, c.val, 256 * l.val, 256 * (n.val + 1), none⟩ hup rfl
  · have writes (r : XReq) (bs : List Byte) (en : List Bool) (hw : r.write = some (k.val, gen, bs, en))
        (len : r.len = bs.length) := And.intro (xWrite_beyond hup hw) (And.intro (xWrite_waits hup hw)
      (And.intro (fun st (taken : _ ∧ _) => xWrite_refused (st := st) hup hw taken.1 taken.2)
        (fun taken : _ ∧ _ => xWrite_commits hup hw taken.1 taken.2 len)))
    refine ⟨fun w d be => ?_, fun l data be => ?_⟩
    · exact writes ⟨port.val, tag.val, c.val, 8 * w.val, 8, some (k.val, gen, leBytes 8 d.toNat, enables 8 be.toNat)⟩ _ _ rfl
        (length_leBytes 8 _).symm
    · have len : (data.flatMap (fun d => leBytes 256 d.toNat)).length = 256 * data.length := by
        simp [List.length_flatMap, Nat.mul_comm]
      have block : exec (.xBlockWrite port c l tag k gen data be) s = live (xAccess ⟨port.val, tag.val, c.val, 256 * l.val,
          (data.flatMap (fun d => leBytes 256 d.toNat)).length, some (k.val, gen, data.flatMap (fun d => leBytes 256 d.toNat),
            be.flatMap (fun b => enables 256 b.toNat))⟩) s := by
        rw [len]
        rfl
      rw [block]
      exact writes ⟨port.val, tag.val, c.val, 256 * l.val, _, some (k.val, gen, _, _)⟩ _ _ rfl rfl

end Sys2Proof.Proofs.Terrace
end

section
/-!
PROOFS. The canonical form of the three memories (R203, R207, R393): what keeps it, and the operations that the commands
share.
-/
namespace Sys2Proof.Proofs.Terrace
open Sys2Proof.Machine Sys2Proof.Laws Sys2Proof.Claims Sys2Proof.Proofs.Arithmetic Sys2Proof.Proofs.Attention

/-- A change of the state that keeps the memories in canonical form. -/
def Canonises (f : State → State) : Prop := ∀ ⦃s⦄, MemoriesCanonical s → MemoriesCanonical (f s)

/-- The same of a computation that may fail, whether or not it does. -/
def RunCanonises {ε α : Type} (m : ExceptT ε (StateM State) α) : Prop := Canonises (fun s => (m.run.run s).2)

/-- The same of a message's own meaning. -/
def ActCanonises (act : MsgAct) : Prop := ∀ c w m, Canonises (fun s => (act c w m s).1)

/-- The state that a command answers, if it answers one, is in canonical form. -/
def NextCanonical (r : Result) : Prop := ∀ t, r = .next t → MemoriesCanonical t

variable {α β γ : Type} {s t : State}

theorem canonical_ite {c : Prop} [Decidable c] (hs : MemoriesCanonical s) (ht : MemoriesCanonical t) :
    MemoriesCanonical (if c then s else t) := by
  split
  · exact hs
  · exact ht

theorem canonical_foldl {f : State → α → State} {l : List α} (hf : ∀ a, Canonises (fun s => f s a))
    (h : MemoriesCanonical s) : MemoriesCanonical (l.foldl f s) := by
  induction l generalizing s with
  | nil => exact h
  | cons a l ih => exact ih (hf a h)

/-- The state of a pair that an operation answers. -/
theorem canonical_fst {p : State × α} {a : α} (e : p = (t, a)) (h : MemoriesCanonical p.1) :
    MemoriesCanonical t := by
  rw [e] at h
  exact h

theorem canonical_snd {p : α × State} {a : α} (e : p = (a, t)) (h : MemoriesCanonical p.2) :
    MemoriesCanonical t := by
  rw [e] at h
  exact h

theorem canonical_of_linkFrame (f : LinkFrame s t) (h : MemoriesCanonical s) : MemoriesCanonical t := by
  obtain ⟨hm, ho⟩ := h
  exact ⟨by rw [f.terMem]; exact hm, f.outside ho⟩

/-- A change of the state beside the memories. -/
theorem canonical_of_same (h : MemoriesCanonical s) (hm : t.ter.mem = s.ter.mem := by rfl)
    (he : t.ext = s.ext := by rfl) :
    MemoriesCanonical t := by
  rw [MemoriesCanonical, hm, he]
  exact h

/-! Runs of computations that may fail: each step from a canonical state. -/

variable {ε : Type}

theorem run_pure {a : α} : RunCanonises (pure a : ExceptT ε (StateM State) α) := fun _ h => h

theorem run_throw {e : ε} : RunCanonises (throw e : ExceptT ε (StateM State) α) := fun _ h => h

theorem run_set (h : MemoriesCanonical t) : RunCanonises (set t : ExceptT ε (StateM State) PUnit) := fun _ _ => h

theorem run_modify {f : State → State} (hf : Canonises f) : RunCanonises (modify f : ExceptT ε
    (StateM State) PUnit) := hf

/-- What follows may rest on the form of the state that is read. -/
theorem run_get {k : State → ExceptT ε (StateM State) α} (hk : ∀ s, MemoriesCanonical s → RunCanonises (k s)) :
    RunCanonises (get >>= k) := fun s h => hk s h h

theorem run_bind {m : ExceptT ε (StateM State) α} {f : α → ExceptT ε (StateM State) β} (hm : RunCanonises m)
    (hf : ∀ a, RunCanonises (f a)) : RunCanonises (m >>= f) := by
  intro s h
  have first : MemoriesCanonical (m.run.run s).2 := hm h
  change MemoriesCanonical ((m >>= f).run.run s).2
  have e : (m >>= f).run.run s = (ExceptT.bindCont f (m.run.run s).1).run (m.run.run s).2 := rfl
  rw [e]
  revert first
  rcases m.run.run s with ⟨_ | a, t⟩ <;> intro first
  · exact first
  · exact hf a first

theorem run_ite {c : Prop} [Decidable c] {m n : ExceptT ε (StateM State) α} (hm : RunCanonises m) (hn :
    RunCanonises n) :
    RunCanonises (if c then m else n) := by
  split
  · exact hm
  · exact hn

theorem run_mapM {l : List α} {f : α → ExceptT ε (StateM State) β} (hf : ∀ a, RunCanonises (f a)) :
    RunCanonises (l.mapM f) := by
  induction l with
  | nil => exact run_pure
  | cons a l ih =>
    rw [List.mapM_cons]
    exact run_bind (hf a) (fun _ => run_bind ih (fun _ => run_pure))

theorem canonical_run {m : ExceptT ε (StateM State) α} (hm : RunCanonises m) (h : MemoriesCanonical s) :
    MemoriesCanonical (m.run.run s).2 := hm h

theorem canonical_exec {m : Eff α} (hm : RunCanonises m) (h : MemoriesCanonical s) :
    MemoriesCanonical (m.exec s).2 := hm h

/-! The outside memories (R225 to R227, R393). -/

theorem canonical_of_outside (hm : t.ter.mem = s.ter.mem) (ho : OutsideWf s → OutsideWf t) (h : MemoriesCanonical s) :
    MemoriesCanonical t := by
  obtain ⟨mem, outside⟩ := h
  exact ⟨by rw [hm]; exact mem, ho outside⟩

theorem canonical_writeBack {l : CacheLine} : Canonises (writeBack l) :=
  fun s h => canonical_of_linkFrame (frame_writeBack l s) h

theorem canonical_mQueue {write priv : Bool} {c space a n : Nat} : Canonises (mQueue write c priv space a n) :=
  fun s h => canonical_of_linkFrame (frame_mQueue write c priv space a n s) h

theorem canonical_extPut {space a : Nat} {bs : List Byte} {pw : List Nat} {cached : Bool} :
    Canonises (extPut space a bs pw cached) :=
  fun s h => canonical_of_linkFrame (frame_extPut space a bs pw cached s) h

theorem canonical_extWrite {c space a : Nat} {priv cached : Bool} {bs : List Byte} {pw : List Nat}
    (h : MemoriesCanonical s) :
    MemoriesCanonical (extWrite s c priv space a bs pw cached).1 :=
  canonical_of_outside (readFrame_extWrite s c priv space a bs pw cached).mem
    (wf_extWrite s c priv space a bs pw cached) h

theorem canonical_evict {l : CacheLine} : Canonises (evict l) :=
  fun _ h => canonical_ite (canonical_mQueue (canonical_writeBack h)) h

theorem canonical_cacheAlloc {space line : Nat} : Canonises (cacheAlloc space line) := by
  intro s h
  rw [cacheAlloc_eq]
  rcases makeRoom_cases line s with room | ⟨l, -, room⟩
  · rw [room]
    exact h
  · rw [room]
    exact canonical_evict h

theorem canonical_fillLine {space x : Nat} : Canonises (fillLine space x) := by
  intro s h
  unfold fillLine
  dsimp only
  split
  · exact h
  · exact canonical_foldl (fun _ _ g => g) (canonical_cacheAlloc h)

theorem canonical_cacheFill {space a n : Nat} : Canonises (cacheFill space a n) := by
  intro s h
  by_cases none : cachedGroups s = 0 ∨ n = 0
  · rw [cacheFill_of_none _ _ _ _ none]
    exact h
  · rw [cacheFill_of_some _ _ _ _ none]
    exact canonical_foldl (fun _ => canonical_fillLine) h

theorem canonical_extRead {c space a n : Nat} {priv : Bool} (h : MemoriesCanonical s) :
    MemoriesCanonical (extRead s c priv space a n).1 := by
  unfold extRead
  split
  · exact h
  · exact canonical_ite (canonical_mQueue (canonical_cacheFill h)) (canonical_mQueue (canonical_cacheFill h))

theorem canonical_stackZero {a n : Nat} : Canonises (stackZero a n) := by
  intro s h
  have mem : (stackZero a n s).ter.mem = s.ter.mem := by
    unfold stackZero
    split
    · rfl
    · exact (frame_foldl _ (fun s l => frame_writeBack l s) _ s).terMem
  exact canonical_of_outside mem (wf_stackZero a n s) h

/-! The Terrace (R204, R207, R222, R229). -/

theorem canonical_terWrite {c off : Nat} {bs : List Byte} {tags : List (BitVec 2)} (h : MemoriesCanonical s) :
    MemoriesCanonical (terWrite s c off bs tags).1 := by
  obtain ⟨mem, outside⟩ := h
  refine ⟨wf_terWrite s c off bs tags mem, ?_⟩
  rcases terWrite_cases s c off bs tags with ⟨-, e⟩ | ⟨-, e⟩ <;> rw [e] <;> exact outside

theorem canonical_eccTouch {ws : List (Nat × Nat)} : Canonises (eccTouch ws) :=
  fun _ h => canonical_foldl (fun _ _ g => canonical_ite g g) h

theorem canonical_terMark {ws : List Nat} : Canonises (terMark ws) := fun _ h => canonical_foldl (fun _ _ g => g) h

theorem canonical_terRead {c off n : Nat} (h : MemoriesCanonical s) : MemoriesCanonical (terRead s c off n).1 := by
  unfold terRead
  split
  · exact h
  · dsimp only
    split <;> exact canonical_eccTouch h

theorem canonical_terReadTags {c off n : Nat} (h : MemoriesCanonical s) :
    MemoriesCanonical (terReadTags s c off n).1 := by
  unfold terReadTags
  split
  · exact h
  · dsimp only
    split
    · rename_i e
      have read := canonical_fst e (canonical_terRead (canonical_eccTouch h))
      split <;> exact read
    · exact canonical_terRead (canonical_eccTouch h)

theorem canonical_terAdd {c off : Nat} {xs : List AEl} (h : MemoriesCanonical s) :
    MemoriesCanonical (terAdd s c off xs).1 := by
  obtain ⟨mem, outside⟩ := canonical_eccTouch (ws := s.ter.flips.filter (fun f =>
    (((partWords (viewParts (getCtx s c).regions off (8 * xs.length))).zip xs).filter
      (fun e => !s.ter.unfilled.contains (e.1 / 512))).any (fun e => f.1 == e.1 || f.1 == sideWord (e.1 / 32)))) h
  exact ⟨List.foldlRecOn (motive := fun t : Terrace => Mem.wf t.mem = true) _ _ mem (fun t ht e _ =>
    wf_terAddWord _ _ t ht),
    outside⟩

theorem canonical_terAccum {c off : Nat} {xs : List AEl} (h : MemoriesCanonical s) :
    MemoriesCanonical (terAccum s c off xs).1 := by
  rcases terAccum_cases s c off xs with e | e
  · rw [e]
    exact h
  · rw [e]
    exact canonical_terAdd h

/-! Reads (R66, R207, R216, R226, R254). -/

/-- From s to t the form of the memories is kept. -/
def StaysCanonical (s t : State) : Prop := MemoriesCanonical s → MemoriesCanonical t

theorem readsKeep_staysCanonical : ReadsKeep StaysCanonical where
  chains := ⟨fun _ h => h, fun h g k => g (h k)⟩
  ext _ _ _ _ _ _ := canonical_extRead
  ter _ _ _ _ := canonical_terRead
  tags _ _ _ _ := canonical_terReadTags
  look _ _ h := canonical_ite h h

/-- What every run keeps, of the form of the memories. -/
theorem run_of_keeps {m : Eff α} (h : Keeps StaysCanonical m) : RunCanonises m := h

theorem keeps_of_run {m : Eff α} (h : RunCanonises m) : Keeps StaysCanonical m := h

/-! Framing. -/

theorem canonical_linkPut {p : LinkPort} {f : Link → Link} : Canonises (linkPut p f) :=
  fun s h => canonical_of_linkFrame (frame_linkPut p f s) h

theorem canonical_frameNew {n : Nat} : Canonises (frameNew n) := fun s h => canonical_of_linkFrame
    (frame_frameNew n s) h

theorem canonical_effect {f : State → State} (hf : Canonises f) : Canonises (effect f) :=
  fun _ h => canonical_frameNew (hf h)

end Sys2Proof.Proofs.Terrace
end

section
/-!
PROOFS. The shared operations on streams, flags, windows and links keep the memories in canonical form.
-/
namespace Sys2Proof.Proofs.Terrace
open Sys2Proof.Machine Sys2Proof.Laws Sys2Proof.Claims Sys2Proof.Proofs.Arithmetic Sys2Proof.Proofs.Attention

variable {α β : Type} {s t : State}

/-! Operations of the state. -/

theorem canonical_setErr {b : Nat} : Canonises (setErr b) := fun _ h => h

theorem canonical_emit {o : Out} : Canonises (emit o) := fun _ h => h

theorem canonical_takeFree (h : MemoriesCanonical s) : MemoriesCanonical (takeFree s).2 := h

theorem canonical_modCtx {c : Nat} {f : Ctx → Ctx} : Canonises (modCtx c f) := fun _ h => h

theorem canonical_modCounts {c : Nat} {f : CtxCounts → CtxCounts} : Canonises (modCounts c f) := fun _ h => h

theorem canonical_modPav {p : Nat} {f : Pav → Pav} : Canonises (modPav p f) := fun _ h => h

theorem canonical_setProg {p : Nat} {q : PSlot} {g : Option Prog} : Canonises (setProg p q g) := fun _ h => h

theorem canonical_modProg {p : Nat} {q : PSlot} {f : Prog → Prog} : Canonises (modProg p q f) := by
  intro s h
  unfold modProg
  split <;> exact h

theorem canonical_modJob {c : Nat} {seq : BitVec 32} {f : Job → Job} : Canonises (modJob c seq f) := fun _ h => h

theorem canonical_freeBytes {n : Nat} (h : MemoriesCanonical s) : MemoriesCanonical (freeBytes n s).2 := h

theorem canonical_addEvent {c : Nat} {seq : BitVec 32} {e : EvKey} : Canonises (addEvent c seq e) :=
  fun _ h => canonical_modJob (canonical_ite (canonical_modCounts h) h)

theorem canonical_addEvents {c : Nat} {seq : BitVec 32} {es : List EvKey} : Canonises (addEvents c seq es) :=
  fun _ h => canonical_foldl (fun _ _ g => canonical_addEvent g) h

theorem canonical_traceEv {src type ctx pav status arg0 arg1 : Nat} :
    Canonises (traceEv src type ctx pav status arg0 arg1) :=
  fun _ h => canonical_ite h h

theorem canonical_perfEvent {p event n : Nat} : Canonises (perfEvent p event n) := fun _ h => h

theorem canonical_stopJob {c : Nat} {seq : BitVec 32} : Canonises (stopJob c seq) := fun _ h => h

theorem canonical_haltJob {c : Nat} {seq : BitVec 32} {f : JFault} : Canonises (haltJob c seq f) :=
  fun _ h => canonical_traceEv (canonical_setErr (canonical_modCtx (canonical_stopJob h)))

/-! Operands and streams. -/

theorem canonical_liftStep {sid : Nat} {f : State → State × Except RFault α} (hf : Canonises (fun s => (f s).1)) :
    RunCanonises (liftStep sid f) := by
  refine run_get (fun s h => run_bind (run_set (hf h)) (fun _ => ?_))
  split
  · exact run_pure
  · exact run_throw

theorem canonical_envProg {e : Env} : RunCanonises e.prog := run_of_keeps readsKeep_staysCanonical.prog

theorem canonical_envModify {e : Env} {f : Prog → Prog} : RunCanonises (e.modify f) :=
  run_modify (fun _ h => canonical_modProg h)

theorem canonical_streamRead {c ep : Nat} {x : Machine.Stream} {off n : Nat} :
    RunCanonises (streamRead c ep x off n) :=
  run_of_keeps readsKeep_staysCanonical.streamRead

theorem canonical_descLookup {seq : Nat} : Canonises (descLookup seq) := fun _ h => canonical_ite h h

theorem canonical_beginXfers {n : Nat} : Canonises (beginXfers n) := fun _ h => h

theorem canonical_plotOf {sid seq l g j : Nat} : RunCanonises (plotOf sid seq l g j) :=
  run_of_keeps readsKeep_staysCanonical.plotOf

theorem canonical_rowVals {j : Job} {ep : Nat} {x : Machine.Stream} {r col0 n : Nat} :
    RunCanonises (rowVals j ep x r col0 n) :=
  run_of_keeps readsKeep_staysCanonical.rowVals

theorem canonical_rowWords {j : Job} {ep : Nat} {x : Machine.Stream} {r col0 n : Nat} :
    RunCanonises (rowWords j ep x r col0 n) :=
  run_of_keeps readsKeep_staysCanonical.rowWords

theorem canonical_setFlag {c f : Nat} : Canonises (setFlag c f) := fun _ h => h

theorem canonical_takeCseq {w : Machine.Writer} {lid : Nat} (h : MemoriesCanonical s) :
    MemoriesCanonical (takeCseq w lid s).2 := by
  unfold takeCseq
  dsimp only
  split <;> exact h

theorem canonical_markBad {c off n : Nat} {bad : List Int} : Canonises (markBad c off n bad) :=
  fun _ h => canonical_terMark h

theorem canonical_eachThenRaise {xs : List α} {f : α → Eff (List β)} (hf : ∀ x, RunCanonises (f x)) :
    RunCanonises (eachThenRaise xs f) :=
  run_of_keeps (keeps_eachThenRaise readsKeep_staysCanonical.chains xs (fun x => keeps_of_run (hf x)))

theorem canonical_landChunk {w : Machine.Writer} {x : Machine.Stream} {acc plot : Bool} {p : LPart} {off : Nat}
    {bs : List Byte} {tags : List (BitVec 2)} {bad : List Int} :
    RunCanonises (landChunk w x acc plot p off bs tags bad) := by
  unfold landChunk
  dsimp only
  refine run_get (fun s h => run_bind (run_set (canonical_takeCseq h)) (fun _ => run_ite (run_bind run_throw
    (fun _ => ?_)) ?_))
  all_goals
    refine run_ite (run_ite (run_ite ?added ?written) ?outside) ?sent
    case added =>
      exact run_bind (canonical_liftStep (fun _ => canonical_terAccum)) (fun _ => run_bind (run_modify (fun _ h =>
        h)) (fun _ => run_pure))
    case written =>
      refine run_bind (canonical_liftStep (fun _ => canonical_terWrite)) (fun _ => run_bind (run_modify ?_) (fun _ =>
        ?_))
      · exact fun _ h => canonical_terMark h
      · exact run_bind (run_modify (fun _ h => h)) (fun _ => run_pure)
    case outside =>
      refine run_get (fun s h => run_bind (run_set (canonical_extWrite h)) (fun _ => run_ite (run_bind run_throw
        (fun _ => ?_)) ?_))
      all_goals exact run_bind (run_modify (fun _ h => h)) (fun _ => run_pure)
    case sent =>
      refine run_get (fun s h => ?_)
      split
      · exact run_pure
      · exact run_ite (run_bind run_throw (fun _ => run_bind (run_set h) (fun _ => run_pure)))
          (run_bind (run_set h) (fun _ => run_pure))

theorem canonical_landWrite {w : Machine.Writer} {x : Machine.Stream} {acc : Bool} {sp : WSpan} :
    RunCanonises (landWrite w x acc sp) :=
  run_get (fun _ _ => run_ite (canonical_eachThenRaise (fun _ => canonical_landChunk))
    (run_bind (run_mapM (fun _ => canonical_landChunk)) (fun _ => run_pure)))

theorem canonical_spanWrite {w : Machine.Writer} {x : Machine.Stream} {sp : WSpan} :
    RunCanonises (spanWrite w x sp) := by
  unfold spanWrite
  dsimp only
  split
  · exact run_bind (canonical_liftStep (fun _ => canonical_terWrite)) (fun _ => run_pure)
  · exact canonical_landWrite
  · exact run_get (fun s h => run_bind (run_set (canonical_extWrite h)) (fun _ => run_ite run_pure run_throw))

theorem canonical_streamWrite {w : Machine.Writer} {x : Machine.Stream} {sps : List WSpan} :
    RunCanonises (streamWrite w x sps) :=
  run_bind (run_mapM fun _ => canonical_spanWrite) fun _ => run_pure

theorem canonical_streamAccum {w : Machine.Writer} {x : Machine.Stream} {sps : List WSpan} :
    RunCanonises (streamAccum w x sps) := by
  refine canonical_eachThenRaise (fun sp => ?_)
  split
  · exact canonical_landWrite
  · exact run_bind (canonical_liftStep (fun _ => canonical_terAccum)) (fun _ => run_pure)

theorem canonical_noteOut {c : Nat} {seq : BitVec 32} {x : Machine.Stream} {vs : List XV} :
    Canonises (noteOut c seq x vs) := by
  intro s h
  unfold noteOut
  split
  · exact h
  · split <;> exact h

theorem canonical_kioskQueue {p n : Nat} : Canonises (kioskQueue p n) := fun _ h => canonical_ite h h

theorem canonical_countEvents {c : Nat} {seq : BitVec 32} {member pav tpc : Nat} {es : List Ev} :
    Canonises (countEvents c seq member pav tpc es) :=
  fun _ h => canonical_kioskQueue (canonical_addEvents h)

theorem canonical_writeRows {w : Machine.Writer} {j : Job} {x : Machine.Stream} {r0 col0 unit : Nat} {rows : List
    (List XV)} : RunCanonises (writeRows w j x r0 col0 unit rows) :=
  run_bind canonical_streamWrite fun _ => run_bind (run_modify (fun _ h => canonical_noteOut h)) fun _ => run_pure

/-! Flags, tokens and faults of programs. -/

theorem canonical_setHomeTok {h : TokHome} {tok v : Nat} : Canonises (setHomeTok h tok v) := by
  intro s h
  unfold setHomeTok
  dsimp only
  split
  · exact canonical_modProg h
  · exact h
  · exact h

theorem canonical_haltProg {p : Nat} {g : Prog} {tpc : Nat} {f : RFault} : Canonises (haltProg p g tpc f) :=
  fun _ h => canonical_kioskQueue (canonical_haltJob h)

theorem canonical_haltPlain {c : Nat} {seq : BitVec 32} {f : RFault} : Canonises (haltPlain c seq f) :=
  fun _ h => canonical_haltJob h

theorem canonical_addToken {h : TokHome} {j : Job} {tok inc : Nat} : Canonises (addToken h j tok inc) := by
  intro s h
  unfold addToken
  dsimp only
  split
  · exact canonical_setHomeTok h
  · split
    · split
      · exact canonical_haltProg h
      · exact h
    · exact canonical_haltPlain h

theorem canonical_signalRole {p : Nat} {g : Prog} {tpc role tok inc : Nat} :
    Canonises (signalRole p g tpc role tok inc) := by
  intro s h
  unfold signalRole
  dsimp only
  split
  · exact canonical_haltProg h
  · split
    · exact h
    · split
      · exact h
      · exact canonical_ite (canonical_addToken h) (canonical_haltProg h)

theorem canonical_fireSignal {p : Nat} {q : PSlot} {g : Prog} {c : QCmd} : Canonises (fireSignal p q g c) := by
  intro s h
  unfold fireSignal
  dsimp only
  split
  · exact canonical_ite (canonical_modProg h) (canonical_haltProg h)
  · exact canonical_signalRole h
  · exact h
  · exact h

/-! Windows and landings. -/

theorem canonical_modWin {w : Nat} {f : Window → Window} : Canonises (modWin w f) := fun _ h => h

theorem canonical_markUnfilled {c a n : Nat} : Canonises (markUnfilled c a n) := fun _ h => h

theorem canonical_openWin {w c : Nat} {fillset : Bool} {wclass : BitVec 4} {off len : Nat} {land : Option
    (Nat × Nat)} : Canonises (openWin w c fillset wclass off len land) :=
  fun _ h => canonical_ite (canonical_markUnfilled h) h

theorem canonical_closeWin {w : Nat} : Canonises (closeWin w) :=
  fun _ h => canonical_ite h (canonical_ite (canonical_emit h) h)

theorem canonical_openJobWins {c : Nat} {d : Desc} (h : MemoriesCanonical s) :
    MemoriesCanonical (openJobWins c d s).1 := by
  refine List.foldlRecOn (motive := fun a : State × List Nat => MemoriesCanonical a.1) _ _ h (fun a ha lid _ => ?_)
  dsimp only
  split
  · exact ha
  · split
    · split
      · exact ha
      · exact canonical_openWin ha
    · exact ha

theorem canonical_grantEntry {c lid cur ep : Nat} : Canonises (grantEntry c lid cur ep) := by
  intro s h
  unfold grantEntry
  dsimp only
  split
  · exact h
  · exact canonical_emit (canonical_ite (canonical_markUnfilled h) h)

theorem canonical_enterEntry {c lid ep : Nat} : Canonises (enterEntry c lid ep) := by
  intro s h
  unfold enterEntry
  dsimp only
  split <;> exact h

theorem canonical_startGrants {c role e0 : Nat} : Canonises (startGrants c role e0) :=
  fun _ h => canonical_foldl (fun _ _ g => canonical_foldl (fun _ _ k => canonical_grantEntry k)
    (canonical_enterEntry g)) h

theorem canonical_epochGrants {c role ep : Nat} : Canonises (epochGrants c role ep) :=
  fun _ h => canonical_foldl (fun _ _ g => canonical_grantEntry (canonical_enterEntry g)) h

/-! Links. -/

theorem canonical_setLink {p : LinkPort} {l : Link} : Canonises (setLink p l) := by
  intro s h
  unfold setLink
  dsimp only
  split <;> exact h

theorem canonical_modLink {p : LinkPort} {f : Link → Link} : Canonises (modLink p f) := fun _ h => canonical_setLink h

theorem canonical_traceLink {p : LinkPort} {st cause : Nat} : Canonises (traceLink p st cause) := by
  intro s h
  unfold traceLink
  split <;> exact canonical_traceEv h

theorem canonical_linkState {p : LinkPort} {st cause : Nat} : Canonises (linkState p st cause) :=
  fun _ h => canonical_ite (canonical_setErr (canonical_traceLink (canonical_setLink h))) (canonical_ite
    (canonical_setErr (canonical_traceLink (canonical_setLink h))) (canonical_traceLink (canonical_setLink h)))

theorem canonical_countHdrErr {p : LinkPort} : Canonises (countHdrErr p) :=
  fun _ h => canonical_setErr (canonical_modLink h)

/-! Grove messages. -/

theorem canonical_sendGrove {g : GroveSt} {dst : UPath} {gtype : Nat} {body : List Byte} :
    Canonises (sendGrove g dst gtype body) :=
  fun _ h => canonical_ite h h

theorem canonical_report {kind c : Nat} {body : List Byte} : Canonises (report kind c body) := by
  intro s h
  unfold report
  split
  · exact h
  · exact canonical_sendGrove h

theorem canonical_forwardTell {kind c : Nat} {msg : BitVec 512} {ms : List Nat} :
    Canonises (forwardTell kind c msg ms) := by
  intro s h
  unfold forwardTell
  split
  · exact h
  · exact canonical_foldl (fun _ _ k => canonical_sendGrove k) h

end Sys2Proof.Proofs.Terrace
end

section
/-!
PROOFS. The rings, the issue of commands and what a tile command does keep the memories in canonical form.
-/
namespace Sys2Proof.Proofs.Terrace
open Sys2Proof.Machine Sys2Proof.Laws Sys2Proof.Claims Sys2Proof.Proofs.Arithmetic Sys2Proof.Proofs.Attention

variable {s t : State}

/-! Rings. -/

theorem canonical_modRing {c : Nat} {f : Machine.Ring → Machine.Ring} : Canonises (modRing c f) :=
  fun _ h => canonical_ite h h

theorem canonical_fetchMem {c : Nat} {priv : Bool} {space a n : Nat} (h : MemoriesCanonical s) :
    MemoriesCanonical (fetchMem s c priv space a n).1 := by
  unfold fetchMem
  dsimp only
  split
  · exact h
  · split
    · exact canonical_mQueue h
    · exact canonical_setErr (canonical_mQueue h)

theorem canonical_queueUnits {base log2 p n : Nat} : Canonises (queueUnits base log2 p n) :=
  fun _ h => canonical_foldl (fun _ _ g => canonical_mQueue g) h

theorem canonical_postRec {c : Nat} {r : CRec} : Canonises (postRec c r) := fun _ h => canonical_modRing h

theorem canonical_finish {w : Waiter} {status body : Nat} : Canonises (finish w status body) := by
  intro s h
  unfold finish
  dsimp only
  split
  · exact canonical_postRec h
  · exact canonical_report h

theorem canonical_takeUnits {c p : Nat} : Canonises (takeUnits c p) :=
  fun _ h => canonical_modRing (canonical_queueUnits h)

theorem canonical_consume {c : Nat} {h : HeadMsg} : Canonises (consume c h) := fun _ h => canonical_takeUnits h

theorem canonical_leaveHead {c : Nat} {h : HeadMsg} : Canonises (leaveHead c h) :=
  fun _ h => canonical_ite (canonical_modRing h) h

theorem canonical_forwardMsg {w : Waiter} {c : Nat} {m : Msg} {ms : List Nat} {fail body : Option
    (Nat × Nat)} : Canonises (forwardMsg w c m ms fail body) :=
  fun _ h => canonical_forwardTell h

theorem canonical_runMsg {c opc : Nat} {act : MsgAct} {h : HeadMsg} (ha : ActCanonises act) :
    Canonises (runMsg c opc act h) := by
  intro s hs
  unfold runMsg
  dsimp only
  have numbered : MemoriesCanonical
      (if opc = 1 ∧ c ≠ mgmtCtx then modCtx c (fun x => { x with jobCount := nextJobNo x.jobCount }) s else s) :=
    canonical_ite hs hs
  generalize (if opc = 1 ∧ c ≠ mgmtCtx then modCtx c (fun x =>
    { x with jobCount := nextJobNo x.jobCount }) s else s) = s0 at *
  have acted : MemoriesCanonical (act c (waiterOf c h.msg) h.msg s0).1 := ha _ _ _ numbered
  split
  · exact canonical_finish (canonical_consume numbered)
  · split
    · split
      · rename_i e
        exact canonical_finish (canonical_consume (canonical_fst e acted))
      · rename_i e
        exact canonical_consume (canonical_fst e acted)
      · exact canonical_leaveHead hs
    · split
      · exact canonical_finish (canonical_consume numbered)
      · split
        · split
          · rename_i e
            exact canonical_consume (canonical_forwardMsg (canonical_fst e acted))
          · rename_i e
            exact canonical_consume (canonical_forwardMsg (canonical_fst e acted))
          · exact canonical_leaveHead hs
        · exact canonical_consume (canonical_forwardMsg numbered)

theorem canonical_takeMsg {c opc : Nat} {act : MsgAct} (ha : ActCanonises act) : Canonises (takeMsg c opc act) := by
  intro s h
  unfold takeMsg
  dsimp only
  split
  · refine canonical_ite ?_ h
    split <;> exact canonical_ite h (canonical_takeUnits h)
  · split
    · exact canonical_runMsg ha h
    · split
      · exact canonical_ite (canonical_runMsg ha h) h
      · exact h

theorem canonical_writeUnits {base log2 p : Nat} {bs : List Byte} : Canonises (writeUnits base log2 p bs) :=
  fun _ h => canonical_foldl (fun _ _ g => canonical_mQueue (canonical_extPut g)) h

theorem canonical_recordWritten {r : CRec} : Canonises (recordWritten r) := by
  intro s h
  unfold recordWritten
  dsimp only
  split <;> split <;> exact h

theorem canonical_writeRecord {c : Nat} : Canonises (writeRecord c) := by
  intro s h
  unfold writeRecord
  dsimp only
  split
  · exact h
  · exact canonical_ite h (canonical_ite (canonical_of_same (canonical_recordWritten (canonical_modRing
      (canonical_writeUnits (canonical_writeUnits h))))) (canonical_recordWritten (canonical_modRing
      (canonical_writeUnits (canonical_writeUnits h)))))

theorem canonical_sendVector : Canonises sendVector := by
  intro s h
  unfold sendVector
  dsimp only
  split <;> exact h

/-! Issue. -/

theorem canonical_undoBody {before after : State} (h : MemoriesCanonical before) :
    MemoriesCanonical (undoBody before after) := h

theorem canonical_datapathUe {p : Nat} {g : Prog} {tpc : Nat} : Canonises (datapathUe p g tpc) :=
  fun _ h => canonical_haltProg h

theorem canonical_mendStore {p : Nat} {hits : List (((Nat × Nat × Nat) × Nat) × Bool)} :
    Canonises (mendStore p hits) :=
  fun _ h => canonical_ite h (canonical_perfEvent h)

theorem canonical_runHead {p : Nat} {q : PSlot} {k : Nat} {g : Prog} {j : Job} {c : QCmd} {body : Body}
    (hb : ∀ e, RunCanonises (body e)) : Canonises (runHead p q k g j c body) := by
  intro s h
  unfold runHead
  dsimp only
  split
  · rename_i e
    exact canonical_haltProg (canonical_modProg (canonical_ite (canonical_snd e (canonical_exec (hb _) h))
      (canonical_undoBody h)))
  · rename_i e
    exact canonical_countEvents (canonical_modProg (canonical_snd e (canonical_exec (hb _) h)))

theorem canonical_issueOp {p : Nat} {q : PSlot} {k opc : Nat} {body : Body} (hb : ∀ e, RunCanonises (body e)) :
    Canonises (issueOp p q k opc body) := by
  intro s h
  unfold issueOp
  dsimp only
  split
  · exact h
  · split
    · refine canonical_ite h ?_
      split
      · refine canonical_ite (canonical_haltProg h) (canonical_ite (canonical_haltProg h) ?_)
        exact canonical_ite (canonical_datapathUe h) (canonical_runHead hb (canonical_mendStore h))
      · exact h
      · exact h
    · exact h

theorem canonical_noBody {e : Env} : RunCanonises (noBody e) := run_pure

theorem canonical_setLeave {p n : Nat} : Canonises (setLeave p n) := fun _ h => canonical_ite h h

theorem canonical_lowerLeave {p : Nat} : Canonises (lowerLeave p) := fun _ h => canonical_modPav
    (canonical_setLeave h)

theorem canonical_retireCmd {p : Nat} {q : PSlot} {num : Nat} : Canonises (retireCmd p q num) := by
  intro s h
  unfold retireCmd
  dsimp only
  split
  · exact h
  · split
    · exact h
    · exact canonical_ite h (canonical_lowerLeave (canonical_ite (canonical_modProg h) (canonical_fireSignal
        (canonical_modProg h))))

theorem canonical_clearProg {p : Nat} {q : PSlot} : Canonises (clearProg p q) :=
  fun _ h => canonical_lowerLeave (canonical_modPav h)

/-! Tile operands. -/

theorem canonical_operand {e : Env} {arr grid src fe tr : Nat} {isB : Bool} :
    RunCanonises (operand e arr grid src fe tr isB) := by
  refine run_bind canonical_envProg (fun g => ?_)
  match src with
  | 0 => exact run_pure
  | 1 => exact run_bind canonical_envModify (fun _ => run_pure)
  | _ + 2 =>
    rcases feedCheck e.j.desc g fe with _ | f
    · exact run_pure
    · exact run_throw

theorem canonical_maskBits {e : Env} {i : Nat} : RunCanonises (maskBits e i) := by
  unfold maskBits
  dsimp only
  split
  · exact run_pure
  · exact run_bind canonical_streamRead fun _ => run_pure

theorem canonical_rowScalar {e : Env} {use i : Nat} : RunCanonises (rowScalar e use i) :=
  run_of_keeps readsKeep_staysCanonical.rowScalar

/-! Scores. -/

theorem canonical_loadBody {e : Env} : RunCanonises (loadBody e) := by
  unfold loadBody
  dsimp only
  split
  · exact run_throw
  · refine run_ite (run_bind (run_modify (fun s h => canonical_foldl (fun _ _ g => canonical_descLookup g) h))
      (fun _ => ?_)) ?_
    all_goals
      refine run_bind (run_mapM (fun _ => run_bind canonical_rowVals (fun _ => run_pure))) (fun rows => ?_)
      split
      · exact run_throw
      · exact run_bind canonical_envModify (fun _ => run_pure)

theorem canonical_mmaBody {e : Env} : RunCanonises (mmaBody e) := by
  refine run_bind canonical_operand (fun a => run_bind canonical_operand (fun b => run_ite run_throw ?_))
  refine run_bind canonical_envProg (fun g => run_bind canonical_envModify (fun _ => run_bind canonical_envProg
    (fun g2 => ?_)))
  exact run_bind (run_modify (fun _ h => h)) (fun _ => run_bind (run_modify (fun _ h => h)) (fun _ =>
    run_bind (run_modify (fun _ h => h)) (fun _ => run_pure)))

theorem canonical_drainScores {e : Env} {arr acc kt : Nat} : RunCanonises (drainScores e arr acc kt) :=
  run_bind canonical_envProg fun _ => run_mapM fun _ => run_ite (run_bind canonical_maskBits fun _ => run_ite
    (run_bind canonical_rowScalar fun _ => run_pure) (run_bind run_pure fun _ => run_pure))
    (run_bind run_pure fun _ => run_ite (run_bind canonical_rowScalar fun _ => run_pure) (run_bind run_pure fun _ =>
    run_pure))

theorem canonical_writeTo {e : Env} {x : Option Machine.Stream} {r0 col0 : Nat} {rows : List (List XV)} :
    RunCanonises (writeTo e x r0 col0 rows) := by
  unfold writeTo
  split
  · exact run_pure
  · exact canonical_writeRows

theorem canonical_countMaskedRows {e : Env} {rows : List Nat} : RunCanonises (countMaskedRows e rows) :=
  run_modify (fun _ h => h)

theorem canonical_noteDump {e : Env} {kt : Nat} : RunCanonises (noteDump e kt) := by
  have opened := keeps_filterM readsKeep_staysCanonical.chains ((List.range e.j.desc.q).map (fun r =>
    e.c.qt * e.j.desc.q + r))
    (fun i => keeps_then_pure (f := fun b => !b) readsKeep_staysCanonical.chains (readsKeep_staysCanonical.rowOpen
      (e := e) (i := i)))
  exact run_ite (run_bind (run_of_keeps opened) (fun _ => canonical_countMaskedRows)) run_pure

theorem canonical_drainFwd {e : Env} {dm arr acc fe kt : Nat} : RunCanonises (drainFwd e dm arr acc fe kt) :=
  run_bind canonical_drainScores fun _ => run_bind canonical_writeTo fun _ => run_ite
    (run_bind canonical_noteDump fun _ => run_ite run_pure (run_bind canonical_envProg fun _ =>
    run_bind canonical_envModify fun _ => run_bind canonical_writeTo fun _ => run_pure)) (run_ite run_pure
    (run_bind canonical_envProg fun _ => run_bind canonical_envModify fun _ => run_bind canonical_writeTo fun _ =>
    run_pure))

theorem canonical_noteLambda {e : Env} {kt : Nat} {lams : List XV} : RunCanonises (noteLambda e kt lams) :=
  run_ite canonical_countMaskedRows run_pure

theorem canonical_drainP {e : Env} {arr acc fe kt : Nat} : RunCanonises (drainP e arr acc fe kt) :=
  run_bind canonical_drainScores fun _ => run_bind canonical_noteLambda fun _ =>
    run_bind canonical_envModify fun _ => run_pure

theorem canonical_drainDs {e : Env} {arr acc fe kt : Nat} : RunCanonises (drainDs e arr acc fe kt) := by
  unfold drainDs
  dsimp only
  refine run_bind canonical_envProg (fun g => ?_)
  split
  · exact run_throw
  · refine run_bind (run_mapM (fun _ => run_bind canonical_rowScalar (fun _ => run_pure))) (fun ds => ?_)
    exact run_bind canonical_envModify (fun _ => run_pure)

theorem canonical_drainBody {e : Env} : RunCanonises (drainBody e) := by
  unfold drainBody
  dsimp only
  refine run_bind (run_modify (fun _ h => h)) (fun _ => ?_)
  split
  · exact canonical_drainP
  · exact canonical_drainDs
  · exact canonical_drainFwd

theorem canonical_setqBody {e : Env} : RunCanonises (setqBody e) := run_bind canonical_envModify fun _ => run_pure

theorem canonical_zaccBody {e : Env} : RunCanonises (zaccBody e) := run_bind canonical_envModify fun _ => run_pure

/-! Outputs. -/

theorem canonical_streamRows {e : Env} {x : Machine.Stream} {r0 n cols : Nat} :
    RunCanonises (streamRows e x r0 n cols) :=
  run_of_keeps readsKeep_staysCanonical.streamRows

theorem canonical_optRows {e : Env} {on : Bool} {use r0 n cols : Nat} : RunCanonises (optRows e on use r0 n cols) :=
  run_of_keeps readsKeep_staysCanonical.optRows

theorem canonical_finalise {e : Env} {x : Machine.Stream} {qt : Nat} {lse : Bool} {rows : List FinRow} :
    RunCanonises (finalise e x qt lse rows) :=
  run_bind canonical_countMaskedRows fun _ => run_bind canonical_optRows fun _ => run_bind canonical_optRows fun _ =>
    run_bind canonical_writeTo fun _ => run_bind canonical_writeTo fun _ => run_bind canonical_writeTo fun _ =>
    run_pure

theorem canonical_gradWrite {e : Env} {x : Machine.Stream} {r0 : Nat} {rows : List (List CV)} :
    RunCanonises (gradWrite e x r0 rows) :=
  run_bind canonical_writeTo fun _ => run_pure

theorem canonical_outRows {e : Env} {m n : Nat} : RunCanonises (outRows e m n) :=
  run_of_keeps readsKeep_staysCanonical.outRows

theorem canonical_outputRows {e : Env} {qt : Nat} : RunCanonises (outputRows e qt) :=
  run_of_keeps readsKeep_staysCanonical.outputRows

theorem canonical_epiBody {e : Env} : RunCanonises (epiBody e) := by
  unfold epiBody
  dsimp only
  split
  · exact run_throw
  · exact run_ite (run_bind canonical_outRows (fun _ => canonical_gradWrite))
      (run_ite run_pure (run_bind canonical_outputRows (fun _ => canonical_finalise)))

theorem canonical_accwBody {e : Env} : RunCanonises (accwBody e) := by
  unfold accwBody
  dsimp only
  split
  · exact run_throw
  · exact run_bind canonical_envProg (fun _ => run_bind canonical_outRows (fun _ =>
      run_bind canonical_streamAccum (fun _ => run_pure)))

theorem canonical_partBody {e : Env} : RunCanonises (partBody e) :=
  run_ite run_pure (run_bind canonical_envProg fun _ => run_bind canonical_outRows fun _ =>
    run_bind canonical_writeTo fun _ => run_pure)

theorem canonical_combBody {e : Env} : RunCanonises (combBody e) := by
  unfold combBody
  dsimp only
  split
  · refine run_ite run_pure (run_bind canonical_streamRows (fun _ => run_bind canonical_streamRows (fun _ =>
      run_ite ?_ ?_)))
    · exact run_bind canonical_finalise (fun _ => run_pure)
    · exact run_bind canonical_writeTo (fun _ => run_pure)
  · exact run_throw

theorem canonical_maxcBody {e : Env} : RunCanonises (maxcBody e) :=
  run_bind (run_mapM fun _ => canonical_streamRows) fun _ => run_bind canonical_writeTo fun _ =>
    run_bind canonical_envModify fun _ => run_pure

theorem canonical_finBody {e : Env} : RunCanonises (finBody e) := by
  have written {y : Machine.Stream} {r0 : Nat} {rows : List (List CV)} {γ : Type} {f : List Ev × List Nat → γ} :
      RunCanonises (gradWrite e y r0 rows >>= fun p => pure (f p)) := run_bind canonical_gradWrite (fun _ => run_pure)
  unfold finBody
  dsimp only
  split
  · refine run_bind (run_mapM (fun _ => canonical_rowWords)) (fun _ => run_ite ?_ written)
    exact run_bind (run_mapM (fun _ => canonical_rowScalar)) (fun _ =>
      run_ite (run_bind canonical_countMaskedRows (fun _ => written)) written)
  · exact run_throw

theorem canonical_checkedRow {e : Env} {x : Machine.Stream} {i : Nat} : RunCanonises (checkedRow e x i) :=
  run_of_keeps readsKeep_staysCanonical.checkedRow

theorem canonical_zeroRows {e : Env} {x : Option Machine.Stream} {r0 : Nat} : RunCanonises (zeroRows e x r0) := by
  unfold zeroRows
  split
  · exact run_pure
  · exact canonical_streamWrite

theorem canonical_dproBody {e : Env} : RunCanonises (dproBody e) := by
  unfold dproBody
  dsimp only
  refine run_bind canonical_zeroRows (fun _ => ?_)
  split
  · exact run_bind (run_mapM fun _ => run_ite (run_bind canonical_checkedRow fun _ =>
      run_bind canonical_checkedRow fun _ => run_pure) run_pure) fun _ => run_bind canonical_writeTo fun _ => run_pure
  · exact run_pure

theorem canonical_rowpBody {e : Env} : RunCanonises (rowpBody e) := by
  unfold rowpBody
  dsimp only
  split
  · refine run_bind (run_mapM (fun _ => run_bind canonical_streamRows (fun _ => ?_))) (fun _ => run_pure)
    exact run_bind canonical_optRows (fun _ => run_bind canonical_optRows (fun _ =>
      run_bind canonical_writeTo (fun _ => run_pure)))
  · exact run_throw

theorem canonical_copyOutside {e : Env} {sid space a n : Nat} {priv : Bool} :
    RunCanonises (copyOutside e sid space a n priv) :=
  run_of_keeps readsKeep_staysCanonical.copyOutside

theorem canonical_copyRead {e : Env} {x : Machine.Stream} {off n : Nat} : RunCanonises (copyRead e x off n) :=
  run_of_keeps readsKeep_staysCanonical.copyRead

theorem canonical_copyWrite {e : Env} {y : Machine.Stream} {off : Nat} {c : Copied} :
    RunCanonises (copyWrite e y off c) := by
  unfold copyWrite
  dsimp only
  split
  · refine run_bind (canonical_liftStep (fun _ => canonical_terWrite)) (fun _ => run_bind (run_modify ?_) (fun _ =>
      run_pure))
    exact fun _ h => canonical_terMark h
  · refine run_get (fun _ _ => run_bind (run_mapM (fun _ => ?_)) (fun _ => run_pure))
    exact run_bind (run_mapM (fun _ => canonical_landChunk)) (fun _ => run_pure)
  · exact run_get (fun s h => run_bind (run_set (canonical_extWrite h)) (fun _ => run_ite run_pure run_throw))

theorem canonical_copyPlots {e : Env} {x y : Machine.Stream} {r0 n : Nat} : RunCanonises (copyPlots e x y r0 n) :=
  run_bind (run_mapM fun _ => run_ite (run_bind (run_modify (fun _ h => canonical_beginXfers
    (canonical_descLookup h))) fun _ => run_bind canonical_plotOf fun _ => run_bind canonical_copyOutside fun _ =>
    run_ite (run_get fun _ _ => run_bind (run_mapM fun _ => run_bind (run_mapM fun _ => canonical_landChunk) fun _ =>
    run_pure) fun _ => run_pure) canonical_copyWrite) (run_bind run_pure fun _ => run_ite (run_get fun _ _ =>
    run_bind (run_mapM fun _ => run_bind (run_mapM fun _ => canonical_landChunk) fun _ => run_pure) fun _ =>
    run_pure) canonical_copyWrite)) fun _ => run_pure

theorem canonical_prefBody {e : Env} : RunCanonises (prefBody e) := by
  unfold prefBody
  dsimp only
  split
  · refine run_ite (run_bind canonical_copyPlots (fun _ => run_pure)) (run_ite ?whole ?units)
    case whole => exact run_bind canonical_copyRead (fun _ => run_bind canonical_copyWrite (fun _ => run_pure))
    case units =>
      exact run_bind (run_mapM (fun _ => run_bind canonical_copyRead (fun _ => canonical_copyWrite))) (fun _ =>
        run_pure)
  · exact run_throw

end Sys2Proof.Proofs.Terrace
end

section
/-!
PROOFS. The sequencer and the jobs keep the memories in canonical form.
-/
namespace Sys2Proof.Proofs.Terrace
open Sys2Proof.Machine Sys2Proof.Laws Sys2Proof.Claims Sys2Proof.Proofs.Arithmetic Sys2Proof.Proofs.Attention

variable {s t : State}

/-! The sequencer. -/

theorem canonical_dispatchFrom {p : Nat} {q : PSlot} {g : Prog} : Canonises (dispatchFrom p q g) := by
  intro s h
  have read := canonical_terRead (c := g.ctx) (off := g.hdr.addr + 16 * g.tpc) (n := 16) h
  unfold dispatchFrom
  refine canonical_ite h ?_
  split
  · rename_i e
    exact canonical_haltProg (canonical_fst e read)
  · rename_i e
    exact canonical_ite (canonical_haltProg (canonical_fst e read)) (canonical_ite h (canonical_of_same
      (canonical_fst e read)))

theorem canonical_dispatchStep {p : Nat} : Canonises (dispatchStep p) := by
  intro s h
  unfold dispatchStep
  dsimp only
  split
  · exact h
  · split
    · exact h
    · split
      · exact canonical_dispatchFrom h
      · split
        · exact canonical_dispatchFrom h
        · exact canonical_ite h (canonical_dispatchFrom (canonical_modPav h))

theorem canonical_flagclrBody {e : Env} : RunCanonises (flagclrBody e) :=
  run_bind (run_modify (fun _ h => h)) fun _ => run_pure

theorem canonical_epochBody {e : Env} : RunCanonises (epochBody e) := by
  refine run_get (fun _ _ => run_ite run_throw (run_bind canonical_envModify (fun _ => run_bind (run_modify ?_)
    (fun _ => run_pure))))
  exact fun _ h => canonical_traceEv (canonical_epochGrants h)

theorem canonical_leaveBody {e : Env} : RunCanonises (leaveBody e) := by
  refine run_bind canonical_envModify (fun _ => run_bind (run_modify (fun s h => ?_)) (fun _ => run_pure))
  split
  · exact canonical_lowerLeave h
  · exact h

theorem canonical_finishProg {p : Nat} {q : PSlot} : Canonises (finishProg p q) := by
  intro s h
  unfold finishProg
  dsimp only
  split
  · exact h
  · split
    · exact h
    · exact canonical_ite (canonical_retireCmd h) (canonical_clearProg (canonical_modJob (canonical_retireCmd h)))

theorem canonical_timeoutHead {p : Nat} {q : PSlot} {k : Nat} : Canonises (timeoutHead p q k) := by
  intro s h
  unfold timeoutHead
  split
  · exact h
  · split
    · exact canonical_ite h (canonical_haltProg h)
    · exact h

theorem canonical_tokenArrives {c role : Nat} {repoch : BitVec 32} {tok inc : Nat} {supath : UPath} :
    Canonises (tokenArrives c role repoch tok inc supath) := by
  intro s h
  unfold tokenArrives
  dsimp only
  split
  · exact h
  · exact canonical_ite (canonical_addToken h) (canonical_emit h)

theorem canonical_readVecs {c : Nat} {j : Job} : RunCanonises (readVecs c j) :=
  run_mapM fun _ => run_bind canonical_streamRead fun _ => run_pure

theorem canonical_enterProg {p : Nat} {j : Job} {idx : Nat} {h : ProgHdr} : Canonises (enterProg p j idx h) :=
  fun _ h => canonical_startGrants (canonical_modJob h)

theorem canonical_fillAndEnter {p : Nat} {j : Job} {idx : Nat} {h : ProgHdr} :
    Canonises (fillAndEnter p j idx h) := by
  intro s h
  unfold fillAndEnter
  dsimp only
  split
  · exact canonical_enterProg h
  · split
    · rename_i e
      exact canonical_haltJob (canonical_snd e (canonical_exec canonical_readVecs h))
    · rename_i e
      exact canonical_enterProg (canonical_modJob (canonical_snd e (canonical_exec canonical_readVecs h)))

theorem canonical_startHead {p : Nat} : Canonises (startHead p) := by
  intro s h
  unfold startHead
  split
  · exact h
  · split
    · exact h
    · split
      · exact h
      · exact canonical_ite h (canonical_fillAndEnter h)

theorem canonical_writeSave {slot p : Nat} {g : Prog} : Canonises (writeSave slot p g) :=
  fun s h => canonical_foldl (s := (freeBytes 0x10000 (freeBytes 0xC0000 s).2).2) (fun _ _ k =>
    canonical_extWrite k) h

theorem canonical_suspendProg {p : Nat} {q : PSlot} : Canonises (suspendProg p q) := by
  intro s h
  unfold suspendProg
  split
  · exact canonical_ite (canonical_perfEvent (canonical_modPav (canonical_clearProg (canonical_writeSave h)))) h
  · exact h

theorem canonical_readSave {slot : Nat} {g : Prog} : Canonises (readSave slot g) :=
  fun _ h => canonical_foldl (fun _ _ k => canonical_mQueue k) h

theorem canonical_resumeProg {p : Nat} : Canonises (resumeProg p) := by
  intro s h
  unfold resumeProg
  dsimp only
  split
  · exact h
  · split
    · exact h
    · exact canonical_ite h (canonical_ite (canonical_haltProg (canonical_setErr (canonical_setProg
        (canonical_modPav (canonical_readSave h))))) (canonical_setProg (canonical_modPav (canonical_readSave h))))

theorem canonical_checkPass {p : Nat} {q : PSlot} {arr : Nat} {good : Bool} : Canonises (checkPass p q arr good) := by
  intro s h
  unfold checkPass
  dsimp only
  split
  · exact h
  · split
    · exact h
    · split
      · exact canonical_perfEvent h
      · split
        · exact h
        · exact canonical_datapathUe (canonical_setProg h)

/-! Admission. -/

theorem canonical_viewRead {c off n : Nat} : RunCanonises (viewRead c off n) :=
  run_bind (canonical_liftStep (fun _ h => canonical_terRead h)) fun _ => run_pure

theorem canonical_memFetch {c space a n : Nat} : RunCanonises (memFetch c space a n) := by
  refine run_get (fun s h => run_bind (run_set (canonical_fetchMem h)) (fun _ => ?_))
  split
  · exact run_pure
  · exact run_throw

theorem canonical_readBlocks {c desc : Nat} : RunCanonises (readBlocks c desc) :=
  run_bind canonical_memFetch fun _ => run_bind canonical_memFetch fun _ => run_pure

theorem canonical_progAt {c n e : Nat} : RunCanonises (progAt c n e) :=
  run_bind canonical_viewRead fun _ => run_bind canonical_viewRead fun _ => run_pure

theorem canonical_readProg {c base n : Nat} : RunCanonises (readProg c base n) :=
  run_bind canonical_viewRead fun _ => canonical_progAt

theorem canonical_readProgs {c base n : Nat} : RunCanonises (readProgs c base n) :=
  run_mapM fun _ => canonical_readProg

theorem canonical_readSeg {c : Nat} {d : Desc} : RunCanonises (readSeg c d) := by
  unfold readSeg
  dsimp only
  split
  · exact run_pure
  · exact run_bind canonical_streamRead fun _ => run_pure

theorem canonical_readAdm {c desc : Nat} : RunCanonises (readAdm c desc) :=
  run_bind canonical_readBlocks fun _ => run_bind (run_mapM fun _ => run_bind canonical_readProgs fun _ =>
    run_pure) fun _ => run_ite (run_bind run_pure fun _ => run_bind canonical_readSeg fun _ => run_pure)
    (run_bind canonical_viewRead fun _ => run_bind canonical_readSeg fun _ => run_pure)

/-! Jobs. -/

theorem canonical_stackPut {a : Nat} {bs : List Byte} : Canonises (stackPut a bs) :=
  fun _ h => canonical_mQueue (canonical_extPut h)

theorem canonical_setHolds {seq n : Nat} : Canonises (setHolds seq n) := fun _ h => canonical_stackPut h

theorem canonical_commitJob {j : Job} : Canonises (commitJob j) := by
  intro s h
  unfold commitJob
  dsimp only
  exact canonical_traceEv (canonical_foldl (fun _ _ g => g) (canonical_of_same (canonical_foldl (fun _ _ g =>
    canonical_setHolds g) (canonical_openJobWins h))))

theorem canonical_refuseJob {c : Nat} {tag : BitVec 32} {f : Refused} (h : MemoriesCanonical s) :
    MemoriesCanonical (refuseJob c tag f s).1 :=
  canonical_traceEv h

theorem canonical_forwardJob {j : Job} {m : Msg} {blocks : List Nat} : Canonises (forwardJob j m blocks) := by
  intro s h
  unfold forwardJob
  split
  · exact h
  · exact canonical_foldl (fun _ _ k => canonical_sendGrove k) h

theorem canonical_jobAct : ActCanonises jobAct := by
  intro c w m s h
  unfold jobAct
  dsimp only
  split
  · exact canonical_refuseJob h
  · split
    · exact canonical_refuseJob h
    · split
      · rename_i e
        exact canonical_refuseJob (canonical_snd e (canonical_exec canonical_readAdm h))
      · split
        · rename_i e _ _ _
          exact canonical_refuseJob (canonical_snd e (canonical_exec canonical_readAdm h))
        · split
          · rename_i e _ _ _ _ _
            exact canonical_refuseJob (canonical_snd e (canonical_exec canonical_readAdm h))
          · split
            · exact h
            · split
              · rename_i e _ _ _ _ _ _ _ _ _
                exact canonical_forwardJob (canonical_commitJob (canonical_snd e
                  (canonical_exec canonical_readAdm h)))
              · rename_i e _ _ _ _ _ _ _ _ _
                exact canonical_commitJob (canonical_snd e (canonical_exec canonical_readAdm h))

theorem canonical_clearJob {c : Nat} {seq : BitVec 32} : Canonises (clearJob c seq) := by
  refine fun _ h => canonical_foldl (fun p s g => ?_) h
  refine canonical_of_same (canonical_foldl (f := fun s q =>
    match getProg s p q with
    | some g => if g.ctx == c && g.jobseq == seq then clearProg p q s else s
    | none => s) (fun q s k => ?_) g)
  dsimp only
  split
  · exact canonical_ite (canonical_clearProg k) k
  · exact k

theorem canonical_reportJob {c : Nat} {halted : Bool} {rec : List Byte} : Canonises (reportJob c halted rec) :=
  fun _ h => canonical_report (canonical_ite (canonical_ite (canonical_report h) h) (canonical_modCtx
    (canonical_report (canonical_ite (canonical_report h) h))))

theorem canonical_jobRecord {j : Job} : Canonises (jobRecord j) := by
  intro s h
  unfold jobRecord
  dsimp only
  split
  · exact canonical_postRec h
  · exact canonical_reportJob h

theorem canonical_releaseResume {c : Nat} : Canonises (releaseResume c) :=
  fun _ h => canonical_ite h (canonical_foldl (fun _ _ g => canonical_finish g) h)

theorem canonical_endJob {j : Job} : Canonises (endJob j) :=
  fun _ h => canonical_releaseResume (canonical_traceEv (canonical_jobRecord (canonical_of_same (canonical_foldl
    (fun _ _ g => canonical_setHolds g) (canonical_foldl (fun _ _ g => canonical_closeWin g)
    (canonical_clearJob h))))))

theorem canonical_tellHalt {j : Job} : Canonises (tellHalt j) := by
  intro s h
  unfold tellHalt
  split
  · exact h
  · exact canonical_ite h (canonical_forwardTell h)

theorem canonical_completeJob {c : Nat} {seq : BitVec 32} : Canonises (completeJob c seq) := by
  intro s h
  unfold completeJob
  split
  · exact h
  · exact canonical_ite (canonical_endJob (canonical_tellHalt h)) (canonical_tellHalt h)

theorem canonical_resumeAct : ActCanonises resumeAct := by
  intro c w m s h
  unfold resumeAct
  dsimp only
  split
  · exact h
  · split
    · exact canonical_modCtx (canonical_ite h (canonical_forwardMsg h))
    · exact h

end Sys2Proof.Proofs.Terrace
end

section
/-!
PROOFS. The Allotment's plots, tables and sequences keep the memories in canonical form.
-/
namespace Sys2Proof.Proofs.Terrace
open Sys2Proof.Machine Sys2Proof.Laws Sys2Proof.Claims Sys2Proof.Proofs.Arithmetic Sys2Proof.Proofs.Attention

variable {α : Type} {s t : State}

theorem canonical_metaRead {a n : Nat} (h : MemoriesCanonical s) : MemoriesCanonical (metaRead s a n).1 := by
  unfold metaRead
  dsimp only
  exact canonical_fetchMem h

theorem canonical_setRc {p n : Nat} : Canonises (setRc p n) := fun _ h => canonical_stackPut h

theorem canonical_putEntry {a e : Nat} : Canonises (Machine.putEntry a e) := fun _ h => canonical_stackPut h

theorem canonical_putDesc {seq d : Nat} : Canonises (putDesc seq d) := fun _ h => canonical_stackPut h

theorem canonical_setFault {seq : Nat} : Canonises (setFault seq) := fun _ h => canonical_stackPut h

theorem canonical_modUse {holder cls : Nat} {f : Nat → Nat} : Canonises (modUse holder cls f) :=
  fun _ h => canonical_ite h h

theorem canonical_countLost : Canonises countLost := fun _ h => h

theorem canonical_releasePlot {holder p : Nat} : Canonises (releasePlot holder p) := by
  intro s h
  unfold releasePlot
  dsimp only
  split
  · rename_i e
    exact canonical_ite (canonical_modUse (canonical_setRc (canonical_fst e (canonical_metaRead h))))
      (canonical_setRc (canonical_fst e (canonical_metaRead h)))
  · rename_i e
    exact canonical_ite (canonical_ite (canonical_fst e (canonical_metaRead h)) (canonical_countLost
      (canonical_of_same (canonical_fst e (canonical_metaRead h))))) (canonical_modUse (canonical_ite
      (canonical_fst e (canonical_metaRead h)) (canonical_countLost (canonical_of_same (canonical_fst e
      (canonical_metaRead h))))))

theorem canonical_takePlot {cls p : Nat} (h : MemoriesCanonical s) (e : takePlot cls s = some
    (p, t)) : MemoriesCanonical t := by
  unfold takePlot at e
  dsimp only at e
  split at e
  · nomatch e
  · obtain ⟨-, rfl⟩ := Prod.mk.injEq .. ▸ Option.some.inj e
    exact canonical_setRc h

theorem canonical_takePlots {cls ps : List Nat} (h : MemoriesCanonical s) (e : takePlots cls s = some (ps, t)) :
    MemoriesCanonical t := by
  induction cls generalizing s ps with
  | nil =>
    obtain ⟨-, rfl⟩ := Prod.mk.injEq .. ▸ Option.some.inj e
    exact h
  | cons c cs ih =>
    unfold takePlots at e
    split at e
    · nomatch e
    · rename_i taken
      have first := canonical_takePlot h taken
      split at e
      · nomatch e
      · rename_i rest
        obtain ⟨-, rfl⟩ := Prod.mk.injEq .. ▸ Option.some.inj e
        exact ih first rest

theorem canonical_grabPlots {c : Nat} {cls ps : List Nat}
    (h : MemoriesCanonical s) (e : grabPlots c cls s = some (ps, t)) :
    MemoriesCanonical t := by
  unfold grabPlots at e
  split at e
  · exact canonical_takePlots h e
  · nomatch e

theorem canonical_chargePlots {c : Nat} {ps : List Nat} : Canonises (chargePlots c ps) :=
  fun _ h => canonical_foldl (fun _ _ g => canonical_modUse g) h

theorem canonical_clearPage {p : Nat} : Canonises (clearPage p) := fun _ h => canonical_stackZero h

theorem canonical_altFail {st : Nat} : RunCanonises (altFail st : AltM α) := run_throw

theorem canonical_metaRd {fault : Option Nat} {a n : Nat} : RunCanonises (metaRd fault a n) := by
  refine run_get (fun s h => run_bind (run_set (canonical_metaRead h)) (fun _ => ?_))
  split
  · exact run_pure
  · exact run_throw

theorem canonical_refuseIf {b : Bool} {st : Nat} : RunCanonises (refuseIf b st) := run_ite canonical_altFail run_pure

theorem canonical_openSeq {c q : Nat} : RunCanonises (openSeq c q) := by
  refine run_get (fun s _ => run_bind canonical_refuseIf (fun _ => run_bind (run_modify canonical_descLookup)
    (fun _ => ?_)))
  exact run_bind canonical_metaRd (fun _ => run_bind canonical_refuseIf (fun _ => run_pure))

theorem canonical_needPlots {c : Nat} {cls : List Nat} : RunCanonises (needPlots c cls) := by
  refine run_get (fun s h => ?_)
  split
  · exact run_throw
  · rename_i e
    exact run_bind (run_set (canonical_grabPlots h e)) (fun _ => run_pure)

theorem canonical_seqCreate {c w : Nat} : RunCanonises (seqCreate c w) := by
  refine run_get (fun s _ => run_bind canonical_refuseIf (fun _ => run_bind (run_modify canonical_descLookup)
    (fun _ => ?_)))
  refine run_bind canonical_metaRd (fun _ => run_bind canonical_refuseIf (fun _ => run_bind canonical_refuseIf
    (fun _ => ?_)))
  refine run_bind canonical_refuseIf (fun _ => run_bind canonical_needPlots (fun _ => run_bind (run_modify ?_)
    (fun _ => run_pure)))
  exact fun _ h => canonical_putDesc (canonical_clearPage (canonical_chargePlots h))

theorem canonical_appendPositions {q d : Nat} {pairs blocks : List Nat} :
    RunCanonises (appendPositions q d pairs blocks) := by
  refine run_mapM (fun e => run_get (fun _ _ => run_bind canonical_metaRd (fun _ => run_ite (run_get (fun _ _ =>
    ?_)) run_pure)))
  refine run_bind canonical_metaRd (fun _ => run_ite (run_get (fun _ _ => ?_)) run_pure)
  exact run_bind canonical_metaRd (fun _ => run_pure)

theorem canonical_appendSource {c space a n : Nat} : RunCanonises (appendSource c space a n) := by
  refine run_get (fun s h => run_ite (run_bind canonical_refuseIf (fun _ => ?terrace)) (run_bind canonical_refuseIf
    (fun _ => ?outside)))
  case terrace =>
    split
    · rename_i e
      exact run_bind (run_set (canonical_fst e (canonical_terRead h))) (fun _ => run_pure)
    · rename_i e
      have read := canonical_fst e (canonical_terRead h)
      exact run_bind (run_set (canonical_ite (canonical_modCounts read) read)) (fun _ => canonical_altFail)
  case outside =>
    split
    · rename_i e
      exact run_bind (run_set (canonical_fst e (canonical_extRead h))) (fun _ => canonical_altFail)
    · rename_i e
      exact run_bind (run_set (canonical_fst e (canonical_extRead h))) (fun _ => run_bind canonical_refuseIf
        (fun _ => run_pure))

theorem canonical_copyStack {src dst n : Nat} : Canonises (copyStack src dst n) :=
  fun _ h => canonical_mQueue (canonical_extPut (canonical_ite h h))

theorem canonical_copyPlot {d block src dst : Nat} : Canonises (copyPlot d block src dst) :=
  fun _ h => canonical_ite (canonical_copyStack (canonical_copyStack (canonical_copyStack h))) (canonical_copyStack
    (canonical_copyStack h))

theorem canonical_writeSlots {d block plot plen : Nat} {seg : List Byte} :
    Canonises (writeSlots d block plot plen seg) :=
  fun _ h => canonical_ite (canonical_stackPut (canonical_stackPut (canonical_stackPut (canonical_stackPut h))))
    (canonical_stackPut (canonical_stackPut h))

theorem canonical_addPages {d : Nat} {ks pages : List Nat} : Canonises (addPages d ks pages) :=
  fun _ h => canonical_foldl (fun _ _ g => canonical_putEntry (canonical_clearPage g)) h

/-- The tables of an append, once its plots are taken. -/
theorem canonical_linkPlots {d : Nat} {fresh : List (AppPos × Nat)} (h : MemoriesCanonical s) :
    MemoriesCanonical (fresh.foldl (fun s e =>
      match pageOf s d (e.1.pos / 2048) with
      | some pg => putEntry (plotAt s pg + 8 * (e.1.pos % 2048)) (entryOf e.2) s
      | none => s) s) := by
  refine canonical_foldl (fun e s k => ?_) h
  dsimp only
  split
  · exact canonical_putEntry k
  · exact k

theorem canonical_seqAppend {c w : Nat} {wt : Waiter} : RunCanonises (seqAppend c wt w) := by
  refine run_bind canonical_openSeq (fun d => run_bind canonical_refuseIf (fun _ => ?_))
  dsimp only
  split
  · exact canonical_altFail
  · refine run_bind canonical_refuseIf (fun _ => run_bind canonical_refuseIf (fun _ =>
      run_bind canonical_appendPositions (fun ps => ?_)))
    refine run_get (fun s h => run_bind canonical_needPlots (fun _ => run_bind (run_set h) (fun _ => ?_)))
    refine run_bind canonical_appendSource (fun src => run_bind canonical_needPlots (fun got => run_get (fun s h =>
      ?_)))
    refine run_ite (run_bind (run_set (canonical_putDesc ?written)) (fun _ => run_pure))
      (run_bind (run_set (canonical_modCtx ?written)) (fun _ => run_pure))
    all_goals
      refine canonical_foldl (fun _ _ k => canonical_writeSlots k) (canonical_beginXfers ?_)
      exact canonical_foldl (fun _ _ k => canonical_copyPlot k) (canonical_linkPlots (canonical_chargePlots
        (canonical_addPages h)))

theorem canonical_forkPlots {q d : Nat} : RunCanonises (forkPlots q d) := by
  refine run_bind (run_mapM (fun e => run_get (fun _ _ => run_bind canonical_metaRd (fun _ =>
    run_ite ?_ run_pure)))) (fun _ => run_pure)
  refine run_get (fun _ _ => run_bind canonical_metaRd (fun _ => run_ite (run_get (fun _ _ => ?_)) run_pure))
  exact run_bind canonical_metaRd (fun _ => run_pure)

theorem canonical_seqFork {c w : Nat} : RunCanonises (seqFork c w) := by
  refine run_get (fun _ _ => run_bind canonical_refuseIf (fun _ => run_bind canonical_openSeq (fun d =>
    run_bind canonical_refuseIf (fun _ => ?_))))
  refine run_get (fun _ _ => run_bind (run_modify canonical_descLookup) (fun _ => run_bind canonical_metaRd (fun _ =>
    ?_)))
  refine run_bind canonical_refuseIf (fun _ => run_bind canonical_refuseIf (fun _ => run_bind canonical_forkPlots
    (fun ps => ?_)))
  refine run_bind canonical_refuseIf (fun _ => run_get (fun _ _ => run_bind canonical_needPlots (fun got => ?_)))
  refine run_bind (run_modify (fun s h => canonical_putDesc (canonical_foldl (fun _ _ k => canonical_setRc k) ?_)))
    (fun _ => run_pure)
  refine canonical_foldl (fun e s k => ?_) (canonical_beginXfers (canonical_clearPage (canonical_chargePlots h)))
  dsimp only
  split
  · exact canonical_copyStack (canonical_putEntry k)
  · exact canonical_putEntry k

theorem canonical_cutTable {holder d jb : Nat} : Canonises (cutTable holder d jb) := by
  refine fun s h => canonical_foldl (fun k s hs => ?_) h
  have read {s : State} {a n : Nat} (h : MemoriesCanonical s) := canonical_metaRead (a := a) (n := n) h
  dsimp only
  split
  · rename_i e
    exact canonical_countLost (canonical_putEntry (canonical_fst e (read hs)))
  · rename_i e
    have entry := canonical_fst e (read hs)
    refine canonical_ite entry ?_
    refine canonical_ite (canonical_foldl (fun x s hs => ?_) entry)
      (canonical_releasePlot (canonical_putEntry (canonical_foldl (fun x s hs => ?_) entry)))
    all_goals
      dsimp only
      split
      · rename_i e2
        exact canonical_countLost (canonical_putEntry (canonical_fst e2 (read hs)))
      · rename_i e2
        have second := canonical_fst e2 (read hs)
        exact canonical_ite (canonical_releasePlot (canonical_putEntry second)) second

theorem canonical_dropSeq {holder q : Nat} : Canonises (dropSeq holder q) := by
  intro s h
  unfold dropSeq
  split
  · rename_i e
    exact canonical_countLost (canonical_putDesc (canonical_fst e (canonical_metaRead h)))
  · rename_i e
    exact canonical_releasePlot (canonical_putDesc (canonical_cutTable (canonical_fst e (canonical_metaRead h))))

theorem canonical_seqTruncate {c w : Nat} : RunCanonises (seqTruncate c w) := by
  refine run_get (fun _ _ => run_bind canonical_refuseIf (fun _ => run_bind (run_modify canonical_descLookup)
    (fun _ => ?_)))
  refine run_bind canonical_refuseIf (fun _ => run_bind canonical_metaRd (fun _ => run_bind canonical_refuseIf
    (fun _ => ?_)))
  refine run_bind canonical_refuseIf (fun _ => run_bind canonical_refuseIf (fun _ => run_bind (run_modify ?_)
    (fun _ => run_pure)))
  exact fun _ h => canonical_putDesc (canonical_cutTable h)

theorem canonical_seqFree {c w : Nat} : RunCanonises (seqFree c w) := by
  refine run_get (fun _ _ => run_bind canonical_refuseIf (fun _ => run_bind (run_modify canonical_descLookup)
    (fun _ => ?_)))
  refine run_bind canonical_refuseIf (fun _ => run_bind canonical_refuseIf (fun _ => run_bind canonical_refuseIf
    (fun _ => ?_)))
  exact run_bind (run_modify canonical_dropSeq) (fun _ => run_pure)

theorem canonical_plotPin {c w : Nat} : RunCanonises (plotPin c w) :=
  run_bind canonical_openSeq (fun _ => run_bind canonical_refuseIf (fun _ => run_bind canonical_refuseIf (fun _ =>
    run_bind (run_modify canonical_putDesc) (fun _ => run_pure))))

theorem canonical_plotUnpin {c w : Nat} : RunCanonises (plotUnpin c w) :=
  run_bind canonical_openSeq (fun _ => run_bind canonical_refuseIf (fun _ => run_bind canonical_refuseIf (fun _ =>
    run_bind (run_modify canonical_putDesc) (fun _ => run_pure))))

theorem canonical_altDone {c opc q st : Nat} (h : MemoriesCanonical s) : MemoriesCanonical (altDone c opc q st s).1 :=
  canonical_traceEv h

/-- What a failed operation leaves: perhaps FAULT of a sequence (R260). -/
theorem canonical_setFaultOf {f : Option Nat} (h : MemoriesCanonical s) :
    MemoriesCanonical (match f with
      | some f => setFault f s
      | none => s) := by
  split
  · exact canonical_setFault h
  · exact h

theorem canonical_runAlt {m : AltM Nat} (hm : RunCanonises m) : ActCanonises (runAlt m) := by
  intro c w msg s h
  have run := canonical_run hm h
  unfold runAlt
  dsimp only
  split
  · rename_i e
    exact canonical_altDone (canonical_snd e run)
  · rename_i e
    split
    · exact h
    · exact canonical_altDone (canonical_setFaultOf (canonical_snd e run))

theorem canonical_seqCreateAct : ActCanonises seqCreateAct :=
  fun _ _ _ _ h => canonical_runAlt canonical_seqCreate _ _ _ h

theorem canonical_seqForkAct : ActCanonises seqForkAct := fun _ _ _ _ h => canonical_runAlt canonical_seqFork _ _ _ h

theorem canonical_seqTruncateAct : ActCanonises seqTruncateAct :=
  fun _ _ _ _ h => canonical_runAlt canonical_seqTruncate _ _ _ h

theorem canonical_seqFreeAct : ActCanonises seqFreeAct := fun _ _ _ _ h => canonical_runAlt canonical_seqFree _ _ _ h

theorem canonical_plotPinAct : ActCanonises plotPinAct := fun _ _ _ _ h => canonical_runAlt canonical_plotPin _ _ _ h

theorem canonical_plotUnpinAct : ActCanonises plotUnpinAct :=
  fun _ _ _ _ h => canonical_runAlt canonical_plotUnpin _ _ _ h

theorem canonical_seqAppendAct : ActCanonises seqAppendAct := by
  intro c w m s h
  have run := canonical_run (canonical_seqAppend (c := c) (wt := w) (w := m.bits.toNat)) h
  unfold seqAppendAct
  dsimp only
  split
  · rename_i e
    exact canonical_altDone (canonical_snd e run)
  · rename_i e
    exact canonical_snd e run
  · rename_i e
    split
    · exact h
    · exact canonical_altDone (canonical_setFaultOf (canonical_snd e run))

theorem canonical_commitSwap {c : Nat} : Canonises (commitSwap c) := by
  intro s h
  unfold commitSwap
  split
  · exact h
  · refine canonical_ite h ?_
    have done {x q : Nat} {s : State} (h : MemoriesCanonical s) := canonical_altDone (c := c) (opc := x) (q := q)
      (st := stOK) h
    have swapped {a : List (Nat × Nat × Nat)} :
        MemoriesCanonical (a.foldl (fun s e => releasePlot c e.2.1 (putEntry e.1 (entryOf e.2.2) s)) s) :=
      canonical_foldl (fun _ _ k => canonical_releasePlot (canonical_putEntry k)) h
    have committed {x : List Nat} {q d : Nat} {f : Ctx → Ctx} {a : List (Nat × Nat × Nat)} :=
      canonical_modCtx (c := c) (f := f) (canonical_putDesc (seq := q) (d := d) (canonical_chargePlots (c := c)
        (ps := x) (swapped (a := a))))
    dsimp only
    split
    · rename_i e
      exact canonical_finish (canonical_fst e (done committed))
    · rename_i e
      exact canonical_fst e (done committed)

theorem canonical_altQuotaAct : ActCanonises altQuotaAct := by
  intro c w m s h
  unfold altQuotaAct
  dsimp only
  split <;> exact h

theorem canonical_readPblk {c : Nat} {priv : Bool} {a : Nat} {ws : List Nat}
    (h : MemoriesCanonical s) : MemoriesCanonical (readPblk c priv a ws s).1 := by
  unfold readPblk
  dsimp only
  split
  · exact h
  · split
    · rename_i e
      exact canonical_fst e (canonical_fetchMem h)
    · split
      · rename_i e _
        exact canonical_fst e (canonical_fetchMem h)
      · rename_i e _
        exact canonical_fst e (canonical_fetchMem h)

theorem canonical_altConfigure {a : Allot} : Canonises (altConfigure a) :=
  fun s h => canonical_foldl (s := { s with alt := a }) (fun _ => canonical_stackZero) h

theorem canonical_altConfigAct : ActCanonises altConfigAct := by
  intro c w m s h
  unfold altConfigAct
  dsimp only
  split
  · rename_i e
    exact canonical_fst e (canonical_readPblk h)
  · split
    · rename_i e _
      exact canonical_fst e (canonical_readPblk h)
    · split
      · rename_i e _ _
        exact canonical_fst e (canonical_readPblk h)
      · rename_i e _ _
        exact canonical_altConfigure (canonical_fst e (canonical_readPblk h))

theorem canonical_freeCtxSeqs {c : Nat} : Canonises (freeCtxSeqs c) := by
  intro s h
  unfold freeCtxSeqs
  dsimp only
  refine canonical_ite (canonical_modCtx ?freed) (canonical_of_same ?freed)
  refine canonical_foldl (fun q s hs => ?_) h
  exact canonical_ite (canonical_putDesc (canonical_cutTable hs)) (canonical_dropSeq hs)

theorem canonical_openOrphan {q : Nat} : RunCanonises (openOrphan q) := by
  refine run_get (fun s _ => ?_)
  split
  · exact canonical_altFail
  · exact run_bind canonical_metaRd (fun _ => run_pure)

theorem canonical_seqAdopt {w : Nat} : RunCanonises (seqAdopt w) := by
  refine run_bind canonical_openOrphan (fun o => run_get (fun s _ => run_bind canonical_refuseIf (fun _ => ?_)))
  refine run_bind canonical_refuseIf (fun _ => run_bind (run_mapM (fun _ => canonical_metaRd)) (fun _ => ?_))
  refine run_bind (run_modify (fun s h => canonical_of_same ?_)) (fun _ => run_pure)
  exact canonical_foldl (fun _ _ k => canonical_modUse k) (canonical_foldl (fun _ _ k => canonical_putDesc k) h)

theorem canonical_seqAdoptAct : ActCanonises seqAdoptAct := by
  intro c w m s h
  have run := canonical_run (canonical_seqAdopt (w := m.bits.toNat)) h
  unfold seqAdoptAct
  dsimp only
  split
  · rename_i e
    exact canonical_snd e run
  · rename_i e
    exact canonical_setFaultOf (canonical_snd e run)

theorem canonical_seqRelease {w : Nat} : RunCanonises (seqRelease w) := by
  refine run_bind canonical_openOrphan (fun o => run_bind (run_mapM (fun _ => run_get (fun _ _ =>
    canonical_metaRd))) (fun _ => ?_))
  refine run_get (fun s _ => run_bind (run_mapM (fun e => ?_)) (fun _ => ?_))
  · split
    · exact canonical_metaRd
    · exact run_pure
  · refine run_bind (run_modify (fun s h => canonical_of_same (canonical_dropSeq h))) (fun _ => run_get (fun s h =>
      ?_))
    exact run_ite (run_bind (run_set h) (fun _ => run_pure)) run_pure

theorem canonical_seqReleaseAct : ActCanonises seqReleaseAct := by
  intro c w m s h
  have run := canonical_run (canonical_seqRelease (w := m.bits.toNat)) h
  unfold seqReleaseAct
  dsimp only
  split
  · rename_i e
    exact canonical_snd e run
  · rename_i e
    exact canonical_setFaultOf (canonical_snd e run)

theorem canonical_prefetchPlot {p : Nat} {q : PSlot} : Canonises (prefetchPlot p q) := by
  intro s h
  unfold prefetchPlot
  dsimp only
  split
  · exact h
  · split
    · exact h
    · refine canonical_ite h ?_
      split
      · exact h
      · exact canonical_mQueue (canonical_cacheFill (canonical_beginXfers (canonical_descLookup h)))

end Sys2Proof.Proofs.Terrace
end

section
/-!
PROOFS. The key handshakes, a context's settings and the X-ports keep the memories in canonical form.
-/
namespace Sys2Proof.Proofs.Terrace
open Sys2Proof.Machine Sys2Proof.Laws Sys2Proof.Claims Sys2Proof.Proofs.Arithmetic Sys2Proof.Proofs.Attention

variable {s t : State}

/-! Key handshakes. -/

theorem canonical_haltCtxOnly {c st det : Nat} : Canonises (haltCtxOnly c st det) :=
  fun _ h => canonical_traceEv (canonical_setErr h)

theorem canonical_haltSome {c : Nat} {f : RFault} {seqs : List (BitVec 32)} : Canonises (haltSome c f seqs) :=
  fun _ h => canonical_ite (canonical_haltCtxOnly h) (canonical_foldl (fun _ _ g => canonical_haltPlain g) h)

theorem canonical_sendLctl {dst : UPath} {ltype : Nat} {body : List Byte} : Canonises (sendLctl dst ltype body) :=
  fun _ h => h

theorem canonical_sendKx1 {u : UPath} : Canonises (sendKx1 u) := by
  intro s h
  unfold sendKx1
  dsimp only
  split
  · exact h
  · exact canonical_sendLctl h

theorem canonical_startShake {u : UPath} {purpose : Nat} {c : Option Nat} : Canonises (startShake u purpose c) := by
  intro s h
  unfold startShake
  dsimp only
  split
  · exact h
  · split
    · exact canonical_ite (canonical_sendKx1 h) h
    · exact h

theorem canonical_failShake {u : UPath} : Canonises (failShake u) := by
  intro s h
  unfold failShake
  dsimp only
  split
  · exact h
  · exact canonical_ite h (canonical_foldl (fun _ _ g => canonical_haltSome g) h)

theorem canonical_rejectShake {u : UPath} {reason : Nat} : Canonises (rejectShake u reason) :=
  fun _ h => canonical_failShake h

theorem canonical_sendSealed {u : UPath} : Canonises (sendSealed u) := fun _ h => canonical_foldl (fun _ _ g => g) h

theorem canonical_enterKeys {u : UPath} : Canonises (enterKeys u) := by
  intro s h
  unfold enterKeys
  dsimp only
  split
  · exact h
  · exact canonical_sendSealed h

theorem canonical_shakeFor {u : UPath} : Canonises (shakeFor u) := fun _ h => canonical_ite (canonical_startShake h) h

theorem canonical_retireOld {u : UPath} : Canonises (retireOld u) :=
  fun _ h => canonical_foldl (fun _ _ g => canonical_sendLctl g) h

theorem canonical_eraseUnused : Canonises eraseUnused := fun _ h => canonical_foldl (fun _ _ g => canonical_ite g g) h

theorem canonical_withLodge {src : UPath} {m : LodgeMsg} {f : State → State} (hf : Canonises f) :
    Canonises (withLodge src m f) :=
  fun _ h => canonical_ite (hf h) h

theorem canonical_takeKx1 {src : UPath} {body : BitVec 1088} : Canonises (takeKx1 src body) := by
  intro s h
  unfold takeKx1
  dsimp only
  split
  · exact h
  · split
    · exact canonical_sendLctl (canonical_startShake h)
    · exact canonical_ite (canonical_rejectShake (canonical_startShake h)) (canonical_sendLctl (canonical_of_same
        (canonical_startShake h)))

theorem canonical_takeKx2 {src : UPath} {body : BitVec 1088} {chain : List (List Byte)} {sig : BitVec 768} :
    Canonises (takeKx2 src body chain sig) := by
  intro s h
  unfold takeKx2
  dsimp only
  split
  · exact h
  · split
    · exact h
    · split
      · exact canonical_rejectShake h
      · exact canonical_sendLctl h

theorem canonical_takeKx3 {src : UPath} {chain : List (List Byte)} {sig : BitVec 768} :
    Canonises (takeKx3 src chain sig) := by
  intro s h
  unfold takeKx3
  dsimp only
  split
  · exact h
  · split
    · exact h
    · split
      · exact canonical_rejectShake h
      · exact canonical_retireOld (canonical_sendLctl (canonical_enterKeys h))

theorem canonical_takeKdone {src : UPath} : Canonises (takeKdone src) := by
  intro s h
  unfold takeKdone
  split
  · exact h
  · exact canonical_ite h (canonical_retireOld (canonical_enterKeys h))

theorem canonical_takeKretire {src : UPath} {body : BitVec 32} : Canonises (takeKretire src body) := by
  intro s h
  unfold takeKretire
  dsimp only
  split
  · exact canonical_ite h h
  · exact h

theorem canonical_restartShakes : Canonises restartShakes :=
  fun _ h => canonical_foldl (fun _ _ g => canonical_ite (canonical_sendKx1 g) (canonical_ite
    (canonical_takeKx1 g) g)) h

theorem canonical_replaceKey {u : UPath} : Canonises (replaceKey u) := by
  intro s h
  unfold replaceKey
  split
  · exact canonical_ite (canonical_startShake h) h
  · exact h

/-! A context's settings. -/

theorem canonical_readSrc {c a n : Nat} (h : MemoriesCanonical s) : MemoriesCanonical (readSrc c a n s).1 :=
  canonical_fetchMem h

theorem canonical_logReadAct : ActCanonises logReadAct := by
  intro c w m s h
  unfold logReadAct
  dsimp only
  split
  · rename_i e
    exact canonical_fst e (canonical_extWrite h)
  · rename_i e
    exact canonical_ite (canonical_modCtx (canonical_fst e (canonical_extWrite h))) (canonical_fst e
      (canonical_extWrite h))

theorem canonical_setRegion {c k : Nat} {r : Region} : Canonises (setRegion c k r) := by
  intro s h
  obtain ⟨mem, outside⟩ := h
  refine ⟨?_, outside⟩
  have cleared (old : Region) : Mem.wf (releaseRange old r s.ter).mem = true := by
    unfold releaseRange
    dsimp only
    split
    · exact wf_terClear _ _ _ mem
    · exact wf_terClear _ _ _ (wf_terClear _ _ _ mem)
  exact cleared _

theorem canonical_regionSetAct : ActCanonises regionSetAct := by
  intro c w m s h
  unfold regionSetAct
  dsimp only
  split
  · exact h
  · exact canonical_setRegion h

theorem canonical_grantX {w : Nat} : Canonises (grantX w) := fun _ h => canonical_ite (canonical_emit h) h

theorem canonical_winOpenAct : ActCanonises winOpenAct := by
  intro c w m s h
  unfold winOpenAct
  dsimp only
  split
  · exact h
  · split
    · exact h
    · exact canonical_grantX (canonical_openWin h)

theorem canonical_winCloseAct : ActCanonises winCloseAct := by
  intro c w m s h
  unfold winCloseAct
  dsimp only
  split
  · exact h
  · split
    · exact canonical_closeWin h
    · exact canonical_modWin (canonical_closeWin h)

theorem canonical_closeDone {k : Nat} : Canonises (closeDone k) := by
  intro s h
  unfold closeDone
  dsimp only
  split
  · exact h
  · exact canonical_ite (canonical_finish h) h

theorem canonical_angleSetAct : ActCanonises angleSetAct := by
  intro c w m s h
  unfold angleSetAct
  dsimp only
  split
  · rename_i e
    exact canonical_fst e (canonical_readSrc h)
  · rename_i e
    exact canonical_modCtx (canonical_fst e (canonical_readSrc h))

theorem canonical_loadRoles {c : Nat} {bank : Bool} {first : Nat} {rs : List Role} :
    Canonises (loadRoles c bank first rs) :=
  fun _ h => canonical_eraseUnused (canonical_foldl (fun _ _ g => canonical_startShake g) h)

theorem canonical_roleLoadAct : ActCanonises roleLoadAct := by
  intro c w m s h
  unfold roleLoadAct
  dsimp only
  split
  · rename_i e
    exact canonical_fst e (canonical_readSrc h)
  · split
    · rename_i e _
      exact canonical_fst e (canonical_readSrc h)
    · split
      · rename_i e _ _
        exact canonical_fst e (canonical_readSrc h)
      · rename_i e _ _
        exact canonical_loadRoles (canonical_fst e (canonical_readSrc h))

theorem canonical_landSetAct : ActCanonises landSetAct := by
  intro c w m s h
  unfold landSetAct
  dsimp only
  split
  · rename_i e
    exact canonical_fst e (canonical_readSrc h)
  · split
    · rename_i e _
      exact canonical_fst e (canonical_readSrc h)
    · rename_i e _
      exact canonical_modCtx (canonical_fst e (canonical_readSrc h))

theorem canonical_drainLines {ls : List CacheLine} : Canonises (drainLines ls) :=
  fun _ h => canonical_of_same (canonical_foldl (fun _ _ g => canonical_ite (canonical_mQueue
    (canonical_writeBack g)) g) h)

theorem canonical_terClear {a n : Nat} {v : BitVec 128} (h : MemoriesCanonical s) :
    MemoriesCanonical { s with ter := terClear a n { s.ter with cached := v } } := by
  obtain ⟨mem, outside⟩ := h
  exact ⟨wf_terClear _ _ _ mem, outside⟩

theorem canonical_switchGroup {g : Nat} {toCache : Bool} : Canonises (switchGroup g toCache) := by
  intro s h
  unfold switchGroup
  dsimp only
  refine canonical_ite (canonical_drainLines h) (canonical_ite (canonical_terClear (canonical_drainLines h))
    (canonical_ite ?_ h))
  exact canonical_of_same (canonical_drainLines (ls := s.ter.lines) h)

theorem canonical_terGroupModeAct : ActCanonises terGroupModeAct := by
  intro c w m s h
  unfold terGroupModeAct
  dsimp only
  split
  · exact h
  · split
    · exact h
    · exact canonical_switchGroup h

/-! X-ports. -/

theorem canonical_countWindow {x : Window} {st : Nat} : Canonises (countWindow x st) := fun _ h => h

theorem canonical_tryXRead {r : XReq} (h : MemoriesCanonical s) (e : tryXRead r s = some t) :
    MemoriesCanonical t := by
  unfold tryXRead at e
  dsimp only at e
  have read := canonical_terRead (c := r.ctx) (off := r.off) (n := r.len) h
  split at e
  · obtain rfl := Option.some.inj e
    exact canonical_emit h
  · split at e
    · nomatch e
    · split at e
      · rename_i q
        obtain rfl := Option.some.inj e
        exact canonical_emit (canonical_fst q read)
      · rename_i q
        obtain rfl := Option.some.inj e
        exact canonical_emit (canonical_ite (canonical_modCounts (canonical_fst q read)) (canonical_fst q read))

theorem canonical_maskedWrite {c off : Nat} {bs : List Byte} {en : List Bool} : Canonises (maskedWrite c off bs en) :=
  fun _ h => canonical_foldl (fun _ _ g => canonical_terWrite g) h

theorem canonical_replaceX {k n : Nat} : Canonises (replaceX k n) :=
  fun _ h => canonical_foldl (fun _ _ g => canonical_emit g) h

theorem canonical_tryXWrite {r : XReq} {k : Nat} {gen : BitVec 32} {bs : List Byte} {en : List Bool}
    (h : MemoriesCanonical s)
    (e : tryXWrite r k gen bs en s = some t) : MemoriesCanonical t := by
  unfold tryXWrite at e
  dsimp only at e
  split at e
  · obtain rfl := Option.some.inj e
    exact canonical_emit h
  · split at e
    · nomatch e
    · split at e
      · obtain rfl := Option.some.inj e
        exact canonical_emit (canonical_countWindow h)
      · obtain rfl := Option.some.inj e
        exact canonical_replaceX (canonical_emit (canonical_maskedWrite (canonical_modWin h)))

theorem canonical_getD {o : Option State} (hs : MemoriesCanonical s) (ht : ∀ t, o = some t → MemoriesCanonical t) :
    MemoriesCanonical (o.getD s) := by
  cases o with
  | none => exact hs
  | some t => exact ht t rfl

theorem canonical_xAccess {r : XReq} : Canonises (xAccess r) := by
  intro s h
  refine canonical_getD h (fun t e => ?_)
  split at e
  · exact canonical_tryXRead h e
  · exact canonical_tryXWrite h e

theorem canonical_wakeX : Canonises wakeX := fun _ h => canonical_foldl (fun _ _ g => canonical_xAccess g) h

theorem canonical_scrubNext {slice bank : Nat} : Canonises (scrubNext slice bank) :=
  fun _ h => canonical_of_same (canonical_eccTouch h)

theorem canonical_writeBackWord {slice bank : Nat} : Canonises (writeBackWord slice bank) := by
  intro s h
  unfold writeBackWord
  dsimp only
  split <;> exact h

end Sys2Proof.Proofs.Terrace
end

section
/-!
PROOFS. The paths and the chunks of the Promenade keep the memories in canonical form.
-/
namespace Sys2Proof.Proofs.Terrace
open Sys2Proof.Machine Sys2Proof.Laws Sys2Proof.Claims Sys2Proof.Proofs.Arithmetic Sys2Proof.Proofs.Attention

variable {s t : State}

/-! Paths. -/

theorem canonical_drainLink {p : LinkPort} : Canonises (drainLink p) :=
  fun s h => canonical_of_linkFrame (frame_pump p _ s) h

theorem canonical_writePathCfg {p : Fin 4} {v : BitVec 64} {be : BitVec 8} : Canonises (writePathCfg p v be) :=
  fun _ h => canonical_ite (canonical_ite (canonical_ite h h) (canonical_linkState (canonical_setLink
    (canonical_ite h h)))) (canonical_ite (canonical_setLink h)
    (by split <;> exact canonical_linkState (canonical_setLink h)))

theorem canonical_writePathRstore {p : Fin 4} {v : BitVec 64} {be : BitVec 8} : Canonises (writePathRstore p v be) :=
  fun _ h => canonical_ite h (canonical_setLink h)

theorem canonical_enterRetrain {port : LinkPort} : Canonises (enterRetrain port) :=
  fun _ h => canonical_ite (canonical_linkState h) (canonical_linkState (canonical_setLink h))

theorem canonical_takeAck {port : LinkPort} {ackv : Bool} {ack : Nat} : Canonises (takeAck port ackv ack) := by
  intro s h
  unfold takeAck
  dsimp only
  split
  · exact h
  · exact canonical_ite (canonical_drainLink (canonical_setLink h)) h

theorem canonical_takeNak {port : LinkPort} : Canonises (takeNak port) :=
  fun _ h => canonical_ite h (canonical_ite (canonical_linkState h) (canonical_ite (canonical_enterRetrain
    (canonical_emit (canonical_setLink h))) (canonical_emit (canonical_setLink h))))

theorem canonical_closeRelay {src : LinkPort × Nat} : Canonises (closeRelay src) := by
  intro s h
  unfold closeRelay
  split
  · exact h
  · exact canonical_linkPut (canonical_modLink h)

theorem canonical_relayHead {port : LinkPort} {ftype tslot pvb hat : Nat} {dst : UPath}
    {payload : List Byte} : Canonises (relayHead port ftype tslot pvb hat dst payload) := by
  intro s h
  unfold relayHead
  dsimp only
  split
  · exact canonical_closeRelay h
  · split
    · exact canonical_closeRelay h
    · exact canonical_ite (canonical_countHdrErr (canonical_closeRelay h)) (canonical_linkPut (canonical_ite
        (canonical_closeRelay h) (canonical_modLink (canonical_closeRelay h))))

theorem canonical_relayData {port : LinkPort} {tslot pvb : Nat} {payload : List Byte} :
    Canonises (relayData port tslot pvb payload) := by
  intro s h
  unfold relayData
  dsimp only
  split
  · exact h
  · exact canonical_linkPut (canonical_modLink h)

theorem canonical_bounceAway {src : UPath} {payload : List Byte} : Canonises (bounceAway src payload) := fun _ h => h

theorem canonical_closeMsg {port out : LinkPort} : Canonises (closeMsg port out) := fun _ h => canonical_linkPut h

theorem canonical_dropMsg {port : LinkPort} : Canonises (dropMsg port) := by
  intro s h
  unfold dropMsg
  dsimp only
  split
  · exact canonical_modLink (canonical_closeMsg h)
  · exact canonical_modLink h

theorem canonical_takeSegment {port : LinkPort} {pvb : Nat} {payload : List Byte} :
    Canonises (takeSegment port pvb payload) := by
  intro s h
  unfold takeSegment
  dsimp only
  split
  · exact canonical_countHdrErr (canonical_dropMsg (canonical_ite (canonical_dropMsg h) h))
  · split
    · exact canonical_countHdrErr (canonical_ite (canonical_dropMsg h) h)
    · split
      · exact canonical_countHdrErr (canonical_dropMsg (canonical_ite (canonical_dropMsg h) h))
      · split
        · exact canonical_linkPut (canonical_modLink (canonical_ite (canonical_dropMsg h) h))
        · split
          · exact canonical_ite (canonical_bounceAway (canonical_modLink (canonical_ite (canonical_dropMsg h) h)))
              (canonical_modLink (canonical_ite (canonical_dropMsg h) h))
          · split
            · split
              · exact canonical_modLink (canonical_modLink (canonical_ite (canonical_dropMsg h) h))
              · exact canonical_modLink (canonical_ite (canonical_dropMsg h) h)
            · exact canonical_modLink (canonical_ite (canonical_dropMsg h) h)

theorem canonical_acceptFlit {port : LinkPort} {ftype tslot pvb : Nat} {payload : List Byte} :
    Canonises (acceptFlit port ftype tslot pvb payload) := by
  intro s h
  unfold acceptFlit
  dsimp only
  split
  · exact canonical_relayHead h
  · exact canonical_ite h (canonical_relayHead h)
  · exact canonical_relayData h
  · split
    · split
      · exact canonical_linkPut h
      · exact h
    · exact h
  · split
    · split
      · exact canonical_linkPut h
      · exact h
    · exact h
  · split
    · split
      · exact canonical_linkPut h
      · exact h
    · exact h
  · exact canonical_takeSegment h
  · exact h

theorem canonical_takeFlit {port : LinkPort} {flit : BitVec 2048} : Canonises (takeFlit port flit) :=
  fun _ h => canonical_ite h (canonical_ite h (canonical_acceptFlit (canonical_ite (canonical_takeNak
    (canonical_takeAck (canonical_setLink h))) (canonical_takeAck (canonical_setLink h)))))

/-! The Promenade. -/

theorem canonical_takeCredit {rec : BitVec 128} : Canonises (takeCredit rec) := fun _ h => h

theorem canonical_mapProgs {f : Prog → Prog} : Canonises (mapProgs f) := fun _ h => h

theorem canonical_haltSend {e : SendEnt} {f : RFault} : Canonises (haltSend e f) := by
  intro s h
  unfold haltSend
  dsimp only
  split
  · exact h
  · split
    · exact canonical_haltProg h
    · exact canonical_haltPlain h

theorem canonical_fillEntry {k n : Nat} : Canonises (fillEntry k n) := by
  induction n with
  | zero => exact fun _ h => h
  | succ n ih =>
    intro s h
    unfold fillEntry
    dsimp only
    split
    · exact h
    · split
      · exact ih (canonical_mapProgs (canonical_haltSend h))
      · exact canonical_mapProgs h

theorem canonical_freeSend {k : Nat} : Canonises (freeSend k) := fun _ h => canonical_fillEntry (canonical_mapProgs h)

theorem canonical_sendChunk {stag : Nat} : Canonises (sendChunk stag) := by
  intro s h
  unfold sendChunk
  dsimp only
  split
  · exact h
  · split
    · exact h
    · split
      · exact h
      · split
        · split
          · exact h
          · exact canonical_ite h (canonical_replaceKey (canonical_emit h))
        · exact canonical_emit h

theorem canonical_returnCredits {e : SendEnt} {n : Nat} : Canonises (returnCredits e n) := by
  intro s h
  unfold returnCredits
  dsimp only
  split
  · exact canonical_ite h h
  · exact h

theorem canonical_chunkGone {e : SendEnt} : Canonises (chunkGone e) :=
  fun _ h => canonical_ite (canonical_eraseUnused (canonical_retireOld h)) h

theorem canonical_takeCack {rec : BitVec 128} : Canonises (takeCack rec) := by
  intro s h
  unfold takeCack
  dsimp only
  split
  · exact h
  · exact canonical_ite h (canonical_ite (canonical_chunkGone (canonical_freeSend (canonical_returnCredits h)))
      (canonical_ite (canonical_of_same (canonical_returnCredits h)) (canonical_chunkGone (canonical_freeSend
      (canonical_haltSend (canonical_returnCredits h))))))

theorem canonical_chunkTimedOut {stag : Nat} : Canonises (chunkTimedOut stag) := by
  intro s h
  unfold chunkTimedOut
  split
  · exact h
  · exact canonical_ite (canonical_chunkGone (canonical_freeSend (canonical_haltSend h))) h

theorem canonical_chunkBounced {hdr : BitVec 512} {rxEpoch : BitVec 32} : Canonises (chunkBounced hdr rxEpoch) := by
  intro s h
  unfold chunkBounced
  split
  · exact h
  · exact canonical_ite (canonical_chunkGone (canonical_freeSend (canonical_haltSend h))) h

theorem canonical_sendCack {hdr : BitVec 512} {st nret : Nat} : Canonises (sendCack hdr st nret) := fun _ h => h

theorem canonical_dropWriter {w : LandWriter} : Canonises (dropWriter w) := by
  refine fun s h => canonical_of_same h ?_
  exact List.foldlRecOn (motive := fun t : Terrace => t.mem = s.ter.mem) _ _ rfl (fun _ e _ _ => e)

theorem canonical_refundCredits {hdr : BitVec 512} {n : Nat} : Canonises (refundCredits hdr n) :=
  fun _ h => canonical_ite h h

/-- What a chunk's header removes before its checks: the waiting chunk of the same header and the writer that it replaces. -/
theorem canonical_cleared {l : List LandWait} {prior : Option LandWriter} (h : MemoriesCanonical s) :
    MemoriesCanonical (match prior with
      | some w => dropWriter w { s with prom := { s.prom with landWait := l } }
      | none => { s with prom := { s.prom with landWait := l } }) := by
  split
  · exact canonical_dropWriter h
  · exact h

theorem canonical_chunkArrives {port : LinkPort} {hdr : BitVec 512} : Canonises (chunkArrives port hdr) := by
  intro s h
  unfold chunkArrives
  dsimp only
  refine canonical_ite (canonical_countHdrErr h) (canonical_ite (canonical_ite h (canonical_emit
    (canonical_modCounts h))) ?_)
  refine canonical_ite (canonical_emit (canonical_modCounts (canonical_cleared h))) (canonical_ite
    (canonical_sendCack h) ?_)
  split
  · exact canonical_sendCack (canonical_modCounts (canonical_cleared h))
  · exact canonical_ite (canonical_of_same (canonical_cleared h)) (canonical_of_same (canonical_cleared h))

theorem canonical_haltOwner {hdr : BitVec 512} {st : Nat} : Canonises (haltOwner hdr st) := by
  intro s h
  unfold haltOwner
  dsimp only
  split
  · exact canonical_haltPlain h
  · exact canonical_haltCtxOnly h

theorem canonical_landPayload {hdr : BitVec 512} {data : List Byte} {tags : List (BitVec 2)} {map : BitVec 256}
    (h : MemoriesCanonical s) : MemoriesCanonical (landPayload hdr data tags map s).1 := by
  unfold landPayload
  dsimp only
  split
  · have written {c a : Nat} {pw : List Nat} :=
      canonical_extWrite (c := c) (space := 0) (a := a) (priv := false) (cached := false) (bs := data) (pw := pw) h
    split
    · rename_i e
      exact canonical_fst e written
    · rename_i e
      exact canonical_fst e written
  · split
    · exact canonical_modCounts h
    · split
      · exact canonical_ite (canonical_modCounts (canonical_terAdd h)) (canonical_terAdd h)
      · exact canonical_markBad (canonical_terWrite h)

theorem canonical_landEnd {hdr : BitVec 512} {stream : List Byte} : Canonises (landEnd hdr stream) := by
  intro s h
  unfold landEnd
  dsimp only
  split
  · exact h
  · split
    · exact canonical_ite (canonical_sendCack (canonical_refundCredits h)) (canonical_haltOwner
        (canonical_dropWriter (canonical_sendCack (canonical_refundCredits h))))
    · split
      · exact canonical_haltOwner (canonical_sendCack (canonical_dropWriter (canonical_landPayload h)))
      · exact canonical_sendCack (canonical_dropWriter (canonical_landPayload h))
      · exact canonical_sendCack (canonical_setFlag (canonical_modCtx (canonical_dropWriter
          (canonical_landPayload h))))

theorem canonical_wakeLanding {n : Nat} : Canonises (wakeLanding n) := by
  induction n with
  | zero => exact fun _ h => h
  | succ n ih =>
    refine fun s h => ih (canonical_foldl (fun x s hs => ?_) h)
    have arrived := canonical_chunkArrives (port := x.port) (hdr := x.hdr)
      (s := { s with prom := { s.prom with landWait := s.prom.landWait.filter (· != x) } }) hs
    dsimp only
    split
    · exact canonical_landEnd arrived
    · exact arrived

theorem canonical_wakeTables : Canonises wakeTables := fun _ h => canonical_wakeX (canonical_wakeLanding h)

theorem canonical_chunkRetires {hdr : BitVec 512} {stream : List Byte} : Canonises (chunkRetires hdr stream) :=
  fun _ h => canonical_wakeTables (canonical_landEnd h)

end Sys2Proof.Proofs.Terrace
end

section
/-!
PROOFS. The collectives of Bandstand keep the memories in canonical form.
-/
namespace Sys2Proof.Proofs.Terrace
open Sys2Proof.Machine Sys2Proof.Laws Sys2Proof.Claims Sys2Proof.Proofs.Arithmetic Sys2Proof.Proofs.Attention

variable {s t : State}

theorem canonical_modComm {cid : Nat} {f : Comm → Comm} : Canonises (modComm cid f) := by
  intro s h
  unfold modComm
  dsimp only
  split <;> exact h

theorem canonical_modSlot {i : Nat} {f : Slot → Slot} : Canonises (modSlot i f) := by
  intro s h
  unfold modSlot
  dsimp only
  split <;> exact h

theorem canonical_takeNonce {u : UPath} {a c : Nat} {k : BitVec 256} (h : MemoriesCanonical s)
    (e : takeNonce u s = some (a, k, c, t)) : MemoriesCanonical t :=
  canonical_of_linkFrame (frame_takeNonce u s t a c k e) h

theorem canonical_sendBand {c : Comm} {cid seq kind stage dst elem0 chidx sig jcred : Nat} {x320 : Bool}
    {payload trailer : List Byte} :
    Canonises (sendBand c cid seq kind stage dst elem0 chidx sig jcred x320 payload trailer) := by
  intro s h
  have noted {d : DigEnt} {s : State} (h : MemoriesCanonical s) : MemoriesCanonical (match slotOf s cid seq with
      | none => s
      | some i => modSlot i (fun t => { t with txDig := t.txDig ++ [d] }) s) := by
    split
    · exact h
    · exact canonical_modSlot h
  unfold sendBand
  dsimp only
  refine canonical_ite (canonical_haltCtxOnly h) (canonical_ite (canonical_emit h) ?_)
  split
  · split
    · exact h
    · rename_i e
      exact noted (canonical_replaceKey (canonical_emit (canonical_takeNonce h e)))
  · exact noted (canonical_emit h)

theorem canonical_sendEls {c : Comm} {t : Slot} {b : BandStream} : Canonises (sendEls c t b) :=
  fun _ h => canonical_ite (canonical_sendBand h) (canonical_foldl (fun _ _ g => canonical_sendBand g) h)

theorem canonical_spoilOutputs {t : Slot} {c : Comm} : Canonises (spoilOutputs t c) :=
  fun _ h => canonical_foldl (fun _ _ g => canonical_ite (canonical_terWrite g) (canonical_extPut g)) h

theorem canonical_dropOutputs {t : Slot} : Canonises (dropOutputs t) := fun _ h => h

theorem canonical_endSlot {i st : Nat} {abort : Option Nat} : Canonises (endSlot i st abort) := by
  intro s h
  unfold endSlot
  dsimp only
  split
  · exact h
  · split
    · split
      · exact canonical_traceEv (canonical_ite (canonical_spoilOutputs (canonical_modSlot h)) (canonical_modSlot h))
      · exact canonical_foldl (fun _ _ g => canonical_sendBand g) (canonical_traceEv (canonical_ite
          (canonical_spoilOutputs (canonical_modSlot h)) (canonical_modSlot h)))
    · split
      · exact canonical_wakeTables (canonical_traceEv (canonical_ite (canonical_spoilOutputs (canonical_modSlot h))
          (canonical_modSlot h)))
      · exact canonical_wakeTables (canonical_foldl (fun _ _ g => canonical_sendBand g) (canonical_traceEv
          (canonical_ite (canonical_spoilOutputs (canonical_modSlot h)) (canonical_modSlot h))))

theorem canonical_foldNext {cid : Nat} : Canonises (foldNext cid) := by
  intro s h
  unfold foldNext
  dsimp only
  split
  · split
    · exact h
    · exact canonical_ite (canonical_finish h) (canonical_postRec (canonical_modSlot h))
  · exact h

theorem canonical_bandRead {ctx space a n : Nat} (h : MemoriesCanonical s) :
    MemoriesCanonical (bandRead ctx space a n s).1 := by
  unfold bandRead
  split
  · split
    · exact h
    · split
      · rename_i e
        exact canonical_fst e (canonical_terRead h)
      · rename_i e
        exact canonical_ite (canonical_modCounts (canonical_fst e (canonical_terRead h))) (canonical_fst e
          (canonical_terRead h))
  · split
    · rename_i e
      exact canonical_haltCtxOnly (canonical_fst e (canonical_extRead h))
    · rename_i e
      exact canonical_fst e (canonical_extRead h)

theorem canonical_bandWrite {ctx space a : Nat} {bs : List Byte} (h : MemoriesCanonical s) :
    MemoriesCanonical (bandWrite ctx space a bs s).1 := by
  unfold bandWrite
  split
  · exact canonical_terWrite h
  · split
    · rename_i e
      exact canonical_fst e (canonical_extWrite h)
    · rename_i e
      exact canonical_haltCtxOnly (canonical_fst e (canonical_extWrite h))

theorem canonical_openOutput {i k : Nat} : Canonises (openOutput i k) := by
  intro s h
  unfold openOutput
  dsimp only
  split
  · exact h
  · exact canonical_ite h (canonical_modSlot h)

theorem canonical_openOutputs {i : Nat} : Canonises (openOutputs i) := by
  intro s h
  unfold openOutputs
  split
  · exact h
  · exact canonical_foldl (fun _ _ g => canonical_openOutput g) h

theorem canonical_completeSlot {i : Nat} : Canonises (completeSlot i) := by
  intro s h
  unfold completeSlot
  dsimp only
  split
  · exact h
  · split
    · exact h
    · split
      · exact h
      · split
        · exact canonical_endSlot h
        · split
          · exact h
          · split
            · rename_i e
              exact canonical_endSlot (canonical_fst e (canonical_bandWrite h))
            · rename_i e
              exact canonical_fst e (canonical_bandWrite h)

theorem canonical_tryComplete {i : Nat} : Canonises (tryComplete i) :=
  fun _ h => canonical_completeSlot (canonical_openOutputs h)

theorem canonical_shareSiteMap {i : Nat} : Canonises (shareSiteMap i) := by
  intro s h
  unfold shareSiteMap
  dsimp only
  split
  · exact h
  · split
    · exact canonical_ite (canonical_foldl (fun _ _ g => canonical_sendBand g) (canonical_modSlot h))
        (canonical_modSlot h)
    · exact h

theorem canonical_tryDecide {i k : Nat} : Canonises (tryDecide i k) := by
  intro s h
  unfold tryDecide
  dsimp only
  split
  · exact h
  · exact canonical_ite h (canonical_ite (canonical_ite (canonical_shareSiteMap (canonical_foldl (fun _ _ g =>
      canonical_sendBand g) (canonical_modSlot h))) (canonical_foldl (fun _ _ g => canonical_sendBand g)
      (canonical_modSlot h))) h)

theorem canonical_sendReady {i : Nat} : Canonises (sendReady i) := by
  refine fun s h => canonical_foldl (fun k s hs => ?_) h
  dsimp only
  split
  · exact hs
  · refine canonical_ite hs ?_
    split
    · exact canonical_ite (canonical_tryDecide (canonical_modSlot (canonical_modSlot hs)))
        (canonical_sendBand (canonical_modSlot hs))
    · exact canonical_modSlot hs

theorem canonical_readCounts {i : Nat} {t : Slot} {c : Comm} (h : MemoriesCanonical s) :
    MemoriesCanonical (readCounts i t c s).1 := by
  unfold readCounts
  dsimp only
  split
  · exact h
  · split
    · exact h
    · split
      · rename_i e
        exact canonical_modSlot (canonical_fst e (canonical_bandRead h))
      · rename_i e
        exact canonical_fst e (canonical_bandRead h)
      · rename_i e
        exact canonical_endSlot (canonical_fst e (canonical_bandRead h))

theorem canonical_markRoot {i : Nat} : Canonises (markRoot i) := by
  intro s h
  unfold markRoot
  dsimp only
  split
  · exact h
  · exact canonical_ite (canonical_modSlot h) h

theorem canonical_sendData {i : Nat} {b : BandStream} : Canonises (sendData i b) := by
  intro s h
  unfold sendData
  dsimp only
  split
  · exact h
  · exact canonical_sendEls (canonical_modSlot h)

theorem canonical_readSource {i k : Nat} : Canonises (readSource i k) := by
  intro s h
  unfold readSource
  dsimp only
  split
  · exact h
  · refine canonical_ite h ?_
    split
    · rename_i e
      exact canonical_fst e (canonical_readCounts h)
    · rename_i e
      have counted := canonical_fst e (canonical_readCounts h)
      refine canonical_ite counted ?_
      split
      · rename_i e2
        exact canonical_fst e2 (canonical_bandRead counted)
      · rename_i e2
        exact canonical_endSlot (canonical_fst e2 (canonical_bandRead counted))
      · rename_i e2
        refine canonical_tryComplete (canonical_markRoot (canonical_sendReady (canonical_foldl (fun _ _ g =>
          canonical_sendData g) ?_)))
        exact canonical_modSlot (canonical_fst e2 (canonical_bandRead counted))

theorem canonical_evalUnit {i k w : Nat} : Canonises (evalUnit i k w) := by
  intro s h
  unfold evalUnit
  dsimp only
  split
  · exact h
  · split
    · exact h
    · split
      · exact canonical_foldl (fun _ _ j => canonical_sendEls j) (canonical_modSlot h)
      · exact canonical_foldl (fun _ _ g => canonical_ite g (canonical_sendEls g)) (canonical_modSlot h)

theorem canonical_passUnit {i k u : Nat} : Canonises (passUnit i k u) := by
  intro s h
  unfold passUnit
  dsimp only
  split
  · exact h
  · split
    · exact canonical_foldl (fun _ _ g => canonical_sendEls g) (canonical_modSlot h)
    · exact h

theorem canonical_ownUnit {i w : Nat} : Canonises (ownUnit i w) := by
  intro s h
  unfold ownUnit
  dsimp only
  split
  · exact h
  · split
    · exact h
    · split
      · exact h
      · exact canonical_foldl (fun _ _ g => canonical_sendEls g) (canonical_modSlot h)

theorem canonical_sendMaps {i k : Nat} : Canonises (sendMaps i k) := by
  intro s h
  unfold sendMaps
  split
  · exact h
  · exact canonical_ite h (canonical_foldl (fun _ _ g => canonical_sendBand g) (canonical_modSlot h))

theorem canonical_evaluateStage {i k : Nat} : Canonises (evaluateStage i k) := by
  intro s h
  unfold evaluateStage
  dsimp only
  split
  · exact h
  · exact canonical_ite h (canonical_ite (canonical_ite h (canonical_tryComplete (canonical_foldl (fun _ _ g =>
      canonical_ownUnit g) h))) (canonical_ite h (canonical_tryComplete (canonical_sendMaps (canonical_sendReady
      (canonical_foldl (fun _ _ g => canonical_ite (canonical_evalUnit g) (canonical_passUnit g)) h))))))

theorem canonical_settleSlot {i : Nat} : Canonises (settleSlot i) := by
  intro s h
  unfold settleSlot
  dsimp only
  split
  · exact canonical_ite (canonical_endSlot (canonical_foldl (fun _ _ g => canonical_tryDecide g)
      (canonical_modSlot h))) (canonical_foldl (fun _ _ g => canonical_tryDecide g) (canonical_modSlot h))
  · exact canonical_foldl (fun _ _ g => canonical_tryDecide g) (canonical_modSlot h)

theorem canonical_settleBand : Canonises settleBand :=
  fun _ h => canonical_foldl (fun _ _ g => canonical_settleSlot g) h

theorem canonical_outputChunk {i k : Nat} : Canonises (outputChunk i k) := by
  intro s h
  unfold outputChunk
  dsimp only
  split
  · exact h
  · split
    · exact h
    · split
      · exact h
      · split
        · rename_i e
          exact canonical_fst e (canonical_bandWrite h)
        · split
          · rename_i e _ _
            exact canonical_tryComplete (canonical_setFlag (canonical_modSlot (canonical_fst e
              (canonical_bandWrite h))))
          · rename_i e _ _ _
            exact canonical_tryComplete (canonical_wakeTables (canonical_dropOutputs (canonical_setFlag
              (canonical_modSlot (canonical_fst e (canonical_bandWrite h))))))

theorem canonical_keepEarly {e : BandEarly} {c : Comm} : Canonises (keepEarly e c) := fun _ h => canonical_ite h h

theorem canonical_bandEnter {port : LinkPort} {src : UPath} {hdr : BitVec 512} {f : Comm → State → State}
    (hf : ∀ c, Canonises (f c)) : Canonises (bandEnter port src hdr f) := by
  intro s h
  unfold bandEnter
  refine canonical_ite (canonical_countHdrErr h) ?_
  split
  · exact canonical_emit h
  · exact canonical_ite h (canonical_ite (canonical_emit (canonical_modCounts h)) (hf _ h))

theorem canonical_checkSig {c : Comm} {i : Nat} {hdr : BitVec 512} {good : State → State} (hg : Canonises good) :
    Canonises (checkSig c i hdr good) := by
  intro s h
  unfold checkSig
  split
  · exact h
  · exact canonical_ite (canonical_endSlot h) (hg h)

theorem canonical_sendOwed {i r : Nat} : Canonises (sendOwed i r) := by
  intro s h
  unfold sendOwed
  split
  · exact h
  · exact canonical_foldl (fun _ _ g => canonical_sendData g) (canonical_modSlot h)

theorem canonical_matchJoin {c : Comm} {i : Nat} {hdr : BitVec 512} : Canonises (matchJoin c i hdr) :=
  canonical_checkSig (fun _ h => canonical_tryComplete (canonical_markRoot (canonical_sendOwed
    (canonical_modSlot h))))

theorem canonical_takeJoin {hdr : BitVec 512} {c : Comm} : Canonises (takeJoin hdr c) := by
  intro s h
  unfold takeJoin
  dsimp only
  split
  · exact canonical_matchJoin h
  · exact canonical_ite h (canonical_ite h (canonical_sendBand h))

theorem canonical_overrideEnd {i : Nat} {hdr : BitVec 512} {c : Comm} : Canonises (overrideEnd i hdr c) := by
  intro s h
  unfold overrideEnd
  split
  · exact canonical_ite (canonical_foldl (fun _ _ g => canonical_sendBand g) (canonical_modSlot h)) h
  · exact h

theorem canonical_takeAbort {port : LinkPort} {src : UPath} {hdr : BitVec 512} {c : Comm} :
    Canonises (takeAbort port src hdr c) := by
  intro s h
  unfold takeAbort
  dsimp only
  split
  · exact canonical_ite (canonical_endSlot h) (canonical_overrideEnd h)
  · exact canonical_ite h (canonical_ite (canonical_keepEarly h) h)

theorem canonical_takeBusy {hdr : BitVec 512} {_c : Comm} : Canonises (takeBusy hdr _c) := by
  intro s h
  unfold takeBusy
  split
  · exact canonical_modSlot h
  · exact h

theorem canonical_takeReady {port : LinkPort} {src : UPath} {hdr : BitVec 512} {c : Comm} :
    Canonises (takeReady port src hdr c) := by
  intro s h
  unfold takeReady
  dsimp only
  split
  · exact canonical_tryDecide (canonical_modSlot h)
  · exact canonical_keepEarly h

theorem canonical_takeDecide {port : LinkPort} {src : UPath} {hdr : BitVec 512} {c : Comm} :
    Canonises (takeDecide port src hdr c) := by
  intro s h
  unfold takeDecide
  dsimp only
  split
  · exact canonical_modSlot h
  · exact canonical_keepEarly h

theorem canonical_bandPayload {port : LinkPort} {src : UPath} {hdr : BitVec 512} {stream : List Byte}
    {empty_ : Slot → Bool}
    {f : Nat → Slot → List Byte → List Byte → State → State} {c : Comm} (hf : ∀ i t bs tr, Canonises (f i t bs tr)) :
    Canonises (bandPayload port src hdr stream empty_ f c) := by
  intro s h
  unfold bandPayload
  dsimp only
  split
  · exact canonical_keepEarly h
  · split
    · exact h
    · split
      · exact canonical_ite (canonical_endSlot h) (canonical_modSlot h)
      · exact hf _ _ _ _ (canonical_modSlot h)

theorem canonical_takeBlock {c : Comm} {i : Nat} {t : Slot} {a : Nat} {bs : List Byte} :
    Canonises (takeBlock c i t a bs) :=
  fun _ h => canonical_modSlot h

theorem canonical_useData {hdr : BitVec 512} {c : Comm} {i : Nat} {t : Slot} {bs _tr : List Byte} :
    Canonises (useData hdr c i t bs _tr) :=
  fun _ h => canonical_tryComplete (canonical_ite (canonical_modSlot h) (canonical_ite (canonical_takeBlock h)
    (canonical_modSlot h)))

theorem canonical_takeData {port : LinkPort} {src : UPath} {hdr : BitVec 512} {stream : List Byte} {c : Comm} :
    Canonises (takeData port src hdr stream c) := canonical_bandPayload (fun _ _ _ _ => canonical_useData)

theorem canonical_useResult {hdr : BitVec 512} {c : Comm} {i : Nat} {t : Slot} {bs tr : List Byte} :
    Canonises (useResult hdr c i t bs tr) := by
  refine canonical_checkSig (fun s h => canonical_tryComplete ?_)
  exact canonical_ite (canonical_takeBlock (canonical_modSlot h)) (canonical_modSlot h)

theorem canonical_takeResult {port : LinkPort} {src : UPath} {hdr : BitVec 512} {stream : List Byte} {c : Comm} :
    Canonises (takeResult port src hdr stream c) := canonical_bandPayload (fun _ _ _ _ => canonical_useResult)

theorem canonical_useMap {hdr : BitVec 512} {c : Comm} {i : Nat} {_t : Slot} {bs _tr : List Byte} :
    Canonises (useMap hdr c i _t bs _tr) :=
  fun _ h => canonical_ite (canonical_tryComplete (canonical_sendMaps (canonical_modSlot h))) (canonical_tryComplete
    (canonical_modSlot h))

theorem canonical_takeMap {port : LinkPort} {src : UPath} {hdr : BitVec 512} {stream : List Byte} {c : Comm} :
    Canonises (takeMap port src hdr stream c) := canonical_bandPayload (fun _ _ _ _ => canonical_useMap)

theorem canonical_bandBounced {hdr : BitVec 512} : Canonises (bandBounced hdr) := by
  intro s h
  unfold bandBounced
  split
  · exact canonical_endSlot h
  · exact h

theorem canonical_sendJoin {c : Comm} {t : Slot} {dst : Nat} : Canonises (sendJoin c t dst) :=
  fun _ h => canonical_sendBand h

theorem canonical_takeEarly {c : Comm} {e : BandEarly} (h : MemoriesCanonical s) :
    MemoriesCanonical (takeEarly c s e) := by
  unfold takeEarly
  split
  · exact canonical_takeData h
  · exact canonical_takeResult h
  · exact canonical_takeReady h
  · exact canonical_takeDecide h
  · exact canonical_takeMap h
  · exact h

theorem canonical_launchColl {c : Comm} {t0 : Slot} : Canonises (launchColl c t0) := by
  intro s h
  unfold launchColl
  dsimp only
  split
  · exact canonical_endSlot (canonical_traceEv (canonical_modComm h))
  · exact canonical_foldl (fun _ _ g => canonical_takeEarly g) (canonical_tryComplete (canonical_markRoot
      (canonical_foldl (fun _ _ g => canonical_matchJoin g) (canonical_foldl (fun _ _ g => canonical_sendJoin g)
      (canonical_traceEv (canonical_modComm h))))))

theorem canonical_collLaunchAct : ActCanonises collLaunchAct := by
  intro c w m s h
  unfold collLaunchAct
  dsimp only
  split
  · rename_i e
    exact canonical_fst e (canonical_readSrc h)
  · split
    · rename_i e _ _ _
      exact canonical_fst e (canonical_readSrc h)
    · rename_i e _ _ _
      exact canonical_launchColl (canonical_fst e (canonical_readSrc h))

theorem canonical_bandDigestAct : ActCanonises bandDigestAct := by
  intro c w m s h
  unfold bandDigestAct
  dsimp only
  split
  · split <;> exact h
  · exact h

theorem canonical_retryJoin {i r : Nat} : Canonises (retryJoin i r) := by
  intro s h
  unfold retryJoin
  split
  · exact canonical_ite (canonical_sendJoin (canonical_modSlot h)) h
  · exact h

theorem canonical_abortColls {c : Nat} : Canonises (abortColls c) :=
  fun _ h => canonical_foldl (fun _ _ g => canonical_endSlot g) h

theorem canonical_bandConfigAct : ActCanonises bandConfigAct := by
  intro c w m s h
  unfold bandConfigAct
  dsimp only
  split <;> exact h

theorem canonical_commCreateAct : ActCanonises commCreateAct := by
  intro c w m s h
  unfold commCreateAct
  dsimp only
  split
  · rename_i e
    exact canonical_fst e (canonical_readPblk h)
  · split
    · rename_i e1 _ _ e2
      exact canonical_fst e2 (canonical_fetchMem (canonical_fst e1 (canonical_readPblk h)))
    · split
      · rename_i e1 _ _ _ e2 _
        exact canonical_fst e2 (canonical_fetchMem (canonical_fst e1 (canonical_readPblk h)))
      · rename_i e1 _ _ _ e2 _
        exact canonical_of_same (canonical_fst e2 (canonical_fetchMem (canonical_fst e1 (canonical_readPblk h))))

theorem canonical_commDestroyAct : ActCanonises commDestroyAct := by
  intro c w m s h
  unfold commDestroyAct
  dsimp only
  split
  · exact h
  · split <;> exact h

end Sys2Proof.Proofs.Terrace
end

section
/-!
PROOFS. Power, cores, registers and the life of contexts keep the memories in canonical form.
-/
namespace Sys2Proof.Proofs.Terrace
open Sys2Proof.Machine Sys2Proof.Laws Sys2Proof.Claims Sys2Proof.Proofs.Arithmetic Sys2Proof.Proofs.Attention

variable {s t : State}

/-! Power. -/

theorem canonical_revokeOne {budget : Nat} : Canonises (revokeOne budget) :=
  fun _ h => canonical_traceEv (canonical_perfEvent (canonical_setLeave h))

theorem canonical_revokeTo {budget n : Nat} : Canonises (revokeTo budget n) := by
  induction n with
  | zero =>
    intro s h
    unfold revokeTo
    exact h
  | succ n ih =>
    intro s h
    unfold revokeTo
    split
    · exact h
    · exact ih (canonical_revokeOne h)

theorem canonical_revoke : Canonises revoke := by
  intro s h
  unfold revoke
  exact canonical_revokeTo h

theorem canonical_adoptWaiting : Canonises adoptWaiting := by
  intro s h
  unfold adoptWaiting
  split
  · exact h
  · exact canonical_revoke h

theorem canonical_idleTick : Canonises idleTick := by
  intro s h
  unfold idleTick
  dsimp only
  split <;> exact h

/-! Cores. -/

theorem canonical_fwFail {kind check core : Nat} : Canonises (fwFail kind check core) := fun _ h => canonical_setErr h

theorem canonical_setCore {c st : Nat} : Canonises (setCore c st) := fun _ h => h

theorem canonical_beginRestart {c cause : Nat} {w : Option Waiter} : Canonises (beginRestart c cause w) :=
  fun _ h => canonical_traceEv (canonical_setCore h)

theorem canonical_restartRecord {w : Waiter} {st : Nat} : Canonises (restartRecord w st) :=
  fun _ h => canonical_finish h

theorem canonical_requestRestart {c cause : Nat} {w : Option Waiter} : Canonises (requestRestart c cause w) := by
  intro s h
  unfold requestRestart
  dsimp only
  split
  · split
    · exact h
    · exact canonical_restartRecord h
  · exact canonical_ite h (canonical_beginRestart h)

theorem canonical_releaseWaiting : Canonises releaseWaiting :=
  fun _ h => canonical_foldl (fun _ _ g => canonical_requestRestart g) h

theorem canonical_endRestart {c st : Nat} : Canonises (endRestart c st) :=
  fun _ h => canonical_foldl (fun _ _ g => canonical_restartRecord g) h

theorem canonical_watchdog {c : Nat} : Canonises (watchdog c) :=
  fun _ h => canonical_ite h (canonical_requestRestart (canonical_setErr h))

theorem canonical_coreRestartAct : ActCanonises coreRestartAct := by
  intro c w m s h
  unfold coreRestartAct
  dsimp only
  split
  · exact h
  · exact canonical_requestRestart h

theorem canonical_writeCoreRst {v : BitVec 64} {be : BitVec 8} : Canonises (writeCoreRst v be) :=
  fun _ h => canonical_ite h (canonical_foldl (fun _ _ g => canonical_ite (canonical_requestRestart g) g) h)

/-! Registers. -/

theorem canonical_writeBell {c : Nat} {hi : Bool} {v : BitVec 64} {be : BitVec 8} :
    Canonises (writeBell c hi v be) := by
  intro s h
  unfold writeBell
  dsimp only
  split
  · exact canonical_ite (canonical_modRing h) h
  · split
    · exact canonical_modRing h
    · exact canonical_setErr (canonical_ite h h)

theorem canonical_heartbeat : Canonises heartbeat := fun _ h => h

theorem canonical_writeMcfg {v : BitVec 64} {be : BitVec 8} : Canonises (writeMcfg v be) := fun _ h => h

theorem canonical_writeCtxsw {hi : Bool} {v : BitVec 64} {be : BitVec 8} : Canonises (writeCtxsw hi v be) :=
  fun _ h => canonical_ite h h

theorem canonical_writeErrMask {v : BitVec 64} {be : BitVec 8} : Canonises (writeErrMask v be) := fun _ h => h

theorem canonical_clearErrSts {v : BitVec 64} {be : BitVec 8} : Canonises (clearErrSts v be) := fun _ h => h

theorem canonical_modBase {f : CountBase → CountBase} : Canonises (modBase f) := fun _ h => h

theorem canonical_writeTrace {v : BitVec 64} {be : BitVec 8} : Canonises (writeTrace v be) :=
  fun _ h => canonical_ite h h

theorem canonical_writePerfSel {p k : Nat} {v : BitVec 64} {be : BitVec 8} : Canonises (writePerfSel p k v be) :=
  fun _ h => h

theorem canonical_debugAccess : Canonises debugAccess :=
  fun _ h => canonical_ite h (canonical_of_same (canonical_eccTouch h))

theorem canonical_writeCes {i : Nat} {v : BitVec 64} {be : BitVec 8} : Canonises (writeCes i v be) :=
  fun _ h => canonical_modBase h

theorem canonical_writeEcc {k : Nat} {v : BitVec 64} {be : BitVec 8} : Canonises (writeEcc k v be) :=
  fun _ h => canonical_modBase h

theorem canonical_writeWdog {c i : Nat} {v : BitVec 64} {be : BitVec 8} : Canonises (writeWdog c i v be) :=
  fun _ h => canonical_ite h (canonical_modBase h)

theorem canonical_writeWdogs {k : Nat} {v : BitVec 64} {be : BitVec 8} (h : MemoriesCanonical s) :
    MemoriesCanonical ((List.range 4).foldl (fun s i => writeWdog (k + i) i v be s) s) :=
  canonical_foldl (fun _ _ g => canonical_writeWdog g) h

theorem canonical_writeLow {o : Nat} {v : BitVec 64} {be : BitVec 8} : Canonises (writeLow o v be) := by
  intro s h
  unfold writeLow
  dsimp only
  refine canonical_ite (canonical_of_same h) (canonical_ite (canonical_of_same h) (canonical_ite
    (canonical_writeMcfg h) ?_))
  refine canonical_ite (canonical_writeBell h) (canonical_ite (canonical_writeBell h) (canonical_ite
    (canonical_heartbeat h) ?_))
  refine canonical_ite (canonical_writeCtxsw h) (canonical_ite (canonical_writeCtxsw h) (canonical_ite
    (canonical_writeCoreRst h) ?_))
  refine canonical_ite (canonical_clearErrSts h) (canonical_ite (canonical_writeErrMask h) ?_)
  refine canonical_ite (canonical_writeWdogs h) (canonical_ite (canonical_modBase h) ?_)
  exact canonical_ite (canonical_writeEcc h) (canonical_ite (canonical_of_same h) (canonical_ite
    (canonical_writeCes h) h))

theorem canonical_writeHdrErr {p : LinkPort} {v : BitVec 64} {be : BitVec 8} : Canonises (writeHdrErr p v be) :=
  fun _ h => canonical_modBase (canonical_modLink h)

theorem canonical_writeProm {o : Nat} {v : BitVec 64} {be : BitVec 8} : Canonises (writeProm o v be) := by
  intro s h
  unfold writeProm
  dsimp only
  split
  · split
    · exact canonical_writePathCfg h
    · exact h
    · exact canonical_writeHdrErr h
    · exact canonical_writePathRstore h
  · exact canonical_ite (canonical_ite (canonical_writeHdrErr h) h) (canonical_ite h h)

theorem canonical_writePerfCnt {p k : Nat} {v : BitVec 64} {be : BitVec 8} : Canonises (writePerfCnt p k v be) :=
  fun _ h => canonical_ite (canonical_modBase h) h

theorem canonical_regWrite {o : Nat} {v : BitVec 64} {be : BitVec 8} : Canonises (regWrite o v be) := by
  intro s h
  unfold regWrite
  dsimp only
  refine canonical_ite (canonical_writeLow h) (canonical_ite (canonical_writeBell h) ?_)
  refine canonical_ite (canonical_revoke (canonical_of_same h)) (canonical_ite (canonical_modBase
    (canonical_of_same h)) ?_)
  refine canonical_ite h (canonical_ite (canonical_ite (canonical_writePerfSel h) (canonical_ite
    (canonical_writePerfCnt h) h)) ?_)
  refine canonical_ite (canonical_modBase (canonical_of_same h)) (canonical_ite (canonical_modBase
    (canonical_of_same h)) ?_)
  exact canonical_ite (canonical_writeProm h) (canonical_ite (canonical_writeTrace h) (canonical_ite
    (canonical_of_same h) h))

theorem canonical_quietTclk : Canonises quietTclk :=
  fun _ h => canonical_ite (canonical_effect (fun _ g => canonical_settleBand g) (canonical_idleTick h))
    (canonical_idleTick h)

/-! The life of contexts. -/

theorem canonical_cancelJob {st : Nat} {j : Job} (h : MemoriesCanonical s) :
    MemoriesCanonical (cancelJob st s j) := by
  unfold cancelJob
  dsimp only
  split
  · exact canonical_ite (canonical_endJob (canonical_ite (canonical_haltPlain h) h)) (canonical_ite
      (canonical_haltPlain h) h)
  · exact canonical_ite (canonical_haltPlain h) h

theorem canonical_cancelJobs {c st : Nat} : Canonises (cancelJobs c st) :=
  fun _ h => canonical_foldl (fun _ _ g => canonical_cancelJob g) h

theorem canonical_closeWins {c : Nat} : Canonises (closeWins c) :=
  fun _ h => canonical_foldl (fun _ _ g => canonical_closeWin g) h

theorem canonical_dropRegions {c : Nat} : Canonises (dropRegions c) :=
  fun _ h => canonical_foldl (fun _ _ g => canonical_setRegion g) h

theorem canonical_setProm {p : Prom} (h : MemoriesCanonical s) : MemoriesCanonical { s with prom := p } := h

theorem canonical_clearCtx {c : Nat} : Canonises (clearCtx c) := by
  intro s h
  unfold clearCtx
  dsimp only
  refine canonical_eraseUnused (canonical_setProm ?_)
  refine canonical_modCtx ?_
  refine canonical_dropRegions (canonical_closeWins (canonical_freeCtxSeqs (canonical_abortColls ?_)))
  exact canonical_ite (canonical_commitSwap h) h

theorem canonical_freeCtx {c : Nat} : Canonises (freeCtx c) := fun _ h => h

theorem canonical_settleCtx {c : Nat} : Canonises (settleCtx c) := by
  intro s h
  unfold settleCtx
  dsimp only
  have cleared := canonical_clearCtx (c := c) h
  refine canonical_ite h (canonical_ite cleared ?_)
  split
  · exact canonical_freeCtx cleared
  · exact canonical_ite cleared (canonical_finish (canonical_freeCtx cleared))

theorem canonical_settleAll : Canonises settleAll := fun _ h => canonical_foldl (fun _ _ g => canonical_settleCtx g) h

theorem canonical_quiesce {c st : Nat} {w : Option Waiter} : Canonises (quiesce c st w) :=
  fun _ h => canonical_settleCtx (canonical_modCtx (canonical_cancelJobs h))

theorem canonical_attachAct : ActCanonises attachAct := by
  intro c w m s h
  unfold attachAct
  dsimp only
  split
  · exact h
  · split
    · exact h
    · split <;> exact h

theorem canonical_detachAct : ActCanonises detachAct := fun _ _ _ _ h => h

theorem canonical_deadline : Canonises deadline := fun _ h => canonical_ite (canonical_setErr h) h

theorem canonical_forwardCtxCmd {w : Waiter} {c : Nat} {msg : BitVec 512} {body : Nat} :
    Canonises (forwardCtxCmd w c msg body) :=
  fun _ h => canonical_ite h (canonical_forwardTell h)

theorem canonical_ctxCreateAct : ActCanonises ctxCreateAct := by
  intro c w m s h
  unfold ctxCreateAct
  dsimp only
  split
  · exact h
  · split
    · exact h
    · split
      · exact h
      · split
        · exact h
        · split
          · exact h
          · split
            · exact canonical_forwardCtxCmd (canonical_modCtx h)
            · exact canonical_modCtx h

theorem canonical_ctxDestroyAct : ActCanonises ctxDestroyAct := by
  intro c w m s h
  unfold ctxDestroyAct
  dsimp only
  split
  · exact h
  · split
    · exact h
    · exact canonical_quiesce (canonical_ite (canonical_forwardCtxCmd h) h)

theorem canonical_ctxReattachAct : ActCanonises ctxReattachAct := by
  intro c w m s h
  unfold ctxReattachAct
  dsimp only
  split
  · exact h
  · split
    · exact h
    · split
      · exact h
      · split <;> exact h

theorem canonical_graceEnds {c : Nat} : Canonises (graceEnds c) :=
  fun _ h => canonical_ite h (canonical_quiesce (canonical_ite (canonical_forwardCtxCmd h) h))

theorem canonical_modeSetAct : ActCanonises modeSetAct := by
  intro c w m s h
  unfold modeSetAct
  dsimp only
  split
  · exact h
  · split
    · exact h
    · exact canonical_postRec h

theorem canonical_mregReadAct : ActCanonises mregReadAct := by
  intro c w m s h
  unfold mregReadAct
  dsimp only
  split
  · exact h
  · exact canonical_ite (canonical_debugAccess h) h

theorem canonical_mregWriteAct : ActCanonises mregWriteAct := by
  intro c w m s h
  unfold mregWriteAct
  dsimp only
  split
  · exact h
  · exact canonical_regWrite h

theorem canonical_spdmAct : ActCanonises spdmAct := by
  intro c w m s h
  unfold spdmAct
  dsimp only
  split
  · exact h
  · split
    · rename_i e
      exact canonical_fst e (canonical_fetchMem h)
    · split
      · rename_i e _
        exact canonical_fst e (canonical_fetchMem h)
      · rename_i e _
        exact canonical_mQueue (canonical_extPut (canonical_of_same (canonical_fst e (canonical_fetchMem h))))

end Sys2Proof.Proofs.Terrace
end

section
/-!
PROOFS. The forming and the work of groves keep the memories in canonical form.
-/
namespace Sys2Proof.Proofs.Terrace
open Sys2Proof.Machine Sys2Proof.Laws Sys2Proof.Claims Sys2Proof.Proofs.Arithmetic Sys2Proof.Proofs.Attention

variable {s t : State}

/-! Forming a grove. -/

theorem canonical_groveSetPathAct : ActCanonises groveSetPathAct := by
  intro c w m s h
  unfold groveSetPathAct
  dsimp only
  split
  · exact h
  · split <;> exact h

theorem canonical_putGrove {g : GroveSt} : Canonises (putGrove g) := fun _ h => h

theorem canonical_settleChannel : Canonises settleChannel := fun _ h => h

theorem canonical_countStale : Canonises countStale := fun _ h => canonical_setErr h

theorem canonical_hear {g : GroveSt} {src : UPath} : Canonises (hear g src) := fun _ h => h

theorem canonical_inOrder {src : UPath} {hd : BitVec 128} (h : MemoriesCanonical s) (e : inOrder src hd s = some t) :
    MemoriesCanonical t := by
  unfold inOrder at e
  dsimp only at e
  split at e
  · obtain rfl := Option.some.inj e
    exact h
  · split at e
    · obtain rfl := Option.some.inj e
      exact h
    · nomatch e

/-- A message out of a formation's time, taken in its order as far as it goes and counted (R336). -/
theorem canonical_stale {src : UPath} {hd : BitVec 128} (h : MemoriesCanonical s) :
    MemoriesCanonical (countStale ((inOrder src hd s).getD s)) :=
  canonical_countStale (canonical_getD h (fun _ e => canonical_inOrder h e))

theorem canonical_takeGrove {src : UPath} {hd : BitVec 128} {gtype : Nat} {f : GroveSt → State → State}
    (h : MemoriesCanonical s) (hf : ∀ g, Canonises (f g)) : MemoriesCanonical (takeGrove src hd gtype f s) := by
  unfold takeGrove
  dsimp only
  refine canonical_ite h ?_
  split
  · exact canonical_stale h
  · exact canonical_ite (canonical_stale h) h
  · rename_i e
    have taken := canonical_inOrder h e
    exact canonical_ite (canonical_stale h) (canonical_ite taken (hf _ (canonical_hear taken)))

theorem canonical_failHere {st : Nat} {g : GroveSt} : Canonises (failHere st g) := by
  intro s h
  unfold failHere
  dsimp only
  split
  · exact canonical_settleChannel h
  · exact canonical_finish (canonical_settleChannel h)

theorem canonical_sendFail {g : GroveSt} {st idx : Nat} {us : List UPath} : Canonises (sendFail g st idx us) :=
  fun _ h => canonical_foldl (fun _ _ k => canonical_sendGrove k) h

theorem canonical_failEverywhere {st idx : Nat} {g : GroveSt} : Canonises (failEverywhere st idx g) :=
  fun _ h => canonical_failHere (canonical_sendFail h)

theorem canonical_tryForm {g : GroveSt} : Canonises (tryForm g) := by
  intro s h
  unfold tryForm
  dsimp only
  split
  · exact h
  · split
    · exact canonical_foldl (fun _ _ k => canonical_shakeFor (canonical_sendGrove k)) h
    · exact canonical_finish (canonical_foldl (fun _ _ k => canonical_shakeFor (canonical_sendGrove k)) h)

theorem canonical_beginForm {g : GroveSt} : Canonises (beginForm g) :=
  fun _ h => canonical_ite (canonical_tryForm h) (canonical_sendGrove (canonical_shakeFor (canonical_sendGrove h)))

theorem canonical_refuseForm {a : FormArgs} {w : Waiter} {st : Nat} (h : MemoriesCanonical s) :
    MemoriesCanonical (refuseForm a w st s).1 := by
  unfold refuseForm
  dsimp only
  split
  · exact h
  · exact canonical_sendFail h

theorem canonical_helloHere {src : UPath} {h : BitVec 128} {crc : BitVec 64} {g : GroveSt} :
    Canonises (helloHere src h crc g) :=
  fun _ h => canonical_ite (canonical_sendFail h) (canonical_ite (canonical_of_same (canonical_failEverywhere h))
    (canonical_ite (canonical_failEverywhere h) (canonical_ite h (canonical_sendGrove (canonical_putGrove h)))))

theorem canonical_holdHello {src : UPath} {h : BitVec 128} {crc : BitVec 64} : Canonises (holdHello src h crc) :=
  fun _ h => h

theorem canonical_takeGhello {src : UPath} {hd : BitVec 128} {crc : BitVec 64} :
    Canonises (takeGhello src hd crc) := by
  intro s h
  unfold takeGhello
  refine canonical_ite h ?_
  split
  · exact canonical_ite (canonical_stale h) (canonical_holdHello h)
  · refine canonical_ite h ?_
    split
    · exact h
    · rename_i e
      exact canonical_helloHere (canonical_inOrder h e)

theorem canonical_takeHeld : Canonises takeHeld := fun _ h => canonical_foldl (fun _ _ g => canonical_takeGhello g) h

theorem canonical_groveFormAct : ActCanonises groveFormAct := by
  intro c w m s h
  unfold groveFormAct
  dsimp only
  split
  · rename_i e
    exact canonical_fst e (canonical_readPblk h)
  · split
    · rename_i e1 _ _ e2
      exact canonical_fst e2 (canonical_fetchMem (canonical_fst e1 (canonical_readPblk h)))
    · split
      · rename_i e1 _ _ _ e2 _
        exact canonical_refuseForm (canonical_fst e2 (canonical_fetchMem (canonical_fst e1 (canonical_readPblk h))))
      · split
        · rename_i e1 _ _ _ e2 _ _
          exact canonical_refuseForm (canonical_fst e2 (canonical_fetchMem (canonical_fst e1 (canonical_readPblk h))))
        · split
          · rename_i e1 _ _ _ e2 _ _ _
            exact canonical_refuseForm (canonical_fst e2 (canonical_fetchMem (canonical_fst e1
              (canonical_readPblk h))))
          · split
            · rename_i e1 _ _ _ e2 _ _ _ _ _
              exact canonical_takeHeld (canonical_beginForm (canonical_fst e2 (canonical_fetchMem (canonical_fst e1
                (canonical_readPblk h)))))
            · split
              · rename_i e1 _ _ _ e2 _ _ _ _ _ _ _
                exact canonical_fst e2 (canonical_fetchMem (canonical_fst e1 (canonical_readPblk h)))
              · split
                · rename_i e1 _ _ _ e2 _ _ _ _ _ _ _ _
                  exact canonical_takeHeld (canonical_beginForm (canonical_failEverywhere (canonical_fst e2
                    (canonical_fetchMem (canonical_fst e1 (canonical_readPblk h))))))
                · rename_i e1 _ _ _ e2 _ _ _ _ _ _ _ _
                  exact canonical_fst e2 (canonical_fetchMem (canonical_fst e1 (canonical_readPblk h)))

theorem canonical_takeGchal {src : UPath} {nonce : BitVec 256} {g : GroveSt} : Canonises (takeGchal src nonce g) :=
  fun _ h => canonical_ite h (canonical_sendGrove h)

theorem canonical_takeGconf {src : UPath} {chain : List (List Byte)} {sig : BitVec 768} {g : GroveSt} :
    Canonises (takeGconf src chain sig g) := by
  intro s h
  unfold takeGconf
  dsimp only
  split
  · exact h
  · exact canonical_ite h (canonical_ite (canonical_failEverywhere h) (canonical_tryForm h))

theorem canonical_takeGformed {src : UPath} {ninst : BitVec 16} {cert : List Byte} {g : GroveSt} :
    Canonises (takeGformed src ninst cert g) := by
  intro s h
  unfold takeGformed
  dsimp only
  split
  · exact h
  · split
    · exact h
    · exact canonical_finish h

theorem canonical_joinOuter {src : UPath} {h : BitVec 128} {ninst : BitVec 16} {cert : List Byte} :
    Canonises (joinOuter src h ninst cert) := by
  intro s h
  unfold joinOuter
  dsimp only
  split
  · exact h
  · exact canonical_ite h h

theorem canonical_takeGformedMsg {src : UPath} {hd : BitVec 128} {ninst : BitVec 16} {cert : List Byte} :
    Canonises (takeGformedMsg src hd ninst cert) := by
  intro s h
  unfold takeGformedMsg
  refine canonical_ite ?_ (canonical_takeGrove h (fun _ => canonical_takeGformed))
  split
  · exact h
  · rename_i e
    exact canonical_joinOuter (canonical_inOrder h e)

theorem canonical_formTimeout : Canonises formTimeout := by
  intro s h
  unfold formTimeout
  split
  · exact h
  · exact canonical_failEverywhere h

theorem canonical_sendBeats : Canonises sendBeats :=
  fun _ h => canonical_of_same (canonical_foldl (fun _ _ g => canonical_ite (canonical_foldl (fun _ _ k =>
    canonical_sendGrove k) g) (canonical_ite g (canonical_sendGrove g))) h)

theorem canonical_takeGack {src : UPath} {n : BitVec 32} : Canonises (takeGack src n) := fun _ h => h

theorem canonical_sendAck {peer : UPath} : Canonises (sendAck peer) := by
  intro s h
  unfold sendAck
  dsimp only
  split
  · exact h
  · exact canonical_ite h (canonical_sendGrove h)

/-! Groves. -/

theorem canonical_readSlice {c : Nat} {r : RawDesc} {entries : List Nat} : RunCanonises (readSlice c r entries) := by
  refine run_bind (run_mapM (fun _ => canonical_progAt)) (fun _ => ?_)
  exact run_ite (run_bind run_pure (fun _ => run_bind canonical_readSeg (fun _ => run_pure)))
    (run_bind canonical_viewRead (fun _ => run_bind canonical_readSeg (fun _ => run_pure)))

theorem canonical_reportState {w : Waiter} {c st : Nat} : Canonises (reportState w c st) :=
  fun _ h => canonical_ite h (canonical_ite (canonical_report h) (canonical_ite (canonical_report h) h))

theorem canonical_memberJob {member : Nat} {src : UPath} {rest : List Byte} :
    ActCanonises (memberJob member src rest) := by
  intro c w m s h
  unfold memberJob
  dsimp only
  have read {r : RawDesc} {es : List Nat} := canonical_exec (canonical_readSlice (c := c) (r := r) (entries := es)) h
  split
  · rename_i e
    exact canonical_traceEv (canonical_snd e read)
  · rename_i e
    have taken := canonical_snd e read
    split
    · exact canonical_traceEv taken
    · split
      · exact h
      · exact canonical_report (canonical_commitJob taken)

theorem canonical_createHere {c : Nat} : ActCanonises (createHere c) := by
  intro c w m s h
  unfold createHere
  dsimp only
  split <;> exact h

theorem canonical_destroyHere {c : Nat} : ActCanonises (destroyHere c) := by
  intro c w m s h
  unfold destroyHere
  dsimp only
  split
  · exact h
  · exact canonical_quiesce h

theorem canonical_ctxActOf {opc : Nat} {a : MsgAct} (e : ctxActOf opc = some a) : ActCanonises a := by
  unfold ctxActOf at e
  split at e
  case h_20 => nomatch e
  all_goals obtain rfl := Option.some.inj e
  · exact canonical_resumeAct
  · exact canonical_logReadAct
  · exact canonical_regionSetAct
  · exact canonical_winOpenAct
  · exact canonical_winCloseAct
  · exact canonical_angleSetAct
  · exact canonical_roleLoadAct
  · exact canonical_landSetAct
  · exact canonical_altQuotaAct
  · exact canonical_terGroupModeAct
  · exact canonical_seqCreateAct
  · exact canonical_seqAppendAct
  · exact canonical_seqForkAct
  · exact canonical_seqTruncateAct
  · exact canonical_seqFreeAct
  · exact canonical_plotPinAct
  · exact canonical_plotUnpinAct
  · exact canonical_collLaunchAct
  · exact canonical_bandDigestAct

theorem canonical_mgmtActOf {opc c : Nat} {a : MsgAct} (e : mgmtActOf opc c = some a) : ActCanonises a := by
  unfold mgmtActOf at e
  split at e
  case h_10 => nomatch e
  all_goals obtain rfl := Option.some.inj e
  · exact canonical_createHere
  · exact canonical_destroyHere
  · exact canonical_altConfigAct
  · exact canonical_bandConfigAct
  · exact canonical_commCreateAct
  · exact canonical_commDestroyAct
  · exact canonical_groveSetPathAct
  · exact canonical_mregReadAct
  · exact canonical_mregWriteAct

theorem canonical_runFwd {c : Nat} {w : Waiter} {m : Msg} {act : Option MsgAct} {before : State}
    (ha : ∀ a, act = some a → ActCanonises a) (hb : MemoriesCanonical before) :
    Canonises (runFwd c w m act before) := by
  intro s h
  unfold runFwd
  split
  · exact canonical_finish h
  · have acted := ha _ rfl c w m h
    split
    · rename_i e
      exact canonical_finish (canonical_reportState (canonical_fst e acted))
    · rename_i e
      exact canonical_fst e acted
    · exact hb

theorem canonical_takeHalt {c : Nat} {msg : BitVec 512} : Canonises (takeHalt c msg) := by
  intro s h
  unfold takeHalt
  dsimp only
  split
  · exact canonical_ite h (canonical_haltCtxOnly h)
  · exact canonical_ite h (canonical_ite (canonical_stopJob h) (canonical_modJob (canonical_haltPlain h)))

theorem canonical_takeBack {f : Fwd} : Canonises (takeBack f) := fun _ h => canonical_ite h (canonical_forwardTell h)

theorem canonical_endFwd {f : Fwd} : Canonises (endFwd f) := by
  intro s h
  unfold endFwd
  dsimp only
  refine canonical_ite (canonical_settleAll (canonical_of_same h)) ?_
  split
  · exact canonical_ite (canonical_releaseResume (canonical_of_same h)) (canonical_finish (canonical_of_same h))
  · refine canonical_ite (canonical_finish (canonical_modCtx (canonical_of_same h))) (canonical_finish ?_)
    exact canonical_ite (canonical_takeBack (canonical_of_same h)) (canonical_of_same h)

theorem canonical_setGrove {g : Groves} (h : MemoriesCanonical s) : MemoriesCanonical { s with grove := g } := h

theorem canonical_answerFwd {f : Fwd} {i st body : Nat} : Canonises (answerFwd f i st body) := by
  intro s h
  unfold answerFwd
  dsimp only
  exact canonical_ite (canonical_endFwd (canonical_setGrove h)) (canonical_setGrove h)

theorem canonical_dissolveHere : Canonises dissolveHere := by
  intro s h
  unfold dissolveHere
  dsimp only
  refine canonical_settleChannel (canonical_setGrove ?_)
  refine canonical_foldl (fun c s hs => ?_) (canonical_foldl (fun f s hs => ?_) h)
  · exact canonical_ite (canonical_settleCtx (canonical_of_same hs)) (canonical_quiesce (canonical_of_same hs))
  · exact canonical_endFwd (canonical_setGrove hs)

theorem canonical_takeGfwd {src : UPath} {hd : BitVec 128} {member kind c : Nat} {msg : BitVec 512}
    {rest : List Byte} :
    Canonises (takeGfwd src hd member kind c msg rest) := by
  intro s h
  unfold takeGfwd
  refine canonical_ite h (canonical_takeGrove h (fun g s1 h1 => ?_))
  dsimp only
  refine canonical_ite h1 (canonical_ite h1 ?_)
  have placed {g : GroveSt} {p : Prop} [Decidable p] : MemoriesCanonical (if p then putGrove g s1 else s1) :=
    canonical_ite (canonical_putGrove h1) h1
  split
  · refine canonical_ite h (canonical_runFwd (fun a e => ?_) h placed)
    split at e
    · obtain rfl := Option.some.inj e
      exact canonical_memberJob
    · exact canonical_ctxActOf e
  · exact canonical_runFwd (fun a e => canonical_mgmtActOf e) h placed
  · exact canonical_takeHalt placed
  · exact canonical_dissolveHere placed
  · exact placed

theorem canonical_refusedBy {member r : Nat} {j : Job} : Canonises (refusedBy member r j) :=
  fun _ h => canonical_stopJob h

theorem canonical_takeJobRec {member c r : Nat} : Canonises (takeJobRec member c r) := by
  intro s h
  unfold takeJobRec
  dsimp only
  split
  · exact h
  · exact canonical_ite h (canonical_settleCtx (canonical_ite (canonical_refusedBy (canonical_modCtx h))
      (canonical_modCtx h)))

theorem canonical_takeCmdRec {member r : Nat} : Canonises (takeCmdRec member r) := by
  intro s h
  unfold takeCmdRec
  dsimp only
  split
  · exact h
  · exact canonical_answerFwd h

theorem canonical_takeHaltRep {member c r : Nat} : Canonises (takeHaltRep member c r) := by
  intro s h
  unfold takeHaltRep
  dsimp only
  split
  · exact h
  · exact canonical_modJob (canonical_haltJob h)

theorem canonical_takeLogRep {c : Nat} {body : List Byte} : Canonises (takeLogRep c body) := fun _ h => h

theorem canonical_takeMemberState {member c : Nat} {es : List (Nat × Nat × List Byte)} :
    Canonises (takeMemberState member c es) :=
  fun _ h => canonical_foldl (fun _ _ g => canonical_ite g (canonical_ite g g)) (canonical_ite h h)

theorem canonical_takeCandidateState {src : UPath} {es : List (Nat × Nat × List Byte)} {g : GroveSt} :
    Canonises (takeCandidateState src es g) := by
  intro s h
  unfold takeCandidateState
  dsimp only
  split
  · exact canonical_failEverywhere h
  · exact h

theorem canonical_takeGreport {src : UPath} {hd : BitVec 128} {member kind c : Nat} {body : List Byte} :
    Canonises (takeGreport src hd member kind c body) := by
  intro s h
  unfold takeGreport
  refine canonical_ite h (canonical_takeGrove h (fun g s1 h1 => ?_))
  dsimp only
  refine canonical_ite h1 (canonical_ite (canonical_ite (canonical_takeCandidateState h1) h1) ?_)
  split
  · exact canonical_ite (canonical_takeJobRec h1) (canonical_takeCmdRec h1)
  · exact canonical_takeMemberState h1
  · exact canonical_takeHaltRep h1
  · exact canonical_takeLogRep h1
  · exact h1

theorem canonical_takeGfail {src : UPath} {hd : BitVec 128} {status member : Nat} :
    Canonises (takeGfail src hd status member) := by
  intro s h
  unfold takeGfail
  refine canonical_takeGrove h (fun g s1 h1 => ?_)
  dsimp only
  refine canonical_ite (canonical_ite (canonical_failEverywhere h1) (canonical_ite (canonical_failHere h1) h1))
    (canonical_ite h1 ?_)
  split
  · exact h1
  · exact canonical_answerFwd h1

theorem canonical_loseMember {i : Nat} : Canonises (loseMember i) :=
  fun _ h => canonical_settleAll (canonical_foldl (fun _ _ g => canonical_answerFwd g) (canonical_of_same
    (canonical_foldl (fun _ _ g => canonical_haltPlain g) h)))

theorem canonical_loseLeader {i : Nat} : Canonises (loseLeader i) :=
  fun _ h => canonical_foldl (fun _ _ g => canonical_haltSome g) h

theorem canonical_loseIn {peer : UPath} {g : GroveSt} (h : MemoriesCanonical s) :
    MemoriesCanonical (loseIn peer s g) := by
  unfold loseIn
  dsimp only
  split
  · exact h
  · split
    · split
      · exact h
      · exact canonical_ite h (canonical_ite (canonical_loseMember (canonical_setErr h)) (canonical_setErr h))
    · exact canonical_ite (canonical_ite (canonical_loseLeader (canonical_setErr h)) (canonical_setErr h)) h

theorem canonical_groveDissolveAct : ActCanonises groveDissolveAct := by
  intro c w m s h
  unfold groveDissolveAct
  dsimp only
  split
  · exact h
  · split
    · exact canonical_dissolveHere (canonical_foldl (fun _ _ k => canonical_sendGrove k) h)
    · split
      · exact canonical_dissolveHere h
      · exact h

end Sys2Proof.Proofs.Terrace
end

section
/-!
PROOFS. The M-ports, reset, start-up, test and restarts keep the memories in canonical form.
-/
namespace Sys2Proof.Proofs.Terrace
open Sys2Proof.Machine Sys2Proof.Laws Sys2Proof.Claims Sys2Proof.Proofs.Arithmetic Sys2Proof.Proofs.Attention

variable {s t : State}

/-! M-ports. -/

theorem canonical_modPort {p : Nat} {f : MPort → MPort} : Canonises (modPort p f) := fun _ h => h

theorem canonical_issueReq {p : Nat} : Canonises (issueReq p) := by
  intro s h
  unfold issueReq
  dsimp only
  split
  · exact canonical_ite h (canonical_emit h)
  · exact h

theorem canonical_denyReq {r : MReq} : Canonises (denyReq r) := fun _ h => canonical_ite h (canonical_haltCtxOnly h)

theorem canonical_retireTag {p t : Nat} : Canonises (retireTag p t) := fun _ h => h

theorem canonical_takeBeat {p t beat : Nat} {pois : BitVec 32} {stat : Nat} :
    Canonises (takeBeat p t beat pois stat) := by
  intro s h
  unfold takeBeat
  dsimp only
  split
  · exact h
  · exact canonical_ite h (canonical_ite (canonical_retireTag (canonical_ite (canonical_denyReq (canonical_ite h h))
      (canonical_ite h h))) (canonical_modPort (canonical_ite (canonical_denyReq (canonical_ite h h))
      (canonical_ite h h))))

theorem canonical_takeCompletion {p t stat : Nat} : Canonises (takeCompletion p t stat) := by
  intro s h
  unfold takeCompletion
  split
  · exact h
  · exact canonical_ite h (canonical_retireTag (canonical_ite (canonical_denyReq h) h))

theorem canonical_addCredits {p q w : Nat} : Canonises (addCredits p q w) := fun _ h => h

/-! Reset, start-up and test. -/

theorem canonical_setSys {x : Sys} (h : MemoriesCanonical s) : MemoriesCanonical { s with sys := x } := h

theorem canonical_acceptImage {kind : Nat} : Canonises (acceptImage kind) := by
  intro s h
  unfold acceptImage
  dsimp only
  refine canonical_ite h ?_
  split
  · exact canonical_setSys (canonical_fwFail (canonical_mQueue h))
  · exact canonical_setSys (canonical_mQueue h)

theorem canonical_runCores {cs : List Nat} : Canonises (runCores cs) := fun _ h => h

theorem canonical_loadFused : Canonises loadFused := fun _ h => h

theorem canonical_rstRises {mode : Nat} {fwBase : BitVec 28} : Canonises (rstRises mode fwBase) := by
  intro s h
  unfold rstRises
  dsimp only
  have begun {x : Sys} := canonical_loadFused (canonical_setSys (x := x) h)
  refine canonical_ite h (canonical_ite (canonical_setSys begun) (canonical_ite (canonical_acceptImage begun) ?_))
  exact canonical_setSys (canonical_runCores (canonical_acceptImage begun))

theorem canonical_copyImage {kind : Nat} (h : MemoriesCanonical s) : MemoriesCanonical (copyImage s kind) :=
  canonical_mQueue (canonical_extPut h)

theorem canonical_checkCerts : Canonises checkCerts :=
  fun _ h => canonical_of_same (canonical_ite (canonical_fwFail h) (canonical_ite (canonical_fwFail h) h))

theorem canonical_startUp : Canonises startUp := by
  intro s h
  unfold startUp
  dsimp only
  have images := canonical_acceptImage (kind := 4) (canonical_acceptImage (kind := 3) (canonical_acceptImage
    (kind := 2) h))
  refine canonical_ite h (canonical_ite images ?_)
  obtain ⟨-, outside⟩ := canonical_adoptWaiting (canonical_runCores (cs := (List.range 18).map (· + 1))
    (canonical_checkCerts
    (canonical_foldl (f := copyImage) (l := [1, 2, 3, 4]) (fun _ _ g => canonical_copyImage g) images)))
  exact ⟨wf_reset.1, outside⟩

theorem canonical_scramble {r : Nat × Nat × Nat} (h : MemoriesCanonical s) : MemoriesCanonical (scramble s r) := by
  obtain ⟨mem, outside⟩ := canonical_freeBytes (n := r.2.2) h
  exact ⟨mem, wf_setExtMem _ _ _ outside (wf_memWrite _ _ _ (wf_extMem _ _ outside))⟩

theorem canonical_loseState : Canonises loseState := by
  intro s h
  obtain ⟨-, outside⟩ : MemoriesCanonical ((writingNow s).foldl scramble s) := canonical_foldl (fun _ _ g =>
    canonical_scramble g) h
  exact ⟨wf_reset.1, outside⟩

theorem canonical_selectIr {ir : Nat} {wrapper net : Bool} : Canonises (selectIr ir wrapper net) := fun _ h => h

theorem canonical_runInstrument {k : Nat} {pass : Bool} {count : Nat} : Canonises (runInstrument k pass count) := by
  intro s h
  unfold runInstrument
  exact canonical_ite h (canonical_of_same (canonical_loseState h))

/-! Restarts of cores. -/

theorem canonical_lodgeTake {src : UPath} {m : LodgeMsg} (h : MemoriesCanonical s) :
    MemoriesCanonical (lodgeTake src s m) := by
  cases m with
  | kx1 body => exact canonical_takeKx1 h
  | kx2 body chain sig => exact canonical_takeKx2 h
  | kx3 chain sig => exact canonical_takeKx3 h
  | kdone => exact canonical_takeKdone h
  | kretire body => exact canonical_takeKretire h
  | kfail => exact canonical_failShake h
  | gchal hdr nonce =>
    unfold lodgeTake
    dsimp only
    split
    · exact h
    · exact canonical_takeGchal h
  | gconf hdr chain sig =>
    unfold lodgeTake
    dsimp only
    split
    · exact h
    · exact canonical_takeGconf h

theorem canonical_lodgeBack : Canonises lodgeBack :=
  fun _ h => canonical_releaseWaiting (canonical_foldl (fun _ _ g => canonical_lodgeTake g) (canonical_restartShakes
    (canonical_foldl (fun _ _ g => canonical_lodgeTake g) h)))

theorem canonical_coreBack {c : Nat} : Canonises (coreBack c) :=
  fun _ h => canonical_ite (canonical_lodgeBack h) (canonical_ite (canonical_adoptWaiting h) (canonical_ite h h))

theorem canonical_restartDone {c : Nat} : Canonises (restartDone c) :=
  fun _ h => canonical_ite h (canonical_ite (canonical_endRestart (canonical_fwFail h)) (canonical_endRestart
    (canonical_coreBack (canonical_traceEv h))))

end Sys2Proof.Proofs.Terrace
end

section
/-!
PROOFS. Every command, and so every step, keeps the memories in canonical form.
-/
namespace Sys2Proof.Proofs.Terrace
open Sys2Proof.Machine Sys2Proof.Laws Sys2Proof.Claims Sys2Proof.Proofs.Arithmetic Sys2Proof.Proofs.Attention
open Sys2Proof.Proofs.Architecture

variable {s t : State}

theorem nextCanonical_live {f : State → State} (hf : Canonises f)
    (h : MemoriesCanonical s) : NextCanonical (live f s) := by
  intro t e
  obtain ⟨-, rfl⟩ | ⟨-, -, rfl⟩ := live_cases f s t e
  · exact canonical_effect hf h
  · exact h

theorem nextCanonical_running {f : State → State} (hf : Canonises f) (h : MemoriesCanonical s) :
    NextCanonical (running f s) := by
  intro t e
  obtain ⟨-, -, rfl⟩ | ⟨-, rfl⟩ := running_cases f s t e
  · exact canonical_effect hf h
  · exact h

theorem nextCanonical_always {f : State → State} (hf : Canonises f) (h : MemoriesCanonical s) :
    NextCanonical (always f s) := by
  intro t e
  cases e
  exact hf h

/-- The power commands change nothing of the memories. -/
theorem nextCanonical_of_powerFrame {r : Result} (h : MemoriesCanonical s) (hr : ∀ t, r = .next t → PowerFrame s t) :
    NextCanonical r := by
  intro t e
  rw [(hr t e).only]
  exact h

/-- Nor do those of a path's bring-up. -/
theorem nextCanonical_of_bringUpFrame {r : Result} (h : MemoriesCanonical s)
    (hr : ∀ t, r = .next t → BringUpFrame s t) :
    NextCanonical r := by
  intro t e
  rw [(hr t e).only]
  exact h

theorem nextCanonical_exec (c : Instr) (h : MemoriesCanonical s) : NextCanonical (exec c s) := by
  cases c with
  | jobSubmit c => exact nextCanonical_live (canonical_takeMsg canonical_jobAct) h
  | ctxResume c => exact nextCanonical_live (canonical_takeMsg canonical_resumeAct) h
  | logRead c => exact nextCanonical_live (canonical_takeMsg canonical_logReadAct) h
  | regionSet c => exact nextCanonical_live (canonical_takeMsg canonical_regionSetAct) h
  | winOpen c => exact nextCanonical_live (canonical_takeMsg canonical_winOpenAct) h
  | winClose c => exact nextCanonical_live (canonical_takeMsg canonical_winCloseAct) h
  | windowCloseComplete w => exact nextCanonical_live canonical_closeDone h
  | angleSet c => exact nextCanonical_live (canonical_takeMsg canonical_angleSetAct) h
  | roleLoad c => exact nextCanonical_live (canonical_takeMsg canonical_roleLoadAct) h
  | landSet c => exact nextCanonical_live (canonical_takeMsg canonical_landSetAct) h
  | altQuota c => exact nextCanonical_live (canonical_takeMsg canonical_altQuotaAct) h
  | terGroupMode c => exact nextCanonical_live (canonical_takeMsg canonical_terGroupModeAct) h
  | seqCreate c => exact nextCanonical_live (canonical_takeMsg canonical_seqCreateAct) h
  | seqAppend c => exact nextCanonical_live (canonical_takeMsg canonical_seqAppendAct) h
  | copyOnWriteSwap c => exact nextCanonical_live canonical_commitSwap h
  | seqFork c => exact nextCanonical_live (canonical_takeMsg canonical_seqForkAct) h
  | seqTruncate c => exact nextCanonical_live (canonical_takeMsg canonical_seqTruncateAct) h
  | seqFree c => exact nextCanonical_live (canonical_takeMsg canonical_seqFreeAct) h
  | plotPin c => exact nextCanonical_live (canonical_takeMsg canonical_plotPinAct) h
  | plotUnpin c => exact nextCanonical_live (canonical_takeMsg canonical_plotUnpinAct) h
  | collLaunch c => exact nextCanonical_live (canonical_takeMsg canonical_collLaunchAct) h
  | bandDigest c => exact nextCanonical_live (canonical_takeMsg canonical_bandDigestAct) h
  | attach => exact nextCanonical_live (canonical_takeMsg canonical_attachAct) h
  | detach => exact nextCanonical_live (canonical_takeMsg canonical_detachAct) h
  | ctxCreate => exact nextCanonical_live (canonical_takeMsg canonical_ctxCreateAct) h
  | ctxDestroy => exact nextCanonical_live (canonical_takeMsg canonical_ctxDestroyAct) h
  | ctxReattach => exact nextCanonical_live (canonical_takeMsg canonical_ctxReattachAct) h
  | altConfig => exact nextCanonical_live (canonical_takeMsg canonical_altConfigAct) h
  | bandConfig => exact nextCanonical_live (canonical_takeMsg canonical_bandConfigAct) h
  | commCreate => exact nextCanonical_live (canonical_takeMsg canonical_commCreateAct) h
  | commDestroy => exact nextCanonical_live (canonical_takeMsg canonical_commDestroyAct) h
  | groveSetPath => exact nextCanonical_live (canonical_takeMsg canonical_groveSetPathAct) h
  | groveForm => exact nextCanonical_live (canonical_takeMsg canonical_groveFormAct) h
  | groveDissolve => exact nextCanonical_live (canonical_takeMsg canonical_groveDissolveAct) h
  | seqAdopt => exact nextCanonical_live (canonical_takeMsg canonical_seqAdoptAct) h
  | seqRelease => exact nextCanonical_live (canonical_takeMsg canonical_seqReleaseAct) h
  | modeSet => exact nextCanonical_live (canonical_takeMsg canonical_modeSetAct) h
  | coreRestart => exact nextCanonical_live (canonical_takeMsg canonical_coreRestartAct) h
  | mregRead => exact nextCanonical_live (canonical_takeMsg canonical_mregReadAct) h
  | mregWrite => exact nextCanonical_live (canonical_takeMsg canonical_mregWriteAct) h
  | spdm => exact nextCanonical_live (canonical_takeMsg canonical_spdmAct) h
  | doorbellWrite m hi v be => exact nextCanonical_running canonical_writeBell h
  | mhb v => exact nextCanonical_running canonical_heartbeat h
  | mcfgWrite v be => exact nextCanonical_running canonical_writeMcfg h
  | coreRst v be => exact nextCanonical_live canonical_writeCoreRst h
  | pathEnable p v be => exact nextCanonical_running canonical_writePathCfg h
  | pathDisable p v be => exact nextCanonical_running canonical_writePathCfg h
  | pathRstoreWrite p v be => exact nextCanonical_running canonical_writePathRstore h
  | ctxswCfgWrite hi v be => exact nextCanonical_running canonical_writeCtxsw h
  | errMaskWrite v be => exact nextCanonical_running canonical_writeErrMask h
  | traceCfgWrite v be => exact nextCanonical_running canonical_writeTrace h
  | perfSelWrite p k v be => exact nextCanonical_running canonical_writePerfSel h
  | dbgTdataRead => exact nextCanonical_running canonical_debugAccess h
  | registerWrite word v be => exact nextCanonical_running canonical_regWrite h
  | programStart p => exact nextCanonical_live canonical_startHead h
  | commandDispatch p => exact nextCanonical_live canonical_dispatchStep h
  | load p q => exact nextCanonical_live (canonical_issueOp fun _ => canonical_loadBody) h
  | mma p q arr => exact nextCanonical_live (canonical_issueOp fun _ => canonical_mmaBody) h
  | drain p q => exact nextCanonical_live (canonical_issueOp fun _ => canonical_drainBody) h
  | epi p q => exact nextCanonical_live (canonical_issueOp fun _ => canonical_epiBody) h
  | accw p q => exact nextCanonical_live (canonical_issueOp fun _ => canonical_accwBody) h
  | part p q => exact nextCanonical_live (canonical_issueOp fun _ => canonical_partBody) h
  | comb p q => exact nextCanonical_live (canonical_issueOp fun _ => canonical_combBody) h
  | maxc p q => exact nextCanonical_live (canonical_issueOp fun _ => canonical_maxcBody) h
  | fin p q => exact nextCanonical_live (canonical_issueOp fun _ => canonical_finBody) h
  | setq p q => exact nextCanonical_live (canonical_issueOp fun _ => canonical_setqBody) h
  | dpro p q => exact nextCanonical_live (canonical_issueOp fun _ => canonical_dproBody) h
  | rowp p q => exact nextCanonical_live (canonical_issueOp fun _ => canonical_rowpBody) h
  | pref p q => exact nextCanonical_live (canonical_issueOp fun _ => canonical_prefBody) h
  | zacc p q arr => exact nextCanonical_live (canonical_issueOp fun _ => canonical_zaccBody) h
  | flagclr p q => exact nextCanonical_live (canonical_issueOp fun _ => canonical_flagclrBody) h
  | tokadd p q => exact nextCanonical_live (canonical_issueOp fun _ => canonical_noBody) h
  | wait p q => exact nextCanonical_live (canonical_issueOp fun _ => canonical_noBody) h
  | loop p q => exact nextCanonical_live (canonical_issueOp fun _ => canonical_noBody) h
  | epoch p q => exact nextCanonical_live (canonical_issueOp fun _ => canonical_epochBody) h
  | leave p q => exact nextCanonical_live (canonical_issueOp fun _ => canonical_leaveBody) h
  | end_ p q => exact nextCanonical_live (fun _ g => canonical_finishProg (canonical_issueOp (fun _ =>
    canonical_noBody) g)) h
  | commandRetire p q num => exact nextCanonical_live canonical_retireCmd h
  | remoteTokenArrival c role repoch tok inc srole supath => exact nextCanonical_live canonical_tokenArrives h
  | waitTimeout p q queue => exact nextCanonical_live canonical_timeoutHead h
  | jobComplete c jobseq => exact nextCanonical_live (fun _ g => canonical_settleCtx (canonical_completeJob g)) h
  | completionRecordWrite m => exact nextCanonical_live (fun _ g => canonical_settleAll (canonical_writeRecord g)) h
  | irqVectorSend => exact nextCanonical_live canonical_sendVector h
  | suspend p q => exact nextCanonical_live canonical_suspendProg h
  | resume p => exact nextCanonical_live canonical_resumeProg h
  | passCheck p q arr good => exact nextCanonical_live canonical_checkPass h
  | xNarrowRead port c word tag => exact nextCanonical_live canonical_xAccess h
  | xNarrowWrite port c word tag widx gen data be => exact nextCanonical_live canonical_xAccess h
  | xBlockRead port c line lines tag => exact nextCanonical_live canonical_xAccess h
  | xBlockWrite port c line tag widx gen data be => exact nextCanonical_live canonical_xAccess h
  | patrolScrub slice bank => exact nextCanonical_live canonical_scrubNext h
  | secdedWriteback slice bank => exact nextCanonical_live canonical_writeBackWord h
  | plotPrefetch p q => exact nextCanonical_live canonical_prefetchPlot h
  | chunkSend stag => exact nextCanonical_live canonical_sendChunk h
  | linkFlitReceive port flit => exact nextCanonical_live canonical_takeFlit h
  | chunkArrival port hdr => exact nextCanonical_live canonical_chunkArrives h
  | chunkRetire port hdr stream => exact nextCanonical_live canonical_chunkRetires h
  | credit port supath rec => exact nextCanonical_live canonical_takeCredit h
  | cack rec => exact nextCanonical_live canonical_takeCack h
  | bounceReceive hdr rxEpoch => exact nextCanonical_live (fun _ g => canonical_ite (canonical_chunkBounced g)
    (canonical_ite (canonical_bandBounced g) g)) h
  | chunkTimeout stag => exact nextCanonical_live canonical_chunkTimedOut h
  | laneLockGain p lanes => exact nextCanonical_of_bringUpFrame h (bringUpFrame_exec _ s · · (by simp))
  | laneLockLoss lane => exact nextCanonical_of_bringUpFrame h (bringUpFrame_exec _ s · · (by simp))
  | trainTimeout p skew => exact nextCanonical_of_bringUpFrame h (bringUpFrame_exec _ s · · (by simp))
  | helloResend port => exact nextCanonical_of_bringUpFrame h (bringUpFrame_exec _ s · · (by simp))
  | hello port body => exact nextCanonical_of_bringUpFrame h (bringUpFrame_exec _ s · · (by simp))
  | helloAck port body => exact nextCanonical_of_bringUpFrame h (bringUpFrame_exec _ s · · (by simp))
  | helloTimeout port => exact nextCanonical_of_bringUpFrame h (bringUpFrame_exec _ s · · (by simp))
  | secureTimeout p => exact nextCanonical_of_bringUpFrame h (bringUpFrame_exec _ s · · (by simp))
  | retrainTimeout port => exact nextCanonical_of_bringUpFrame h (bringUpFrame_exec _ s · · (by simp))
  | gUpRise g => exact nextCanonical_of_bringUpFrame h (bringUpFrame_exec _ s · · (by simp))
  | gUpFall g => exact nextCanonical_of_bringUpFrame h (bringUpFrame_exec _ s · · (by simp))
  | ghello src hdr crc ninst kind => exact nextCanonical_live canonical_takeGhello h
  | gchal src hdr nonce => exact nextCanonical_live (fun _ g => canonical_takeGrove g (fun _ =>
    canonical_withLodge canonical_takeGchal)) h
  | gconf src hdr chain sig => exact nextCanonical_live (fun _ g => canonical_takeGrove g (fun _ =>
    canonical_withLodge (fun _ k => canonical_takeGconf k))) h
  | gformed src hdr ninst cert => exact nextCanonical_live canonical_takeGformedMsg h
  | gfail src hdr status member => exact nextCanonical_live canonical_takeGfail h
  | ghb src hdr => exact nextCanonical_live (fun _ g => canonical_takeGrove g (fun _ _ k => k)) h
  | ghbSend => exact nextCanonical_live canonical_sendBeats h
  | gfwd src hdr member kind c msg rest => exact nextCanonical_live canonical_takeGfwd h
  | greport src hdr member kind c body => exact nextCanonical_live canonical_takeGreport h
  | gack src hdr gseq => exact nextCanonical_live (fun _ g => canonical_takeGrove g (fun _ => canonical_takeGack)) h
  | gackSend peer => exact nextCanonical_live canonical_sendAck h
  | memberLost peer => exact nextCanonical_live (fun _ g => canonical_foldl (fun _ _ k => canonical_loseIn k) g) h
  | groveIncomplete => exact nextCanonical_live canonical_formTimeout h
  | kx1 src body => exact nextCanonical_live (canonical_withLodge canonical_takeKx1) h
  | kx2 src body chain sig => exact nextCanonical_live (canonical_withLodge canonical_takeKx2) h
  | kx3 src chain sig => exact nextCanonical_live (canonical_withLodge canonical_takeKx3) h
  | kdone src body => exact nextCanonical_live (canonical_withLodge canonical_takeKdone) h
  | kretire src body => exact nextCanonical_live (canonical_withLodge canonical_takeKretire) h
  | kfail src body => exact nextCanonical_live (canonical_withLodge canonical_failShake) h
  | handshakeTimeout peer => exact nextCanonical_live (fun _ g => canonical_ite (canonical_rejectShake g) g) h
  | bandJoin port src hdr => exact nextCanonical_live (canonical_bandEnter fun _ => canonical_takeJoin) h
  | bandData port src hdr stream => exact nextCanonical_live (canonical_bandEnter fun _ => canonical_takeData) h
  | bandResult port src hdr stream => exact nextCanonical_live (canonical_bandEnter fun _ => canonical_takeResult) h
  | bandReady port src hdr => exact nextCanonical_live (canonical_bandEnter fun _ => canonical_takeReady) h
  | bandDecide port src hdr => exact nextCanonical_live (canonical_bandEnter fun _ => canonical_takeDecide) h
  | bandAbort port src hdr => exact nextCanonical_live (canonical_bandEnter fun _ => canonical_takeAbort) h
  | bandBusy port src hdr => exact nextCanonical_live (canonical_bandEnter fun _ => canonical_takeBusy) h
  | bandMap port src hdr stream => exact nextCanonical_live (canonical_bandEnter fun _ => canonical_takeMap) h
  | joinRetry slot rank => exact nextCanonical_live canonical_retryJoin h
  | pendingExpiry cid seq rank => exact nextCanonical_live (fun _ g => g) h
  | bandSourceRead slot k => exact nextCanonical_live canonical_readSource h
  | bandNodeEvaluate slot stage => exact nextCanonical_live canonical_evaluateStage h
  | deadlineExpiry slot stage => exact nextCanonical_live canonical_modSlot h
  | collTimeout slot => exact nextCanonical_live canonical_modSlot h
  | outputChunkRetire slot k => exact nextCanonical_live canonical_outputChunk h
  | digestFold cid => exact nextCanonical_live (fun _ g => canonical_settleAll (canonical_foldNext g)) h
  | budget w => exact nextCanonical_of_powerFrame h (powerFrame_exec _ s · · (by simp))
  | meas w => exact nextCanonical_of_powerFrame h (powerFrame_exec _ s · · (by simp))
  | aclkf w => exact nextCanonical_of_powerFrame h (powerFrame_exec _ s · · (by simp))
  | aclkReqRise => exact nextCanonical_of_powerFrame h (powerFrame_exec _ s · · (by simp))
  | aclkReqFall => exact nextCanonical_of_powerFrame h (powerFrame_exec _ s · · (by simp))
  | leaveGrant => exact nextCanonical_of_powerFrame h (powerFrame_exec _ s · · (by simp))
  | powerLoop => exact nextCanonical_of_powerFrame h (powerFrame_exec _ s · · (by simp))
  | thermalLoop => exact nextCanonical_of_powerFrame h (powerFrame_exec _ s · · (by simp))
  | fcst => exact nextCanonical_of_powerFrame h (powerFrame_exec _ s · · (by simp))
  | temp n => exact nextCanonical_of_powerFrame h (powerFrame_exec _ s · · (by simp))
  | status => exact nextCanonical_of_powerFrame h (powerFrame_exec _ s · · (by simp))
  | sensorRead n reading invalid => exact nextCanonical_of_powerFrame h (powerFrame_exec _ s · · (by simp))
  | watchdogExpiry core => exact nextCanonical_live canonical_watchdog h
  | coreRestartComplete core => exact nextCanonical_live canonical_restartDone h
  | heartbeatDeadline => exact nextCanonical_live canonical_deadline h
  | graceExpiry c => exact nextCanonical_live canonical_graceEnds h
  | mRequestIssue port => exact nextCanonical_live canonical_issueReq h
  | mReadData port tag beat data pois stat => exact nextCanonical_live canonical_takeBeat h
  | mWriteCompletion port tag stat => exact nextCanonical_live canonical_takeCompletion h
  | mCreditReturn port q w => exact nextCanonical_running canonical_addCredits h
  | rstNRise mode fwBase => exact nextCanonical_always canonical_rstRises h
  | startUpReady => exact nextCanonical_always canonical_startUp h
  | rstNAssert => exact nextCanonical_always canonical_loseState h
  | trstN => exact nextCanonical_always canonical_selectIr h
  | bypass => exact nextCanonical_always canonical_selectIr h
  | samplePreload cells =>
    change NextCanonical (execSamplePreload cells s)
    unfold execSamplePreload
    exact nextCanonical_always (fun _ g => g) h
  | extest =>
    change NextCanonical (execExtest s)
    unfold execExtest
    exact nextCanonical_always (fun _ g => canonical_ite g g) h
  | idcode =>
    change NextCanonical (execIdcode s)
    unfold execIdcode
    exact nextCanonical_always (fun _ g => g) h
  | ijtagSel =>
    change NextCanonical (execIjtagSel s)
    unfold execIjtagSel
    exact nextCanonical_always (fun _ g => canonical_ite g g) h
  | mbistTer fails => exact nextCanonical_always canonical_runInstrument h
  | mbistAcc fails => exact nextCanonical_always canonical_runInstrument h
  | mbistFw fails => exact nextCanonical_always canonical_runInstrument h
  | lbist sigGood => exact nextCanonical_always (fun _ g => canonical_ite (canonical_runInstrument g)
    (canonical_runInstrument (canonical_takeFree g))) h
  | loopL group fails => exact nextCanonical_always canonical_runInstrument h
  | loopG g fails => exact nextCanonical_always canonical_runInstrument h
  | powerRemoval =>
    change NextCanonical (execPowerRemoval s)
    unfold execPowerRemoval
    exact nextCanonical_always (fun _ g => canonical_loseState g) h
  | pathIdentityKeyConfirm p => exact nextCanonical_of_bringUpFrame h (bringUpFrame_exec _ s · · (by simp))

/-- Settles O6: one lemma per operation of the model says that it keeps the form, and every command is made of them. -/
theorem everyStepKeepsMemoriesCanonical : Obligations.EveryStepKeepsMemoriesCanonical := by
  intro s t h e
  unfold step at e
  split at e
  · cases e
    exact canonical_quietTclk h
  · rename_i c rest _
    exact nextCanonical_exec (s := { s with pending := rest }) c h t e

end Sys2Proof.Proofs.Terrace
end

section

/-! PROOFS. The Allotment's layer: bit fields of a number as setBits and bits write and read them. -/

namespace Sys2Proof.Proofs.Allotment
open Sys2Proof.Machine Sys2Proof.Laws Sys2Proof.Claims Sys2Proof.Proofs.Architecture Sys2Proof.Proofs.Arithmetic
  Sys2Proof.Proofs.Attention Sys2Proof.Proofs.Sequencer Sys2Proof.Proofs.Terrace

/-! Fields of a number. -/

theorem testBit_bits (x lo w i : Nat) : (bits x lo w).testBit i = (decide (i < w) && x.testBit (lo + i)) := by
  rw [bits, Nat.testBit_mod_two_pow, Nat.testBit_shiftRight]

/-- A number with a field replaced, as its part above the field, the field and its part below. -/
theorem setBits_eq (x lo w v : Nat) :
    setBits x lo w v = 2 ^ lo * (2 ^ w * (x / 2 ^ lo / 2 ^ w) + v % 2 ^ w) + x % 2 ^ lo := by
  have whole : x = 2 ^ lo * (2 ^ w * (x / 2 ^ lo / 2 ^ w) + x / 2 ^ lo % 2 ^ w) + x % 2 ^ lo := by
    rw [Nat.div_add_mod, Nat.div_add_mod]
  unfold setBits bits
  rw [Nat.shiftRight_eq_div_pow, Nat.shiftLeft_eq, Nat.shiftLeft_eq]
  generalize x / 2 ^ lo / 2 ^ w = hi at *
  generalize x / 2 ^ lo % 2 ^ w = mid at *
  generalize x % 2 ^ lo = low at *
  generalize 2 ^ w * hi = top at *
  rw [whole, Nat.mul_add, Nat.mul_add, Nat.mul_comm mid, Nat.mul_comm (v % 2 ^ w)]
  omega

theorem testBit_setBits (x lo w v i : Nat) :
    (setBits x lo w v).testBit i = if lo ≤ i ∧ i < lo + w then v.testBit (i - lo) else x.testBit i := by
  have low_lt : x % 2 ^ lo < 2 ^ lo := Nat.mod_lt _ (Nat.two_pow_pos lo)
  have field_lt : v % 2 ^ w < 2 ^ w := Nat.mod_lt _ (Nat.two_pow_pos w)
  rw [setBits_eq, Nat.testBit_two_pow_mul_add _ low_lt, Nat.testBit_two_pow_mul_add _ field_lt]
  by_cases below : i < lo
  · rw [if_pos below, if_neg (by omega), Nat.testBit_mod_two_pow]
    simp [below]
  · rw [if_neg below]
    by_cases inside : i - lo < w
    · rw [if_pos inside, if_pos (by omega), Nat.testBit_mod_two_pow]
      simp [inside]
    · rw [if_neg inside, if_neg (by omega), Nat.testBit_div_two_pow, Nat.testBit_div_two_pow]
      congr 1
      omega

/-- A field that is replaced reads as what replaced it. -/
theorem bits_setBits_self (x lo w v : Nat) : bits (setBits x lo w v) lo w = v % 2 ^ w := by
  refine Nat.eq_of_testBit_eq (fun i => ?_)
  rw [testBit_bits, testBit_setBits, Nat.testBit_mod_two_pow]
  by_cases h : i < w
  · simp [h]
  · simp [h]

/-- A field that another one does not meet reads as before. -/
theorem bits_setBits_apart (x lo w v k n : Nat) (h : k + n ≤ lo ∨ lo + w ≤ k) : bits (setBits x lo w v) k n = bits x k n := by
  refine Nat.eq_of_testBit_eq (fun i => ?_)
  rw [testBit_bits, testBit_bits, testBit_setBits]
  by_cases hi : i < n
  · rw [if_neg (by omega)]
  · simp [hi]

theorem bit_setBits_apart (x lo w v k : Nat) (h : k < lo ∨ lo + w ≤ k) : bit (setBits x lo w v) k = bit x k := by
  rw [bit, testBit_setBits, if_neg (by omega), bit]

/-- A bit that is cleared. -/
theorem bit_setBits_clear (x k : Nat) : bit (setBits x k 1 0) k = false := by
  simp [bit, testBit_setBits]

theorem bits_mod (x n lo w : Nat) (h : lo + w ≤ n) : bits (x % 2 ^ n) lo w = bits x lo w := by
  refine Nat.eq_of_testBit_eq (fun i => ?_)
  rw [testBit_bits, testBit_bits, Nat.testBit_mod_two_pow]
  by_cases hi : i < w
  · simp [hi, show lo + i < n by omega]
  · simp [hi]

theorem bit_mod (x n k : Nat) (h : k < n) : bit (x % 2 ^ n) k = bit x k := by
  simp [bit, Nat.testBit_mod_two_pow, h]

/-- The bytes of a number, read back, are the number as far as they hold it. -/
theorem leNat_leBytes (n x : Nat) : leNat (leBytes n x) = x % 2 ^ (8 * n) := by
  induction n generalizing x with
  | zero => simp [leBytes, leNat, Nat.mod_one]
  | succ n ih =>
    rw [leBytes, leNat, ih, show 8 * (n + 1) = 8 + 8 * n by omega, Nat.pow_add, Nat.mod_mul]
    simp

end Sys2Proof.Proofs.Allotment
end

section

/-! PROOFS. The Allotment's layer: what a write of stack memory reads back, the fields of a descriptor, and what the operations keep. -/

namespace Sys2Proof.Proofs.Allotment
open Sys2Proof.Machine Sys2Proof.Laws Sys2Proof.Claims Sys2Proof.Proofs.Architecture Sys2Proof.Proofs.Arithmetic
  Sys2Proof.Proofs.Attention Sys2Proof.Proofs.Sequencer Sys2Proof.Proofs.Terrace

/-! Stack memory as Ixdon writes and reads it. -/

/-- A line that lies over a range of stack memory. -/
def hitsStack (a n : Nat) (l : CacheLine) : Bool := l.space == 0 && rangesMeet a n (l.addr * 256) 256

/-- Lines of stack memory that are written back change stack memory alone. -/
theorem writeBacks_stack (ls : List CacheLine) (s : State) (h : ∀ l ∈ ls, l.space = 0) :
    ∃ m, ls.foldl (fun s l => writeBack l s) s = { s with ext := { s.ext with stack := m } } := by
  induction ls generalizing s with
  | nil => exact ⟨s.ext.stack, rfl⟩
  | cons l ls ih =>
    have one : ∃ m, writeBack l s = { s with ext := { s.ext with stack := m } } := by
      unfold writeBack
      rw [h l List.mem_cons_self]
      split
      · exact ⟨_, rfl⟩
      · exact ⟨s.ext.stack, rfl⟩
    obtain ⟨m, hm⟩ := one
    rw [List.foldl_cons, hm]
    exact ih { s with ext := { s.ext with stack := m } } (fun x hx => h x (List.mem_cons_of_mem l hx))

theorem space_of_hitsStack {a n : Nat} {l : CacheLine} (h : hitsStack a n l = true) : l.space = 0 := by
  simp only [hitsStack, Bool.and_eq_true, beq_iff_eq] at h
  exact h.1

/-- A write of Ixdon's own to stack memory, past the cached groups (R227): memory takes the bytes, and no line that lies
over them stays. -/
theorem extPut_stack (a : Nat) (bs : List Byte) (pw : List Nat) (s : State) :
    ∃ m p, extPut 0 a bs pw false s =
      { s with
        ext := { s.ext with stack := memWrite m a bs, stackPoison := p }
        ter := { s.ter with lines := s.ter.lines.filter (fun l => !hitsStack a bs.length l) } } := by
  obtain ⟨m, hm⟩ := writeBacks_stack (s.ter.lines.filter (hitsStack a bs.length)) s
    (fun l hl => space_of_hitsStack (List.mem_filter.mp hl).2)
  have e : s.ter.lines.filter (fun l => l.space == 0 && rangesMeet a bs.length (l.addr * 256) 256) =
      s.ter.lines.filter (hitsStack a bs.length) := rfl
  refine ⟨m, (extPut 0 a bs pw false s).ext.stackPoison, ?_⟩
  unfold extPut
  simp only [Bool.false_eq_true, if_false]
  rw [e, hm]
  rfl

/-- Ixdon's own write to stack memory changes stack memory, the lines over it and the M-ports' requests. -/
theorem stackPut_only (a : Nat) (bs : List Byte) (s : State) : ∃ m p ps, stackPut a bs s =
    { s with
      ext := { s.ext with stack := memWrite m a bs, stackPoison := p }
      ter := { s.ter with lines := s.ter.lines.filter (fun l => !hitsStack a bs.length l) }
      mports := ps } := by
  obtain ⟨m, p, put⟩ := extPut_stack a bs [] s
  obtain ⟨ps, queued⟩ := mQueue_only true 0 true 0 a bs.length (extPut 0 a bs [] false s)
  refine ⟨m, p, ps, ?_⟩
  rw [stackPut, queued, put]

/-- What Ixdon writes to stack memory is what it reads there. -/
theorem extPeek_stackPut (a : Nat) (bs : List Byte) (s : State) : extPeek (stackPut a bs s) 0 a bs.length = bs := by
  obtain ⟨m, p, ps, put⟩ := stackPut_only a bs s
  have none_over : (s.ter.lines.filter (fun l => !hitsStack a bs.length l)).filter
      (fun l => l.space == 0 && rangesMeet a bs.length (l.addr * 256) 256) = [] := by
    rw [List.filter_filter, List.filter_eq_nil_iff]
    intro l _
    simp [hitsStack]
  rw [put]
  unfold extPeek
  rw [none_over]
  exact memRead_memWrite m a bs

theorem base_stackPut (a : Nat) (bs : List Byte) (s : State) : (stackPut a bs s).alt = s.alt := by
  obtain ⟨m, p, ps, put⟩ := stackPut_only a bs s
  rw [put]

/-- A descriptor that is written is the one that is read, as far as its 64 bytes hold it (R237). -/
theorem seqDesc_putDesc (q d : Nat) (s : State) : seqDesc (putDesc q d s) q = d % 2 ^ 512 := by
  have there : seqDescAddr (putDesc q d s) q = seqDescAddr s q := by
    unfold seqDescAddr putDesc
    rw [base_stackPut]
  have bytes := extPeek_stackPut (seqDescAddr s q) (leBytes 64 d) s
  rw [length_leBytes] at bytes
  rw [seqDesc, there, putDesc, bytes, leNat_leBytes]

/-- A descriptor that framing, a ring or a trace does not touch. -/
theorem seqDesc_congr {s t : State} (ter : t.ter = s.ter) (ext : t.ext = s.ext) (base : t.alt.descBase = s.alt.descBase)
    (q : Nat) : seqDesc t q = seqDesc s q := by
  rw [seqDesc, seqDesc, extPeek_congr ter ext, seqDescAddr, seqDescAddr, base]

/-! Fields of a descriptor that is written (R237, R241). -/

section
variable (d n : Nat)

theorem dEpoch_dBump : dEpoch (dBump d) = (dEpoch d + 1) % 2 ^ 32 := bits_setBits_self ..

theorem bits_dBump (k w : Nat) (h : k + w ≤ 160 ∨ 192 ≤ k) : bits (dBump d) k w = bits d k w := bits_setBits_apart _ _ _ _ _ _ h

theorem bits_dWithLen (len plen players k w : Nat) (h : (k + w ≤ 64 ∨ 136 ≤ k)) :
    bits (dWithLen len plen players d) k w = bits d k w := by
  rw [dWithLen, bits_setBits_apart _ _ _ _ _ _ (by omega), bits_setBits_apart _ _ _ _ _ _ (by omega),
    bits_setBits_apart _ _ _ _ _ _ (by omega)]

theorem dLen_dWithLen (len plen players : Nat) : dLen (dWithLen len plen players d) = len % 2 ^ 32 := by
  rw [dLen, dWithLen, bits_setBits_apart _ _ _ _ _ _ (by omega), bits_setBits_apart _ _ _ _ _ _ (by omega),
    bits_setBits_self]

theorem dPlen_dWithLen (len plen players : Nat) : dPlen (dWithLen len plen players d) = plen % 2 ^ 32 := by
  rw [dPlen, dWithLen, bits_setBits_apart _ _ _ _ _ _ (by omega), bits_setBits_self]

theorem dPlayers_dWithLen (len plen players : Nat) : dPlayers (dWithLen len plen players d) = players % 2 ^ 8 := by
  rw [dPlayers, dWithLen, bits_setBits_self]

end

/-! What the Allotment's operations for a context leave alone. -/

/-- From s to t the Terrace's bytes, what has left the ports, the queue of commands, the ring of context c and the place of
the descriptors stay. -/
structure AltFrame (c : Nat) (s t : State) : Prop where
  mem : t.ter.mem = s.ter.mem
  out : t.out = s.out
  pending : t.pending = s.pending
  ring : (getCtx t c).ring = (getCtx s c).ring
  base : t.alt.descBase = s.alt.descBase

theorem chains_altFrame (c : Nat) : Chains (AltFrame c) where
  refl _ := ⟨rfl, rfl, rfl, rfl, rfl⟩
  trans h g := ⟨g.mem.trans h.mem, g.out.trans h.out, g.pending.trans h.pending, g.ring.trans h.ring, g.base.trans h.base⟩

theorem altFrame_of_link {s t : State} (c : Nat) (h : LinkFrame s t) : AltFrame c s t :=
  ⟨h.terMem, h.out, h.pending, by rw [getCtx_congr h.ctxs], by rw [h.alt]⟩

theorem altFrame_foldl {γ : Type} {c : Nat} {f : State → γ → State} (h : ∀ s a, AltFrame c s (f s a)) (l : List γ)
    (s : State) : AltFrame c s (l.foldl f s) := by
  induction l generalizing s with
  | nil => exact (chains_altFrame c).refl s
  | cons a l ih => exact (chains_altFrame c).trans (h s a) (ih (f s a))

theorem altFrame_ite {c : Nat} {s t u : State} {p : Prop} [Decidable p] (h : AltFrame c s t) (g : AltFrame c s u) :
    AltFrame c s (if p then t else u) := by
  split
  · exact h
  · exact g

variable (c : Nat)

theorem altFrame_mQueue (write : Bool) (x : Nat) (priv : Bool) (space a n : Nat) (s : State) :
    AltFrame c s (mQueue write x priv space a n s) := altFrame_of_link c (frame_mQueue ..)

theorem altFrame_stackPut (a : Nat) (bs : List Byte) (s : State) : AltFrame c s (stackPut a bs s) :=
  altFrame_of_link c ((frame_extPut ..).trans (frame_mQueue ..))

theorem altFrame_putEntry (a e : Nat) (s : State) : AltFrame c s (Machine.putEntry a e s) := altFrame_stackPut ..

theorem altFrame_putDesc (q d : Nat) (s : State) : AltFrame c s (putDesc q d s) := altFrame_stackPut ..

theorem altFrame_setRc (p n : Nat) (s : State) : AltFrame c s (setRc p n s) := altFrame_stackPut ..

theorem altFrame_stackZero (a n : Nat) (s : State) : AltFrame c s (stackZero a n s) := by
  unfold stackZero
  refine altFrame_ite ((chains_altFrame c).refl s) ?_
  have written := altFrame_of_link c (frame_foldl (fun s l => writeBack l s) (fun s l => frame_writeBack l s)
    (s.ter.lines.filter (fun l => l.space == 0 && rangesMeet a n (l.addr * 256) 256)) s)
  exact ⟨written.mem, written.out, written.pending, written.ring, written.base⟩

theorem altFrame_clearPage (p : Nat) (s : State) : AltFrame c s (clearPage p s) := altFrame_stackZero ..

theorem altFrame_setErr (b : Nat) (s : State) : AltFrame c s (setErr b s) := ⟨rfl, rfl, rfl, rfl, rfl⟩

theorem altFrame_beginXfers (n : Nat) (s : State) : AltFrame c s (beginXfers n s) := ⟨rfl, rfl, rfl, rfl, rfl⟩

theorem ring_modCtx (x : Nat) (f : Ctx → Ctx) (s : State) (hf : ∀ y, (f y).ring = y.ring) :
    (getCtx (modCtx x f s) c).ring = (getCtx s c).ring := by
  rw [getCtx_modCtx]
  split
  · rename_i same
    rw [same, hf]
  · rfl

theorem altFrame_modCtx (x : Nat) (f : Ctx → Ctx) (s : State) (hf : ∀ y, (f y).ring = y.ring) : AltFrame c s (modCtx x f s) :=
  ⟨rfl, rfl, rfl, ring_modCtx c x f s hf, rfl⟩

theorem altFrame_modUse (holder cls : Nat) (f : Nat → Nat) (s : State) : AltFrame c s (modUse holder cls f s) :=
  altFrame_ite (altFrame_modCtx c _ _ s (fun _ => rfl)) ⟨rfl, rfl, rfl, rfl, rfl⟩

theorem altFrame_chargePlots (x : Nat) (ps : List Nat) (s : State) : AltFrame c s (chargePlots x ps s) :=
  altFrame_foldl (fun s _ => altFrame_modUse c _ _ _ s) ps s

theorem altFrame_metaRead (a n : Nat) (s : State) : AltFrame c s (metaRead s a n).1 := by
  have hR := chains_altFrame c
  unfold metaRead
  dsimp only
  rcases fetchMem_cases s 0 true 0 a n with h | h | h <;> rw [h]
  · exact altFrame_setErr c _ s
  · exact altFrame_mQueue c ..
  · exact hR.trans (altFrame_mQueue c ..) (altFrame_setErr c _ _)

theorem altFrame_copyStack (src dst n : Nat) (s : State) : AltFrame c s (copyStack src dst n s) := by
  have hR := chains_altFrame c
  refine hR.trans ?_ (altFrame_of_link c ((frame_extPut ..).trans (frame_mQueue ..)))
  exact altFrame_ite (hR.refl s) (altFrame_setErr c _ s)

/-! The end of an accepted message of a context, with a record of any body. -/

/-- A context's command that ends at once. -/
theorem live_takeMsg_records {s s1 : State} {c : CtxId} {o st body : Nat} {h : HeadMsg} {act : MsgAct}
    (ha : Accepted s c.val o h) (ho : o ≠ 1) (hact : act c.val (waiterOf c.val h.msg) h.msg s = (s1, .done st body))
    (frame : AltFrame c.val s s1) :
    ∃ t, live (takeMsg c.val o act) s = .next t ∧ Answered s t c.val h st body ∧ RingFrame c.val s1 t := by
  obtain ⟨hup, hhead, hopc, hcheck, hfwd⟩ := ha
  have hm : (c.val == mgmtCtx) = false := by simpa using ctx_ne_mgmt c
  have meaning : takeMsg c.val o act s = postRec c.val
      (mkRec h.msg.gen (recKind (c.val == mgmtCtx) h.msg.opc) st h.msg.tag body) (consume c.val h s1) := by
    rw [takeMsg_accepted c.val o act s h hhead hopc hcheck hfwd (.inl ho), hact]
    simp [finish, waiterOf, hm]
  have ring : RingFrame c.val s1 (takeMsg c.val o act s) := by
    rw [meaning]
    exact (ringFrame_consume c h s1).trans (ringFrame_modRing c _ _)
  refine ⟨_, ?_, ⟨?_, ?_⟩, ring⟩
  · rw [live_up _ _ hup, effect_silent _ _ (ring.out.trans frame.out) (ring.pending.trans frame.pending)]
  · rw [meaning, ← (consume_head c.val h s1).1, postRec, ringAt_modRing_self]
  · have held : (ringAt s1 c.val).held = (ringAt s c.val).held := by simp [ringAt, ctx_ne_mgmt c, frame.ring]
    rw [meaning, postRec_held, (consume_head c.val h s1).2, held]

theorem base_ringFrame {s t : State} {c : Nat} (h : RingFrame c s t) : t.alt = s.alt := (congrArg State.alt h.only :)

theorem seqDesc_ringFrame {s t : State} {c : Nat} (h : RingFrame c s t) (q : Nat) : seqDesc t q = seqDesc s q :=
  seqDesc_congr h.ter h.ext (by rw [base_ringFrame h]) q

end Sys2Proof.Proofs.Allotment
end

section

/-! PROOFS. The Allotment's layer: how an operation ends or fails, and what its look-ups of the tables leave. -/

namespace Sys2Proof.Proofs.Allotment
open Sys2Proof.Machine Sys2Proof.Laws Sys2Proof.Claims Sys2Proof.Proofs.Architecture Sys2Proof.Proofs.Arithmetic
  Sys2Proof.Proofs.Attention Sys2Proof.Proofs.Sequencer Sys2Proof.Proofs.Terrace

/-! Runs of the Allotment's operations. -/

/-- From s the operation m ends without a failure, with a, in t. -/
def Ends {α : Type} (m : AltM α) (s : State) (a : α) (t : State) : Prop := (ExceptT.run m).run s = (.ok a, t)

/-- From s the operation m fails with e, in t. -/
def Fails {α : Type} (m : AltM α) (s : State) (e : Nat × Option Nat) (t : State) : Prop :=
  (ExceptT.run m).run s = (.error e, t)

variable {α β : Type} {s t u : State} {a : α} {b : β}

theorem run_bind_eq (m : AltM α) (f : α → AltM β) (s : State) :
    (ExceptT.run (m >>= f)).run s = match (ExceptT.run m).run s with
      | (.ok a, t) => (ExceptT.run (f a)).run t
      | (.error e, t) => (.error e, t) := by
  have h : (ExceptT.run (m >>= f)).run s =
      (ExceptT.bindCont f ((ExceptT.run m).run s).1).run ((ExceptT.run m).run s).2 := rfl
  rw [h]
  rcases (ExceptT.run m).run s with ⟨e | a, t⟩ <;> rfl

theorem ends_bind {m : AltM α} {f : α → AltM β} : Ends (m >>= f) s b u ↔ ∃ a t, Ends m s a t ∧ Ends (f a) t b u := by
  unfold Ends
  rw [run_bind_eq]
  rcases (ExceptT.run m).run s with ⟨e | a, t⟩
  · constructor
    · intro h
      cases h
    · rintro ⟨a, t', h, -⟩
      cases h
  · constructor
    · intro h
      exact ⟨a, t, rfl, h⟩
    · rintro ⟨a', t', h, g⟩
      cases h
      exact g

/-- What follows an operation that ends fails. -/
theorem Ends.fails {m : AltM α} {f : α → AltM β} {e : Nat × Option Nat} (h : Ends m s a t) (g : Fails (f a) t e u) :
    Fails (m >>= f) s e u := by
  unfold Fails
  rw [run_bind_eq, show (ExceptT.run m).run s = (.ok a, t) from h]
  exact g

/-- What follows an operation that fails does not run. -/
theorem Fails.bind {m : AltM α} {e : Nat × Option Nat} (h : Fails m s e t) (f : α → AltM β) : Fails (m >>= f) s e t := by
  unfold Fails
  rw [run_bind_eq, show (ExceptT.run m).run s = (.error e, t) from h]

theorem ends_pure {x : α} : Ends (pure x) s a t ↔ a = x ∧ t = s := by
  show (Except.ok x, s) = (Except.ok a, t) ↔ _
  rw [Prod.mk.injEq, Except.ok.injEq]
  exact ⟨fun h => ⟨h.1.symm, h.2.symm⟩, fun h => ⟨h.1.symm, h.2.symm⟩⟩

/-- What follows reads the state as it stands. -/
theorem ends_get {k : State → AltM α} : Ends (get >>= k) s a t ↔ Ends (k s) s a t := Iff.rfl

theorem fails_get {k : State → AltM α} {e : Nat × Option Nat} : Fails (get >>= k) s e t ↔ Fails (k s) s e t := Iff.rfl

theorem fails_modify {f : State → State} {k : PUnit → AltM α} {e : Nat × Option Nat} :
    Fails (modify f >>= k) s e t ↔ Fails (k ⟨⟩) (f s) e t := Iff.rfl

theorem ends_set {v : State} {k : PUnit → AltM α} : Ends (set v >>= k) s a t ↔ Ends (k ⟨⟩) v a t := Iff.rfl

theorem ends_modify {f : State → State} {k : PUnit → AltM α} : Ends (modify f >>= k) s a t ↔ Ends (k ⟨⟩) (f s) a t := Iff.rfl

theorem not_ends_altFail {st : Nat} : ¬ Ends (altFail st : AltM α) s a t := by
  intro h
  have : ((Except.error (st, none) : Except (Nat × Option Nat) α), s) = (Except.ok a, t) := h
  cases this

theorem ends_refuseIf {x : Bool} {st : Nat} {k : PUnit → AltM α} :
    Ends (refuseIf x st >>= k) s a t ↔ x = false ∧ Ends (k ⟨⟩) s a t := by
  cases x
  · rw [ends_bind]
    constructor
    · rintro ⟨y, v, hy, hk⟩
      obtain ⟨rfl, rfl⟩ := ends_pure.mp hy
      exact ⟨rfl, hk⟩
    · rintro ⟨-, hk⟩
      exact ⟨⟨⟩, s, ends_pure.mpr ⟨rfl, rfl⟩, hk⟩
  · rw [ends_bind]
    constructor
    · rintro ⟨y, v, hy, -⟩
      exact absurd hy not_ends_altFail
    · rintro ⟨h, -⟩
      cases h

theorem fails_refuseIf {x : Bool} {st : Nat} (h : x = true) (k : PUnit → AltM α) :
    Fails (refuseIf x st >>= k) s (st, none) s := by
  subst h
  exact Fails.bind (m := refuseIf true st) rfl k

theorem fails_refuseIf_then {x : Bool} {st : Nat} {e : Nat × Option Nat} (h : x = false) {k : PUnit → AltM α}
    (later : Fails (k ⟨⟩) s e t) : Fails (refuseIf x st >>= k) s e t := by
  subst h
  exact Ends.fails (m := refuseIf false st) (ends_pure.mpr ⟨rfl, rfl⟩) later

/-- From s the operation m ends without a failure. -/
def Completes (m : AltM α) (s : State) : Prop := ∃ a t, Ends m s a t

theorem completes_pure {x : α} : Completes (pure x) s := ⟨x, s, ends_pure.mpr ⟨rfl, rfl⟩⟩

theorem completes_get {k : State → AltM α} (h : Completes (k s) s) : Completes (get >>= k) s := h

theorem completes_set {v : State} {k : PUnit → AltM α} (h : Completes (k ⟨⟩) v) : Completes (set v >>= k) s := h

theorem completes_modify {f : State → State} {k : PUnit → AltM α} (h : Completes (k ⟨⟩) (f s)) : Completes (modify f >>= k) s := h

theorem Ends.completes {m : AltM α} {f : α → AltM β} (h : Ends m s a t) (g : Completes (f a) t) : Completes (m >>= f) s := by
  obtain ⟨b, u, g⟩ := g
  exact ⟨b, u, ends_bind.mpr ⟨a, t, h, g⟩⟩

theorem completes_refuseIf {x : Bool} {st : Nat} {k : PUnit → AltM α} (h : x = false) (g : Completes (k ⟨⟩) s) :
    Completes (refuseIf x st >>= k) s := by
  obtain ⟨b, u, g⟩ := g
  exact ⟨b, u, ends_refuseIf.mpr ⟨h, g⟩⟩

/-! Reads of metadata (R260). -/

/-- The state after a read of n bytes of metadata that delivers no poison: its requests are queued. -/
abbrev queueMeta (a n : Nat) (s : State) : State := mQueue false 0 true 0 a n s

theorem metaRead_clean (a n : Nat) (s : State) (clean : stackPoisoned s a n = false) :
    metaRead s a n = (queueMeta a n s, some (leNat (extPeek s 0 a n))) := by
  have none_in : (extPoisonIn s 0 a n).isEmpty = true := by simpa [stackPoisoned] using clean
  simp [metaRead, fetchMem, none_in]

theorem metaRead_poisoned (a n : Nat) (s : State) (bad : stackPoisoned s a n = true) :
    metaRead s a n = (setErr ebM_POISON (queueMeta a n s), none) := by
  have some_in : (extPoisonIn s 0 a n).isEmpty = false := by simpa [stackPoisoned] using bad
  simp [metaRead, fetchMem, some_in]

theorem ends_metaRd {f : Option Nat} {x n v : Nat} : Ends (metaRd f x n) s v t ↔
    stackPoisoned s x n = false ∧ v = leNat (extPeek s 0 x n) ∧ t = queueMeta x n s := by
  unfold metaRd
  rw [ends_get]
  cases clean : stackPoisoned s x n
  · rw [metaRead_clean x n s clean, ends_set, ends_pure]
    simp
  · rw [metaRead_poisoned x n s clean, ends_set]
    constructor
    · intro h
      have : ((Except.error (stALT_UE, f) : Except (Nat × Option Nat) Nat), setErr ebM_POISON (queueMeta x n s)) =
        (Except.ok v, t) := h
      cases this
    · rintro ⟨h, -⟩
      cases h

/-- A list of runs that succeed one after the other. -/
theorem ends_mapM_cons {f : α → AltM β} {x : α} {xs : List α} {bs : List β} : Ends ((x :: xs).mapM f) s bs u ↔
    ∃ b t rest, Ends (f x) s b t ∧ Ends (xs.mapM f) t rest u ∧ bs = b :: rest := by
  rw [List.mapM_cons, ends_bind]
  constructor
  · rintro ⟨b, t, hb, h⟩
    obtain ⟨rest, v, hrest, h⟩ := ends_bind.mp h
    obtain ⟨rfl, rfl⟩ := ends_pure.mp h
    exact ⟨b, t, rest, hb, hrest, rfl⟩
  · rintro ⟨b, t, rest, hb, hrest, rfl⟩
    exact ⟨b, t, hb, ends_bind.mpr ⟨rest, u, hrest, ends_pure.mpr ⟨rfl, rfl⟩⟩⟩

theorem ends_mapM_nil {f : α → AltM β} {bs : List β} : Ends (([] : List α).mapM f) s bs t ↔ bs = [] ∧ t = s := by
  rw [List.mapM_nil, ends_pure]

/-! What reads leave: the M-ports' requests and the descriptors' cache alone. -/

/-- From s to t there have been reads of metadata and look-ups of descriptors only. -/
def Looked (s t : State) : Prop := ∃ ps ds hits misses,
  t = { s with mports := ps, alt := { s.alt with dcache := ds, dcHits := hits, dcMiss := misses } }

theorem looked_refl (s : State) : Looked s s := ⟨s.mports, s.alt.dcache, s.alt.dcHits, s.alt.dcMiss, rfl⟩

theorem Looked.trans (h : Looked s t) (g : Looked t u) : Looked s u := by
  obtain ⟨_, _, _, _, rfl⟩ := h
  obtain ⟨_, _, _, _, rfl⟩ := g
  exact ⟨_, _, _, _, rfl⟩

theorem looked_queueMeta (x n : Nat) (s : State) : Looked s (queueMeta x n s) := by
  obtain ⟨ps, h⟩ := mQueue_only false 0 true 0 x n s
  exact ⟨ps, s.alt.dcache, s.alt.dcHits, s.alt.dcMiss, by rw [queueMeta, h]⟩

theorem looked_descLookup (q : Nat) (s : State) : Looked s (descLookup q s) := by
  obtain ⟨ds, hits, misses, h⟩ := Laws.descLookup_only q s
  exact ⟨s.mports, ds, hits, misses, h⟩

theorem Looked.frame (h : Looked s t) (c : Nat) : AltFrame c s t := by
  obtain ⟨_, _, _, _, rfl⟩ := h
  exact ⟨rfl, rfl, rfl, rfl, rfl⟩

section
variable (h : Looked s t)
include h

theorem Looked.ext : t.ext = s.ext := by
  obtain ⟨_, _, _, _, rfl⟩ := h
  rfl

theorem Looked.ter : t.ter = s.ter := by
  obtain ⟨_, _, _, _, rfl⟩ := h
  rfl

theorem Looked.ctxs : t.ctxs = s.ctxs := by
  obtain ⟨_, _, _, _, rfl⟩ := h
  rfl

theorem Looked.peek (space x n : Nat) : extPeek t space x n = extPeek s space x n := extPeek_congr h.ter h.ext ..

theorem Looked.poisoned (x n : Nat) : stackPoisoned t x n = stackPoisoned s x n := by
  obtain ⟨_, _, _, _, rfl⟩ := h
  rfl

theorem Looked.getCtx (c : Nat) : Machine.getCtx t c = Machine.getCtx s c := getCtx_congr h.ctxs c

theorem Looked.descAddr (q : Nat) : seqDescAddr t q = seqDescAddr s q := by
  obtain ⟨_, _, _, _, rfl⟩ := h
  rfl

theorem Looked.desc (q : Nat) : seqDesc t q = seqDesc s q := by
  rw [seqDesc, seqDesc, h.peek, h.descAddr]

theorem Looked.plotAt (p : Nat) : Machine.plotAt t p = Machine.plotAt s p := by
  obtain ⟨_, _, _, _, rfl⟩ := h
  rfl

theorem Looked.l1Addr (d k : Nat) : Machine.l1Addr t d k = Machine.l1Addr s d k := by
  rw [Machine.l1Addr, Machine.l1Addr, h.plotAt]

theorem Looked.rcAddr (p : Nat) : Machine.rcAddr t p = Machine.rcAddr s p := by
  obtain ⟨_, _, _, _, rfl⟩ := h
  rfl

theorem Looked.rcOf (p : Nat) : Machine.rcOf t p = Machine.rcOf s p := by
  rw [Machine.rcOf, Machine.rcOf, h.peek, h.rcAddr]

theorem Looked.pageOf (d k : Nat) : Machine.pageOf t d k = Machine.pageOf s d k := by
  rw [Machine.pageOf, Machine.pageOf, h.peek, h.l1Addr]

theorem Looked.plotFree (p : Nat) : Machine.plotFree t p = Machine.plotFree s p := by
  rw [Machine.plotFree, Machine.plotFree, h.rcOf, h.rcAddr, h.poisoned]

end

/-- A descriptor that a context opens: the index lies in its range, and the sequence is its own (R241, R242). -/
theorem ends_openSeq {c q d : Nat} (h : Ends (openSeq c q) s d t) :
    inRange (getCtx s c) q = true ∧ ownSeq c (seqDesc s q) = true ∧ d = seqDesc s q ∧ Looked s t := by
  unfold openSeq at h
  obtain ⟨range, h⟩ := ends_refuseIf.mp (ends_get.mp h)
  obtain ⟨v, t1, read, h⟩ := ends_bind.mp (ends_modify.mp h)
  obtain ⟨own, h⟩ := ends_refuseIf.mp h
  obtain ⟨rfl, rfl⟩ := ends_pure.mp h
  obtain ⟨-, rfl, rfl⟩ := ends_metaRd.mp read
  have looked := looked_descLookup q s
  have value : leNat (extPeek (descLookup q s) 0 (seqDescAddr s q) 64) = seqDesc s q := by rw [looked.peek, seqDesc]
  rw [value] at own ⊢
  exact ⟨by simpa using range, by simpa using own, rfl, looked.trans (looked_queueMeta ..)⟩

theorem openSeq_ends {c q : Nat} (range : inRange (getCtx s c) q = true) (own : ownSeq c (seqDesc s q) = true)
    (clean : stackPoisoned s (seqDescAddr s q) 64 = false) :
    ∃ t, Ends (openSeq c q) s (seqDesc s q) t := by
  have looked := looked_descLookup q s
  have value : leNat (extPeek (descLookup q s) 0 (seqDescAddr s q) 64) = seqDesc s q := by rw [looked.peek, seqDesc]
  refine ⟨queueMeta (seqDescAddr s q) 64 (descLookup q s), ?_⟩
  unfold openSeq
  refine ends_get.mpr (ends_refuseIf.mpr ⟨by simp [range], ends_modify.mpr (ends_bind.mpr ⟨_, _,
    ends_metaRd.mpr ⟨by rw [looked.poisoned, clean], rfl, rfl⟩, ?_⟩)⟩)
  rw [value]
  exact ends_refuseIf.mpr ⟨by simp [own], ends_pure.mpr ⟨rfl, rfl⟩⟩

end Sys2Proof.Proofs.Allotment
end

section

/-! PROOFS. The Allotment's layer: stack memory with no line over it that a read must fill, and what an allowed read answers. -/

namespace Sys2Proof.Proofs.Allotment
open Sys2Proof.Machine Sys2Proof.Laws Sys2Proof.Claims Sys2Proof.Proofs.Architecture Sys2Proof.Proofs.Arithmetic
  Sys2Proof.Proofs.Attention Sys2Proof.Proofs.Sequencer Sys2Proof.Proofs.Terrace

/-! Reads of a canonical memory, byte by byte. -/

/-- The bytes of a memory from an address on. -/
def bytesFrom (m : Mem) (a n : Nat) : List Byte := (List.range n).map (fun i => memByte m (a + i))

theorem memWalk_eq (n a : Nat) (cs : List Host.Cell) (rise : cs.Pairwise (fun c d => c.1 < d.1)) (above : ∀ c ∈ cs, a ≤ c.1) :
    memWalk n a cs = bytesFrom cs a n := by
  unfold bytesFrom
  induction n generalizing a cs with
  | zero => cases cs <;> rfl
  | succ n ih =>
    rw [List.range_succ_eq_map, List.map_cons, List.map_map]
    have later (b : Nat) (ds : List Host.Cell) (same : ∀ i, memByte ds (b + i) = memByte cs (a + (i + 1))) :
        (List.range n).map (fun i => memByte ds (b + i)) = (List.range n).map ((fun i => memByte cs (a + i)) ∘ Nat.succ) :=
      List.map_congr_left (fun i _ => same i)
    cases cs with
    | nil =>
      rw [memWalk, ih 0 [] List.Pairwise.nil (List.forall_mem_nil _), later 0 [] (fun _ => rfl)]
      rfl
    | cons c cs =>
      obtain ⟨first, rise⟩ := List.pairwise_cons.mp rise
      rw [memWalk]
      split
      · rename_i here
        have rest : ∀ d ∈ cs, a + 1 ≤ d.1 := fun d hd => by
          have := first d hd
          omega
        rw [ih (a + 1) cs rise rest, later (a + 1) cs (fun i => ?_)]
        · obtain ⟨b, v⟩ := c
          obtain rfl : b = a := here
          simp [memByte]
        · have other : (a + (i + 1) == c.1) = false := by
            rw [here]
            simp
          rw [memByte, memByte, List.lookup_cons, other, show a + 1 + i = a + (i + 1) by omega]
      · rename_i there
        have beyond : a < c.1 := lt_of_le_of_ne (above c List.mem_cons_self) (Ne.symm there)
        have rest : ∀ d ∈ c :: cs, a + 1 ≤ d.1 := by
          refine List.forall_mem_cons.mpr ⟨beyond, fun d hd => ?_⟩
          have := first d hd
          omega
        rw [ih (a + 1) (c :: cs) (List.pairwise_cons.mpr ⟨first, rise⟩) rest, later (a + 1) (c :: cs) (fun i => ?_)]
        · have none_here : List.lookup a (c :: cs) = none :=
            lookup_eq_none_of_ne _ a (fun d hd => by
              have := rest d hd
              omega)
          simp [memByte, none_here]
        · rw [show a + 1 + i = a + (i + 1) by omega]

/-- A read of a canonical memory. -/
theorem memRead_eq (m : Mem) (a n : Nat) (canonical : Mem.wf m = true) : memRead m a n = bytesFrom m a n := by
  have inside := wf_filter m (fun c => decide (a ≤ c.1) && decide (c.1 < a + n)) canonical
  unfold memRead
  rw [memWalk_eq n a _ ((wf_iff _).mp inside).2 (fun c hc => by
    have := (List.mem_filter.mp hc).2
    simp only [Bool.and_eq_true, decide_eq_true_eq] at this
    exact this.1)]
  refine List.map_congr_left (fun i hi => ?_)
  have hi := List.mem_range.mp hi
  unfold memByte
  rw [lookup_filter m (fun x => decide (a ≤ x) && decide (x < a + n))]
  simp [hi]

theorem bytesFrom_getD (m : Mem) (a n i : Nat) (hi : i < n) : (bytesFrom m a n).getD i 0 = memByte m (a + i) := by
  simp [bytesFrom, hi]

/-- A read of bytes that a write does not reach. -/
theorem bytesFrom_memWrite (m : Mem) (a : Nat) (bs : List Byte) (b n : Nat) (apart : b + n ≤ a ∨ a + bs.length ≤ b) :
    bytesFrom (memWrite m a bs) b n = bytesFrom m b n := by
  refine List.map_congr_left (fun i hi => ?_)
  have hi := List.mem_range.mp hi
  exact memByte_memWrite_ne m a bs (b + i) (by omega)

/-! Stack memory as it stands while no line of the cached groups differs from it. -/

/-- Stack memory is canonical and without poison, and the lines that the groups hold of it are as it is (R225, R501). -/
structure PlainStack (s : State) : Prop where
  canonical : Mem.wf s.ext.stack = true
  clean : s.ext.stackPoison = []
  lines : ∀ l ∈ s.ter.lines, l.space = 0 → l.dirty = false ∧ l.data = bytesFrom s.ext.stack (l.addr * 256) 256

variable {s t : State}

theorem PlainStack.congr (h : PlainStack s) (ext : t.ext = s.ext) (lines : t.ter.lines = s.ter.lines) : PlainStack t := by
  obtain ⟨canonical, clean, held⟩ := h
  exact ⟨by rw [ext]; exact canonical, by rw [ext]; exact clean, by rw [ext, lines]; exact held⟩

theorem Looked.plain (h : Looked s t) (plain : PlainStack s) : PlainStack t := plain.congr h.ext (by rw [h.ter])

theorem overlay_eq (m : Mem) (a n : Nat) (l : CacheLine) (held : l.data = bytesFrom m (l.addr * 256) 256) :
    overlay a (bytesFrom m a n) l = bytesFrom m a n := by
  have len : (bytesFrom m a n).length = n := by simp [bytesFrom]
  unfold overlay
  dsimp only
  rw [len, held]
  refine List.map_congr_left (fun i hi => ?_)
  have hi := List.mem_range.mp hi
  split
  · rename_i inside
    rw [bytesFrom_getD _ _ _ _ (by omega)]
    congr 1
    omega
  · exact bytesFrom_getD _ _ _ _ hi

/-- Ixdon reads what stands in memory. -/
theorem PlainStack.peek (h : PlainStack s) (a n : Nat) : extPeek s 0 a n = bytesFrom s.ext.stack a n := by
  unfold extPeek
  rw [show extMem s 0 = s.ext.stack from rfl, memRead_eq _ _ _ h.canonical]
  have held : ∀ l ∈ s.ter.lines.filter (fun l => l.space == 0 && rangesMeet a n (l.addr * 256) 256),
      l.data = bytesFrom s.ext.stack (l.addr * 256) 256 := fun l hl => by
    obtain ⟨mem, hit⟩ := List.mem_filter.mp hl
    simp only [Bool.and_eq_true, beq_iff_eq] at hit
    exact (h.lines l mem hit.1).2
  revert held
  generalize s.ter.lines.filter _ = ls
  intro held
  induction ls with
  | nil => rfl
  | cons l ls ih =>
    rw [List.foldl_cons, overlay_eq _ _ _ _ (held l List.mem_cons_self)]
    exact ih (fun x hx => held x (List.mem_cons_of_mem l hx))

theorem PlainStack.peek_congr (h : PlainStack s) (g : PlainStack t) (same : t.ext.stack = s.ext.stack) (a n : Nat) :
    extPeek t 0 a n = extPeek s 0 a n := by rw [h.peek, g.peek, same]

theorem PlainStack.not_poisoned (h : PlainStack s) (a n : Nat) : stackPoisoned s a n = false := by
  simp [stackPoisoned, extPoisonIn, extPoison, h.clean]

theorem writeBacks_clean (ls : List CacheLine) (s : State) (h : ∀ l ∈ ls, l.dirty = false) :
    ls.foldl (fun s l => writeBack l s) s = s := by
  induction ls with
  | nil => rfl
  | cons l ls ih =>
    have same : writeBack l s = s := by simp [writeBack, h l List.mem_cons_self]
    rw [List.foldl_cons, same]
    exact ih (fun x hx => h x (List.mem_cons_of_mem l hx))

/-- Such a stack takes the bytes of a write as they are. -/
theorem PlainStack.stackPut_only (h : PlainStack s) (a : Nat) (bs : List Byte) : ∃ ps, stackPut a bs s =
    { s with
      ext := { s.ext with stack := memWrite s.ext.stack a bs }
      ter := { s.ter with lines := s.ter.lines.filter (fun l => !hitsStack a bs.length l) }
      mports := ps } := by
  obtain ⟨ps, queued⟩ := mQueue_only true 0 true 0 a bs.length (extPut 0 a bs [] false s)
  have written := writeBacks_clean (s.ter.lines.filter (hitsStack a bs.length)) s (fun l hl => by
    obtain ⟨mem, hit⟩ := List.mem_filter.mp hl
    exact (h.lines l mem (space_of_hitsStack hit)).1)
  have e : s.ter.lines.filter (fun l => l.space == 0 && rangesMeet a bs.length (l.addr * 256) 256) =
      s.ter.lines.filter (hitsStack a bs.length) := rfl
  have none_kept : extPoison s 0 = [] := h.clean
  have put : extPut 0 a bs [] false s =
      { s with
        ext := { s.ext with stack := memWrite s.ext.stack a bs, stackPoison := [] }
        ter := { s.ter with lines := s.ter.lines.filter (fun l => !hitsStack a bs.length l) } } := by
    unfold extPut
    simp only [Bool.false_eq_true, if_false]
    rw [e, written, none_kept]
    rfl
  refine ⟨ps, ?_⟩
  rw [stackPut, queued, put, ← h.clean]

theorem PlainStack.stackPut (h : PlainStack s) (a : Nat) (bs : List Byte) : PlainStack (stackPut a bs s) := by
  obtain ⟨ps, put⟩ := h.stackPut_only a bs
  rw [put]
  refine ⟨wf_memWrite _ _ _ h.canonical, h.clean, fun l hl first => ?_⟩
  obtain ⟨mem, missed⟩ := List.mem_filter.mp hl
  obtain ⟨clean, data⟩ := h.lines l mem first
  refine ⟨clean, data.trans ?_⟩
  refine List.map_congr_left (fun i hi => ?_)
  have hi := List.mem_range.mp hi
  have apart : ¬ (0 < bs.length ∧ a < l.addr * 256 + 256 ∧ l.addr * 256 < a + bs.length) := by
    intro ⟨long, low, high⟩
    simp [hitsStack, rangesMeet, first, long, low, high] at missed
  exact (memByte_memWrite_ne _ _ _ _ (by omega)).symm

/-- A read of bytes that such a write does not reach. -/
theorem PlainStack.peek_stackPut (h : PlainStack s) (a : Nat) (bs : List Byte) (b n : Nat)
    (apart : b + n ≤ a ∨ a + bs.length ≤ b) : extPeek (Machine.stackPut a bs s) 0 b n = extPeek s 0 b n := by
  obtain ⟨ps, put⟩ := h.stackPut_only a bs
  rw [(h.stackPut a bs).peek, h.peek, put]
  exact bytesFrom_memWrite _ _ _ _ _ apart

/-! A read of stack memory through the cached groups (R226) leaves such a stack as it is. -/

/-- From s to t lines enter and leave the cached groups and the stack stays plain and as it was. -/
structure StackFill (s t : State) : Prop where
  plain : PlainStack s → PlainStack t ∧ t.ext.stack = s.ext.stack
  fill : FillFrame s t

theorem StackFill.trans {u : State} (h : StackFill s t) (g : StackFill t u) : StackFill s u where
  plain p := ⟨(g.plain (h.plain p).1).1, (g.plain (h.plain p).1).2.trans (h.plain p).2⟩
  fill := chains_fillFrame.trans h.fill g.fill

theorem stackFill_of_congr (fill : FillFrame s t) (ext : t.ext = s.ext) (lines : t.ter.lines = s.ter.lines) : StackFill s t :=
  ⟨fun h => ⟨h.congr ext lines, by rw [ext]⟩, fill⟩

theorem stackFill_refl (s : State) : StackFill s s := stackFill_of_congr (chains_fillFrame.refl s) rfl rfl

theorem stackFill_foldl {γ : Type} (f : State → γ → State) (h : ∀ s a, StackFill s (f s a)) (l : List γ) (s : State) :
    StackFill s (l.foldl f s) := by
  induction l generalizing s with
  | nil => exact stackFill_refl s
  | cons a l ih => exact (h s a).trans (ih (f s a))

theorem stackFill_mQueue (write : Bool) (c : Nat) (priv : Bool) (space a n : Nat) (s : State) :
    StackFill s (mQueue write c priv space a n s) :=
  stackFill_of_congr (fillFrame_mQueue ..) (mQueue_ext ..).1 (by rw [(mQueue_ext ..).2])

/-- The lines replaced by lines that stood there or are as memory is. -/
theorem stackFill_lines (ls : List CacheLine) (s : State)
    (h : PlainStack s → ∀ l ∈ ls, l ∈ s.ter.lines ∨ l.dirty = false ∧ l.data = bytesFrom s.ext.stack (l.addr * 256) 256)
    (dirty : ∀ l ∈ ls, l.dirty = true → l ∈ s.ter.lines) : StackFill s { s with ter := { s.ter with lines := ls } } where
  plain p := by
    refine ⟨⟨p.canonical, p.clean, fun l hl first => ?_⟩, rfl⟩
    rcases h p l hl with old | new
    · exact p.lines l old first
    · exact new
  fill := fillFrame_lines ls s dirty

theorem stackFill_evict (l : CacheLine) (s : State) (hl : l ∈ s.ter.lines) : StackFill s (evict l s) where
  plain p := by
    have same : (evict l s).ext.stack = s.ext.stack ∧ (evict l s).ext.stackPoison = s.ext.stackPoison := by
      unfold evict
      dsimp only
      split
      · rename_i dirty
        have host : l.space ≠ 0 := fun first => by simp [(p.lines l hl first).1] at dirty
        rw [(mQueue_ext ..).1]
        simp [writeBack, dirty, setExtMem, host]
      · exact ⟨rfl, rfl⟩
    obtain ⟨stack, poison⟩ := same
    refine ⟨⟨by rw [stack]; exact p.canonical, by rw [poison]; exact p.clean, fun x hx first => ?_⟩, stack⟩
    rw [lines_evict] at hx
    rw [stack]
    exact p.lines x (List.mem_filter.mp hx).1 first
  fill := fillFrame_evict l s hl

theorem stackFill_cacheAlloc (line : Nat) (s : State) : StackFill s (cacheAlloc 0 line s) := by
  have room : StackFill s (makeRoom line s) := by
    rcases makeRoom_cases line s with h | ⟨l, hl, h⟩
    · rw [h]
      exact stackFill_refl s
    · rw [h]
      exact stackFill_evict l s (List.mem_filter.mp hl).1
  rw [cacheAlloc_eq]
  refine room.trans (stackFill_lines _ _ (fun p l hl => ?_) (fun l hl dirty => ?_))
  · rcases List.mem_append.mp hl with hl | hl
    · exact .inl hl
    · rw [List.mem_singleton.mp hl]
      exact .inr ⟨rfl, memRead_eq _ _ _ p.canonical⟩
  · rcases List.mem_append.mp hl with hl | hl
    · exact hl
    · rw [List.mem_singleton.mp hl] at dirty
      cases dirty

theorem stackFill_fillLine (x : Nat) (s : State) : StackFill s (fillLine 0 x s) := by
  unfold fillLine
  split
  · rename_i l h
    have old : ∀ y ∈ s.ter.lines.filter (fun y => !(y.space == 0 && y.addr == x)) ++ [l], y ∈ s.ter.lines := fun y hy => by
      rcases List.mem_append.mp hy with hy | hy
      · exact (List.mem_filter.mp hy).1
      · rw [List.mem_singleton.mp hy]
        exact List.mem_of_find?_eq_some h
    exact stackFill_lines _ s (fun _ y hy => .inl (old y hy)) (fun y hy _ => old y hy)
  · refine (stackFill_cacheAlloc x s).trans (stackFill_foldl _ (fun s _ => ?_) _ _)
    exact stackFill_of_congr (fillFrame_countMarked ..) rfl rfl

theorem stackFill_cacheFill (a n : Nat) (s : State) : StackFill s (cacheFill 0 a n s) := by
  by_cases h : cachedGroups s = 0 ∨ n = 0
  · rw [cacheFill_of_none 0 a n s h]
    exact stackFill_refl s
  · rw [cacheFill_of_some 0 a n s h]
    exact stackFill_foldl _ (fun s x => stackFill_fillLine x s) _ s

/-- A read of a plain stack that the surroundings do not deny is answered, without poison. -/
theorem extRead_plain (h : PlainStack s) (c a n : Nat) (allowed : extDenied s c 0 a n = false) :
    ∃ t bs, extRead s c false 0 a n = (t, some (bs, [])) ∧ StackFill s t := by
  have clean : extPoisonIn s 0 a n = [] := by simp [extPoisonIn, extPoison, h.clean]
  refine ⟨mQueue false c false 0 a n (cacheFill 0 a n s), extPeek s 0 a n, ?_,
    (stackFill_cacheFill a n s).trans (stackFill_mQueue ..)⟩
  simp [extRead, allowed, clean]

end Sys2Proof.Proofs.Allotment
end

section

/-! PROOFS. The Allotment's layer: free plots, what the pools hold, and what taking plots keeps. -/

namespace Sys2Proof.Proofs.Allotment
open Sys2Proof.Machine Sys2Proof.Laws Sys2Proof.Claims Sys2Proof.Proofs.Architecture Sys2Proof.Proofs.Arithmetic
  Sys2Proof.Proofs.Attention Sys2Proof.Proofs.Sequencer Sys2Proof.Proofs.Terrace

variable {s t : State}

/-! The search for a free plot (R236). -/

theorem findFree_free {cls n : Nat} (hn : 0 < n) {f i p : Nat} (h : findFree s cls n f i = some p) :
    ∃ k, k < n ∧ p = cls * 2 ^ 24 + k ∧ plotFree s p = true := by
  induction f generalizing i with
  | zero => cases h
  | succ f ih =>
    rw [findFree] at h
    split at h
    · rename_i free
      obtain rfl := Option.some.inj h
      exact ⟨i % n, Nat.mod_lt i hn, rfl, free⟩
    · exact ih h

theorem findFree_none {cls n f i : Nat} (h : findFree s cls n f i = none) (j : Nat) (hj : j < f) :
    plotFree s (cls * 2 ^ 24 + (i + j) % n) = false := by
  induction f generalizing i j with
  | zero => omega
  | succ f ih =>
    rw [findFree] at h
    split at h
    · cases h
    · rename_i taken
      cases j with
      | zero => simpa using taken
      | succ j =>
        rw [show i + (j + 1) = i + 1 + j by omega]
        exact ih h j (by omega)

/-- The search goes round the whole pool, so it finds a plot wherever one is free. -/
theorem findFree_finds {cls n k : Nat} (hk : k < n) (free : plotFree s (cls * 2 ^ 24 + k) = true) (i : Nat) :
    ∃ p, findFree s cls n n i = some p := by
  rcases h : findFree s cls n n i with _ | p
  · have below : i % n < n := Nat.mod_lt i (by omega)
    have round : (i + (k + n - i % n) % n) % n = k := by
      rw [Nat.add_mod, Nat.mod_mod, ← Nat.add_mod]
      rcases Nat.lt_or_ge k (i % n) with before | behind
      · rw [Nat.add_mod, Nat.mod_eq_of_lt (show k + n - i % n < n by omega),
          show i % n + (k + n - i % n) = k + n by omega, Nat.add_mod_right, Nat.mod_eq_of_lt hk]
      · rw [Nat.add_mod, show k + n - i % n = k - i % n + n by omega, Nat.add_mod_right,
          Nat.mod_eq_of_lt (show k - i % n < n by omega), show i % n + (k - i % n) = k by omega, Nat.mod_eq_of_lt hk]
    have taken := findFree_none h ((k + n - i % n) % n) (Nat.mod_lt _ (by omega))
    rw [round, free] at taken
    cases taken
  · exact ⟨p, rfl⟩

/-- The state in which one plot has been chosen. -/
abbrev picked (s : State) : State := { s with alt := { s.alt with picks := s.alt.picks + 1 } }

/-- A plot that is taken was free, and stands with count 1 (R236, R240). -/
theorem takePlot_takes {cls p : Nat} (h : takePlot cls s = some (p, t)) :
    ∃ k, k < byClass s.alt.poolN cls ∧ p = cls * 2 ^ 24 + k ∧ plotFree s p = true ∧ t = setRc p 1 (picked s) := by
  unfold takePlot at h
  dsimp only at h
  split at h
  · cases h
  · rename_i x found
    obtain ⟨rfl, rfl⟩ := Prod.mk.inj (Option.some.inj h)
    have some_there : 0 < byClass s.alt.poolN cls := by
      by_contra none_there
      rw [Nat.eq_zero_of_not_pos none_there] at found
      cases found
    obtain ⟨k, hk, rfl, free⟩ := findFree_free some_there found
    exact ⟨k, hk, rfl, free, rfl⟩

theorem takePlot_finds {cls k : Nat} (hk : k < byClass s.alt.poolN cls) (free : plotFree s (cls * 2 ^ 24 + k) = true) :
    ∃ p t, takePlot cls s = some (p, t) := by
  obtain ⟨p, found⟩ := findFree_finds hk free (Config.plotHint cls s.alt.picks)
  exact ⟨p, setRc p 1 (picked s), by simp [takePlot, found]⟩

/-- From s to t reads go on as they were but for stack memory, and no context changes. -/
structure Grabbed (c : Nat) (s t : State) : Prop where
  frame : AltFrame c s t
  ctxs : t.ctxs = s.ctxs

theorem grabbed_takePlot {cls p : Nat} (c : Nat) (h : takePlot cls s = some (p, t)) : Grabbed c s t := by
  obtain ⟨k, -, -, -, rfl⟩ := takePlot_takes h
  have chosen : AltFrame c s (picked s) := ⟨rfl, rfl, rfl, rfl, rfl⟩
  refine ⟨(chains_altFrame c).trans chosen (altFrame_setRc ..), ?_⟩
  obtain ⟨m, q, ps, put⟩ := stackPut_only (rcAddr (picked s) p) (leBytes 2 1) (picked s)
  rw [setRc, put]

theorem takePlots_cons {k : Nat} {ks ps : List Nat} : takePlots (k :: ks) s = some (ps, t) ↔
    ∃ p u rest, takePlot k s = some (p, u) ∧ takePlots ks u = some (rest, t) ∧ ps = p :: rest := by
  rw [takePlots]
  rcases one : takePlot k s with _ | ⟨p, u⟩
  · simp
  · dsimp only
    rcases more : takePlots ks u with _ | ⟨rest, v⟩
    · simp [more]
    · simp only [Option.some.injEq, Prod.mk.injEq]
      constructor
      · rintro ⟨rfl, rfl⟩
        exact ⟨p, u, rest, ⟨rfl, rfl⟩, more, rfl⟩
      · rintro ⟨p', u', rest', ⟨rfl, rfl⟩, more', rfl⟩
        rw [more] at more'
        obtain ⟨rfl, rfl⟩ := Prod.mk.inj (Option.some.inj more')
        exact ⟨rfl, rfl⟩

theorem grabbed_takePlots {ks ps : List Nat} (c : Nat) (h : takePlots ks s = some (ps, t)) : Grabbed c s t := by
  induction ks generalizing s ps with
  | nil =>
    obtain ⟨-, rfl⟩ := Prod.mk.inj (Option.some.inj h)
    exact ⟨(chains_altFrame c).refl _, rfl⟩
  | cons k ks ih =>
    obtain ⟨p, u, rest, one, more, -⟩ := takePlots_cons.mp h
    have first := grabbed_takePlot c one
    have second := ih more
    exact ⟨(chains_altFrame c).trans first.frame second.frame, second.ctxs.trans first.ctxs⟩

/-! A pool that holds what is asked of it (R233, R235, R240). -/

/-- The numbers of the free plots of a class. -/
def freePlots (s : State) (k : Nat) : List Nat :=
  (List.range (byClass s.alt.poolN k)).filter (fun i => plotFree s (k * 2 ^ 24 + i))

/-- Plots of these classes can be taken one after the other. -/
structure Stocked (s : State) (cls : List Nat) : Prop where
  plain : PlainStack s
  size : ∀ k ∈ cls, byClass s.alt.poolN k ≤ 2 ^ 24
  free : ∀ k ∈ cls, cls.count k ≤ (freePlots s k).length
  apart : ∀ j ∈ cls, ∀ k ∈ cls, j ≠ k →
    rangesMeet (byClass s.alt.rcBase j) (2 * byClass s.alt.poolN j) (byClass s.alt.rcBase k) (2 * byClass s.alt.poolN k) = false

theorem rcAddr_at (s : State) (k i : Nat) (hi : i < 2 ^ 24) : rcAddr s (k * 2 ^ 24 + i) = byClass s.alt.rcBase k + 2 * i := by
  have cls : plotCls (k * 2 ^ 24 + i) = k := by
    unfold plotCls
    omega
  rw [rcAddr, cls, Nat.mul_add_mod', Nat.mod_eq_of_lt hi]

/-- The counts of two plots of pools that hold them stand apart. -/
theorem Stocked.counts_apart {cls : List Nat} (h : Stocked s cls) {j k i n : Nat} (hj : j ∈ cls) (hk : k ∈ cls)
    (hi : i < byClass s.alt.poolN j) (hn : n < byClass s.alt.poolN k) (ne : ¬ (j = k ∧ i = n)) :
    rcAddr s (j * 2 ^ 24 + i) + 2 ≤ rcAddr s (k * 2 ^ 24 + n) ∨ rcAddr s (k * 2 ^ 24 + n) + 2 ≤ rcAddr s (j * 2 ^ 24 + i) := by
  have hj_size := h.size j hj
  have hk_size := h.size k hk
  rw [rcAddr_at s j i (by omega), rcAddr_at s k n (by omega)]
  by_cases same : j = k
  · subst same
    have : i ≠ n := fun e => ne ⟨rfl, e⟩
    omega
  · have apart := h.apart j hj k hk same
    simp only [rangesMeet, Bool.and_eq_false_iff, decide_eq_false_iff_not] at apart
    omega

/-- A plot's count is written: another plot of those pools is as free as before. -/
theorem Stocked.plotFree_setRc {cls : List Nat} (h : Stocked s cls) {j k i n : Nat} (v : Nat) (hj : j ∈ cls) (hk : k ∈ cls)
    (hi : i < byClass s.alt.poolN j) (hn : n < byClass s.alt.poolN k) (ne : ¬ (j = k ∧ i = n)) :
    plotFree (setRc (k * 2 ^ 24 + n) v (picked s)) (j * 2 ^ 24 + i) = plotFree s (j * 2 ^ 24 + i) := by
  have base : PlainStack (picked s) := h.plain.congr rfl rfl
  have put : PlainStack (setRc (k * 2 ^ 24 + n) v (picked s)) := base.stackPut ..
  have there : rcAddr (setRc (k * 2 ^ 24 + n) v (picked s)) (j * 2 ^ 24 + i) = rcAddr s (j * 2 ^ 24 + i) := by
    unfold setRc rcAddr
    rw [base_stackPut]
  have count : rcOf (setRc (k * 2 ^ 24 + n) v (picked s)) (j * 2 ^ 24 + i) = rcOf s (j * 2 ^ 24 + i) := by
    rw [rcOf, rcOf, there, setRc, base.peek_stackPut _ _ _ _ ?_]
    · rfl
    · rw [length_leBytes]
      exact h.counts_apart hj hk hi hn ne
  unfold plotFree
  rw [count, put.not_poisoned, h.plain.not_poisoned]

theorem Stocked.takePlot {k : Nat} {ks : List Nat} (h : Stocked s (k :: ks)) :
    ∃ p t, Machine.takePlot k s = some (p, t) ∧ Stocked t ks := by
  have here : k ∈ k :: ks := List.mem_cons_self
  have some_free : 0 < (freePlots s k).length := by
    have := h.free k here
    rw [List.count_cons_self] at this
    omega
  obtain ⟨i, hi⟩ := List.exists_mem_of_length_pos some_free
  obtain ⟨inside, free⟩ := List.mem_filter.mp hi
  obtain ⟨p, t, taken⟩ := takePlot_finds (List.mem_range.mp inside) free
  obtain ⟨n, hn, rfl, -, rfl⟩ := takePlot_takes taken
  have base : PlainStack (picked s) := h.plain.congr rfl rfl
  have alt : (setRc (k * 2 ^ 24 + n) 1 (picked s)).alt = (picked s).alt := base_stackPut ..
  refine ⟨_, _, taken, base.stackPut .., fun j hj => ?_, fun j hj => ?_, fun j hj l hl => ?_⟩
  · rw [alt]
    exact h.size j (List.mem_cons_of_mem k hj)
  · have before := h.free j (List.mem_cons_of_mem k hj)
    have others : (freePlots s j).filter (fun i => !(j == k && i == n)) ⊆ freePlots (setRc (k * 2 ^ 24 + n) 1 (picked s)) j := by
      intro i hi
      obtain ⟨hi, other⟩ := List.mem_filter.mp hi
      obtain ⟨inside, free⟩ := List.mem_filter.mp hi
      have inside := List.mem_range.mp inside
      refine List.mem_filter.mpr ⟨by rw [alt]; exact List.mem_range.mpr inside, ?_⟩
      rw [h.plotFree_setRc 1 (List.mem_cons_of_mem k hj) here inside hn (fun e => by simp [e] at other)]
      exact free
    have distinct : (freePlots s j).Nodup := List.nodup_range.filter _
    have left := (List.subperm_of_subset (distinct.filter _) others).length_le
    rw [List.count_cons] at before
    by_cases same : j = k
    · subst same
      have one : (freePlots s j).filter (fun i => !(j == j && i == n)) = (freePlots s j).erase n := by
        rw [distinct.erase_eq_filter]
        exact List.filter_congr (fun i _ => by simp [bne])
      rw [one] at left
      have := List.le_length_erase (a := n) (l := freePlots s j)
      rw [if_pos (beq_self_eq_true _)] at before
      omega
    · have all : (freePlots s j).filter (fun i => !(j == k && i == n)) = freePlots s j := by
        rw [List.filter_eq_self]
        intro i _
        simp [same]
      rw [all] at left
      rw [if_neg (fun e => same (eq_of_beq e).symm)] at before
      omega
  · rw [alt]
    exact h.apart j (List.mem_cons_of_mem k hj) l (List.mem_cons_of_mem k hl)

/-- A pool that holds what is asked of it gives it. -/
theorem Stocked.takePlots {cls : List Nat} (h : Stocked s cls) : ∃ ps t, Machine.takePlots cls s = some (ps, t) := by
  induction cls generalizing s with
  | nil => exact ⟨[], s, rfl⟩
  | cons k ks ih =>
    obtain ⟨p, t, one, more⟩ := h.takePlot
    obtain ⟨ps, u, rest⟩ := ih more
    exact ⟨p :: ps, u, takePlots_cons.mpr ⟨p, t, ps, one, rest, rfl⟩⟩

/-- What the surroundings of a pool may change without touching it. -/
theorem Stocked.congr {cls : List Nat} (h : Stocked s cls) (plain : PlainStack t) (stack : t.ext.stack = s.ext.stack)
    (size : t.alt.poolN = s.alt.poolN) (base : t.alt.rcBase = s.alt.rcBase) : Stocked t cls := by
  have there (p : Nat) : rcAddr t p = rcAddr s p := by rw [rcAddr, rcAddr, base]
  have free (k : Nat) : freePlots t k = freePlots s k := by
    unfold freePlots
    rw [size]
    refine List.filter_congr (fun i _ => ?_)
    rw [plotFree, plotFree, rcOf, rcOf, there, h.plain.peek_congr plain stack, plain.not_poisoned, h.plain.not_poisoned]
  refine ⟨plain, fun k hk => ?_, fun k hk => ?_, fun j hj k hk => ?_⟩
  · rw [size]
    exact h.size k hk
  · rw [free]
    exact h.free k hk
  · rw [size, base]
    exact h.apart j hj k hk

theorem stocked_of_poolsHold {cls : List Nat} (h : PoolsHold s cls) (canonical : MemoriesCanonical s) : Stocked s cls := by
  obtain ⟨clean, host, room, apart⟩ := h
  obtain ⟨-, stack, -⟩ := canonical
  refine ⟨⟨stack, clean, fun l hl first => ?_⟩, fun k hk => (room k hk).1, fun k hk => (room k hk).2, apart⟩
  rw [host l hl] at first
  cases first

/-! Plots taken for a context (R235, R236). -/

theorem ends_needPlots {c : Nat} {cls ps : List Nat} :
    Ends (needPlots c cls) s ps t ↔ quotaFits s c cls = true ∧ takePlots cls s = some (ps, t) := by
  unfold needPlots
  rw [ends_get]
  rcases grab : grabPlots c cls s with _ | ⟨qs, u⟩
  · refine ⟨fun h => absurd h not_ends_altFail, fun ⟨fits, took⟩ => ?_⟩
    rw [grabPlots, if_pos fits, took] at grab
    cases grab
  · dsimp only
    rw [ends_set, ends_pure]
    unfold grabPlots at grab
    split at grab
    · rename_i fits
      rw [grab, Option.some.injEq, Prod.mk.injEq]
      exact ⟨fun ⟨e, f⟩ => ⟨fits, e.symm, f.symm⟩, fun ⟨_, e, f⟩ => ⟨e.symm, f.symm⟩⟩
    · cases grab

theorem quotaFits_congr (ctxs : t.ctxs = s.ctxs) (c : Nat) (cls : List Nat) : quotaFits t c cls = quotaFits s c cls := by
  unfold quotaFits
  rw [getCtx_congr ctxs]

end Sys2Proof.Proofs.Allotment
end

section

/-! PROOFS. The Allotment's layer: an operation with its record, and SEQ_CREATE. -/

namespace Sys2Proof.Proofs.Allotment
open Sys2Proof.Machine Sys2Proof.Laws Sys2Proof.Claims Sys2Proof.Proofs.Architecture Sys2Proof.Proofs.Arithmetic
  Sys2Proof.Proofs.Attention Sys2Proof.Proofs.Sequencer Sys2Proof.Proofs.Terrace

variable {s s1 t u : State}

/-! The record of an operation (R241, R366). -/

/-- From s to t an operation's record is queued: memories, lines and tables stay, and of the context all but its ring. -/
structure Recorded (c : Nat) (s t : State) : Prop where
  ter : t.ter = s.ter
  ext : t.ext = s.ext
  alt : t.alt = s.alt
  ctx : getCtx t c = { getCtx s c with ring := (getCtx t c).ring }

theorem Recorded.desc {c : Nat} (h : Recorded c s t) (q : Nat) : seqDesc t q = seqDesc s q :=
  seqDesc_congr h.ter h.ext (by rw [h.alt]) q

theorem Recorded.use {c : Nat} (h : Recorded c s t) : (getCtx t c).use = (getCtx s c).use := by rw [h.ctx]

theorem recorded_of_ring {c : Nat} (h : RingFrame c s t) : Recorded c s t := ⟨h.ter, h.ext, base_ringFrame h, h.same⟩

/-- An operation of the Allotment that ends in a record. -/
theorem live_altDone {c : CtxId} {o q st x : Nat} {h : HeadMsg} {act : MsgAct} (ha : Accepted s c.val o h) (ho : o ≠ 1)
    (hact : act c.val (waiterOf c.val h.msg) h.msg s = altDone c.val x q st s1) (frame : AltFrame c.val s s1) :
    ∃ t b, live (takeMsg c.val o act) s = .next t ∧ Answered s t c.val h st b ∧ Recorded c.val s1 t := by
  obtain ⟨r, traced⟩ := traceEv_only 7 x c.val 0 0 q (dEpoch (seqDesc s1 q)) s1
  have reply : altDone c.val x q st s1 =
      ({ s1 with trace := r }, .done st (altBody s1 q (getCtx s1 c.val).use)) := by rw [altDone, traced]
  obtain ⟨t, runs, answered, ring⟩ := live_takeMsg_records ha ho (hact.trans reply)
    ((chains_altFrame c.val).trans frame ⟨rfl, rfl, rfl, rfl, rfl⟩)
  have ends := recorded_of_ring ring
  exact ⟨t, _, runs, answered, ends.ter, ends.ext, ends.alt, ends.ctx⟩

theorem runAlt_ends {m : AltM Nat} {r : Nat} (h : Ends m s r t) (c : Nat) (w : Waiter) (msg : Msg) :
    runAlt m c w msg s = altDone c w.opc r stOK t := by
  unfold runAlt
  dsimp only
  rw [show (ExceptT.run m).run s = (.ok r, t) from h]

theorem runAlt_fails {m : AltM Nat} {st : Nat} (h : Fails m s (st, none) t) (hst : st ≠ altWaits) (c : Nat) (w : Waiter)
    (msg : Msg) : runAlt m c w msg s = altDone c w.opc (bits msg.bits.toNat 64 18) st t := by
  unfold runAlt
  dsimp only
  rw [show (ExceptT.run m).run s = (.error (st, none), t) from h]
  exact if_neg hst

/-! SEQ_CREATE (R231, R239, R242). -/

/-- The descriptor of a new sequence of context c, by its message's bits, its level-1 page's class and its root. -/
def newDesc (c w k root : Nat) : Nat :=
  c + 2 ^ 12 + bits w 82 4 * 2 ^ 16 + bits w 86 3 * 2 ^ 20 + plotClass (bits w 82 4) (hdimOf (bits w 86 3)) * 2 ^ 23 +
    k * 2 ^ 25 + bits w 89 8 * 2 ^ 32 + bits w 97 8 * 2 ^ 40 + 2 ^ 160 + bits w 128 32 * 2 ^ 192 + root * 2 ^ 224

/-- What SEQ_CREATE stores of a sequence of format fmt with this many layers (R237, R242). -/
structure Created (c fmt layers maxlen d : Nat) : Prop where
  valid : dValid d = true
  ctx : dCtx d = c
  fmt : dFmt d = fmt
  len : dLen d = 0
  plen : dPlen d = 0
  players : dPlayers d = 0
  epoch : dEpoch d = 1
  holds : dHolds d = 0
  maxlen : dMaxlen d = maxlen
  layers : dLayers d = layers

theorem bits_eq (x lo w : Nat) : bits x lo w = x / 2 ^ lo % 2 ^ w := by rw [bits, Nat.shiftRight_eq_div_pow]

theorem bit_eq (x k : Nat) : bit x k = decide (x / 2 ^ k % 2 = 1) := Nat.testBit_eq_decide_div_mod_eq

theorem plotClass_lt (fmt dim : Nat) : plotClass fmt dim < 4 := by
  unfold plotClass
  dsimp only
  split
  · decide
  · split
    · decide
    · split <;> decide

theorem created_newDesc (c w k root : Nat) (hc : c < 4096) (hk : k < 4) (hr : root < 2 ^ 26) :
    Created c (bits w 82 4) (bits w 89 8 + 1) (bits w 128 32) (newDesc c w k root % 2 ^ 512) := by
  have hf := bits_lt w 82 4
  have hh := bits_lt w 86 3
  have hl := bits_lt w 89 8
  have hg := bits_lt w 97 8
  have hm := bits_lt w 128 32
  have hp := plotClass_lt (bits w 82 4) (hdimOf (bits w 86 3))
  unfold newDesc
  generalize plotClass (bits w 82 4) (hdimOf (bits w 86 3)) = cls at *
  generalize bits w 82 4 = fmt at *
  generalize bits w 86 3 = hdim at *
  generalize bits w 89 8 = layers at *
  generalize bits w 97 8 = groups at *
  generalize bits w 128 32 = maxlen at *
  constructor
  case valid =>
    rw [dValid, bit_mod _ _ _ (by decide), bit_eq]
    simp only [decide_eq_true_eq]
    omega
  case layers =>
    rw [dLayers, bits_mod _ _ _ _ (by decide), bits_eq]
    omega
  all_goals
    simp only [dCtx, dFmt, dLen, dPlen, dPlayers, dEpoch, dHolds, dMaxlen]
    rw [bits_mod _ _ _ _ (by decide), bits_eq]
    omega

/-- The read that SEQ_CREATE and SEQ_FORK make of the descriptor of a new index. -/
theorem descRead_clean (f : Option Nat) (q : Nat) (clean : stackPoisoned s (seqDescAddr s q) 64 = false) :
    ∃ t, Ends (metaRd f (seqDescAddr s q) 64) (descLookup q s) (seqDesc s q) t ∧ Looked s t := by
  have looked := looked_descLookup q s
  refine ⟨_, ends_metaRd.mpr ⟨by rw [looked.poisoned, clean], ?_, rfl⟩, looked.trans (looked_queueMeta ..)⟩
  rw [looked.peek, seqDesc]

theorem fails_seqCreate_range {c w : Nat} (out : inRange (getCtx s c) (bits w 64 18) = false) :
    Fails (seqCreate c w) s (stSEQ_RANGE, none) s := by
  unfold seqCreate
  exact fails_get.mpr (fails_refuseIf (by rw [out]; rfl) _)

theorem fails_seqCreate_busy {c w : Nat} (range : inRange (getCtx s c) (bits w 64 18) = true)
    (clean : stackPoisoned s (seqDescAddr s (bits w 64 18)) 64 = false) (busy : dValid (seqDesc s (bits w 64 18)) = true) :
    ∃ t, Fails (seqCreate c w) s (stSEQ_BUSY, none) t ∧ Looked s t := by
  obtain ⟨t, read, looked⟩ := descRead_clean
    (if ownSeq c (seqDesc s (bits w 64 18)) then some (bits w 64 18) else none) _ clean
  refine ⟨t, ?_, looked⟩
  unfold seqCreate
  exact fails_get.mpr (fails_refuseIf_then (by rw [range]; rfl) (fails_modify.mpr (read.fails (fails_refuseIf busy _))))

/-- Where its checks hold and the pool has a plot, SEQ_CREATE makes the sequence. -/
theorem ends_seqCreate {c w : Nat} (range : inRange (getCtx s c) (bits w 64 18) = true)
    (clean : stackPoisoned s (seqDescAddr s (bits w 64 18)) 64 = false) (unused : dValid (seqDesc s (bits w 64 18)) = false)
    (layout : layoutOk (bits w 82 4) (bits w 86 3) = true) (pos pages : Nat)
    (hpos : pos = (bits w 89 8 + 1) * (bits w 97 8 + 1) * ceilDiv (bits w 128 32) 128) (hpages : pages = ceilDiv pos 2048)
    (few : pos ≤ 2 ^ 24) (small : pages ≤ 8192) (fits : quotaFits s c [l1ClassOf pages] = true) (i : Nat)
    (hi : i < byClass s.alt.poolN (l1ClassOf pages)) (free : plotFree s (l1ClassOf pages * 2 ^ 24 + i) = true) :
    ∃ n u v, n < byClass s.alt.poolN (l1ClassOf pages) ∧ Looked s u ∧
      takePlot (l1ClassOf pages) u = some (l1ClassOf pages * 2 ^ 24 + n, v) ∧
      Ends (seqCreate c w) s (bits w 64 18)
        (putDesc (bits w 64 18) (newDesc c w (l1ClassOf pages) (l1ClassOf pages * 2 ^ 24 + n))
          (clearPage (l1ClassOf pages * 2 ^ 24 + n) (chargePlots c [l1ClassOf pages * 2 ^ 24 + n] v))) := by
  obtain ⟨u, read, looked⟩ := descRead_clean
    (if ownSeq c (seqDesc s (bits w 64 18)) then some (bits w 64 18) else none) _ clean
  have pool : u.alt.poolN = s.alt.poolN := by
    obtain ⟨_, _, _, _, rfl⟩ := looked
    rfl
  obtain ⟨p, v, taken⟩ := takePlot_finds (s := u) (by rw [pool]; exact hi) (by rw [looked.plotFree]; exact free)
  obtain ⟨n, hn, rfl, -, -⟩ := takePlot_takes taken
  rw [pool] at hn
  refine ⟨n, u, v, hn, looked, taken, ?_⟩
  unfold seqCreate
  refine ends_get.mpr (ends_refuseIf.mpr ⟨by rw [range]; rfl, ends_modify.mpr (ends_bind.mpr ⟨_, _, read, ?_⟩)⟩)
  refine ends_refuseIf.mpr ⟨unused, ends_refuseIf.mpr ⟨by rw [layout]; rfl, ?_⟩⟩
  dsimp only
  rw [← hpos, ← hpages]
  refine ends_refuseIf.mpr ⟨?_, ends_bind.mpr ⟨_, _, ends_needPlots.mpr ⟨?_,
    takePlots_cons.mpr ⟨_, _, [], taken, rfl, rfl⟩⟩, ends_modify.mpr (ends_pure.mpr ⟨rfl, rfl⟩)⟩⟩
  · rw [Bool.or_eq_false_iff, decide_eq_false_iff_not, decide_eq_false_iff_not]
    exact ⟨Nat.not_lt.mpr few, Nat.not_lt.mpr small⟩
  · rw [quotaFits_congr looked.ctxs]
    exact fits

theorem byClass_atClass (k : Nat) (f : Nat → Nat) (t : Nat × Nat × Nat) : byClass (atClass k f t) k = f (byClass t k) := by
  rcases k with _ | _ | k <;> rfl

theorem ctxs_clearPage (p : Nat) (s : State) : (clearPage p s).ctxs = s.ctxs := by
  unfold clearPage stackZero
  split
  · rfl
  · exact (frame_foldl (fun s l => writeBack l s) (fun s l => frame_writeBack l s) _ s).ctxs

theorem ctxs_putDesc (q d : Nat) (s : State) : (putDesc q d s).ctxs = s.ctxs := by
  obtain ⟨m, p, ps, put⟩ := stackPut_only (seqDescAddr s q) (leBytes 64 d) s
  rw [putDesc, put]

end Sys2Proof.Proofs.Allotment
end

section

/-! PROOFS. A sequence created, and forked. -/

namespace Sys2Proof.Proofs.Allotment
open Sys2Proof.Machine Sys2Proof.Laws Sys2Proof.Claims Sys2Proof.Proofs.Architecture Sys2Proof.Proofs.Arithmetic
  Sys2Proof.Proofs.Attention Sys2Proof.Proofs.Sequencer Sys2Proof.Proofs.Terrace

variable {s t u : State}

/-! SEQ_CREATE's message. -/

section
variable {c : CtxId} {h : HeadMsg} (ha : Accepted s c.val 0x10 h)
include ha

theorem exec_seqCreate_range (out : inRange (getCtx s c.val) (arg h 64 18) = false) :
    ∃ (t : State) (b : Nat), exec (.seqCreate c) s = .next t ∧ Answered s t c.val h stSEQ_RANGE b ∧ t.ext = s.ext ∧
      (getCtx t c.val).use = (getCtx s c.val).use := by
  obtain ⟨t, b, runs, answered, recorded⟩ := live_altDone (act := seqCreateAct) ha (by decide)
    (runAlt_fails (fails_seqCreate_range out) (by norm_num [stSEQ_RANGE, altWaits]) c.val _ _) ((chains_altFrame _).refl s)
  exact ⟨t, b, runs, answered, recorded.ext, recorded.use⟩

variable (range : inRange (getCtx s c.val) (arg h 64 18) = true)
  (clean : stackPoisoned s (seqDescAddr s (arg h 64 18)) 64 = false)
include range clean

theorem exec_seqCreate_busy (busy : dValid (seqDesc s (arg h 64 18)) = true) :
    ∃ (t : State) (b : Nat), exec (.seqCreate c) s = .next t ∧ Answered s t c.val h stSEQ_BUSY b ∧ t.ext = s.ext ∧
      (getCtx t c.val).use = (getCtx s c.val).use := by
  obtain ⟨u, fails, looked⟩ := fails_seqCreate_busy range clean busy
  obtain ⟨t, b, runs, answered, recorded⟩ := live_altDone (act := seqCreateAct) ha (by decide)
    (runAlt_fails fails (by norm_num [stSEQ_BUSY, altWaits]) c.val _ _) (looked.frame _)
  exact ⟨t, b, runs, answered, recorded.ext.trans looked.ext, by rw [recorded.use, looked.getCtx]⟩

theorem exec_seqCreate_creates (unused : dValid (seqDesc s (arg h 64 18)) = false)
    (layout : layoutOk (arg h 82 4) (arg h 86 3) = true) {pos k : Nat}
    (hpos : pos = (arg h 89 8 + 1) * (arg h 97 8 + 1) * ceilDiv (arg h 128 32) 128) (few : pos ≤ 2 ^ 24)
    (small : ceilDiv pos 2048 ≤ 8192) (hk : k = l1ClassOf (ceilDiv pos 2048)) (fits : quotaFits s c.val [k] = true)
    (free : ∃ i, i < byClass s.alt.poolN k ∧ plotFree s (k * 2 ^ 24 + i) = true) (size : byClass s.alt.poolN k ≤ 2 ^ 24) :
    ∃ (t : State) (b : Nat), exec (.seqCreate c) s = .next t ∧ Answered s t c.val h 0 b ∧
      Created c.val (arg h 82 4) (arg h 89 8 + 1) (arg h 128 32) (seqDesc t (arg h 64 18)) ∧
      byClass (getCtx t c.val).use k = byClass (getCtx s c.val).use k + 1 ∧ t.ter.mem = s.ter.mem := by
  subst hk
  obtain ⟨i, hi, free⟩ := free
  obtain ⟨n, u, v, hn, looked, taken, ends⟩ := ends_seqCreate range clean unused layout pos _ hpos rfl few small fits i hi free
  generalize hk : l1ClassOf (ceilDiv pos 2048) = k at *
  have k_lt : k < 3 := by
    rw [← hk]
    unfold l1ClassOf
    split
    · decide
    · split <;> decide
  have cls : plotCls (k * 2 ^ 24 + n) = k := by
    unfold plotCls
    omega
  have hR := chains_altFrame c.val
  have grabbed := grabbed_takePlot c.val taken
  have frame : AltFrame c.val s (putDesc (arg h 64 18) (newDesc c.val h.msg.bits.toNat k (k * 2 ^ 24 + n))
      (clearPage (k * 2 ^ 24 + n) (chargePlots c.val [k * 2 ^ 24 + n] v))) :=
    hR.trans (hR.trans (looked.frame c.val) grabbed.frame) (hR.trans (altFrame_chargePlots ..)
      (hR.trans (altFrame_clearPage ..) (altFrame_putDesc ..)))
  obtain ⟨t, b, runs, answered, recorded⟩ := live_altDone (act := seqCreateAct) ha (by decide) (runAlt_ends ends c.val _ _) frame
  refine ⟨t, b, runs, answered, ?_, ?_, ?_⟩
  · rw [recorded.desc, seqDesc_putDesc]
    exact created_newDesc _ _ _ _ c.isLt (by omega) (by omega)
  · have charged : getCtx (chargePlots c.val [k * 2 ^ 24 + n] v) c.val =
        { getCtx s c.val with use := atClass k (· + 1) (getCtx s c.val).use } := by
      have one : chargePlots c.val [k * 2 ^ 24 + n] v = modUse c.val k (· + 1) v := by
        rw [chargePlots, List.foldl_cons, List.foldl_nil, cls]
      rw [one, modUse, if_pos (show c.val < 4096 from c.isLt), getCtx_modCtx_self, getCtx_congr grabbed.ctxs,
        looked.getCtx]
    rw [recorded.use, getCtx_congr ((ctxs_putDesc ..).trans (ctxs_clearPage ..)), charged, byClass_atClass]
  · rw [recorded.ter]
    exact frame.mem

end

/-! Reads of a table's positions (R238, R240). -/

/-- The plot at a table position with its count. -/
def plotCount (s : State) (d i : Nat) : Option (Nat × Nat) := (plotAtPos s d i).map (fun p => (p, rcOf s p))

theorem Looked.plotAtPos (h : Looked s t) (d i : Nat) : Machine.plotAtPos t d i = Machine.plotAtPos s d i := by
  unfold Machine.plotAtPos
  rw [h.pageOf]
  split
  · rfl
  · rw [h.peek, h.plotAt]

theorem Looked.plotCount (h : Looked s t) (d i : Nat) : plotCount t d i = Allotment.plotCount s d i := by
  unfold Allotment.plotCount
  rw [h.plotAtPos]
  exact congrArg (fun f => Option.map f (Machine.plotAtPos s d i)) (funext (fun p => by rw [h.rcOf]))

/-- The reads of a table position of sequence q: its two entries and its plot's count, and what f makes of them. -/
def readPos {β : Type} (q d i : Nat) (f : Option (Nat × Nat) → β) : AltM β := do
  let e1 ← metaRd (some q) (l1Addr (← get) d (i / 2048)) 8
  if bit e1 26 then
    let e2 ← metaRd (some q) (plotAt (← get) (bits e1 0 26) + 8 * (i % 2048)) 8
    if bit e2 26 then
      let n ← metaRd (some q) (rcAddr (← get) (bits e2 0 26)) 2
      pure (f (some (bits e2 0 26, n)))
    else pure (f none)
  else pure (f none)

section
variable {β : Type} {q d i : Nat} {f : Option (Nat × Nat) → β} {b : β}

theorem ends_readPos (h : Ends (readPos q d i f) s b t) : b = f (plotCount s d i) ∧ Looked s t := by
  unfold readPos at h
  obtain ⟨e1, t1, read1, h⟩ := ends_bind.mp (ends_get.mp h)
  obtain ⟨-, rfl, rfl⟩ := ends_metaRd.mp read1
  have first := looked_queueMeta (l1Addr s d (i / 2048)) 8 s
  unfold plotCount plotAtPos pageOf
  dsimp only
  split at h
  · rename_i page
    obtain ⟨e2, t2, read2, h⟩ := ends_bind.mp (ends_get.mp h)
    obtain ⟨-, rfl, rfl⟩ := ends_metaRd.mp read2
    rw [first.plotAt, first.peek] at h
    have second := first.trans (looked_queueMeta (plotAt s (bits (leNat (extPeek s 0 (l1Addr s d (i / 2048)) 8)) 0 26) +
      8 * (i % 2048)) 8 _)
    rw [if_pos page]
    dsimp only
    split at h
    · rename_i plot
      obtain ⟨n, t3, read3, h⟩ := ends_bind.mp (ends_get.mp h)
      obtain ⟨-, rfl, rfl⟩ := ends_metaRd.mp read3
      obtain ⟨rfl, rfl⟩ := ends_pure.mp h
      rw [second.rcAddr, second.peek, if_pos plot]
      exact ⟨rfl, second.trans (looked_queueMeta ..)⟩
    · rename_i noPlot
      obtain ⟨rfl, rfl⟩ := ends_pure.mp h
      rw [if_neg noPlot]
      exact ⟨rfl, second⟩
  · rename_i noPage
    obtain ⟨rfl, rfl⟩ := ends_pure.mp h
    rw [if_neg noPage]
    exact ⟨rfl, first⟩

/-- Where no word reads poisoned, the reads succeed. -/
theorem completes_readPos (clean : ∀ a n, stackPoisoned s a n = false) : Completes (readPos q d i f) s := by
  have read {u : State} (looked : Looked s u) (a n : Nat) :
      ∃ v w, Ends (metaRd (some q) a n) u v w ∧ Looked s w :=
    ⟨_, _, ends_metaRd.mpr ⟨by rw [looked.poisoned, clean], rfl, rfl⟩, looked.trans (looked_queueMeta ..)⟩
  unfold readPos
  obtain ⟨e1, t1, read1, looked1⟩ := read (looked_refl s) (l1Addr s d (i / 2048)) 8
  refine completes_get (read1.completes ?_)
  split
  · obtain ⟨e2, t2, read2, looked2⟩ := read looked1 (plotAt t1 (bits e1 0 26) + 8 * (i % 2048)) 8
    refine completes_get (read2.completes ?_)
    split
    · obtain ⟨n, t3, read3, -⟩ := read looked2 (rcAddr t2 (bits e2 0 26)) 2
      exact completes_get (read3.completes completes_pure)
    · exact completes_pure
  · exact completes_pure

end

/-! The reads of many positions. -/

section
variable {α β : Type} {f : α → AltM β} {g : State → α → β} {xs : List α} {bs : List β}

theorem ends_mapM_looked (hf : ∀ x s b t, Ends (f x) s b t → b = g s x ∧ Looked s t)
    (hg : ∀ x s t, Looked s t → g t x = g s x) (h : Ends (xs.mapM f) s bs t) : bs = xs.map (g s) ∧ Looked s t := by
  induction xs generalizing s bs with
  | nil =>
    obtain ⟨rfl, rfl⟩ := ends_mapM_nil.mp h
    exact ⟨rfl, looked_refl _⟩
  | cons x xs ih =>
    obtain ⟨b, v, rest, one, more, rfl⟩ := ends_mapM_cons.mp h
    obtain ⟨rfl, first⟩ := hf x s b v one
    obtain ⟨rfl, second⟩ := ih more
    refine ⟨?_, first.trans second⟩
    rw [List.map_cons, List.map_congr_left (fun y _ => hg y s v first)]

theorem completes_mapM (hf : ∀ x s b t, Ends (f x) s b t → Looked s t)
    (hs : ∀ x s, (∀ a n, stackPoisoned s a n = false) → Completes (f x) s) (clean : ∀ a n, stackPoisoned s a n = false) :
    Completes (xs.mapM f) s := by
  induction xs generalizing s with
  | nil => exact ⟨[], s, ends_mapM_nil.mpr ⟨rfl, rfl⟩⟩
  | cons x xs ih =>
    obtain ⟨b, u, one⟩ := hs x s clean
    obtain ⟨bs, t, more⟩ := ih (s := u) (fun a n => by rw [(hf x s b u one).poisoned, clean])
    exact ⟨b :: bs, t, ends_mapM_cons.mpr ⟨b, u, bs, one, more, rfl⟩⟩

end

/-! SEQ_FORK (R246). -/

/-- The plots of a sequence's table with their counts. -/
def forkedPlots (s : State) (d : Nat) : List (Nat × Nat) :=
  ((tablePos d).map (fun e => (plotCount s d e.2.2).toList)).flatten

theorem forkPlots_eq (q d : Nat) : forkPlots q d =
    ((tablePos d).mapM (fun e => readPos q d e.2.2 Option.toList) >>= fun es => pure es.flatten) := rfl

theorem ends_forkPlots {q d : Nat} {ps : List (Nat × Nat)} (h : Ends (forkPlots q d) s ps t) :
    ps = forkedPlots s d ∧ Looked s t := by
  rw [forkPlots_eq] at h
  obtain ⟨es, u, reads, h⟩ := ends_bind.mp h
  obtain ⟨rfl, rfl⟩ := ends_pure.mp h
  obtain ⟨rfl, looked⟩ := ends_mapM_looked (g := fun s (e : Nat × Nat × Nat) => (plotCount s d e.2.2).toList)
    (fun _ _ _ _ => ends_readPos) (fun _ _ _ h => by rw [h.plotCount]) reads
  exact ⟨rfl, looked⟩

theorem forkPlots_ends {q d : Nat} (clean : ∀ a n, stackPoisoned s a n = false) :
    ∃ t, Ends (forkPlots q d) s (forkedPlots s d) t := by
  obtain ⟨es, t, reads⟩ := completes_mapM (xs := tablePos d) (f := fun e => readPos q d e.2.2 Option.toList)
    (fun _ _ _ _ h => (ends_readPos h).2) (fun _ _ h => completes_readPos h) clean
  have ends : Ends (forkPlots q d) s es.flatten t := by
    rw [forkPlots_eq]
    exact ends_bind.mpr ⟨es, t, reads, ends_pure.mpr ⟨rfl, rfl⟩⟩
  rw [(ends_forkPlots ends).1] at ends
  exact ⟨t, ends⟩

/-- The classes of the pages that a fork takes: CHILD's level-1 page, and its level-2 pages. -/
def forkClasses (s : State) (d : Nat) : List Nat :=
  dL1Class d :: ((l1Used d).filter (fun k => (pageOf s d k).isSome)).map (fun _ => 0)

/-- A fork that succeeds has met its checks; CHILD's descriptor is written last. -/
theorem ends_seqFork {c w r : Nat} (h : Ends (seqFork c w) s r t) :
    ownSeq c (seqDesc s (bits w 64 18)) = true ∧ dPlayers (seqDesc s (bits w 64 18)) = 0 ∧
      dValid (seqDesc s (bits w 82 18)) = false ∧ r = bits w 82 18 ∧
      ∃ root u, AltFrame c s u ∧ t = putDesc (bits w 82 18) (childDesc (seqDesc s (bits w 64 18)) root) u := by
  have hR := chains_altFrame c
  unfold seqFork at h
  obtain ⟨-, h⟩ := ends_refuseIf.mp (ends_get.mp h)
  obtain ⟨d, s1, opened, h⟩ := ends_bind.mp h
  obtain ⟨-, own, rfl, looked1⟩ := ends_openSeq opened
  obtain ⟨-, h⟩ := ends_refuseIf.mp h
  obtain ⟨d2, s2, read, h⟩ := ends_bind.mp (ends_modify.mp (ends_get.mp h))
  obtain ⟨-, rfl, rfl⟩ := ends_metaRd.mp read
  have looked2 := looked1.trans ((looked_descLookup (bits w 82 18) s1).trans
    (looked_queueMeta (seqDescAddr s1 (bits w 82 18)) 64 _))
  obtain ⟨unused, h⟩ := ends_refuseIf.mp h
  obtain ⟨whole, h⟩ := ends_refuseIf.mp h
  obtain ⟨ps, s3, plots, h⟩ := ends_bind.mp h
  have looked3 := looked2.trans (ends_forkPlots plots).2
  obtain ⟨-, h⟩ := ends_refuseIf.mp h
  obtain ⟨got, s4, grab, h⟩ := ends_bind.mp (ends_get.mp h)
  have grabbed := grabbed_takePlots c (ends_needPlots.mp grab).2
  dsimp only at h
  have h := ends_modify.mp h
  obtain ⟨rfl, rfl⟩ := ends_pure.mp h
  refine ⟨own, by simpa using whole, ?_, rfl, _, _, ?_, rfl⟩
  · rwa [(looked1.trans (looked_descLookup (bits w 82 18) s1)).peek, looked1.descAddr] at unused
  · refine hR.trans (hR.trans (looked3.frame c) grabbed.frame) (hR.trans ?_ (altFrame_foldl (fun s _ => altFrame_setRc ..) _ _))
    refine hR.trans (hR.trans (altFrame_chargePlots ..) (hR.trans (altFrame_stackZero ..) (altFrame_beginXfers ..)))
      (altFrame_foldl (fun s e => ?_) _ _)
    split
    · exact hR.trans (altFrame_putEntry ..) (altFrame_copyStack ..)
    · exact altFrame_putEntry ..

/-- Where its conditions hold and the pools give the pages, a fork succeeds. -/
theorem completes_seqFork {c w : Nat} (canonical : MemoriesCanonical s) (d : Nat) (hd : d = seqDesc s (bits w 64 18))
    (child : inRange (getCtx s c) (bits w 82 18) = true) (range : inRange (getCtx s c) (bits w 64 18) = true)
    (own : ownSeq c d = true) (sound : dFault d = false) (unused : dValid (seqDesc s (bits w 82 18)) = false)
    (whole : dPlayers d = 0) (counts : ∀ e ∈ tablePos d, ∀ p, plotAtPos s d e.2.2 = some p → rcOf s p < 65535)
    (fits : quotaFits s c (forkClasses s d) = true) (pools : PoolsHold s (forkClasses s d)) :
    Completes (seqFork c w) s := by
  subst hd
  have stocked := stocked_of_poolsHold pools canonical
  have clean : ∀ a n, stackPoisoned s a n = false := stocked.plain.not_poisoned
  obtain ⟨s1, opened⟩ := openSeq_ends range own (clean _ _)
  have looked1 := (ends_openSeq opened).2.2.2
  obtain ⟨s2, read, looked2⟩ := descRead_clean (s := s1)
    (if ownSeq c (seqDesc s1 (bits w 82 18)) then some (bits w 82 18) else none)
    (bits w 82 18) (by rw [looked1.poisoned, clean])
  have looked2 := looked1.trans looked2
  obtain ⟨s3, plots⟩ := forkPlots_ends (s := s2) (q := bits w 64 18) (d := seqDesc s (bits w 64 18))
    (fun a n => by rw [looked2.poisoned, clean])
  have looked3 := looked2.trans (ends_forkPlots plots).2
  have below : (forkedPlots s2 (seqDesc s (bits w 64 18))).any (fun e => decide (65535 ≤ e.2)) = false := by
    rw [List.any_eq_false]
    intro e he
    obtain ⟨l, hl, he⟩ := List.mem_flatten.mp he
    obtain ⟨x, hx, rfl⟩ := List.mem_map.mp hl
    rw [looked2.plotCount, Option.mem_toList, plotCount, Option.map_eq_some_iff] at he
    obtain ⟨p, plot, rfl⟩ := he
    have := counts x hx p plot
    simpa using this
  have classes : forkClasses s3 (seqDesc s (bits w 64 18)) = forkClasses s (seqDesc s (bits w 64 18)) := by
    unfold forkClasses
    simp only [looked3.pageOf]
  have later : Stocked s3 (forkClasses s (seqDesc s (bits w 64 18))) := by
    obtain ⟨_, _, _, _, rfl⟩ := looked3
    exact stocked.congr (stocked.plain.congr rfl rfl) rfl rfl rfl
  obtain ⟨got, s4, taken⟩ := later.takePlots
  rw [← classes] at taken
  have grab : Ends (needPlots c (forkClasses s3 (seqDesc s (bits w 64 18)))) s3 got s4 := by
    refine ends_needPlots.mpr ⟨?_, taken⟩
    rw [quotaFits_congr looked3.ctxs, classes]
    exact fits
  unfold seqFork
  refine completes_get (completes_refuseIf (by rw [child]; rfl) (opened.completes (completes_refuseIf sound ?_)))
  refine completes_get (completes_modify (read.completes (completes_refuseIf ?_ (completes_refuseIf ?_ ?_))))
  · rw [looked1.desc]
    exact unused
  · rw [whole]
    rfl
  · exact plots.completes (completes_refuseIf below (completes_get (grab.completes (completes_modify completes_pure))))

/-! SEQ_FORK's message. -/

/-- What a fork's descriptor keeps of its parent's and what it sets anew (R246). -/
structure Forked (d e : Nat) : Prop where
  valid : dValid e = dValid d
  ctx : dCtx e = dCtx d
  fmt : dFmt e = dFmt d
  len : dLen e = dLen d
  plen : dPlen e = dLen d
  epoch : dEpoch e = 1
  pin : dPin e = 0
  holds : dHolds e = 0
  persist : dPersist e = false

/-- The fields of CHILD's descriptor that hold CHILD's own root, pin, holds and PERSIST leave every other field. -/
theorem bits_childDesc (d root k w : Nat) (apart : k + w ≤ 13 ∨ 14 ≤ k ∧ k + w ≤ 160) :
    bits (childDesc d root) k w = bits (dWithLen (dLen d) (dLen d) 0 d) k w := by
  unfold childDesc
  rw [bits_setBits_apart _ _ _ _ _ _ (by omega), bits_setBits_apart _ _ _ _ _ _ (by omega),
    bits_setBits_apart _ _ _ _ _ _ (by omega), bits_setBits_apart _ _ _ _ _ _ (by omega),
    bits_setBits_apart _ _ _ _ _ _ (by omega)]

theorem forked_childDesc (d root : Nat) : Forked d (childDesc d root % 2 ^ 512) where
  valid := by
    rw [dValid, bit_mod _ _ _ (by decide), childDesc, bit_setBits_apart _ _ _ _ _ (by omega),
      bit_setBits_apart _ _ _ _ _ (by omega), bit_setBits_apart _ _ _ _ _ (by omega), bit_setBits_apart _ _ _ _ _ (by omega),
      bit_setBits_apart _ _ _ _ _ (by omega), dWithLen, bit_setBits_apart _ _ _ _ _ (by omega),
      bit_setBits_apart _ _ _ _ _ (by omega), bit_setBits_apart _ _ _ _ _ (by omega), dValid]
  ctx := by rw [dCtx, bits_mod _ _ _ _ (by decide), bits_childDesc _ _ _ _ (by omega), bits_dWithLen _ _ _ _ _ _ (by omega), dCtx]
  fmt := by rw [dFmt, bits_mod _ _ _ _ (by decide), bits_childDesc _ _ _ _ (by omega), bits_dWithLen _ _ _ _ _ _ (by omega), dFmt]
  len := by
    rw [dLen, bits_mod _ _ _ _ (by decide), bits_childDesc _ _ _ _ (by omega)]
    exact (dLen_dWithLen d _ _ _).trans (Nat.mod_eq_of_lt (bits_lt ..))
  plen := by
    rw [dPlen, bits_mod _ _ _ _ (by decide), bits_childDesc _ _ _ _ (by omega)]
    exact (dPlen_dWithLen d _ _ _).trans (Nat.mod_eq_of_lt (bits_lt ..))
  epoch := by
    rw [dEpoch, bits_mod _ _ _ _ (by decide), childDesc, bits_setBits_apart _ _ _ _ _ _ (by omega),
      bits_setBits_apart _ _ _ _ _ _ (by omega), bits_setBits_apart _ _ _ _ _ _ (by omega),
      bits_setBits_apart _ _ _ _ _ _ (by omega), bits_setBits_self]
    rfl
  pin := by
    rw [dPin, bits_mod _ _ _ _ (by decide), childDesc, bits_setBits_apart _ _ _ _ _ _ (by omega),
      bits_setBits_apart _ _ _ _ _ _ (by omega), bits_setBits_self]
    rfl
  holds := by
    rw [dHolds, bits_mod _ _ _ _ (by decide), childDesc, bits_setBits_apart _ _ _ _ _ _ (by omega), bits_setBits_self]
    rfl
  persist := by
    rw [dPersist, bit_mod _ _ _ (by decide), childDesc]
    exact bit_setBits_clear ..

theorem valid_of_ownSeq {c d : Nat} (h : ownSeq c d = true) : dValid d = true := by
  simp only [ownSeq, Bool.and_eq_true] at h
  exact h.1.1

theorem exec_seqFork {c : CtxId} {h : HeadMsg} (ha : Accepted s c.val 0x12 h)
    (completes : Completes (seqFork c.val h.msg.bits.toNat) s) :
    ∃ (t : State) (b : Nat), exec (.seqFork c) s = .next t ∧ Answered s t c.val h 0 b ∧
      ownSeq c.val (seqDesc s (arg h 64 18)) = true ∧ dPlayers (seqDesc s (arg h 64 18)) = 0 ∧
      dValid (seqDesc s (arg h 82 18)) = false ∧ Forked (seqDesc s (arg h 64 18)) (seqDesc t (arg h 82 18)) ∧
      t.ter.mem = s.ter.mem := by
  obtain ⟨r, s1, ends⟩ := completes
  obtain ⟨own, whole, unused, rfl, root, u, frame, rfl⟩ := ends_seqFork ends
  have written : AltFrame c.val s (putDesc (arg h 82 18) (childDesc (seqDesc s (arg h 64 18)) root) u) :=
    (chains_altFrame c.val).trans frame (altFrame_putDesc ..)
  obtain ⟨t, b, runs, answered, recorded⟩ :=
    live_altDone (act := seqForkAct) ha (by decide) (runAlt_ends ends c.val _ _) written
  refine ⟨t, b, runs, answered, own, whole, unused, ?_, ?_⟩
  · rw [recorded.desc, seqDesc_putDesc]
    exact forked_childDesc ..
  · rw [recorded.ter]
    exact written.mem

/-- Settles O48: each outcome of SEQ_CREATE's checks is a run of its operation, a fork that succeeds writes CHILD's
descriptor last, and where the pools hold the pages a fork succeeds. -/
theorem sequencesAreCreatedAndForked : Obligations.SequencesAreCreatedAndForked := by
  unfold Obligations.SequencesAreCreatedAndForked
  refine ⟨fun s c h ha _ => ⟨exec_seqCreate_range ha, fun range clean => ⟨exec_seqCreate_busy ha range clean,
    fun unused layout few small fits free size => ?create⟩⟩, fun s c h ha canonical stands => ?fork⟩
  case create =>
    obtain ⟨t, b, runs, answered, made, use, mem⟩ :=
      exec_seqCreate_creates ha range clean unused layout rfl few small rfl fits free size
    exact ⟨t, b, runs, answered, made.valid, made.ctx, made.fmt, made.len, made.plen, made.players, made.epoch, made.holds,
      made.maxlen, made.layers, use, mem⟩
  case fork =>
    have completes : Completes (seqFork c.val h.msg.bits.toNat) s := by
      rcases stands with ⟨s1, r, ends⟩ | ⟨child, range, own, sound, unused, whole, counts, fits, pools⟩
      · exact ⟨r, s1, ends⟩
      · exact completes_seqFork canonical _ rfl child range own sound unused whole counts fits pools
    obtain ⟨t, b, runs, answered, own, whole, unused, forked, mem⟩ := exec_seqFork ha completes
    exact ⟨t, b, runs, answered, own, whole, unused, forked.valid.trans (valid_of_ownSeq own), forked.ctx, forked.fmt,
      forked.len, forked.plen, forked.epoch, forked.pin, forked.holds, forked.persist, mem⟩

end Sys2Proof.Proofs.Allotment
end

section

/-! PROOFS. A layout put into force over a dirty line that is too long: ALT_CONFIG leaves a descriptor that is not 0. -/

namespace Sys2Proof.Proofs.Allotment
open Sys2Proof.Machine Sys2Proof.Claims

/-! What refutes the statement: the reference counts end where the descriptors begin, and the last line of
the counts stands in the Terrace dirty and with 257 bytes, which MemoriesCanonical permits. Zeroing the counts writes
that line back, and its last byte falls on descriptor 0, which is not among the lines written back after it. -/

/-- The parameter block at 3_0000h (R234): descriptors at 1000_0000h, 2,048 plots of class 0 and 4 of each other, and
the counts of class 0 in the 4 KiB below the descriptors. -/
def countsBelowDescriptors : List Nat :=
  [0x10000000, 0x20000000, 0x28000000, 0x2C000000, 2048, 4, 4, 0x0FFFF000, 0x30001000, 0x30002000]

/-- The block's 72 bytes: fields of 64 bits but the three numbers of plots, of 32 each. -/
def countsBelowDescriptorsBlock : Nat :=
  0x10000000 + 0x20000000 * 2 ^ 64 + 0x28000000 * 2 ^ 128 + 0x2C000000 * 2 ^ 192 + 2048 * 2 ^ 256 + 4 * 2 ^ 288 + 4 * 2 ^ 320 +
    0x0FFFF000 * 2 ^ 384 + 0x30001000 * 2 ^ 448 + 0x30002000 * 2 ^ 512

/-- The last line of the counts, dirty, with one byte more than a line has. -/
def overlongLine : CacheLine := ⟨0, 0x0FFFFF, List.replicate 257 1, true⟩

/-- A state that is up and whose management ring has ALT_CONFIG with that block at its head, and that line. -/
def overlongState : State :=
  let host := memWrite (memWrite State.reset.ext.host 0x10000 (leBytes 64 (3 + 3 * 4 + 0x85 * 2 ^ 8 + 0x30000 * 2 ^ 64)))
    0x30000 (leBytes 72 countsBelowDescriptorsBlock)
  { State.reset with
    sys := { State.reset.sys with phase := .up, capv := true, coreSts := (List.range 19).map (fun c => (c, 0)) }
    mgmt := { State.reset.mgmt with
      ready := true, en := true, mdbState := 1, attachNo := 1, major := 3, fmask := 0xFFFFE
      ring := { Ring.empty with sqBase := 0x10000, cqBase := 0x20000, sqLog2 := 6, cqLog2 := 6, sqTail := 4 } }
    ext := { State.reset.ext with host := host }
    ter := { State.reset.ter with lines := [overlongLine] } }

/-- The message at the head of its ring. -/
def overlongMsg : HeadMsg := (headMsg overlongState mgmtCtx).getD ⟨0, 0, 0, ⟨0, 0, 0, 0, 0⟩⟩

/-- What reading the block gives. -/
def overlongRead : State × Except Nat (List Nat) :=
  readPblk 0 true (arg overlongMsg 64 64) [64, 64, 64, 64, 24, 24, 24, 64, 64, 64] overlongState

theorem overlong_accepted : Accepted overlongState mgmtCtx 0x85 overlongMsg ∧ MemoriesCanonical overlongState ∧
    anyContext overlongState = false := by
  decide +kernel

theorem overlongRead_eq : overlongRead = (overlongRead.1, .ok countsBelowDescriptors) := by
  have fields : overlongRead.2 = .ok countsBelowDescriptors := by decide +kernel
  rw [← fields]

/-- The layout of the block. -/
def overlongLayout : Allot :=
  { overlongRead.1.alt with
    configured := true, descBase := 0x10000000, poolBase := (0x20000000, 0x28000000, 0x2C000000), poolN := (2048, 4, 4)
    rcBase := (0x0FFFF000, 0x30001000, 0x30002000), lostPlots := [], groupOf := [], groupUse := [], dcache := [] }

theorem overlong_disjoint :
    let mine := (altRanges { overlongRead.1 with alt := overlongLayout }).filter (fun r => decide (0 < r.2))
    anyOverlap mine = false ∧
      mine.any (fun r => (otherPrivate overlongRead.1).any (fun x => rangesMeet r.1 r.2 x.1 x.2)) = false := by
  decide +kernel

/-- After ALT_CONFIG descriptor 0 reads 1. -/
theorem overlong_descriptor : (match exec .altConfig overlongState with
    | .next t => seqDesc t 0
    | _ => 0) = 1 := by
  decide +kernel

/-- Refutes O47: ALT_CONFIG with countsBelowDescriptors in overlongState is accepted and every range fits, and
descriptor 0 reads 1 afterwards. -/
theorem not_allotmentIsConfigured : ¬ Obligations.AllotmentIsConfigured := by
  unfold Obligations.AllotmentIsConfigured
  rintro ⟨configures, -⟩
  obtain ⟨accepted, canonical, idle⟩ := overlong_accepted
  obtain ⟨disjoint, clear⟩ := overlong_disjoint
  obtain ⟨t, runs, -, -, zero, -⟩ := (configures _ _ _ _ accepted canonical overlongRead_eq).2 idle
    (by decide) (by decide) (by decide) (by decide) (by decide) disjoint clear
  have one := overlong_descriptor
  rw [runs] at one
  exact absurd ((zero 0 (by decide)).symm.trans one) (by decide)

end Sys2Proof.Proofs.Allotment
end

section

/-! PROOFS. A run of SEQ_APPEND: the positions it meets, its source, and its end in a commit or a wait. -/

namespace Sys2Proof.Proofs.Allotment
open Sys2Proof.Machine Sys2Proof.Laws Sys2Proof.Claims Sys2Proof.Proofs.Architecture Sys2Proof.Proofs.Arithmetic
  Sys2Proof.Proofs.Attention Sys2Proof.Proofs.Sequencer Sys2Proof.Proofs.Terrace

variable {s t u : State}

/-! The positions that an append writes (R243, R245). -/

/-- What stands at the position of block e.1 and pair e.2, by the plot there and its count. -/
def appPos (d : Nat) (e : Nat × Nat) (o : Option (Nat × Nat)) : AppPos :=
  ⟨e.1, e.2, e.1 * seqPairs d + e.2, o.map Prod.fst, o.any (fun x => decide (1 < x.2))⟩

/-- What stands at the positions of these blocks and pairs. -/
def appPoss (s : State) (d : Nat) (pairs blocks : List Nat) : List AppPos :=
  (blocks.flatMap (fun j => pairs.map (fun p => (j, p)))).map
    (fun e => appPos d e (plotCount s d (e.1 * seqPairs d + e.2)))

theorem appendPositions_eq (q d : Nat) (pairs blocks : List Nat) : appendPositions q d pairs blocks =
    (blocks.flatMap (fun j => pairs.map (fun p => (j, p)))).mapM
      (fun e => readPos q d (e.1 * seqPairs d + e.2) (appPos d e)) := rfl

section
variable {q d : Nat} {pairs blocks : List Nat}

theorem ends_appendPositions {ps : List AppPos} (h : Ends (appendPositions q d pairs blocks) s ps t) :
    ps = appPoss s d pairs blocks ∧ Looked s t := by
  rw [appendPositions_eq] at h
  exact ends_mapM_looked (g := fun s e => appPos d e (plotCount s d (e.1 * seqPairs d + e.2)))
    (fun _ _ _ _ => ends_readPos) (fun _ _ _ h => by rw [h.plotCount]) h

theorem appendPositions_ends (clean : ∀ a n, stackPoisoned s a n = false) :
    ∃ t, Ends (appendPositions q d pairs blocks) s (appPoss s d pairs blocks) t := by
  obtain ⟨ps, t, ends⟩ := completes_mapM (xs := blocks.flatMap (fun j => pairs.map (fun p => (j, p))))
    (f := fun e => readPos q d (e.1 * seqPairs d + e.2) (appPos d e)) (fun _ _ _ _ h => (ends_readPos h).2)
    (fun _ _ h => completes_readPos h) clean
  have ends : Ends (appendPositions q d pairs blocks) s ps t := ends
  rw [(ends_appendPositions ends).1] at ends
  exact ⟨t, ends⟩

end

theorem Looked.appPoss (h : Looked s t) (d : Nat) (pairs blocks : List Nat) :
    appPoss t d pairs blocks = Allotment.appPoss s d pairs blocks := by
  unfold Allotment.appPoss
  simp only [h.plotCount]

/-! The source of an append (R244). -/

theorem ends_appendSource {c space a n : Nat} {bs : List Byte} (h : Ends (appendSource c space a n) s bs t) :
    AltFrame c s t := by
  unfold appendSource at h
  have h := ends_get.mp h
  split at h
  · obtain ⟨-, h⟩ := ends_refuseIf.mp h
    obtain ⟨sys, ter, only, -, mem⟩ := terRead_only s c a n
    split at h
    · rename_i read
      have h := ends_set.mp h
      obtain ⟨-, rfl⟩ := ends_pure.mp h
      rw [read] at only
      obtain rfl := only
      exact ⟨mem, rfl, rfl, rfl, rfl⟩
    · exact absurd (ends_set.mp h) not_ends_altFail
  · obtain ⟨-, h⟩ := ends_refuseIf.mp h
    have fill := fillFrame_extRead s c false 0 a n
    split at h
    · exact absurd (ends_set.mp h) not_ends_altFail
    · rename_i read
      obtain ⟨-, h⟩ := ends_refuseIf.mp (ends_set.mp h)
      obtain ⟨-, rfl⟩ := ends_pure.mp h
      rw [read] at fill
      exact ⟨fill.mem, fill.out, fill.pending, congrArg Ctx.ring (getCtx_congr fill.ctxs c), by rw [fill.alt]⟩

/-! What the writes of an append keep. -/

section
variable (c d : Nat)

theorem altFrame_copyPlot (block src dst : Nat) (s : State) : AltFrame c s (copyPlot d block src dst s) := by
  have hR := chains_altFrame c
  unfold copyPlot
  dsimp only
  split
  · exact hR.trans (hR.trans (altFrame_copyStack ..) (altFrame_copyStack ..)) (altFrame_copyStack ..)
  · exact hR.trans (altFrame_copyStack ..) (altFrame_copyStack ..)

theorem altFrame_writeSlots (block plot plen : Nat) (seg : List Byte) (s : State) :
    AltFrame c s (writeSlots d block plot plen seg s) := by
  have hR := chains_altFrame c
  unfold writeSlots
  dsimp only
  split
  · exact hR.trans (hR.trans (altFrame_stackPut ..) (altFrame_stackPut ..))
      (hR.trans (altFrame_stackPut ..) (altFrame_stackPut ..))
  · exact hR.trans (altFrame_stackPut ..) (altFrame_stackPut ..)

theorem altFrame_addPages (ks pages : List Nat) (s : State) : AltFrame c s (addPages d ks pages s) :=
  altFrame_foldl (fun _ _ => (chains_altFrame c).trans (altFrame_clearPage ..) (altFrame_putEntry ..)) _ s

/-- A fresh plot is named in its page, where there is one. -/
theorem altFrame_linkPlot (e : AppPos × Nat) (s : State) : AltFrame c s (match pageOf s d (e.1.pos / 2048) with
    | some pg => putEntry (plotAt s pg + 8 * (e.1.pos % 2048)) (entryOf e.2) s
    | none => s) := by
  split
  · exact altFrame_putEntry ..
  · exact (chains_altFrame c).refl s

end

/-- The writes of an append, in their order: pages, charges, the tables, copies and slots. -/
theorem altFrame_written {c d n : Nat} {ks pages ps : List Nat} {fresh : List (AppPos × Nat)} {copies poss : List AppPos}
    {src dst dst' : AppPos → Nat} {plen : Nat} {seg : AppPos → List Byte} {s : State} :
    AltFrame c s (poss.foldl (fun s p => writeSlots d p.block (dst' p) plen (seg p) s)
      (beginXfers n (copies.foldl (fun s p => copyPlot d p.block (src p) (dst p) s)
        (fresh.foldl (fun s e =>
          match pageOf s d (e.1.pos / 2048) with
          | some pg => putEntry (plotAt s pg + 8 * (e.1.pos % 2048)) (entryOf e.2) s
          | none => s) (chargePlots c ps (addPages d ks pages s)))))) := by
  have hR := chains_altFrame c
  refine hR.trans (hR.trans ?tables (hR.trans (altFrame_foldl (fun _ _ => altFrame_copyPlot ..) _ _) (altFrame_beginXfers ..)))
    (altFrame_foldl (fun _ _ => altFrame_writeSlots ..) _ _)
  exact hR.trans (hR.trans (altFrame_addPages ..) (altFrame_chargePlots ..))
    (altFrame_foldl (fun _ _ => altFrame_linkPlot ..) _ _)

/-! A run of SEQ_APPEND (R243 to R245). -/

/-- The pairs and blocks that an append of these layers up to length plen writes. -/
def appPairs (d layer0 nl : Nat) : List Nat := (List.range (nl * dGroups d)).map (· + layer0 * dGroups d)

def appBlocks (d plen : Nat) : List Nat := (List.range (ceilDiv plen 128 - dLen d / 128)).map (· + dLen d / 128)

/-- The shared plots that an append meets. -/
def appCopies (s : State) (d layer0 nl plen : Nat) : List AppPos :=
  (appPoss s d (appPairs d layer0 nl) (appBlocks d plen)).filter (fun p => p.shared)

/-- The append of players layers up to length plen, once its bytes are written: it commits where no plot was shared, and
waits for its swap of n plots otherwise (R243, R245). -/
inductive AppendEnd (wt : Waiter) (c q d plen players n : Nat) (u : State) : Option Nat → State → Prop
  | commits (unshared : n = 0) : AppendEnd wt c q d plen players n u (some q) (putDesc q (appendCommit d plen players) u)
  | waits (shared : n ≠ 0) (swaps : List (Nat × Nat × Nat)) (each : swaps.length = n) :
    AppendEnd wt c q d plen players n u none
      (modCtx c (fun x => { x with altWait := some ⟨wt, q, swaps, dLen d, plen, players⟩ }) u)

theorem ends_seqAppend {c w : Nat} {wt : Waiter} {r : Option Nat} (h : Ends (seqAppend c wt w) s r t) :
    let d := seqDesc s (bits w 64 18)
    let nl := bits w 90 8 + 1
    ∃ plen u, appendPlen d (bits w 128 32) (bits w 82 8) nl = some plen ∧ plen ≤ dMaxlen d ∧ AltFrame c s u ∧
      AppendEnd wt c (bits w 64 18) d plen (bits w 82 8 + nl) (appCopies s d (bits w 82 8) nl plen).length u r t := by
  intro d nl
  have hR := chains_altFrame c
  unfold seqAppend at h
  obtain ⟨d', s1, opened, h⟩ := ends_bind.mp h
  obtain ⟨-, -, rfl, looked1⟩ := ends_openSeq opened
  obtain ⟨-, h⟩ := ends_refuseIf.mp h
  dsimp only at h
  split at h
  · exact absurd h not_ends_altFail
  rename_i plen length
  obtain ⟨below, h⟩ := ends_refuseIf.mp h
  obtain ⟨-, h⟩ := ends_refuseIf.mp h
  obtain ⟨ps, s2, reads, h⟩ := ends_bind.mp h
  obtain ⟨met, looked2⟩ := ends_appendPositions reads
  rw [looked1.appPoss] at met
  subst met
  have looked := looked1.trans looked2
  obtain ⟨-, s3, -, h⟩ := ends_bind.mp (ends_get.mp h)
  obtain ⟨src, s4, source, h⟩ := ends_bind.mp (ends_set.mp h)
  obtain ⟨got, s5, grab, h⟩ := ends_bind.mp h
  have grabbed := grabbed_takePlots c (ends_needPlots.mp grab).2
  have frame := hR.trans (hR.trans (looked.frame c) (ends_appendSource source)) grabbed.frame
  have h := ends_get.mp h
  split at h
  · rename_i unshared
    have h := ends_set.mp h
    obtain ⟨rfl, rfl⟩ := ends_pure.mp h
    exact ⟨plen, _, length, by simpa using below, hR.trans frame altFrame_written,
      .commits (List.isEmpty_iff_length_eq_zero.mp unshared)⟩
  · rename_i shared
    have h := ends_set.mp h
    obtain ⟨rfl, rfl⟩ := ends_pure.mp h
    exact ⟨plen, _, length, by simpa using below, hR.trans frame altFrame_written,
      .waits (fun none_shared => shared (List.isEmpty_iff_length_eq_zero.mpr none_shared)) _ (List.length_map _)⟩

end Sys2Proof.Proofs.Allotment
end

section

/-! PROOFS. SEQ_APPEND with its record or its wait, and the descriptor of a commit. -/

namespace Sys2Proof.Proofs.Allotment
open Sys2Proof.Machine Sys2Proof.Laws Sys2Proof.Claims Sys2Proof.Proofs.Architecture Sys2Proof.Proofs.Arithmetic
  Sys2Proof.Proofs.Attention Sys2Proof.Proofs.Sequencer Sys2Proof.Proofs.Terrace

variable {s t u : State}

/-! The descriptor of an append that commits (R243). -/

/-- What a commit leaves of descriptor d with this new length and these layers in. -/
def Committed (d e plen players : Nat) : Prop :=
  dEpoch e = (dEpoch d + 1) % 2 ^ 32 ∧ dValid e = dValid d ∧ dMaxlen e = dMaxlen d ∧
    (players = dLayers d → dLen e = plen ∧ dPlen e = plen ∧ dPlayers e = 0) ∧
    (players ≠ dLayers d → dLen e = dLen d ∧ dPlen e = plen ∧ dPlayers e = players)

theorem dEpoch_dWithLen (len plen players d : Nat) : dEpoch (dWithLen len plen players d) = dEpoch d :=
  bits_dWithLen d len plen players 160 32 (by omega)

/-- A field of a descriptor that a commit writes, where no commit changes it. -/
theorem bits_appendCommit (d plen players k w : Nat) (apart : k + w ≤ 64 ∨ 136 ≤ k ∧ k + w ≤ 160 ∨ 192 ≤ k)
    (within : k + w ≤ 512) : bits (appendCommit d plen players % 2 ^ 512) k w = bits d k w := by
  rw [bits_mod _ _ _ _ within, appendCommit, bits_dBump _ _ _ (by omega)]
  split <;> exact bits_dWithLen _ _ _ _ _ _ (by omega)

theorem committed_appendCommit {d plen players : Nat} (length : plen < 2 ^ 32) (layers : players = dLayers d ∨ players < 2 ^ 8) :
    Committed d (appendCommit d plen players % 2 ^ 512) plen players := by
  have lenField (e : Nat) : dLen (dBump e % 2 ^ 512) = dLen e := by
    rw [dLen, bits_mod _ _ _ _ (by decide), bits_dBump _ _ _ (by omega), dLen]
  have plenField (e : Nat) : dPlen (dBump e % 2 ^ 512) = dPlen e := by
    rw [dPlen, bits_mod _ _ _ _ (by decide), bits_dBump _ _ _ (by omega), dPlen]
  have playersField (e : Nat) : dPlayers (dBump e % 2 ^ 512) = dPlayers e := by
    rw [dPlayers, bits_mod _ _ _ _ (by decide), bits_dBump _ _ _ (by omega), dPlayers]
  refine ⟨?epoch, ?valid, bits_appendCommit _ _ _ _ _ (by omega) (by omega), fun last => ?last, fun more => ?more⟩
  case epoch =>
    rw [dEpoch, bits_mod _ _ _ _ (by decide), appendCommit, ← dEpoch, dEpoch_dBump]
    split <;> rw [dEpoch_dWithLen]
  case valid =>
    have kept (len plen players : Nat) : bit (dBump (dWithLen len plen players d)) 12 = bit d 12 := by
      rw [dBump, bit_setBits_apart _ _ _ _ _ (by omega), dWithLen, bit_setBits_apart _ _ _ _ _ (by omega),
        bit_setBits_apart _ _ _ _ _ (by omega), bit_setBits_apart _ _ _ _ _ (by omega)]
    rw [dValid, bit_mod _ _ _ (by decide), appendCommit]
    split <;> exact kept ..
  case last =>
    rw [appendCommit, if_pos last, lenField, plenField, playersField, dLen_dWithLen, dPlen_dWithLen, dPlayers_dWithLen,
      Nat.mod_eq_of_lt length]
    exact ⟨rfl, rfl, rfl⟩
  case more =>
    rw [appendCommit, if_neg more, lenField, plenField, playersField, dLen_dWithLen, dPlen_dWithLen, dPlayers_dWithLen,
      Nat.mod_eq_of_lt length, Nat.mod_eq_of_lt (layers.resolve_left more),
      Nat.mod_eq_of_lt (show dLen d < 2 ^ 32 from bits_lt ..)]
    exact ⟨rfl, rfl, rfl⟩

/-- Layers that continue a sequence reach at most its last. -/
theorem layers_of_appendPlen {d ntok layer0 nl plen : Nat} (h : appendPlen d ntok layer0 nl = some plen) :
    layer0 + nl = dLayers d ∨ layer0 + nl < 2 ^ 8 := by
  have most : dLayers d ≤ 2 ^ 8 := bits_lt d 32 8
  unfold appendPlen at h
  split at h
  · cases h
  · rename_i ok
    omega

/-! SEQ_APPEND's message. -/

theorem exec_seqAppend {c : CtxId} {h : HeadMsg} {r : Option Nat} {s1 : State} (ha : Accepted s c.val 0x11 h)
    (ends : Ends (seqAppend c.val (waiterOf c.val h.msg) h.msg.bits.toNat) s r s1) :
    let d := seqDesc s (arg h 64 18)
    let nl := arg h 90 8 + 1
    ∃ plen, appendPlen d (arg h 128 32) (arg h 82 8) nl = some plen ∧ plen ≤ dMaxlen d ∧
      let n := (appCopies s d (arg h 82 8) nl plen).length
      ((n = 0 ∧ r = some (arg h 64 18) ∧ ∃ (t : State) (b : Nat), exec (.seqAppend c) s = .next t ∧
          Answered s t c.val h 0 b ∧ Committed d (seqDesc t (arg h 64 18)) plen (arg h 82 8 + nl) ∧ t.ter.mem = s.ter.mem) ∨
        (n ≠ 0 ∧ r = none ∧ ∃ (t : State) (a : AltWait), exec (.seqAppend c) s = .next t ∧ Taken s t c.val h ∧
          (getCtx t c.val).altWait = some a ∧ a.seq = arg h 64 18 ∧ a.newPlen = plen ∧ a.newPlayers = arg h 82 8 + nl ∧
          a.swaps.length = n ∧ t.ter.mem = s.ter.mem)) := by
  intro d nl
  obtain ⟨plen, u, length, below, frame, finish⟩ := ends_seqAppend ends
  refine ⟨plen, length, below, ?_⟩
  intro n
  have result : seqAppendAct c.val (waiterOf c.val h.msg) h.msg s = match r with
      | some q => altDone c.val (waiterOf c.val h.msg).opc q stOK s1
      | none => (s1, .later) := by
    unfold seqAppendAct
    dsimp only
    rw [show (ExceptT.run (seqAppend c.val (waiterOf c.val h.msg) h.msg.bits.toNat)).run s = (.ok r, s1) from ends]
    cases r <;> rfl
  cases finish with
  | commits unshared =>
    have written := (chains_altFrame c.val).trans frame
      (altFrame_putDesc c.val (arg h 64 18) (appendCommit d plen (arg h 82 8 + nl)) u)
    obtain ⟨t, b, runs, answered, recorded⟩ := live_altDone (act := seqAppendAct) ha (by decide) result written
    refine .inl ⟨unshared, rfl, t, b, runs, answered, ?_, ?_⟩
    · rw [recorded.desc, seqDesc_putDesc]
      exact committed_appendCommit (lt_of_le_of_lt below (bits_lt ..)) (layers_of_appendPlen length)
    · rw [recorded.ter]
      exact written.mem
  | waits shared swaps each =>
    have waiting := (chains_altFrame c.val).trans frame (altFrame_modCtx c.val c.val (fun x => { x with
      altWait := some ⟨waiterOf c.val h.msg, arg h 64 18, swaps, dLen d, plen, arg h 82 8 + nl⟩ }) u (fun _ => rfl))
    obtain ⟨t, runs, taken, ring⟩ := live_takeMsg_later (act := seqAppendAct) ha (by decide) result
      (.of_out_eq waiting.out) waiting.pending (congrArg Ring.held waiting.ring)
    refine .inr ⟨shared, rfl, t, ⟨waiterOf c.val h.msg, arg h 64 18, swaps, dLen d, plen, arg h 82 8 + nl⟩, runs, taken, ?_,
      rfl, rfl, rfl, each, ?_⟩
    · rw [ring.same, getCtx_modCtx_self]
    · rw [ring.ter]
      exact waiting.mem

end Sys2Proof.Proofs.Allotment
end

section

/-! PROOFS. Where its checks, the pools and the source allow, SEQ_APPEND succeeds. -/

namespace Sys2Proof.Proofs.Allotment
open Sys2Proof.Machine Sys2Proof.Laws Sys2Proof.Claims Sys2Proof.Proofs.Architecture Sys2Proof.Proofs.Arithmetic
  Sys2Proof.Proofs.Attention Sys2Proof.Proofs.Sequencer Sys2Proof.Proofs.Terrace

variable {s t u : State}

/-! What an append needs, by the numbers of its positions (R243, R245). -/

/-- The numbers of the positions of blocks and pairs. -/
def appIdx (d : Nat) (pairs blocks : List Nat) : List Nat := blocks.flatMap (fun j => pairs.map (fun i => j * seqPairs d + i))

/-- The classes of the plots that an append of these positions takes: pages, fresh plots and copies. -/
def appClasses (s : State) (d : Nat) (pos : List Nat) : List Nat :=
  (((pos.map (· / 2048)).eraseDups).filter (fun k => (pageOf s d k).isNone)).map (fun _ => 0) ++
    (pos.filter (fun i => (plotAtPos s d i).isNone) ++
      pos.filter (fun i => (plotAtPos s d i).any (fun p => decide (1 < rcOf s p)))).map (fun _ => dClass d)

section
variable (s : State) (d : Nat) (pairs blocks : List Nat)

theorem pos_appPoss : (appPoss s d pairs blocks).map (·.pos) = appIdx d pairs blocks := by
  simp [appPoss, appIdx, appPos, List.map_flatMap, Function.comp_def]

theorem mem_appPoss {p : AppPos} (h : p ∈ appPoss s d pairs blocks) : p.old = plotAtPos s d p.pos ∧
    p.shared = (plotAtPos s d p.pos).any (fun x => decide (1 < rcOf s x)) := by
  obtain ⟨e, -, rfl⟩ := List.mem_map.mp h
  simp only [appPos, plotCount]
  cases plotAtPos s d (e.1 * seqPairs d + e.2) <;> exact ⟨rfl, rfl⟩

theorem pos_fresh : ((appPoss s d pairs blocks).filter (fun p => p.old.isNone)).map (·.pos) =
    (appIdx d pairs blocks).filter (fun i => (plotAtPos s d i).isNone) := by
  rw [← pos_appPoss s, List.filter_map]
  exact congrArg _ (List.filter_congr (fun p hp => by rw [(mem_appPoss s d pairs blocks hp).1]; rfl))

theorem pos_copies : ((appPoss s d pairs blocks).filter (fun p => p.shared)).map (·.pos) =
    (appIdx d pairs blocks).filter (fun i => (plotAtPos s d i).any (fun p => decide (1 < rcOf s p))) := by
  rw [← pos_appPoss s, List.filter_map]
  exact congrArg _ (List.filter_congr (fun p hp => by rw [(mem_appPoss s d pairs blocks hp).2]; rfl))

/-- The classes as the operation counts them, from what it read. -/
theorem appClasses_eq : appClasses s d (appIdx d pairs blocks) =
    ((((appPoss s d pairs blocks).map (fun p => p.pos / 2048)).eraseDups).filter (fun k => (pageOf s d k).isNone)).map (fun _ => 0) ++
      ((appPoss s d pairs blocks).filter (fun p => p.old.isNone) ++
        (appPoss s d pairs blocks).filter (fun p => p.shared)).map (fun _ => dClass d) := by
  rw [appClasses, ← pos_fresh, ← pos_copies, ← pos_appPoss s]
  simp [Function.comp_def]

end

/-! An append that succeeds (R244). -/

/-- The source of an append can be read: no writer is on it and no word of the Terrace is poisoned, flipped or unfilled,
or the surroundings allow the range of stack memory (R207, R213, R216, R229, R511). -/
structure SourceReads (s : State) (c space a n : Nat) : Prop where
  terrace : space = 0 → sourceWritten s c a n = false ∧ a + n ≤ viewLen (getCtx s c).regions ∧ Sound s.ter
  stack : space = 1 → reachesPrivate s a n = false ∧ extDenied s c 0 a n = false

theorem SourceReads.looked {c space a n : Nat} (h : SourceReads s c space a n) (looked : Looked s t) :
    SourceReads t c space a n := by
  obtain ⟨_, _, _, _, rfl⟩ := looked
  exact ⟨h.terrace, h.stack⟩

/-- A source that can be read is read, and pools go on holding what they held. -/
theorem appendSource_ends {c space a n : Nat} {cls : List Nat} (h : SourceReads s c space a n) (hspace : space < 2)
    (stocked : Stocked s cls) : ∃ bs t, Ends (appendSource c space a n) s bs t ∧ Stocked t cls ∧ t.ctxs = s.ctxs := by
  unfold appendSource
  rcases Nat.lt_succ_iff_lt_or_eq.mp hspace with none_above | rfl
  · obtain rfl : space = 0 := Nat.lt_one_iff.mp none_above
    obtain ⟨free, within, sound⟩ := h.terrace rfl
    obtain ⟨⟨bs, tags⟩, read⟩ := terRead_of_stands ⟨rfl, sound⟩ within
    refine ⟨bs, s, ends_get.mpr ?_, stocked, rfl⟩
    rw [if_pos rfl]
    refine ends_refuseIf.mpr ⟨free, ?_⟩
    rw [read]
    exact ends_set.mpr (ends_pure.mpr ⟨rfl, rfl⟩)
  · obtain ⟨clear, allowed⟩ := h.stack rfl
    obtain ⟨t, bs, read, filled⟩ := extRead_plain stocked.plain c a n allowed
    obtain ⟨plain, same⟩ := filled.plain stocked.plain
    refine ⟨bs, t, ends_get.mpr ?_, stocked.congr plain same (by rw [filled.fill.alt]) (by rw [filled.fill.alt]), filled.fill.ctxs⟩
    rw [if_neg Nat.one_ne_zero]
    refine ends_refuseIf.mpr ⟨clear, ?_⟩
    rw [read]
    exact ends_set.mpr (ends_refuseIf.mpr ⟨rfl, ends_pure.mpr ⟨rfl, rfl⟩⟩)

/-- A pool that holds the plots of an append within its quota gives them. -/
theorem needPlots_ends {c : Nat} {cls : List Nat} (fits : quotaFits s c cls = true) (stocked : Stocked s cls) :
    ∃ ps t, Ends (needPlots c cls) s ps t := by
  obtain ⟨ps, t, taken⟩ := stocked.takePlots
  exact ⟨ps, t, ends_needPlots.mpr ⟨fits, taken⟩⟩

theorem completes_seqAppend {c w : Nat} {wt : Waiter} (canonical : MemoriesCanonical s) {d plen nl : Nat}
    (hd : d = seqDesc s (bits w 64 18)) (hnl : nl = bits w 90 8 + 1)
    (range : inRange (getCtx s c) (bits w 64 18) = true) (own : ownSeq c d = true) (sound : dFault d = false)
    (length : appendPlen d (bits w 128 32) (bits w 82 8) nl = some plen) (below : plen ≤ dMaxlen d)
    (aligned : isMx (dFmt d) = true → dLen d % 32 = 0 ∧ bits w 128 32 % 32 = 0) {cls : List Nat}
    (hcls : cls = appClasses s d (appIdx d (appPairs d (bits w 82 8) nl) (appBlocks d plen)))
    (fits : quotaFits s c cls = true) (pools : PoolsHold s cls)
    (source : SourceReads s c (bits w 98 1) (bits w 160 64)
      (segBytes (dFmt d) (dDim d) (bits w 128 32) * (nl * dGroups d))) :
    Completes (seqAppend c wt w) s := by
  subst hd
  have stocked := stocked_of_poolsHold pools canonical
  have clean : ∀ a n, stackPoisoned s a n = false := stocked.plain.not_poisoned
  obtain ⟨s1, opened⟩ := openSeq_ends range own (clean _ _)
  have looked1 := (ends_openSeq opened).2.2.2
  obtain ⟨s2, reads⟩ := appendPositions_ends (s := s1) (q := bits w 64 18) (d := seqDesc s (bits w 64 18))
    (pairs := appPairs (seqDesc s (bits w 64 18)) (bits w 82 8) nl) (blocks := appBlocks (seqDesc s (bits w 64 18)) plen)
    (fun a n => by rw [looked1.poisoned, clean])
  have looked2 := looked1.trans (ends_appendPositions reads).2
  rw [looked1.appPoss] at reads
  have stocked2 : Stocked s2 cls := by
    obtain ⟨_, _, _, _, rfl⟩ := looked2
    exact stocked.congr (stocked.plain.congr rfl rfl) rfl rfl rfl
  have fits2 : quotaFits s2 c cls = true := by rw [quotaFits_congr looked2.ctxs, fits]
  rw [appClasses_eq] at hcls
  simp only [← looked2.pageOf] at hcls
  obtain ⟨_, _, probe⟩ := needPlots_ends fits2 stocked2
  obtain ⟨src, s3, read, stocked3, ctxs3⟩ := appendSource_ends (source.looked looked2) (bits_lt w 98 1) stocked2
  obtain ⟨got, s4, grab⟩ := needPlots_ends (s := s3) (by rw [quotaFits_congr ctxs3, fits2]) stocked3
  rw [hcls] at probe grab
  have wide : (appPairs (seqDesc s (bits w 64 18)) (bits w 82 8) nl).length = nl * dGroups (seqDesc s (bits w 64 18)) := by
    simp [appPairs]
  rw [← wide] at read
  subst hnl
  unfold seqAppend
  refine opened.completes (completes_refuseIf sound ?_)
  dsimp only
  rw [length]
  refine completes_refuseIf (by simpa using below) (completes_refuseIf ?aligned ?_)
  case aligned =>
    cases mx : isMx (dFmt (seqDesc s (bits w 64 18)))
    · rfl
    · simp [aligned mx]
  refine reads.completes (completes_get (probe.completes (completes_set (read.completes (grab.completes (completes_get ?_))))))
  split
  · exact completes_set completes_pure
  · exact completes_set completes_pure

end Sys2Proof.Proofs.Allotment
end

section

/-! PROOFS. A waiting append and its swap; appends that commit or wait. -/

namespace Sys2Proof.Proofs.Allotment
open Sys2Proof.Machine Sys2Proof.Laws Sys2Proof.Claims Sys2Proof.Proofs.Architecture Sys2Proof.Proofs.Arithmetic
  Sys2Proof.Proofs.Attention Sys2Proof.Proofs.Sequencer Sys2Proof.Proofs.Terrace

variable {s t u : State}

/-! COPY_ON_WRITE_SWAP (R245, R250). -/

theorem altFrame_releasePlot (c holder p : Nat) (s : State) : AltFrame c s (releasePlot holder p s) := by
  have hR := chains_altFrame c
  have read := altFrame_metaRead c (rcAddr s p) 2 s
  unfold releasePlot
  split
  · rename_i e
    rw [e] at read
    refine hR.trans read ?_
    exact altFrame_ite (hR.trans (altFrame_setRc ..) (altFrame_modUse ..)) (altFrame_setRc ..)
  · rename_i s1 e
    rw [e] at read
    have lost : AltFrame c s1 (if s1.alt.lostPlots.any (fun e => e.1 == p) then s1
        else countLost { s1 with alt := { s1.alt with lostPlots := s1.alt.lostPlots ++ [(p, 4096)] } }) :=
      altFrame_ite (hR.refl s1) ⟨rfl, rfl, rfl, rfl, rfl⟩
    refine hR.trans (hR.trans read lost) ?_
    exact altFrame_ite (hR.refl _) (altFrame_modUse ..)

theorem commitSwap_idle {c : Nat} (h : (getCtx s c).altWait = none) : commitSwap c s = s := by
  unfold commitSwap
  rw [h]

theorem commitSwap_held {c : Nat} {a : AltWait} (h : (getCtx s c).altWait = some a) (held : dHolds (seqDesc s a.seq) ≠ 0) :
    commitSwap c s = s := by
  unfold commitSwap
  rw [h]
  exact if_pos (by simpa using held)

/-- A command that leaves the state as it is. -/
theorem live_unchanged {f : State → State} (up : Up s) (h : f s = s) : live f s = .next s := by
  rw [live_up f s up, effect_silent f s (by rw [h]) (by rw [h]), h]

/-- The entries and counts of a waiting append once its copies replace the shared plots. -/
def swapEntries (c : Nat) (a : AltWait) (s : State) : State :=
  chargePlots c (a.swaps.map (fun e => e.2.2))
    (a.swaps.foldl (fun s e => releasePlot c e.2.1 (Machine.putEntry e.1 (entryOf e.2.2) s)) s)

/-- The state once a waiting append has been committed, before its record. -/
def swapped (c : Nat) (a : AltWait) (s : State) : State :=
  modCtx c (fun x => { x with altWait := none })
    (putDesc a.seq (appendCommit (seqDesc s a.seq) a.newPlen a.newPlayers) (swapEntries c a s))

theorem altFrame_swapEntries (c : Nat) (a : AltWait) (s : State) : AltFrame c s (swapEntries c a s) := by
  have hR := chains_altFrame c
  unfold swapEntries
  refine hR.trans (altFrame_foldl (fun s e => ?_) _ _) (altFrame_chargePlots ..)
  exact hR.trans (altFrame_putEntry ..) (altFrame_releasePlot ..)

theorem altFrame_swapped (c : Nat) (a : AltWait) (s : State) : AltFrame c s (swapped c a s) := by
  have hR := chains_altFrame c
  unfold swapped
  exact hR.trans (altFrame_swapEntries ..) (hR.trans (altFrame_putDesc ..) (altFrame_modCtx _ _ _ _ (fun _ => rfl)))

theorem seqDesc_swapped (c : Nat) (a : AltWait) (s : State) :
    seqDesc (swapped c a s) a.seq = appendCommit (seqDesc s a.seq) a.newPlen a.newPlayers % 2 ^ 512 := by
  unfold swapped
  exact seqDesc_putDesc ..

theorem altWait_swapped (c : Nat) (a : AltWait) (s : State) : (getCtx (swapped c a s) c).altWait = none := by
  rw [swapped, getCtx_modCtx_self]

theorem commitSwap_free {c : Nat} {a : AltWait} (h : (getCtx s c).altWait = some a) (free : dHolds (seqDesc s a.seq) = 0) :
    commitSwap c s = finish a.waiter stOK (altBody (swapped c a s) a.seq (getCtx (swapped c a s) c).use)
      (traceEv 7 a.waiter.opc c 0 0 a.seq (dEpoch (seqDesc (swapped c a s) a.seq)) (swapped c a s)) := by
  unfold commitSwap
  rw [h]
  dsimp only
  rw [if_neg (by simpa using free)]
  dsimp only [altDone]
  rfl

theorem exec_swap_commits {c : CtxId} {a : AltWait} (up : Up s) (h : (getCtx s c.val).altWait = some a)
    (free : dHolds (seqDesc s a.seq) = 0) (here : a.waiter.via = none) (own : a.waiter.mgmt = false)
    (holder : a.waiter.ctx = c.val) (length : a.newPlen < 2 ^ 32)
    (layers : a.newPlayers = dLayers (seqDesc s a.seq) ∨ a.newPlayers < 2 ^ 8) :
    ∃ (t : State) (rec : CRec), exec (.copyOnWriteSwap c) s = .next t ∧ (getCtx t c.val).altWait = none ∧
      (ringAt t c.val).held = (ringAt s c.val).held ++ [rec] ∧ rec.tag = a.waiter.tag ∧ rec.status = 0 ∧
      Committed (seqDesc s a.seq) (seqDesc t a.seq) a.newPlen a.newPlayers ∧ t.ter.mem = s.ter.mem := by
  have runs := commitSwap_free h free
  have swap := altFrame_swapped c.val a s
  have idle := altWait_swapped c.val a s
  have desc := seqDesc_swapped c.val a s
  generalize swapped c.val a s = u at runs swap idle desc
  obtain ⟨r, traced⟩ := traceEv_only 7 a.waiter.opc c.val 0 0 a.seq (dEpoch (seqDesc u a.seq)) u
  obtain ⟨rec, recorded⟩ : ∃ rec : CRec, rec = mkRec a.waiter.gen (recKind a.waiter.mgmt a.waiter.opc) stOK a.waiter.tag
    (altBody u a.seq (getCtx u c.val).use) := ⟨_, rfl⟩
  have meaning : commitSwap c.val s = postRec c.val rec { u with trace := r } := by
    rw [runs, traced, recorded]
    simp [finish, here, own, holder]
  have frame : AltFrame c.val s { u with trace := r } := (chains_altFrame c.val).trans swap ⟨rfl, rfl, rfl, rfl, rfl⟩
  have ring : RingFrame c.val { u with trace := r } (commitSwap c.val s) := by
    rw [meaning]
    exact ringFrame_modRing c _ _
  refine ⟨commitSwap c.val s, rec, ?_, ?_, ?_, by rw [recorded]; rfl, by rw [recorded]; rfl, ?_, ?_⟩
  · exact (live_up _ s up).trans (congrArg _ (effect_silent _ s (ring.out.trans frame.out) (ring.pending.trans frame.pending)))
  · rw [ring.same]
    exact idle
  · rw [meaning, postRec_held]
    simp [ringAt, ctx_ne_mgmt c, frame.ring]
  · have kept : seqDesc { u with trace := r } a.seq = seqDesc u a.seq := seqDesc_congr rfl rfl rfl a.seq
    rw [seqDesc_ringFrame ring, kept, desc]
    exact committed_appendCommit length layers
  · rw [ring.ter]
    exact frame.mem

/-! SEQ_APPEND and its swap together. -/

/-- Settles O49: an append that succeeds is one run of its operation, which ends in its commit or in a wait; where its
checks, pools and source allow, the run succeeds; and the swap is the rest of the commit. -/
theorem appendsCommitOrWait : Obligations.AppendsCommitOrWait := by
  unfold Obligations.AppendsCommitOrWait
  refine ⟨fun s s1 c h r ha _ ends => ?succeeded, fun s c h plen ha canonical => ?succeeds,
    fun s c a up _ waiting => ⟨?swaps, fun held => live_unchanged up (commitSwap_held waiting held)⟩,
    fun s c up idle => live_unchanged up (commitSwap_idle idle)⟩
  case succeeded =>
    obtain ⟨plen, length, below, ⟨-, rfl, t, b, runs, answered, committed, mem⟩ |
      ⟨shared, rfl, t, a, runs, taken, waiting, seq, plens, -, swaps, -⟩⟩ := exec_seqAppend ha ends
    · exact ⟨plen, length, below, fun _ => ⟨t, b, runs, answered, committed, mem⟩, fun none_done => by cases none_done⟩
    · refine ⟨plen, length, below, (fun done => by cases done), fun _ => ⟨t, a, runs, taken, waiting, seq, plens, ?_⟩⟩
      exact List.ne_nil_of_length_pos (swaps ▸ Nat.pos_of_ne_zero shared)
  case succeeds =>
    intro q d ntok layer0 nl blocks pos fresh shared pages cls a n range own sound length below aligned fits pools
      terrace stack
    have idx : appIdx d (appPairs d layer0 nl) (appBlocks d plen) = pos := by
      simp [appIdx, appPairs, appBlocks, pos, blocks, Function.comp_def]
    have completes : Completes (seqAppend c.val (waiterOf c.val h.msg) h.msg.bits.toNat) s := by
      refine completes_seqAppend canonical rfl rfl range own sound length below aligned (cls := cls) ?_ fits pools
        ⟨fun first => ?_, stack⟩
      · rw [idx]
        rfl
      · obtain ⟨free, within, unfilled, poison, flips⟩ := terrace first
        exact ⟨free, within, poison, flips, unfilled⟩
    have number : (appCopies s d layer0 nl plen).length = shared.length := by
      rw [← List.length_map (·.pos), appCopies, pos_copies, idx]
    obtain ⟨r, s1, ends⟩ := completes
    obtain ⟨plen', length', -, finish⟩ := exec_seqAppend ha ends
    obtain rfl : plen' = plen := Option.some.inj (length'.symm.trans length)
    rcases finish with ⟨unshared, -, t, b, runs, answered, committed, mem⟩ |
      ⟨met, -, t, w, runs, taken, waiting, seq, plens, players, swaps, mem⟩
    · have none_shared := List.eq_nil_of_length_eq_zero (number.symm.trans unshared)
      exact ⟨fun _ => ⟨t, b, runs, answered, committed, mem⟩, fun some_shared => absurd none_shared some_shared⟩
    · have some_shared : shared ≠ [] := List.ne_nil_of_length_pos (number ▸ Nat.pos_of_ne_zero met)
      exact ⟨fun none_shared => absurd none_shared some_shared,
        fun _ => ⟨t, w, runs, taken, waiting, seq, plens, players, swaps.trans number, mem⟩⟩
  case swaps =>
    intro free here own holder length layers
    exact exec_swap_commits up waiting free here own holder length layers

end Sys2Proof.Proofs.Allotment
end

section

/-! PROOFS. A job leaves its Pavilions, windows and sequences (R220, R250, R395). -/

namespace Sys2Proof.Proofs.Allotment
open Sys2Proof.Machine Sys2Proof.Laws Sys2Proof.Claims Sys2Proof.Proofs.Architecture Sys2Proof.Proofs.Arithmetic
  Sys2Proof.Proofs.Attention Sys2Proof.Proofs.Sequencer Sys2Proof.Proofs.Terrace

variable {s t u : State}

/-! A job leaves the Pavilions (R395). -/

/-- A fold in which each step gives its own element a property that no other step takes away. -/
theorem foldl_gives {α : Type} {f : State → α → State} {P : α → State → Prop} (own : ∀ a s, P a (f s a))
    (keeps : ∀ a b s, P a s → P a (f s b)) (l : List α) (s : State) : ∀ a ∈ l, P a (l.foldl f s) := by
  have rest (a : α) (l : List α) (s : State) (h : P a s) : P a (l.foldl f s) := by
    induction l generalizing s with
    | nil => exact h
    | cons b l ih => exact ih _ (keeps a b s h)
  induction l generalizing s with
  | nil => exact List.forall_mem_nil _
  | cons b l ih => exact List.forall_mem_cons.mpr ⟨rest b l _ (own b s), ih (f s b)⟩

section
variable (c : Nat) (seq : BitVec 32)

/-- Slot q of Pavilion p holds no program of job seq of context c. -/
def Vacated (p : Nat) (q : PSlot) (s : State) : Prop := ∀ g, getProg s p q = some g → ¬ (g.ctx = c ∧ g.jobseq = seq)

/-- Nor does Pavilion p hold one, or have one wait. -/
def Left (p : Nat) (s : State) : Prop := (∀ q, Vacated c seq p q s) ∧ ∀ w ∈ (getPav s p).waitq, ¬ (w.1 = c ∧ w.2.1 = seq)

/-- The clearing of one slot. -/
def clearSlot (p : Nat) (s : State) (q : PSlot) : State :=
  match getProg s p q with
  | some g => if g.ctx == c && g.jobseq == seq then clearProg p q s else s
  | none => s

/-- A Pavilion without the programs of the job that wait or are suspended. -/
def dropWaiting (v : Pav) : Pav :=
  { v with
    waitq := v.waitq.filter (fun w => !(w.1 == c && w.2.1 == seq))
    saved := v.saved.filter (fun x => !(x.prog.ctx == c && x.prog.jobseq == seq)) }

/-- The clearing of one Pavilion. -/
def clearPav (s : State) (p : Nat) : State := modPav p (dropWaiting c seq) (bothSlots.foldl (clearSlot c seq p) s)

theorem clearJob_eq (s : State) : clearJob c seq s = (List.range 16).foldl (clearPav c seq) s := rfl

variable {c seq}

theorem clearSlot_cases (p : Nat) (q : PSlot) (s : State) :
    clearSlot c seq p s q = clearProg p q s ∨ clearSlot c seq p s q = s ∧ Vacated c seq p q s := by
  unfold clearSlot
  split
  · rename_i g hg
    split
    · exact .inl rfl
    · rename_i other
      refine .inr ⟨rfl, fun g' hg' mine => other ?_⟩
      rw [hg] at hg'
      obtain rfl := Option.some.inj hg'
      simp [mine]
  · rename_i hg
    exact .inr ⟨rfl, fun g' hg' => by simp [hg] at hg'⟩

theorem vacated_clearSlot (p : Nat) (q : PSlot) (s : State) : Vacated c seq p q (clearSlot c seq p s q) := by
  rcases clearSlot_cases p q s with h | ⟨h, free⟩ <;> rw [h]
  · intro g hg
    rw [getProg_clearProg, if_pos rfl] at hg
    cases hg
  · exact free

theorem vacated_clearSlot_of {p : Nat} {q : PSlot} (r : PSlot) (h : Vacated c seq p q s) :
    Vacated c seq p q (clearSlot c seq p s r) := by
  rcases clearSlot_cases (c := c) (seq := seq) p r s with e | ⟨e, -⟩ <;> rw [e]
  · intro g hg
    rw [getProg_clearProg] at hg
    split at hg
    · cases hg
    · exact h g hg
  · exact h

theorem getPav_clearProg_ne {p d : Nat} (q : PSlot) (s : State) (h : d ≠ p) : getPav (clearProg p q s) d = getPav s d := by
  unfold clearProg
  dsimp only
  rw [getPav_lowerLeave, if_neg h, getPav_modPav, if_neg h, getPav_setProg_ne _ _ _ _ _ h]

theorem getPav_clearPav_ne {p d : Nat} (s : State) (h : d ≠ p) : getPav (clearPav c seq s p) d = getPav s d := by
  have slot (q : PSlot) (s : State) : getPav (clearSlot c seq p s q) d = getPav s d := by
    rcases clearSlot_cases (c := c) (seq := seq) p q s with e | ⟨e, -⟩ <;> rw [e]
    exact getPav_clearProg_ne q s h
  unfold clearPav
  rw [getPav_modPav, if_neg h, bothSlots, List.foldl_cons, List.foldl_cons, List.foldl_nil, slot, slot]

theorem left_clearPav (p : Nat) (s : State) : Left c seq p (clearPav c seq s p) := by
  refine ⟨fun q g hg => ?_, fun w hw mine => ?_⟩
  · have every := foldl_gives (P := Vacated c seq p) (fun q s => vacated_clearSlot p q s)
      (fun _ r _ h => vacated_clearSlot_of r h) bothSlots s q (by cases q <;> decide)
    rw [clearPav, getProg_modPav p p q (dropWaiting c seq) _ (fun _ => ⟨rfl, rfl⟩)] at hg
    exact every g hg
  · rw [clearPav, getPav_modPav, if_pos rfl] at hw
    have kept := (List.mem_filter.mp hw).2
    simp [mine] at kept

theorem Left.congr {p : Nat} (h : Left c seq p s) (same : getPav t p = getPav s p) : Left c seq p t := by
  have progs (q : PSlot) : getProg t p q = getProg s p q := by
    unfold getProg
    rw [same]
  exact ⟨fun q g hg => h.1 q g (progs q ▸ hg), fun w hw => h.2 w (same ▸ hw)⟩

theorem left_clearJob {p : Nat} (hp : p < 16) (s : State) : Left c seq p (clearJob c seq s) := by
  rw [clearJob_eq]
  refine foldl_gives (P := Left c seq) (fun p s => left_clearPav p s) (fun p d s h => ?_) (List.range 16) s p
    (List.mem_range.mpr hp)
  by_cases here : p = d
  · subst here
    exact left_clearPav p s
  · exact h.congr (getPav_clearPav_ne s here)

end

/-- Clearing a job changes the Pavilions and what power waits for alone. -/
theorem clearPav_only (c : Nat) (seq : BitVec 32) (p : Nat) (s : State) :
    ∃ ps pw, clearPav c seq s p = { s with pavs := ps, power := pw } := by
  have slot (q : PSlot) (s : State) : ∃ ps pw, clearSlot c seq p s q = { s with pavs := ps, power := pw } := by
    rcases clearSlot_cases (c := c) (seq := seq) p q s with e | ⟨e, -⟩ <;> rw [e]
    · exact clearProg_only p q s
    · exact ⟨s.pavs, s.power, rfl⟩
  obtain ⟨ps1, pw1, first⟩ := slot .a s
  obtain ⟨ps2, pw2, second⟩ := slot .b { s with pavs := ps1, power := pw1 }
  unfold clearPav
  rw [bothSlots, List.foldl_cons, List.foldl_cons, List.foldl_nil, first, second]
  exact ⟨_, _, rfl⟩

theorem clearJob_only (c : Nat) (seq : BitVec 32) (s : State) : ∃ ps pw, clearJob c seq s = { s with pavs := ps, power := pw } := by
  rw [clearJob_eq]
  induction List.range 16 generalizing s with
  | nil => exact ⟨s.pavs, s.power, rfl⟩
  | cons p l ih =>
    obtain ⟨ps, pw, first⟩ := clearPav_only c seq p s
    obtain ⟨ps', pw', rest⟩ := ih (clearPav c seq s p)
    exact ⟨ps', pw', by rw [List.foldl_cons, rest, first]⟩

/-! What a job's end sends, closes and releases (R220, R250, R344). -/

theorem quiet_foldl {α : Type} {f : State → α → State} (h : ∀ s a, Quiet s (f s a)) (l : List α) (s : State) :
    Quiet s (l.foldl f s) := by
  induction l generalizing s with
  | nil => exact chains_quiet.refl s
  | cons a l ih => exact chains_quiet.trans (h s a) (ih _)

theorem quiet_forwardTell (kind c : Nat) (msg : BitVec 512) (ms : List Nat) (s : State) :
    Quiet s (forwardTell kind c msg ms s) := by
  unfold forwardTell
  split
  · exact chains_quiet.refl s
  · exact quiet_foldl (fun _ _ => quiet_sendGrove ..) ms s

theorem quiet_closeWin (w : Nat) (s : State) : Quiet s (closeWin w s) := by
  unfold closeWin
  dsimp only
  split
  · exact chains_quiet.refl s
  · split <;> exact ⟨rfl, rfl, rfl, rfl, rfl, rfl⟩

/-- Whether a job is another than job seq of context c. -/
def otherJob (c : Nat) (seq : BitVec 32) (k : Job) : Bool := !(k.ctx == c && k.jobseq == seq)

/-- A change of one job leaves the others as they are, while it keeps that job's context and number. -/
theorem others_modJob (c : Nat) (seq : BitVec 32) (f : Job → Job) (s : State)
    (key : ∀ k, (f k).ctx = k.ctx ∧ (f k).jobseq = k.jobseq) :
    (modJob c seq f s).jobs.filter (otherJob c seq) = s.jobs.filter (otherJob c seq) := by
  unfold modJob
  dsimp only
  induction s.jobs with
  | nil => rfl
  | cons k ks ih =>
    rw [List.map_cons]
    split
    · rename_i mine
      have gone : ¬ otherJob c seq k = true := by simp [otherJob, mine]
      have gone' : ¬ otherJob c seq (f k) = true := by rwa [otherJob, (key k).1, (key k).2]
      rw [List.filter_cons_of_neg gone, List.filter_cons_of_neg gone', ih]
    · rename_i other
      have kept : otherJob c seq k = true := by rw [otherJob, Bool.eq_false_iff.mpr other, Bool.not_false]
      rw [List.filter_cons_of_pos kept, List.filter_cons_of_pos kept, ih]

/-- The halt of a job that its grove's leader tells leaves what is no part of that job. -/
theorem tellHalt_quiet (j : Job) (s : State) : (tellHalt j s).ctxs = s.ctxs ∧ (tellHalt j s).ter.mem = s.ter.mem ∧
    (tellHalt j s).jobs.filter (otherJob j.ctx j.jobseq) = s.jobs.filter (otherJob j.ctx j.jobseq) := by
  have marked := others_modJob j.ctx j.jobseq (fun k => { k with haltSent := true }) s (fun _ => ⟨rfl, rfl⟩)
  unfold tellHalt
  split
  · exact ⟨rfl, rfl, rfl⟩
  · split
    · exact ⟨rfl, rfl, rfl⟩
    · rename_i f _ _
      have sent := quiet_forwardTell 3 j.ctx (haltMsg f.status f.fdet0 j.jobseq)
        (if f.status / 4096 = 2 then j.peers else otherMembers s) (modJob j.ctx j.jobseq (fun k => { k with haltSent := true }) s)
      exact ⟨sent.ctxs, sent.mem, by rw [sent.jobs, marked]⟩

/-- The state once a job has left the Pavilions, its windows are closed and its holds have ended. -/
def releaseJob (j : Job) (s : State) : State :=
  let s2 := (jobWindows s j).foldl (fun s w => closeWin w s) (clearJob j.ctx j.jobseq s)
  j.holds.foldl (fun s q => setHolds q (holdsOf s q - 1) s) s2

theorem quiet_releaseJob (j : Job) (s : State) : Quiet (clearJob j.ctx j.jobseq s) (releaseJob j s) :=
  chains_quiet.trans (quiet_foldl (fun s w => quiet_closeWin w s) _ _) (quiet_foldl (fun _ _ => quiet_setHolds ..) _ _)

end Sys2Proof.Proofs.Allotment
end

section

/-! PROOFS. JOB_COMPLETE: the record of a job that is over. -/

namespace Sys2Proof.Proofs.Allotment
open Sys2Proof.Machine Sys2Proof.Laws Sys2Proof.Claims Sys2Proof.Proofs.Architecture Sys2Proof.Proofs.Arithmetic
  Sys2Proof.Proofs.Attention Sys2Proof.Proofs.Sequencer Sys2Proof.Proofs.Terrace

variable {s t u : State}

/-! The record of a job (R363). -/

/-- A field below a summand. -/
theorem bits_add_above (x y n lo w : Nat) (h : lo + w ≤ n) : bits (x + y * 2 ^ n) lo w = bits x lo w := by
  rw [← bits_mod (x + y * 2 ^ n) n lo w h, Nat.add_mul_mod_self_right, bits_mod x n lo w h]

theorem bits_jobBody (j : Job) (lo w : Nat) (h : lo + w ≤ 64) :
    bits (jobBody j) lo w = bits (j.jobseq.toNat + j.invalid * 2 ^ 32) lo w := by
  unfold jobBody
  dsimp only
  rw [bits_add_above _ _ 448 _ _ (by omega), bits_add_above _ _ 384 _ _ (by omega), bits_add_above _ _ 320 _ _ (by omega),
    bits_add_above _ _ 288 _ _ (by omega), bits_add_above _ _ 280 _ _ (by omega), bits_add_above _ _ 276 _ _ (by omega),
    bits_add_above _ _ 272 _ _ (by omega), bits_add_above _ _ 256 _ _ (by omega), bits_add_above _ _ 224 _ _ (by omega),
    bits_add_above _ _ 192 _ _ (by omega), bits_add_above _ _ 128 _ _ (by omega), bits_add_above _ _ 96 _ _ (by omega),
    bits_add_above _ _ 64 _ _ h]

theorem number_jobBody (j : Job) : bits (jobBody j) 0 32 = j.jobseq.toNat := by
  rw [bits_jobBody j 0 32 (by omega), bits_add_above _ _ 32 _ _ (by omega), bits, Nat.shiftRight_zero]
  exact Nat.mod_eq_of_lt j.jobseq.isLt

theorem invalid_jobBody (j : Job) (h : j.invalid < 2 ^ 32) : bits (jobBody j) 32 32 = j.invalid := by
  rw [bits_jobBody j 32 32 (by omega), bits, Nat.shiftRight_eq_div_pow, Nat.add_mul_div_right _ _ (Nat.two_pow_pos 32),
    Nat.div_eq_of_lt j.jobseq.isLt, Nat.zero_add, Nat.mod_eq_of_lt h]

/-- A job's record. -/
def recOfJob (j : Job) : CRec := mkRec j.gen 1 ((j.fault.map (·.status)).getD 0) j.tag (jobBody j)

/-! The end of a job (R250, R360, R395). -/

/-- A context for which no CTX_RESUME waits keeps its ring and state, and nothing outside contexts changes. -/
theorem releaseResume_none {c : Nat} (h : (getCtx s c).resumeWait = []) : ∃ cs, releaseResume c s = { s with ctxs := cs } ∧
    (getCtx (releaseResume c s) c).ring = (getCtx s c).ring ∧ (getCtx (releaseResume c s) c).state = (getCtx s c).state := by
  unfold releaseResume
  split
  · exact ⟨s.ctxs, rfl, rfl, rfl⟩
  · dsimp only
    rw [h, List.filter_nil, List.filter_nil, List.foldl_nil]
    refine ⟨_, rfl, ?_, ?_⟩ <;> rw [getCtx_modCtx_self]

/-- From s to t job seq of context c has left with this record. -/
structure JobEnded (c : CtxId) (seq : BitVec 32) (r : CRec) (s t : State) : Prop where
  jobs : t.jobs = s.jobs.filter (otherJob c.val seq)
  record : (getCtx t c.val).ring.held = (getCtx s c.val).ring.held ++ [r]
  state : (getCtx t c.val).state = (getCtx s c.val).state
  left : ∀ p : PavId, Left c.val seq p.val t
  mem : t.ter.mem = s.ter.mem

/-- The state in which a job's record is queued: the job is gone from Pavilions, windows, sequences and the admitted
jobs. -/
def dropJob (j : Job) (s : State) : State :=
  let s3 := releaseJob j s
  { s3 with
    prom := { s3.prom with
      sends := s3.prom.sends.filter (fun e => !(e.2.ctx == j.ctx && e.2.jobseq == j.jobseq && !e.2.sent)) }
    jobs := s3.jobs.filter (otherJob j.ctx j.jobseq) }

theorem endJob_eq (j : Job) (s : State) : endJob j s = releaseResume j.ctx
    (traceEv 0 3 j.ctx 0 ((j.fault.map (·.status)).getD 0) j.jobseq.toNat j.tag.toNat (jobRecord j (dropJob j s))) := rfl

theorem dropJob_quiet (j : Job) (s : State) : (dropJob j s).ctxs = s.ctxs ∧ (dropJob j s).ter.mem = s.ter.mem ∧
    (dropJob j s).jobs = s.jobs.filter (otherJob j.ctx j.jobseq) ∧ (dropJob j s).pavs = (clearJob j.ctx j.jobseq s).pavs := by
  have released := quiet_releaseJob j s
  obtain ⟨ps, pw, cleared⟩ := clearJob_only j.ctx j.jobseq s
  refine ⟨released.ctxs.trans (by rw [cleared]), released.mem.trans (by rw [cleared]), ?_, released.pavs⟩
  exact congrArg _ (released.jobs.trans (by rw [cleared]))

theorem jobEnded_endJob {c : CtxId} {j : Job} (hc : j.ctx = c.val) (via : j.via = none)
    (idle : (getCtx s c.val).resumeWait = []) : JobEnded c j.jobseq (recOfJob j) s (endJob j s) := by
  have away (p : PavId) : Left j.ctx j.jobseq p.val (clearJob j.ctx j.jobseq s) := left_clearJob p.isLt s
  obtain ⟨ctxs, mem, jobs, pavs⟩ := dropJob_quiet j s
  rw [endJob_eq]
  generalize dropJob j s = u at ctxs mem jobs pavs
  rw [hc] at away jobs pavs ⊢
  have posted : jobRecord j u = postRec c.val (recOfJob j) u := by
    simp [jobRecord, via, hc, recOfJob]
  have ring : RingFrame c.val u (postRec c.val (recOfJob j) u) := ringFrame_modRing c _ u
  have held := postRec_held c.val (recOfJob j) u
  rw [posted]
  generalize postRec c.val (recOfJob j) u = v at ring held
  obtain ⟨r, traced⟩ := traceEv_only 0 3 c.val 0 ((j.fault.map (·.status)).getD 0) j.jobseq.toNat j.tag.toNat v
  rw [traced]
  have same : getCtx u c.val = getCtx s c.val := getCtx_congr ctxs c.val
  have traceless : getCtx { v with trace := r } c.val = getCtx v c.val := getCtx_congr rfl c.val
  have waits : (getCtx { v with trace := r } c.val).resumeWait = [] :=
    (congrArg Ctx.resumeWait (traceless.trans ring.same)).trans ((congrArg Ctx.resumeWait same).trans idle)
  obtain ⟨cs, only, kept, state⟩ := releaseResume_none waits
  refine ⟨?jobs, ?record, ?state, fun p => (away p).congr ?pavs, ?mem⟩
  case jobs =>
    rw [only]
    exact (congrArg State.jobs ring.only).trans jobs
  case record =>
    rw [kept, traceless, ← same]
    simpa [ringAt, ctx_ne_mgmt c] using held
  case state =>
    rw [state, traceless, ← same, ring.same]
  case pavs =>
    refine getPav_congr ?_ p.val
    rw [only]
    exact (congrArg State.pavs ring.only).trans pavs
  case mem =>
    rw [only]
    exact (congrArg (·.ter.mem) ring.only).trans mem

/-! JOB_COMPLETE. -/

theorem settleCtx_serving {c : Nat} (h : (getCtx s c).state ≠ .quiescing) : settleCtx c s = s := by
  unfold settleCtx
  rw [if_pos (by simp [h])]

theorem key_of_findJob {c : Nat} {seq : BitVec 32} {j : Job} (h : findJob s c seq = some j) : j.ctx = c ∧ j.jobseq = seq := by
  simpa using List.find?_some h

theorem exec_jobComplete_over {c : CtxId} {seq : BitVec 32} {j : Job} (up : Up s) (found : findJob s c.val seq = some j)
    (serving : (getCtx s c.val).state ≠ .quiescing) (finished : jobOver j = true) (via : j.via = none)
    (idle : (getCtx s c.val).resumeWait = []) :
    ∃ t, exec (.jobComplete c seq) s = .next t ∧ JobEnded c seq (recOfJob j) s t := by
  obtain ⟨hc, rfl⟩ := key_of_findJob found
  obtain ⟨ctxs, mem, jobs⟩ := tellHalt_quiet j s
  have same : getCtx (tellHalt j s) c.val = getCtx s c.val := getCtx_congr ctxs c.val
  have ended := jobEnded_endJob (s := tellHalt j s) hc via (by rw [same, idle])
  have meaning : completeJob c.val j.jobseq s = endJob j (tellHalt j s) := by
    unfold completeJob
    rw [found]
    exact if_pos finished
  have settled : settleCtx c.val (completeJob c.val j.jobseq s) = endJob j (tellHalt j s) := by
    rw [meaning, settleCtx_serving (by rw [ended.state, same]; exact serving)]
  have sent := quiet_effect (fun s => settleCtx c.val (completeJob c.val j.jobseq s)) s
  rw [settled] at sent
  refine ⟨_, live_up _ s up, ?_⟩
  have after := getCtx_congr sent.ctxs c.val
  refine ⟨?_, ?_, ?_, fun p => (ended.left p).congr (getPav_congr sent.pavs p.val), ?_⟩
  · rw [sent.jobs, ended.jobs, ← hc, jobs]
  · rw [after, ended.record, same]
  · rw [after, ended.state, same]
  · rw [sent.mem, ended.mem, mem]

theorem exec_jobComplete_early {c : CtxId} {seq : BitVec 32} {j : Job} (up : Up s) (found : findJob s c.val seq = some j)
    (serving : (getCtx s c.val).state ≠ .quiescing) (early : jobOver j = false) (sound : j.fault = none) :
    exec (.jobComplete c seq) s = .next s := by
  have told : tellHalt j s = s := by
    unfold tellHalt
    rw [sound]
  have meaning : completeJob c.val seq s = s := by
    unfold completeJob
    rw [found]
    dsimp only
    rw [early, told]
    rfl
  refine live_unchanged up ?_
  rw [meaning, settleCtx_serving serving]

end Sys2Proof.Proofs.Allotment
end

section

/-! PROOFS. CTX_RESUME, alone and in a grove; jobs end and contexts resume. -/

namespace Sys2Proof.Proofs.Allotment
open Sys2Proof.Machine Sys2Proof.Laws Sys2Proof.Claims Sys2Proof.Proofs.Architecture Sys2Proof.Proofs.Arithmetic
  Sys2Proof.Proofs.Attention Sys2Proof.Proofs.Sequencer Sys2Proof.Proofs.Terrace

variable {s t u : State}

theorem jobs_ringFrame {c : Nat} (h : RingFrame c s t) : t.jobs = s.jobs := (congrArg State.jobs h.only :)

/-! A message that the leader forwards to the members of its grove (R341, R344). -/

/-- A sequenced message of a grove is what goes out, and the formation stays. -/
theorem sendGrove_sequenced (g : GroveSt) (dst : UPath) (body : List Byte) (s : State) : ∃ n,
    (sendGrove g dst 7 body s).out = s.out ++ [.grove dst (groveHdr g 7 n) body] ∧
      (sendGrove g dst 7 body s).grove.formed = s.grove.formed := by
  unfold sendGrove
  rw [if_neg (by decide)]
  exact ⟨_, rfl, rfl⟩

/-- Each of the members is sent the message, and what stood to go out still does. -/
theorem forwardTell_sends {g : GroveSt} (kind c : Nat) (msg : BitVec 512) (ms : List Nat) (root : rootGrove s = some g) :
    ∀ i ∈ ms, ∃ n, .grove (memberPath s i) (groveHdr g 7 n) (gfwdBody i kind c msg []) ∈ (forwardTell kind c msg ms s).out := by
  have each (ms : List Nat) (u : State) (formed : u.grove.formed = s.grove.formed) :
      (∀ o ∈ u.out, o ∈ (ms.foldl (fun s i => sendGrove g (memberPath s i) 7 (gfwdBody i kind c msg []) s) u).out) ∧
        ∀ i ∈ ms, ∃ n, .grove (memberPath s i) (groveHdr g 7 n) (gfwdBody i kind c msg []) ∈
          (ms.foldl (fun s i => sendGrove g (memberPath s i) 7 (gfwdBody i kind c msg []) s) u).out := by
    induction ms generalizing u with
    | nil => exact ⟨fun _ h => h, List.forall_mem_nil _⟩
    | cons i ms ih =>
      obtain ⟨n, out, still⟩ := sendGrove_sequenced g (memberPath u i) (gfwdBody i kind c msg []) u
      obtain ⟨kept, others⟩ := ih _ (still.trans formed)
      have path : memberPath u i = memberPath s i := by rw [memberPath, memberPath, formed]
      rw [List.foldl_cons]
      refine ⟨fun o ho => kept o ?_, List.forall_mem_cons.mpr ⟨⟨n, kept _ ?_⟩, others⟩⟩
      · rw [out]
        exact List.mem_append_left _ ho
      · rw [out, path]
        exact List.mem_append_right _ List.mem_cons_self
  unfold forwardTell
  rw [root]
  exact (each ms s rfl).2

/-- A message of a context whose record comes later, with what it sends on the links. -/
theorem live_takeMsg_sends {s1 : State} {c : CtxId} {o : Nat} {h : HeadMsg} {act : MsgAct} (ha : Accepted s c.val o h)
    (ho : o ≠ 1) (hact : act c.val (waiterOf c.val h.msg) h.msg s = (s1, .later))
    (held : (getCtx s1 c.val).ring.held = (getCtx s c.val).ring.held) :
    ∃ t, live (takeMsg c.val o act) s = .next t ∧ Taken s t c.val h ∧ t.jobs = s1.jobs ∧ t.out = s1.out ∧
      getCtx t c.val = { getCtx s1 c.val with ring := (getCtx t c.val).ring } := by
  obtain ⟨up, head, opc, check, alone⟩ := ha
  have meaning : takeMsg c.val o act s = consume c.val h s1 := by
    rw [takeMsg_accepted c.val o act s h head opc check alone (.inl ho), hact]
  have framed := effect_frame (takeMsg c.val o act) s
  rw [meaning] at framed
  have ring := ringFrame_consume c h s1
  obtain ⟨first, queued⟩ := consume_head c.val h s1
  have same : getCtx (effect (takeMsg c.val o act) s) c.val = getCtx (consume c.val h s1) c.val :=
    getCtx_congr (show (effect (takeMsg c.val o act) s).ctxs = _ from framed.ctxs) c.val
  refine ⟨_, live_up _ s up, ⟨?_, ?_⟩, ?_, ?_, ?_⟩
  · rw [ringAt_congr same, first]
  · rw [ringAt_congr same, queued]
    simpa [ringAt, ctx_ne_mgmt c] using held
  · exact framed.jobs.trans (jobs_ringFrame ring)
  · exact framed.out.trans ring.out
  · rw [same]
    exact ring.same

/-! CTX_RESUME (R369). -/

/-- A context that resumes. -/
def resumed (x : Ctx) : Ctx := { x with state := if x.state = .halted then .active else x.state, haltPending := false }

/-- A context whose ring is read is active or halted, so that it is active once resumed. -/
theorem state_resumed {c : CtxId} {o : Nat} {h : HeadMsg} (ha : Accepted s c.val o h) :
    (resumed (getCtx s c.val)).state = .active := by
  obtain ⟨-, head, -⟩ := ha
  unfold headMsg at head
  split at head
  · cases head
  · rename_i reads
    simp only [Bool.not_eq_true', Bool.not_eq_false, ringReads, if_neg (ctx_ne_mgmt c), Bool.and_eq_true, Bool.or_eq_true,
      beq_iff_eq] at reads
    obtain ⟨⟨⟨⟨⟨active | halted, -⟩, -⟩, -⟩, -⟩, -⟩ := reads
    · simp [resumed, active]
    · simp [resumed, halted]

/-- Whether a job of context c with a fault is left. -/
def haltsLeft (s : State) (c : Nat) : Bool := s.jobs.any (fun j => j.ctx == c && j.fault.isSome)

/-- The context with a CTX_RESUME that waits. -/
def resumeWaits (c : Nat) (w : Waiter) (s : State) : State :=
  modCtx c (fun x => { x with resumeWait := x.resumeWait ++ [w] }) s

theorem resumeAct_alone {c : Nat} (w : Waiter) (m : Msg) (alone : (getCtx s c).grove = false) :
    resumeAct c w m s = if haltsLeft s c then (resumeWaits c w (modCtx c resumed s), .later)
      else (modCtx c resumed s, .done stOK (cmdBody 2 0 0 0 0)) := by
  unfold resumeAct resumesAt
  rw [alone]
  dsimp only
  simp only [Bool.false_and, Bool.false_eq_true, if_false, List.isEmpty_nil, if_true, Bool.not_true, Bool.or_false]
  rfl

theorem resumeAct_grove {c : Nat} {g : GroveSt} (w : Waiter) (m : Msg) (grove : (getCtx s c).grove = true)
    (root : rootGrove s = some g) (leads : leadsRoot s = true) (whole : g.lost = []) (others : otherMembers s ≠ []) :
    resumeAct c w m s = (resumeWaits c w (forwardMsg w c m (otherMembers s) none none (modCtx c resumed s)), .later) := by
  have present : lostMembers s = [] := by rw [lostMembers, root, Option.map_some, Option.getD_some, whole]
  have some_there : (otherMembers s).isEmpty = false := by simpa using others
  unfold resumeAct resumesAt
  rw [grove, leads, present]
  dsimp only
  simp only [Bool.and_self, List.isEmpty_nil, Bool.not_true, Bool.and_false, Bool.false_eq_true, if_false, if_true,
    some_there, Bool.not_false, Bool.or_true]
  rfl

theorem exec_ctxResume_grove {c : CtxId} {h : HeadMsg} {g : GroveSt} (ha : Accepted s c.val 0x02 h)
    (grove : (getCtx s c.val).grove = true) (root : rootGrove s = some g) (leads : leadsRoot s = true) (whole : g.lost = [])
    (others : otherMembers s ≠ []) :
    ∃ t, exec (.ctxResume c) s = .next t ∧ (getCtx t c.val).state = .active ∧ Taken s t c.val h ∧ t.jobs = s.jobs ∧
      (getCtx t c.val).resumeWait = (getCtx s c.val).resumeWait ++ [waiterOf c.val h.msg] ∧
      ∀ i ∈ otherMembers s, ∃ n, .grove (memberPath s i) (groveHdr g 7 n) (gfwdBody i 1 c.val h.msg.bits []) ∈ t.out := by
  have result := resumeAct_grove (waiterOf c.val h.msg) h.msg grove root leads whole others
  obtain ⟨u, hu⟩ : ∃ u : State, u = { modCtx c.val resumed s with grove := { s.grove with
      fwd := s.grove.fwd ++ [⟨waiterOf c.val h.msg, otherMembers s, none, none, []⟩] } } := ⟨_, rfl⟩
  have forwarded : forwardMsg (waiterOf c.val h.msg) c.val h.msg (otherMembers s) none none (modCtx c.val resumed s) =
      forwardTell 1 c.val h.msg.bits (otherMembers s) u := by
    rw [hu, forwardMsg, if_neg (ctx_ne_mgmt c), if_neg (ctx_ne_mgmt c)]
    rfl
  have mine : getCtx u c.val = resumed (getCtx s c.val) := by
    rw [hu]
    exact getCtx_modCtx_self ..
  have root' : rootGrove u = some g := by
    rw [hu]
    exact root
  have path (i : Nat) : memberPath u i = memberPath s i := by
    rw [hu]
    rfl
  have jobs : u.jobs = s.jobs := by
    rw [hu]
    rfl
  have sends := forwardTell_sends 1 c.val h.msg.bits (otherMembers s) root'
  have quiet := quiet_forwardTell 1 c.val h.msg.bits (otherMembers s) u
  rw [forwarded] at result
  generalize forwardTell 1 c.val h.msg.bits (otherMembers s) u = v at result sends quiet
  have waiting : getCtx (resumeWaits c.val (waiterOf c.val h.msg) v) c.val =
      { resumed (getCtx s c.val) with resumeWait := (getCtx s c.val).resumeWait ++ [waiterOf c.val h.msg] } := by
    rw [resumeWaits, getCtx_modCtx_self, getCtx_congr quiet.ctxs, mine]
    rfl
  obtain ⟨t, runs, taken, sameJobs, out, ctx⟩ := live_takeMsg_sends (act := resumeAct) ha (by decide) result
    (by rw [waiting]; rfl)
  refine ⟨t, runs, ?_, taken, ?_, ?_, fun i hi => ?_⟩
  · rw [ctx, waiting]
    exact state_resumed ha
  · exact sameJobs.trans (quiet.jobs.trans jobs)
  · rw [ctx, waiting]
  · rw [out, ← path]
    exact sends i hi

theorem altFrame_resumed (c : CtxId) (s : State) : AltFrame c.val s (modCtx c.val resumed s) :=
  altFrame_modCtx _ _ _ _ (fun _ => rfl)

theorem exec_ctxResume_alone {c : CtxId} {h : HeadMsg} (ha : Accepted s c.val 0x02 h) (alone : (getCtx s c.val).grove = false) :
    ∃ t, exec (.ctxResume c) s = .next t ∧ (getCtx t c.val).state = .active ∧ (getCtx t c.val).haltPending = false ∧
      t.jobs = s.jobs ∧ t.ter = s.ter ∧ (haltsLeft s c.val = false → Answered s t c.val h 0 (cmdBody 2 0 0 0 0)) ∧
      (haltsLeft s c.val = true → Taken s t c.val h ∧
        (getCtx t c.val).resumeWait = (getCtx s c.val).resumeWait ++ [waiterOf c.val h.msg]) := by
  have result := resumeAct_alone (waiterOf c.val h.msg) h.msg alone
  cases left : haltsLeft s c.val
  · rw [left, if_neg Bool.false_ne_true] at result
    obtain ⟨t, runs, answered, ring⟩ := live_takeMsg_records (act := resumeAct) ha (by decide) result (altFrame_resumed c s)
    have mine := ring.same
    rw [getCtx_modCtx_self] at mine
    refine ⟨t, runs, ?_, ?_, (jobs_ringFrame ring :), ring.ter, fun _ => answered, fun h => by cases h⟩
    · rw [mine]
      exact state_resumed ha
    · rw [mine]
      rfl
  · rw [left, if_pos rfl] at result
    have frame : AltFrame c.val s (resumeWaits c.val (waiterOf c.val h.msg) (modCtx c.val resumed s)) :=
      (chains_altFrame c.val).trans (altFrame_resumed c s) (altFrame_modCtx _ _ _ _ (fun _ => rfl))
    obtain ⟨t, runs, taken, ring⟩ := live_takeMsg_later (act := resumeAct) ha (by decide) result (.of_out_eq frame.out)
      frame.pending (congrArg Ring.held frame.ring)
    have mine := ring.same
    rw [resumeWaits, getCtx_modCtx_self, getCtx_modCtx_self] at mine
    refine ⟨t, runs, ?_, ?_, (jobs_ringFrame ring :), ring.ter, (fun h => by cases h), fun _ => ⟨taken, ?_⟩⟩
    · rw [mine]
      exact state_resumed ha
    · rw [mine]
      rfl
    · rw [mine]
      rfl

/-- Settles O35: a job that is over ends in its record, one without a fault that is not over stays, and CTX_RESUME acts
in a grove as it does alone, with the other members to wait for. -/
theorem jobsEndAndContextsResume : Obligations.JobsEndAndContextsResume := by
  unfold Obligations.JobsEndAndContextsResume
  refine ⟨fun s c seq j up found serving => ⟨fun finished via idle => ?ends, exec_jobComplete_early up found serving⟩,
    fun s c h g ha => exec_ctxResume_grove ha, fun s c h ha => exec_ctxResume_alone ha⟩
  case ends =>
    obtain ⟨t, runs, ended⟩ := exec_jobComplete_over up found serving finished via idle
    have ring : (ringAt t c.val).held = (ringAt s c.val).held ++ [recOfJob j] := by
      simpa [ringAt, ctx_ne_mgmt c] using ended.record
    refine ⟨t, recOfJob j, runs, ended.jobs, ring, rfl, rfl, rfl, rfl, ?_, invalid_jobBody j, fun p q => (ended.left p).1 q,
      fun p => (ended.left p).2, ended.mem⟩
    rw [← (key_of_findJob found).2]
    exact number_jobBody j

end Sys2Proof.Proofs.Allotment
end
